-- ==== Sys2Proof/Word.lean ====
section
/-! DEFINITION. The word types of the model and the sparse table type. -/

namespace Sys2Proof

/-- One byte. -/
abbrev Byte := BitVec 8
/-- A 32-bit word: a scalar register, a vector lane, a slot of a bundle. -/
abbrev W32 := BitVec 32
/-- A 64-bit word: a counter value, a local time, a command argument. -/
abbrev W64 := BitVec 64
/-- A 128-bit word: the state of one lane generator, a core set. -/
abbrev W128 := BitVec 128
/-- The four sticky flags in the order of CTX_SHARD_FLAGS[3:0] (Table 3.8): invalid, overflow, inexact, underflow. -/
abbrev FlagBits := BitVec 4

/-- A sparse table: keys strictly rising; an unlisted key holds the table's default. -/
abbrev Tab (α : Type) := List (Nat × α)

end Sys2Proof
end

