-- ==== Sys2Proof/Syntax.lean ====
section
/-! DEFINITION. The commands of the block: one constructor per row of the opcode table, with the row's operands, and the messages that
commands carry. An `upset` operand says that the command finds a memory cell in error (R307), a `lockstep` operand that a duplicated engine's copies differ (R306; 1 a copy engine's
conversion unit, 2 a hash unit). Slot operations carry the core and the 32-bit slot word that its bundle presents. -/

namespace Sys2Proof

/-- A memory request that reaches a base die (R213): one piece of one line. A local core's or copy engine's request names the core it is made for; `bad` counts the
symbols of the line found in error (R196). A request of another device names the port it entered by. -/
structure MemReq where
  master : Nat
  port : Nat
  ctx : Nat
  core : Option Nat
  addr : Nat
  len : Nat
  data : Option (List Byte)
  bad : Nat
  deriving DecidableEq, Repr

/-- An atomic operation that reaches the atomic unit (R204): element `i` of the ATOM under a copy tag, or an operation from another device. -/
inductive AtomSrc where
  | core (core tag i : Nat)
  | remote (dev ctx addr aop arg : Nat)
  deriving DecidableEq, Repr

/-- A signal from another device in the SYNC class (R177, R179). -/
structure SyncMsg where
  dev : Nat
  port : Nat
  ctx : Nat
  gen : Nat
  ctr : Nat
  op : Nat
  arg : Nat
  deriving DecidableEq, Repr

/-- A barrier arrival or release between nodes (R181). -/
structure BarMsg where
  dev : Nat
  ctx : Nat
  gen : Nat
  barrier : Nat
  g : Nat
  deriving DecidableEq, Repr

/-- A message between collective engines (R226, R235, R238); `lockstep` where the two copies of this device's engine differ on it (R306). -/
structure CollMsg where
  dev : Nat
  engine : Nat
  gen : Nat
  group : Nat
  step : Nat
  seq : Nat
  op : Nat
  count : Nat
  parts : Nat
  shard : Nat
  part : Nat
  block : Nat
  pass : Nat
  crc : Nat
  lockstep : Bool
  status : Nat
  payload : List Nat
  deriving DecidableEq, Repr

/-- The identity a link's far end sends in IDENT (R261). -/
structure IdentMsg where
  index : Nat
  link : Nat
  plan : Nat
  host : Bool
  stepping : Nat
  version : Nat
  devid : Nat
  deriving DecidableEq, Repr

/-- The coordinator's new placement (R333). -/
structure PlaceMsg where
  job : List Byte
  members : List Nat
  hosts : List Nat
  ctxs : List Nat
  deriving DecidableEq, Repr

/-- A member's announcement (R451). -/
structure AnnMsg where
  job : List Byte
  dev : Nat
  ctx : Nat
  answer : Bool
  deriving DecidableEq, Repr

/-- A notice of a member about its job (R319, R320, R333): kind 0 abort, 1 stop of the job, 2 relinquishment (the sender no longer holds the job), 3 the sender is stopped by an error;
`member` and `cls` are the member and record class that a stop names. -/
structure AbortMsg where
  dev : Nat
  gen : Nat
  kind : Nat
  cls : Nat
  program : Bool
  member : Nat
  deriving DecidableEq, Repr

/-- An assembly message (R393) with the link that it arrived by. -/
structure AsmMsg where
  link : Nat
  origin : Nat
  nonce : Nat
  plan : Nat
  stepping : Nat
  proto : Nat
  devid : Nat
  deriving DecidableEq, Repr

/-- The source that a refused remote request came from (R353): a task of a core, a mirror write, or a signal of a context. -/
inductive ErrSrc where
  | task (core : Nat)
  | mirror
  | signal
  | host (fn : Nat) (read : Bool)
  deriving DecidableEq, Repr

/-- What a Lectern access names (R380). -/
inductive DbgTarget where
  | reg (addr : Nat)
  | mem (addr : Nat)
  | counter (die index : Nat)
  | spad (core line : Nat)
  | core (core what index : Nat)
  | flagWord (ctx shard : Nat)
  deriving DecidableEq, Repr

/-- The commands. -/
inductive Instr where
  /-- MMA1 (R73): A single-array matrix instruction issues, occupies the activation stream and accumulates chunk results by set-aligned accumulation. -/
  | mma1 (core : Nat) (w : W32)
  /-- MMA4 (R73): A four-array matrix instruction issues from one activation stream and accumulates into interleaved accumulator rows. -/
  | mma4 (core : Nat) (w : W32)
  /-- OCV (R80): An output conversion reserves a converter and converts scaled accumulator values into a scratchpad tile. -/
  | ocv (core : Nat) (w : W32)
  /-- OCV_TILE_VISIBLE (R83): At the end of the converter reservation plus fixed latency the tile and metadata become visible and the converter frees. -/
  | ocvTileVisible (core conv : Nat)
  /-- OPERATION_LANDING (R92): An operation's result is written at its issue cycle plus its latency, the later landing standing. -/
  | operationLanding (core : Nat) (upset : Bool)
  /-- ADD (R446): Scalar add of two registers, wrapping. -/
  | sAdd (core : Nat) (w : W32)
  /-- SUB (R446): Scalar subtract of two registers, wrapping. -/
  | sSub (core : Nat) (w : W32)
  /-- MUL (R446): Scalar multiply keeping the low 32 bits. -/
  | sMul (core : Nat) (w : W32)
  /-- AND (R446): Scalar bitwise AND. -/
  | sAnd (core : Nat) (w : W32)
  /-- OR (R446): Scalar bitwise OR. -/
  | sOr (core : Nat) (w : W32)
  /-- XOR (R446): Scalar bitwise XOR. -/
  | sXor (core : Nat) (w : W32)
  /-- SHL (R446): Scalar shift left. -/
  | sShl (core : Nat) (w : W32)
  /-- SHR (R446): Scalar logical shift right. -/
  | sShr (core : Nat) (w : W32)
  /-- SAR (R446): Scalar arithmetic shift right. -/
  | sSar (core : Nat) (w : W32)
  /-- SLT (R446): Scalar signed set-less-than. -/
  | sSlt (core : Nat) (w : W32)
  /-- SLTU (R446): Scalar unsigned set-less-than. -/
  | sSltu (core : Nat) (w : W32)
  /-- ADDI (R446): Scalar add of a sign-extended 14-bit immediate. -/
  | sAddi (core : Nat) (w : W32)
  /-- ANDI (R446): Scalar AND with a zero-extended immediate. -/
  | sAndi (core : Nat) (w : W32)
  /-- ORI (R446): Scalar OR with a zero-extended immediate. -/
  | sOri (core : Nat) (w : W32)
  /-- XORI (R446): Scalar XOR with a zero-extended immediate. -/
  | sXori (core : Nat) (w : W32)
  /-- LUI (R446): Loads a 19-bit immediate shifted left by 13 into a scalar register. -/
  | sLui (core : Nat) (w : W32)
  /-- SIG (R171): A kernel signal operation is issued and queued until its earlier operations have landed and completed. -/
  | kSig (core : Nat) (w : W32)
  /-- SIG_CONDITION_MET (R171): Once every earlier operation of the task has landed and completed, a pending SIG is sent toward its counter home. -/
  | sigConditionMet (core : Nat)
  /-- LOOP (R447): Starts a counted loop over the following body of bundles. -/
  | kLoop (core : Nat) (w : W32)
  /-- BR (R447): Conditional branch within the window, with a fixed penalty when taken. -/
  | kBr (core : Nat) (w : W32)
  /-- END (R100): Ends the kernel's issue; the task completes when all its work has landed. -/
  | kEnd (core : Nat) (w : W32)
  /-- VADD (R113): Binary32 vector add, rounded once. -/
  | vadd (core : Nat) (w : W32)
  /-- VSUB (R113): Binary32 vector subtract, rounded once. -/
  | vsub (core : Nat) (w : W32)
  /-- VMUL (R113): Binary32 vector multiply, rounded once. -/
  | vmul (core : Nat) (w : W32)
  /-- VFMA (R113): Binary32 vector fused multiply-add with one rounding. -/
  | vfma (core : Nat) (w : W32)
  /-- VADD_H (R113): Packed binary16 add. -/
  | vaddH (core : Nat) (w : W32)
  /-- VSUB_H (R113): Packed binary16 subtract. -/
  | vsubH (core : Nat) (w : W32)
  /-- VMUL_H (R113): Packed binary16 multiply. -/
  | vmulH (core : Nat) (w : W32)
  /-- VFMA_H (R113): Packed binary16 fused multiply-add. -/
  | vfmaH (core : Nat) (w : W32)
  /-- VADD_B (R113): Packed bfloat16 add. -/
  | vaddB (core : Nat) (w : W32)
  /-- VSUB_B (R113): Packed bfloat16 subtract. -/
  | vsubB (core : Nat) (w : W32)
  /-- VMUL_B (R113): Packed bfloat16 multiply. -/
  | vmulB (core : Nat) (w : W32)
  /-- VFMA_B (R113): Packed bfloat16 fused multiply-add. -/
  | vfmaB (core : Nat) (w : W32)
  /-- VMIN (R114): Binary32 minimum with NaN giving canonical NaN. -/
  | vmin (core : Nat) (w : W32)
  /-- VMAX (R114): Binary32 maximum with NaN giving canonical NaN. -/
  | vmax (core : Nat) (w : W32)
  /-- VCEQ (R114): Binary32 equality compare giving an all-ones or zero mask. -/
  | vceq (core : Nat) (w : W32)
  /-- VCLT (R114): Binary32 less-than compare. -/
  | vclt (core : Nat) (w : W32)
  /-- VCLE (R114): Binary32 less-or-equal compare. -/
  | vcle (core : Nat) (w : W32)
  /-- VMIN_H (R114): Packed binary16 minimum. -/
  | vminH (core : Nat) (w : W32)
  /-- VMAX_H (R114): Packed binary16 maximum. -/
  | vmaxH (core : Nat) (w : W32)
  /-- VMIN_B (R114): Packed bfloat16 minimum. -/
  | vminB (core : Nat) (w : W32)
  /-- VMAX_B (R114): Packed bfloat16 maximum. -/
  | vmaxB (core : Nat) (w : W32)
  /-- VAND (R114): Vector bitwise AND. -/
  | vand (core : Nat) (w : W32)
  /-- VOR (R114): Vector bitwise OR. -/
  | vor (core : Nat) (w : W32)
  /-- VXOR (R114): Vector bitwise XOR. -/
  | vxor (core : Nat) (w : W32)
  /-- VSEL (R114): Bitwise select between two registers by a mask. -/
  | vsel (core : Nat) (w : W32)
  /-- VIADD (R114): Vector int32 add, wrapping. -/
  | viadd (core : Nat) (w : W32)
  /-- VISUB (R114): Vector int32 subtract, wrapping. -/
  | visub (core : Nat) (w : W32)
  /-- VIMUL (R114): Vector int32 multiply keeping the low 32 bits. -/
  | vimul (core : Nat) (w : W32)
  /-- VSHL (R114): Vector shift left. -/
  | vshl (core : Nat) (w : W32)
  /-- VSHR (R114): Vector logical shift right. -/
  | vshr (core : Nat) (w : W32)
  /-- VSAR (R114): Vector arithmetic shift right. -/
  | vsar (core : Nat) (w : W32)
  /-- VBCAST (R114): Broadcasts a scalar register to every lane. -/
  | vbcast (core : Nat) (w : W32)
  /-- VLANE (R114): Sets each lane to its lane index. -/
  | vlane (core : Nat) (w : W32)
  /-- VCVT (R117): Converts a segment of elements between formats under the single conversion definition. -/
  | vcvt (core : Nat) (w : W32)
  /-- VF2I (R119): Converts binary32 to int32 with RNE and saturation. -/
  | vf2i (core : Nat) (w : W32)
  /-- VI2F (R119): Converts int32 to binary32 with RNE. -/
  | vi2f (core : Nat) (w : W32)
  /-- VRCP (R115): Correctly rounded reciprocal. -/
  | vrcp (core : Nat) (w : W32)
  /-- VRSQRT (R115): Correctly rounded reciprocal square root. -/
  | vrsqrt (core : Nat) (w : W32)
  /-- VSQRT (R115): Correctly rounded square root. -/
  | vsqrt (core : Nat) (w : W32)
  /-- VDIV (R115): Correctly rounded division. -/
  | vdiv (core : Nat) (w : W32)
  /-- VEXP2 (R115): Correctly rounded base-2 exponential. -/
  | vexp2 (core : Nat) (w : W32)
  /-- VLOG2 (R115): Correctly rounded base-2 logarithm. -/
  | vlog2 (core : Nat) (w : W32)
  /-- VTANH (R115): Correctly rounded hyperbolic tangent. -/
  | vtanh (core : Nat) (w : W32)
  /-- VRNG_W (R127): Draws raw keyed-generator words into a vector register. -/
  | vrngW (core : Nat) (w : W32)
  /-- VRNG_U (R127): Draws uniform binary32 values from keyed-generator words. -/
  | vrngU (core : Nat) (w : W32)
  /-- VRNG_B (R127): Draws Bernoulli 1.0 or +0 against a threshold. -/
  | vrngB (core : Nat) (w : W32)
  /-- VRNG_N (R128): Draws table-interpolated normal deviates. -/
  | vrngN (core : Nat) (w : W32)
  /-- VFRL (R133): Reads each lane's free-running generator output. -/
  | vfrl (core : Nat) (w : W32)
  /-- VLD (R120): Loads 512 bytes from the scratchpad into a vector register, checking valid bits. -/
  | vld (core : Nat) (w : W32)
  /-- VST (R120): Stores a vector register to the scratchpad, setting valid bits. -/
  | vst (core : Nat) (w : W32)
  /-- VACC (R120): Reads two accumulator rows into a vector register. -/
  | vacc (core : Nat) (w : W32)
  /-- VFLG (R120): Reads the task shard's flag word into every lane. -/
  | vflg (core : Nat) (w : W32)
  /-- WFILL (R151): Starts filling one staging half of an array from a bound weight region. -/
  | wfill (core : Nat) (w : W32)
  /-- WFILL_COMPLETE (R152): A fill completes, its staging half becomes ready and any issue hold on it ends. -/
  | wfillComplete (core : Nat)
  /-- SEND (R154): Copies scratchpad lines into an outbound endpoint buffer, holding until there is room. -/
  | send (core : Nat) (w : W32)
  /-- RECV (R155): Moves bytes from a read endpoint into scratchpad lines, holding until they are present. -/
  | recv (core : Nat) (w : W32)
  /-- READ_ENDPOINT_FETCH (R155): Ring bytes arriving at a read endpoint fill its read-ahead buffer and release a waiting RECV. -/
  | readEndpointFetch (core ep n : Nat)
  /-- CREDIT_RETURN (R154): Ring room or port credits return to a sender on the side wires, releasing a held send. -/
  | creditReturn (core ep n : Nat)
  /-- COPY (R210): Starts a row copy with optional gather, conversion, transpose and hashing under a copy tag. -/
  | copy (core : Nat) (w : W32)
  /-- ATOM (R212): Starts a batch of indexed atomic operations applied at the target's atomic unit. -/
  | atom (core : Nat) (w : W32)
  /-- PREF (R211): Prefetches lines of a stable page into the issuing die's cache. -/
  | pref (core : Nat) (w : W32)
  /-- CWAIT (R209): Holds until a copy tag completes and writes its status word to a scalar register. -/
  | cwait (core : Nat) (w : W32)
  /-- COPY_COMPLETE (R215): Every write of a copy has been acknowledged; its tag frees and waiting CWAITs release. -/
  | copyComplete (core tag : Nat) (remote : List Byte) (lockstep : Nat)
  /-- STACK_REQUEST (R213): A read or write request reaches a Gridun base die and is checked and applied to one line. -/
  | stackRequest (r : MemReq)
  /-- MIRROR_WRITE_ACK (R201): A buddy's acknowledgement of a mirror write decrements the context's unacknowledged count. -/
  | mirrorWriteAck (buddy ctx : Nat)
  /-- MIRROR_REPAIR_REQUEST (R327): A buddy that finds an uncorrectable mirror line asks the source device to rewrite it. -/
  | mirrorRepairRequest (buddy stack off : Nat)
  /-- REMOTE_ERROR_RESPONSE (R353): An error response for a refused remote request reaches its source, which ends the task; a refused mirror write or signal reaches its source in the same way. -/
  | remoteErrorResponse (dev ctx : Nat) (src : ErrSrc) (cls addr : Nat)
  /-- DIE_CACHE_READ (R202): A read of a stable line looks up the die cache and fills it from the home stack on a miss. -/
  | dieCacheRead (core addr bad : Nat)
  /-- ATOM_LINE_OPERATION (R204): An atomic operation reaching the atomic unit is applied in a line buffer. -/
  | atomLineOperation (a : AtomSrc) (bad : Nat)
  /-- ATOM_LINE_WRITEBACK (R204): A line buffer with no pending operation writes its line back to the stack. -/
  | atomLineWriteback (die line : Nat)
  /-- SCRUB_PASS (R197): The periodic scrub reads every line of a stack, correcting and recording errors. -/
  | scrubPass (stack : Nat) (bad : List (Nat × Nat))
  /-- FRAME_TABLE_COMMIT (R193): A Bureau change to the frame table takes effect in all sixteen base dies. -/
  | frameTableCommit (changes : List (Nat × Nat))
  /-- FRAME_ZEROING_COMPLETE (R194): A freed frame finishes zeroing and becomes available for allocation. -/
  | frameZeroingComplete (frame : Nat)
  /-- DISPATCH_DECISION (R282): A free core's arbiter chooses a ready queue head among running contexts by weighted class. -/
  | dispatchDecision (core : Nat)
  /-- TILE_TASK_DISPATCH (R100): A chosen descriptor is checked, binds its regions, resets core state and begins issue. -/
  | tileTaskDispatch (core : Nat) (upset : Bool)
  /-- TILE_TASK_COMPLETION (R100): A task's last work lands; flags fold, counts, descriptor fields and signals are written. -/
  | tileTaskCompletion (core : Nat)
  /-- TASK_WATCHDOG_EXPIRY (R105): A task exceeding the watchdog limit is aborted with status 0x17 and its context restarts or stops. -/
  | taskWatchdogExpiry (core : Nat)
  /-- FOOTSTOOL_EXACT_CHECK (R106): A sampled chunk or conversion is recomputed and compared bit for bit. -/
  | footstoolExactCheck (core fault : Nat)
  /-- FOOTSTOOL_WIDE_SAMPLE (R108): A wide-mode sample's master weights arrive, and the deviation statistics are updated. -/
  | footstoolWideSample (core : Nat)
  /-- CROSS_CORE_REPLAY (R311): An idle partner core replays a selected task on captured inputs and forms its digest. -/
  | crossCoreReplay (core fault : Nat)
  /-- REPLAY_COMPARE (R313): A replay digest is compared with the original, leading to a second replay or a fence. -/
  | replayCompare (core : Nat)
  /-- FRAME_MARKER_CHECK (R142): A frame marker crossing a die boundary is checked for its cycle. -/
  | frameMarkerCheck (crossing cycle : Nat)
  /-- FLIT_PASSES_CHANNEL (R161): A scheduled flit presented in a slot is checked against the slot table and forwarded. -/
  | flitPassesChannel (die channel slot : Nat) (others : List (Nat × Nat × Nat)) (upset : Nat)
  /-- OPEN_PACKET_HOP (R159): An unscheduled packet flit is served in an open slot and routed dimension by dimension. -/
  | openPacketHop (die channel slot : Nat) (arrivals : List (Nat × Nat × Nat × Nat)) (upset : Bool)
  /-- ERROR_RECORD_ARRIVAL (R317): An error record reaches the root die, is numbered, logged and posted to its context. -/
  | errorRecordArrival
  /-- CTX_SIG (R172): A host write signals one of the context's counters. -/
  | ctxSig (master ctx : Nat) (value : W64)
  /-- SIGNAL_APPLY (R168): A signal reaching its counter home is applied and notifies dies with waiters. -/
  | signalApply (upset : Bool)
  /-- COUNTER_VALUE_NOTIFY (R175): A new counter value reaches a subscribing dispatcher, which learns whether waits are satisfied. -/
  | counterValueNotify (die ctr : Nat)
  /-- CROSS_DEVICE_SIGNAL (R179): A signal in the sync class reaches its target device and is checked for access and generation. -/
  | crossDeviceSignal (m : SyncMsg)
  /-- BARRIER_ARRIVAL_MESSAGE (R181): An arrival carrying a generation reaches a parent barrier node. -/
  | barrierArrivalMessage (m : BarMsg)
  /-- BARRIER_RELEASE_MESSAGE (R181): A release reaches a child node, which forwards it and raises its release counter. -/
  | barrierReleaseMessage (m : BarMsg)
  /-- WAIT_WATCHDOG_EXPIRY (R183): A queue head stalled beyond the limit writes a wait-timeout record and aborts the context. -/
  | waitWatchdogExpiry (queue : Nat)
  /-- SYNC_DBG_SEL (R185): A write snapshots one counter's value and state at its home. -/
  | syncDbgSel (master die index : Nat)
  /-- SYNC_SNAPSHOT_COMPLETE (R185): The waiter list of a snapshot is gathered and ready is set. -/
  | syncSnapshotComplete (die : Nat)
  /-- CTX_DOORBELL (R280): A host advances a queue's tail if the new occupancy is valid. -/
  | ctxDoorbell (master ctx : Nat) (value : W64)
  /-- COLLECTIVE_QUEUE_TAIL (R234): A host write advances a collective queue's tail under the doorbell rules. -/
  | collectiveQueueTail (master ctx cq : Nat) (value : Nat)
  /-- COLLECTIVE_HEAD_CHECK (R230): A collective descriptor reaching its queue head is checked and waits on its counter. -/
  | collectiveHeadCheck (ctx cq : Nat)
  /-- COLLECTIVE_START (R235): With its wait satisfied, an engine reads hosted parts and exchanges pass-1 messages. -/
  | collectiveStart (ctx cq : Nat)
  /-- COLLECTIVE_MESSAGE_RECEIVE (R238): An engine receives a collective message and checks its CRC, generation, duplicates and fields. -/
  | collectiveMessageReceive (ctx cq : Nat) (m : CollMsg)
  /-- COLLECTIVE_RETRANSMIT_REQUEST (R238): A sender asked to resend re-reads its source and sends the message again. -/
  | collectiveRetransmitRequest (ctx cq : Nat) (m : CollMsg)
  /-- COLLECTIVE_CONTRIBUTION_REQUEST (R291): A re-run collective's request for contributions is answered from unchanged sources. -/
  | collectiveContributionRequest (ctx cq : Nat) (m : CollMsg)
  /-- COLLECTIVE_FAILURE_NOTICE (R238): A peer's failure notice ends the collective with status 0x22. -/
  | collectiveFailureNotice (ctx cq : Nat) (m : CollMsg)
  /-- COLLECTIVE_TIMEOUT (R240): A collective missing contributions at its timeout ends with status 0x20 and notifies the group. -/
  | collectiveTimeout (ctx cq : Nat)
  /-- COLLECTIVE_COMPLETION (R235): All result writes acknowledged, flags fold, status is written and the signal applied. -/
  | collectiveCompletion (ctx cq : Nat)
  /-- LINK_SIGNAL_DETECT (R252): Signal on all four receive lanes moves a link from DETECT to EQUALIZE. -/
  | linkSignalDetect (link : Nat)
  /-- LINK_EQUALIZE_DONE (R252): Equalisation completes and the link enters ALIGN. -/
  | linkEqualizeDone (link : Nat)
  /-- LINK_ALIGN_DONE (R252): Codeword lock, lane order and deskew are found and the link enters IDENT. -/
  | linkAlignDone (link : Nat)
  /-- IDENT_MESSAGE (R261): The far end's identity arrives and is checked against the plan and port map. -/
  | identMessage (link : Nat) (m : IdentMsg)
  /-- NEGOTIATE_MESSAGE (R256): The far end's highest version arrives; the link runs the lower and becomes ACTIVE. -/
  | negotiateMessage (link version : Nat)
  /-- LINK_TRAINING_TIMEOUT (R252): A training state exceeds its limit and the link faults or retries. -/
  | linkTrainingTimeout (link : Nat)
  /-- PIECE_PACKET_RECEIVE (R245): A piece packet arrives and is checked by CRC and sequence and placed by its frame and slot. -/
  | piecePacketReceive (link : Nat) (bytes : List Byte) (upset : Bool)
  /-- CONTROL_PACKET_RECEIVE (R244): A control packet carrying acknowledgements, credits, sync or training messages arrives. -/
  | controlPacketReceive (link : Nat) (bytes : List Byte)
  /-- ACK_RECEIVE (R245): A cumulative acknowledgement frees packets from the sender's replay buffer. -/
  | ackReceive (link seq : Nat)
  /-- NAK_RECEIVE (R245): A NAK makes the sender replay from the named sequence number. -/
  | nakReceive (link seq : Nat)
  /-- ACK_TIMER (R245): The receiver sends an acknowledgement at least once per microsecond. -/
  | ackTimer (link : Nat)
  /-- CODEWORD_LOCK_LOSS (R253): Loss of codeword lock makes an active link retrain from ALIGN. -/
  | codewordLockLoss (link : Nat)
  /-- UNCORRECTABLE_CODEWORD_LIMIT (R253): More than 16 uncorrectable codewords in a millisecond make the link retrain. -/
  | uncorrectableCodewordLimit (link corrected uncorrectable : Nat)
  /-- LNK_CTRL_RETRAIN (R254): A write returns the link to DOWN and trains it afresh from DETECT. -/
  | lnkCtrlRetrain (master link : Nat)
  /-- HEARTBEAT_SEND (R331): Every hb_ms the Bureau sends a heartbeat to each present far device. -/
  | heartbeatSend
  /-- HEARTBEAT_RECEIVE (R331): A heartbeat from a neighbour restarts its loss timer. -/
  | heartbeatReceive (port device : Nat)
  /-- LOSS_TIMEOUT (R331): No heartbeat within timeout declares the neighbour lost and floods a device-lost notice. -/
  | lossTimeout (port : Nat)
  /-- DEVICE_LOST_NOTICE (R333): A device-lost notice aborts affected jobs, rewrites routes and starts adoption by a buddy. -/
  | deviceLostNotice (device origin nonce about : Nat)
  /-- PLACEMENT_MESSAGE (R333): A member receives the new placement and rewrites forward entries and groups. -/
  | placementMessage (m : PlaceMsg)
  /-- PERST_N_FALL (R272): PERST_N low resets the endpoint and unloads every host-owned context of the Shelf. -/
  | perstNFall
  /-- PERST_N_RISE (R385): PERST_N rising starts PCI Express link training of the endpoint. -/
  | perstNRise (rate width : Nat) (flit : Bool)
  /-- SHELF_UNLOAD_NOTICE (R272): A module receiving the bridge's unload notice unloads the host-owned contexts. -/
  | shelfUnloadNotice (fn : Nat)
  /-- FUNCTION_LEVEL_RESET (R272): An FLR of function n unloads context n on every module of the Shelf. -/
  | functionLevelReset (fn : Nat)
  /-- PCIE_CONFIG_REQUEST (R271): A configuration request is answered by the hardware path or returns Request Retry Status before the Bureau is ready. -/
  | pcieConfigRequest (fn reg : Nat) (write : Bool) (value : W32)
  /-- HOST_BAR_REQUEST (R270): A host request to a BAR enters with its function's master ID and is decoded and checked. -/
  | hostBarRequest (fn bar addr len : Nat) (data : Option (List Byte)) (bad : Nat)
  /-- LOAD_BEGIN (R195): Allocates zeroed frames for a program image area. -/
  | loadBegin (master ctx tag : Nat) (args : List Nat)
  /-- LOAD (R406): Checks a program, places slots and resources, resolves shared regions and leaves the context STOPPED. -/
  | load (master ctx tag : Nat) (args : List Nat)
  /-- SHARED_REGION_FETCH_COMPLETE (R221): A shared region fetched from holders is digest-checked and published, releasing the load. -/
  | sharedRegionFetchComplete (ctx region : Nat) (holders : List (Nat × List Byte)) (host : List Byte)
  /-- MEMBER_ANNOUNCEMENT (R451): A member's announcement arrives and entries targeting it are written. -/
  | memberAnnouncement (ctx : Nat) (m : AnnMsg)
  /-- RESTORE (R297): Checks a save record and restores counters, generation and step into a new context. -/
  | restore (master ctx tag : Nat) (args : List Nat)
  /-- UNLOAD (R294): Drains the context as a pull-in yield and releases all its resources. -/
  | unload (master ctx tag : Nat) (args : List Nat)
  /-- UNLOAD_DRAIN_LIMIT (R294): At 40 ms after UNLOAD, tasks still running are ended and resources released. -/
  | unloadDrainLimit (ctx : Nat)
  /-- RESUME (R293): Ends the host yield source and, with none left, writes back pointers and runs the context. -/
  | resume (master ctx tag : Nat) (args : List Nat)
  /-- YIELD (R288): A host yield request chooses a yield point by mode and hold. -/
  | yield (master ctx tag : Nat) (args : List Nat)
  /-- RESTART (R319): Restarts an error-stopped context from its last committed step. -/
  | restart (master ctx tag : Nat) (args : List Nat)
  /-- EVICT (R296): Yields the context and writes a save record of the last committed step to a buddy or the partition. -/
  | evict (master ctx tag : Nat) (args : List Nat)
  /-- JOIN (R298): Adds a sequence join to the pending list after limit checks. -/
  | join (master ctx tag : Nat) (args : List Nat)
  /-- LEAVE (R298): Adds a sequence leave to the pending list or cancels a pending join. -/
  | leave (master ctx tag : Nat) (args : List Nat)
  /-- VER_OPEN (R219): Opens a pending version slot of a region in zeroed frames. -/
  | verOpen (master ctx tag : Nat) (args : List Nat)
  /-- VER_PUBLISH (R219): Requests publication of a region's pending version. -/
  | verPublish (master ctx tag : Nat) (args : List Nat)
  /-- PUBLISH_COMPLETE (R357): With all writes acknowledged, frames become read-only, the digest is formed and the version becomes current. -/
  | publishComplete (region : Nat) (lockstep : Bool)
  /-- VERSION_RELEASE (R218): A draining slot no longer bound by any task or view is released to zeroing. -/
  | versionRelease (region slot : Nat)
  /-- EVAL_BIND (R301): Binds a training context's current versions to an evaluation context at the next boundary. -/
  | evalBind (master ctx tag : Nat) (args : List Nat)
  /-- EVAL_RELEASE (R302): Removes evaluation access, releases draining slots and lets a held training context resume. -/
  | evalRelease (master ctx tag : Nat) (args : List Nat)
  /-- STEP_BOUNDARY (R285): When step queues pause, collectives finish and commit completes, the boundary actions run in order. -/
  | stepBoundary (ctx : Nat)
  /-- COMMIT_RECORD_WRITE (R329): A member's commit record is written to each buddy and acknowledged. -/
  | commitRecordWrite (ctx : Nat) (src : Option (Nat × List Byte))
  /-- COMMIT_REPORT (R318): A member's commit report reaches the coordinator. -/
  | commitReport (ctx member step : Nat)
  /-- COMMIT_RELEASE (R318): The coordinator's release commits the step and lets the member pass its boundary. -/
  | commitRelease (ctx step : Nat)
  /-- CTX_RCPT_READ_ADVANCE (R361): A host advances the receipt ring read index, freeing entries for a waiting boundary. -/
  | ctxRcptReadAdvance (master ctx : Nat) (rd : Nat)
  /-- RECEIPT_SIGNED (R362): The security engine finishes a receipt signature and marks the entry signed. -/
  | receiptSigned
  /-- YIELD_N_FALL (R287): YIELD_N held low past its filter requests a yield of enabled contexts. -/
  | yieldNFall
  /-- YIELD_N_RISE (R287): YIELD_N rising ends the pin yield source. -/
  | yieldNRise
  /-- YIELD_MESSAGE (R289): A yield message from another member sets its source and chooses the point. -/
  | yieldMessage (ctx member gen mode step hold : Nat)
  /-- RESUME_MESSAGE (R289): A resume message ends the link yield source. -/
  | resumeMessage (ctx member gen : Nat)
  /-- YIELD_HOLD_DEADLINE (R288): A hold deadline passing before the boundary pulls the yield in. -/
  | yieldHoldDeadline (ctx : Nat)
  /-- YIELD_DRAIN_COMPLETE (R290): After tasks complete and credits return, pointers are recorded and the context is YIELDED. -/
  | yieldDrainComplete (ctx : Nat)
  /-- ABORT_NOTICE (R320): An abort notice reaches a member, which aborts or answers according to its context state. -/
  | abortNotice (ctx : Nat) (m : AbortMsg)
  /-- ABORT_DRAIN_COMPLETE (R319): After the drain, versions are discarded, counters restored, the schedule loaded and ready reported. -/
  | abortDrainComplete (ctx : Nat) (fills : List (Nat × List Byte))
  /-- MEMBER_READY_REPORT (R319): A member's ready report reaches the coordinator. -/
  | memberReadyReport (ctx member step : Nat)
  /-- RESTART_RELEASE (R319): The coordinator's release gives a new generation and runs the queues. -/
  | restartRelease (ctx gen : Nat)
  /-- FENCE_REQUEST (R321): A write of BU_FENCE_CTRL with fence set fences a core, optionally persistently. -/
  | fenceRequest (master : Nat) (value : W32)
  /-- UNFENCE_REQUEST (R324): A write of BU_FENCE_CTRL with fence clear removes a core from the fence list for the next reset. -/
  | unfenceRequest (master : Nat) (value : W32)
  /-- IN_FIELD_TEST_PERIOD (R338): The test period starts moving contexts off the next core at their boundaries. -/
  | inFieldTestPeriod
  /-- IN_FIELD_TEST_START (R338): Once no context uses the core, it enters test mode for dur. -/
  | inFieldTestStart
  /-- IN_FIELD_TEST_END (R339): At the end of dur the test digests are compared and the core passes or is fenced. -/
  | inFieldTestEnd (expected measured : Nat) (footstool : Bool)
  /-- STANDBY_VALID (R383): The 3.3 V standby rail rises and the root die's power-on reset begins. -/
  | standbyValid
  /-- POWER_ON_RESET_END (R384): Straps are sampled, local time starts and the PCI Express hardware path goes live. -/
  | powerOnResetEnd (rate width : Nat) (flit : Bool)
  /-- BOOT_IMAGE_VERIFIED (R345): The boot ROM finishes verifying images and boots the first valid one or enters recovery. -/
  | bootImageVerified
  /-- MAIN_INPUT_IN_RANGE (R386): 48 V in range for 10 ms lets the Bureau enable the main domain regulators. -/
  | mainInputInRange
  /-- MAIN_DOMAIN_UP (R386): All regulators report in range, MAIN_PG rises and crossings and stacks begin training. -/
  | mainDomainUp
  /-- STACK_TRAINING_COMPLETE (R387): A stack finishes training, withholding bad frames or failing the device. -/
  | stackTrainingComplete (stack : Nat) (ok : Bool) (bad : List Nat)
  /-- CORE_SELF_TEST_END (R388): The start-up self test ends, fencing failed cores and reseeding lane generators. -/
  | coreSelfTestEnd (failed : List (Nat × Nat × Nat)) (ces cpes hashes : List Nat)
  /-- LINK_TRAINING_CONCLUDED (R389): Link training concludes when all links settle or 3 s pass. -/
  | linkTrainingConcluded
  /-- DEVICE_READY (R390): All conditions hold, ready is set, assembly starts and commands are accepted. -/
  | deviceReady
  /-- ENTROPY_HEALTH_CHANGE (R391): The entropy source passes or fails its health tests, switching the Bureau's seed source. -/
  | entropyHealthChange (healthy : Bool)
  /-- ENTROPY_WAIT_TIMEOUT (R391): An unhealthy source 1 s after self test keeps the device not ready with fail 0x07. -/
  | entropyWaitTimeout
  /-- ENTROPY_RECORD_REPEAT (R391): Every 60 s while the source fails, a record of class 0x5B is written. -/
  | entropyRecordRepeat
  /-- ASSEMBLY_MESSAGE (R393): An assembly message marks its sender present, updates routes and heartbeats and is forwarded. -/
  | assemblyMessage (m : AsmMsg)
  /-- ASSEMBLY_TIMEOUT (R395): An incomplete Cabinet view at the assembly timeout becomes degraded. -/
  | assemblyTimeout
  /-- BU_RESET (R398): A write of the key starts a module reset. -/
  | buReset (master : Nat) (value : W32)
  /-- MCTP_RESET_MESSAGE (R398): A vendor-defined MCTP reset message starts a module reset. -/
  | mctpResetMessage (value : W32)
  /-- STANDBY_POWER_LOSS (R399): Removal of standby power ends every domain at once. -/
  | standbyPowerLoss
  /-- POWER_MEASUREMENT (R369): Input power is measured every microsecond against the limiter threshold. -/
  | powerMeasurement (watts mv : Nat)
  /-- LIMITER_THRESHOLD_TIMER (R370): After 10 ms above or below cap the limiter threshold switches between cap and 2,100 W. -/
  | limiterThresholdTimer
  /-- LIMITER_SUSTAINED (R382): Cycles withheld for more than 1 s write a record of class 0x55. -/
  | limiterSustained
  /-- CLOCK_CONTROLLER_ADJUST (R371): Every 100 µs the arithmetic clock is set to the highest step within cap. -/
  | clockControllerAdjust
  /-- PWR_CTRL (R370): A write of the power cap takes effect live and lowers the limiter threshold at once. -/
  | pwrCtrl (master : Nat) (value : W32)
  /-- INPUT_VOLTAGE_FAULT (R372): 48 V out of range for 100 µs turns off the main domain and takes the device offline. -/
  | inputVoltageFault
  /-- SENSOR_READING (R373): Every millisecond each sensor is read and the thermal controller acts. -/
  | sensorReading (sensor temp : Nat) (rails : List Nat)
  /-- THROTTLE_RECORD_REPEAT (R374): Every 60 s while throttled, a thermal throttle record is written again. -/
  | throttleRecordRepeat (sensor : Nat)
  /-- THERMAL_TRIP (R375): A sensor at 115 °C trips the main domain off in hardware and drives THERMTRIP_N and ALERT_N. -/
  | thermalTrip (sensor : Nat)
  /-- FIRMWARE_UPDATE (R347): A PLDM firmware update writes and verifies the image that is not running. -/
  | firmwareUpdate (bytes : List Byte) (hifMajor : Nat) (majorChange : Bool)
  /-- RECOVERY_IMAGE_RECEIVE (R347): The boot ROM in recovery receives, verifies and writes an image, then resets. -/
  | recoveryImageReceive (bytes : List Byte)
  /-- MCTP_CONTROL (R365): An MCTP control message assigns endpoint IDs and supports discovery. -/
  | mctpControl (cmd : Nat) (data : List Byte)
  /-- PLDM_BASE (R365): A PLDM Type 0 discovery command is answered. -/
  | pldmBase (cmd : Nat) (data : List Byte)
  /-- PLDM_MONITORING (R365): A PLDM Type 2 command reads numeric or state sensors. -/
  | pldmMonitoring (cmd : Nat) (data : List Byte)
  /-- PLDM_FRU_DATA (R365): A PLDM Type 4 command returns FRU data. -/
  | pldmFruData (cmd : Nat) (data : List Byte)
  /-- GET_VERSION (R349): SPDM version request is answered. -/
  | getVersion
  /-- GET_CAPABILITIES (R349): SPDM capabilities request is answered. -/
  | getCapabilities (version : Nat) (data : List Byte)
  /-- NEGOTIATE_ALGORITHMS (R349): SPDM algorithm negotiation is answered. -/
  | negotiateAlgorithms (data : List Byte)
  /-- GET_DIGESTS (R349): SPDM certificate digests for slot 0 are returned. -/
  | getDigests
  /-- GET_CERTIFICATE (R349): The slot 0 certificate chain is returned. -/
  | getCertificate (slot off len : Nat)
  /-- CHALLENGE (R349): An SPDM challenge is signed with the attestation key. -/
  | challenge (slot summary : Nat) (nonce : List Byte)
  /-- GET_MEASUREMENTS (R349): Measurements of Table 14.6 are returned, signed on request. -/
  | getMeasurements (index slot : Nat) (sign : Bool) (nonce : List Byte)
  /-- LECTERN_NONCE_REQUEST (R379): Returns an 8-byte nonce valid for 60 s and one token. -/
  | lecternNonceRequest
  /-- LECTERN_UNLOCK (R379): A signed unlock token is verified and opens the Lectern with its scope and duration. -/
  | lecternUnlock (token : List Byte)
  /-- LECTERN_CLOSE (R379): A close message closes the Lectern. -/
  | lecternClose
  /-- LECTERN_EXPIRY (R379): The unlock duration expires and the Lectern closes. -/
  | lecternExpiry
  /-- LECTERN_HALT (R381): Halts a core at its next bundle boundary, stopping its watchdogs. -/
  | lecternHalt (core : Nat)
  /-- LECTERN_SINGLE_STEP (R381): Advances a halted core by one bundle. -/
  | lecternSingleStep (core : Nat)
  /-- LECTERN_READ (R380): Reads any register, memory, counter or scratchpad line, invalid lines as zeros. -/
  | lecternRead (t : DbgTarget) (n : Nat)
  /-- LECTERN_WRITE (R380): Writes device state; a write into a context during a step is an external write. -/
  | lecternWrite (t : DbgTarget) (bytes : List Byte)
  /-- JTAG_BYPASS (R378): The BYPASS instruction selects the bypass register. -/
  | jtagBypass (bit : Bool)
  /-- JTAG_IDCODE (R439): The IDCODE instruction returns the stepping's identification code. -/
  | jtagIdcode
  /-- JTAG_SAMPLE_PRELOAD (R378): SAMPLE/PRELOAD captures or loads the sideband boundary-scan chain. -/
  | jtagSamplePreload (preload : Option (List Bool))
  /-- JTAG_EXTEST (R378): EXTEST drives the boundary-scan chain, only with the main domain off. -/
  | jtagExtest
  /-- JTAG_TEST_LOGIC_RESET (R439): TRST_N low or five TMS-high cycles reset the test logic only. -/
  | jtagTestLogicReset
  /-- BLK_COMMIT (R417): A write of go commits the page's access entries at once and sets the rest pending. -/
  | blkCommit (master page : Nat)
  /-- COMMIT_EFFECT_POINT (R417): At the block's effect point the pending part takes effect together or is rejected. -/
  | commitEffectPoint (page : Nat)
  /-- BLK_LOCK (R422): A write locks lock groups until reset and reloads their shadows. -/
  | blkLock (master page : Nat) (value : W32)
  /-- STAT_FREEZE (R421): Setting stat_freeze holds statistics; clearing it adds the accumulated counts. -/
  | statFreeze (master page : Nat) (value : W32)
  /-- REGISTER_WRITE (R7): A write to a register with no row of its own acts under its access code and restrictions. -/
  | registerWrite (master addr : Nat) (bytes : List Byte)
  /-- LANE_GENERATOR_ADVANCE (R133): Each lane generator advances its xorshift state once per arithmetic cycle in normal mode, or once per issued bundle in test mode. -/
  | laneGeneratorAdvance (core : Nat)
  /-- CROSSINGS_TRAINED (R142): Training of the die-to-die crossings ends, fixing their latency and starting the frame counters, or takes the device offline at its 20 ms limit. -/
  | crossingsTrained (latency unit : Nat)
  /-- MAIN_DOMAIN_POWER_UP_LIMIT (R383): Main domain power-up not complete within 50 ms takes the device offline with a self device-lost record. -/
  | mainDomainPowerUpLimit (unit : Nat)
  /-- BUREAU_FAULT (R363): The lockstep Bureau cores disagree, a Bureau fault record is written and the device goes offline. -/
  | bureauFault (addr : Nat)
  /-- DIE_STOPS_ANSWERING (R331): A compute or link die stops answering, and the device takes itself offline and floods a device-lost notice about itself. -/
  | dieStopsAnswering (die : Nat)
  /-- CROSSING_RECALIBRATION (R377): A periodic recalibration of a die-to-die crossing finds it outside its timing margin and reports a protocol error. -/
  | crossingRecalibration (crossing : Nat)
  /-- REGION_HOLDER_QUERY (R221): A device receives on the MGMT path a query for a current version with a given weights digest and answers whether it holds one. -/
  | regionHolderQuery (asker : Nat) (digest : List Byte)
  /-- COORDINATOR_STATE_REQUEST (R319): A member receives the new coordinator's request for its state after the old coordinator is lost and answers it. -/
  | coordinatorStateRequest (ctx coordinator : Nat)
  /-- PCIE_LANE_FAILURE (R268): A PCI Express lane fails in service, the endpoint down-trains, and if the link settles below 16 GT/s a host-link-degraded record is raised. -/
  | pcieLaneFailure (lanes rate : Nat)
  /-- REGISTER_READ_LATCH (R412): A read of the lowest word of a register wider than 4 bytes latches the whole register for that master. -/
  | registerReadLatch (master addr len : Nat)
  deriving DecidableEq, Repr

end Sys2Proof
end

