-- ==== Sys2Proof/Config.lean ====
section
/-! DEFINITION. What the manual leaves open, as uninterpreted constants: nothing in Lean can evaluate them, so a proved statement
holds for every value of them. -/

namespace Sys2Proof

/-- A free value: the `n`-th one the machine draws (State.freeIx counts them). Entropy draws, sampling decisions and other values
the manual leaves open (assumption log 6). -/
opaque Config.free : Nat → Nat

/-- The correctly rounded binary32 encoding of a special function (`op`, the V-slot op code) at an operand, used only where the
rational enclosure of the model does not decide the rounding (R115, R128; assumption log 13). -/
opaque Config.specialValue : Nat → Nat → Nat

/-- The RSA signature of a digest under a device key that no interface shows (R348, R362): key number, 32-byte digest as a number
(assumption log 19). -/
opaque Config.signature : Nat → Nat → Nat

/-- Configuration space of the PCI Express endpoint, which the manual leaves to the PCI Express specification: the value of a word of a function before any write, and the bits of it that a write changes. -/
opaque Config.pcieWord : Nat → Nat → Nat
opaque Config.pcieMask : Nat → Nat → Nat

/-- The SHA-256 of the boot ROM of a stepping, as a number (R342, Table 14.6); true B0. -/
opaque Config.romDigest : Bool → Nat

end Sys2Proof
end

