-- ==== Sys2Proof/Machine/Tab.lean ====
section
/-! DEFINITION. Sparse tables in canonical form (keys strictly rising, no entry equal to the default) and byte-string helpers. -/

namespace Sys2Proof.Machine

/-- The value of key `k`; an unlisted key holds the default `d`. -/
def tget {α : Type} (d : α) : Tab α → Nat → α
  | [], _ => d
  | (k', v) :: t, k => if k = k' then v else tget d t k

/-- Write key `k` of a table of records, keeping the keys strictly rising. -/
def tset {α : Type} : Tab α → Nat → α → Tab α
  | [], k, v => [(k, v)]
  | (k', v') :: t, k, v =>
    if k < k' then (k, v) :: (k', v') :: t
    else if k = k' then (k, v) :: t
    else (k', v') :: tset t k v

/-- The listed value of key `k`, if any. -/
def tfind {α : Type} : Tab α → Nat → Option α
  | [], _ => none
  | (k', v) :: t, k => if k = k' then some v else tfind t k

/-- Remove key `k`. -/
def tdel {α : Type} (t : Tab α) (k : Nat) : Tab α := t.filter (fun e => e.1 ≠ k)

/-- Write key `k`, keeping the canonical form: writing the default removes the entry. -/
def tput {α : Type} [DecidableEq α] (d : α) (t : Tab α) (k : Nat) (v : α) : Tab α := if v = d then tdel t k else tset t k v

/-- Every key of the table is above `b`, and the keys rise strictly. -/
def tabRising {α : Type} : Option Nat → Tab α → Bool
  | _, [] => true
  | none, (k, _) :: t => tabRising (some k) t
  | some b, (k, _) :: t => decide (b < k) && tabRising (some k) t

/-- The canonical form: keys strictly rising, no entry equal to the default. -/
def tabWf {α : Type} [DecidableEq α] (d : α) (t : Tab α) : Bool :=
  tabRising none t && t.all (fun e => decide (e.2 ≠ d))

/-- Bits [hi:lo] of a natural number. -/
def bitsOf (n hi lo : Nat) : Nat := (n >>> lo) % 2 ^ (hi - lo + 1)

/-- Bit `i` of a natural number. -/
def bitOf (n i : Nat) : Bool := n.testBit i

/-- `n` with bits [hi:lo] replaced by the low bits of `v`. -/
def setBits (n hi lo v : Nat) : Nat :=
  n - (bitsOf n hi lo) * 2 ^ lo + (v % 2 ^ (hi - lo + 1)) * 2 ^ lo

/-- The signed value of the low `w` bits of `n`. -/
def signedOf (w n : Nat) : Int :=
  let m := n % 2 ^ w
  if m ≥ 2 ^ (w - 1) then (m : Int) - 2 ^ w else m

/-- The two's complement encoding of `i` in `w` bits. -/
def twosOf (w : Nat) (i : Int) : Nat := (i % (2 ^ w : Int)).toNat

/-- 1 for true, 0 for false. -/
def b2n (b : Bool) : Nat := if b then 1 else 0

/-- Little-endian value of a byte string (R4). -/
def leNat : List Byte → Nat
  | [] => 0
  | b :: bs => b.toNat + 256 * leNat bs

/-- The `n` low bytes of a number, least significant first (R4). -/
def leBytes : Nat → Nat → List Byte
  | 0, _ => []
  | n + 1, v => BitVec.ofNat 8 v :: leBytes n (v / 256)

/-- Big-endian value of a byte string (the RSA values of R344). -/
def beNat (bs : List Byte) : Nat := bs.foldl (fun a b => a * 256 + b.toNat) 0

/-- The `n` low bytes of a number, most significant first. -/
def beBytes (n v : Nat) : List Byte := (leBytes n v).reverse

/-- Read `n` consecutive bytes at `a` of a byte table. -/
def tbytes (t : Tab Byte) (a : Nat) : Nat → List Byte
  | 0 => []
  | n + 1 => tget 0 t a :: tbytes t (a + 1) n

/-- Write consecutive bytes at `a` of a byte table. -/
def tputBytes (t : Tab Byte) (a : Nat) : List Byte → Tab Byte
  | [] => t
  | b :: bs => tputBytes (tput 0 t a b) (a + 1) bs

/-- ⌈a / b⌉. -/
def ceilDiv (a b : Nat) : Nat := (a + b - 1) / b

/-- Saturating addition at `2^w - 1`. -/
def satAdd (w a b : Nat) : Nat := min (a + b) (2 ^ w - 1)

/-- Split a list into pieces of `n` elements; `fuel` bounds the number of pieces. -/
def chunksOf {α : Type} (n : Nat) : Nat → List α → List (List α)
  | 0, _ => []
  | fuel + 1, l => if l.isEmpty then [] else l.take n :: chunksOf n fuel (l.drop n)

/-- Insert in rising order of a key. -/
def insertBy {α : Type} (key : α → Nat) (x : α) : List α → List α
  | [] => [x]
  | y :: ys => if key x ≤ key y then x :: y :: ys else y :: insertBy key x ys

/-- Sort in rising order of a key, equal keys keeping their order. -/
def sortBy {α : Type} (key : α → Nat) (l : List α) : List α := l.foldr (insertBy key) []

end Sys2Proof.Machine
end

