-- ==== Sys2Proof/Machine/Numeric.lean ====
section
/-! DEFINITION. Number formats and the one conversion (03_number_formats.md): decoding an encoding to its exact value,
rounding an exact value once into a destination (R48, R49, R50), and the IEEE 754 operations of R113. -/

namespace Sys2Proof.Machine

/-- The layout of a floating-point format (Table 3.2). -/
structure Fmt where
  expBits : Nat
  frac : Nat
  bias : Nat
  deriving DecidableEq, Repr

/-- binary32, code 0x0. -/
def fmtB32 : Fmt := ⟨8, 23, 127⟩
/-- binary16, code 0x1. -/
def fmtF16 : Fmt := ⟨5, 10, 15⟩
/-- bfloat16, code 0x2. -/
def fmtBf16 : Fmt := ⟨8, 7, 127⟩
/-- E5M2, code 0x3. -/
def fmtE5m2 : Fmt := ⟨5, 2, 15⟩
/-- E4M3i, code 0x4. -/
def fmtE4m3i : Fmt := ⟨4, 3, 7⟩

/-- The format of a code of Table 3.1 that may be a destination (0x0 to 0x4). -/
def fmtOfCode : Nat → Option Fmt
  | 0 => some fmtB32
  | 1 => some fmtF16
  | 2 => some fmtBf16
  | 3 => some fmtE5m2
  | 4 => some fmtE4m3i
  | _ => none

/-- Bits per element of a format code (Table 3.1): B4 is 0x5, OCP E4M3 is 0x6. -/
def codeBits : Nat → Nat
  | 0 => 32
  | 1 => 16
  | 2 => 16
  | 3 => 8
  | 4 => 8
  | 5 => 4
  | 6 => 8
  | _ => 0

/-- Exponent of the smallest normal. -/
def Fmt.emin (f : Fmt) : Int := 1 - (f.bias : Int)
/-- Exponent of the largest binade; the all-ones exponent field is reserved (R38). -/
def Fmt.emax (f : Fmt) : Int := (2 ^ f.expBits - 2 : Int) - f.bias
/-- Width of an encoding. -/
def Fmt.width (f : Fmt) : Nat := 1 + f.expBits + f.frac
/-- The sign bit in place. -/
def Fmt.signBit (f : Fmt) (neg : Bool) : Nat := if neg then 2 ^ (f.expBits + f.frac) else 0
/-- The infinity of a sign (Table 3.2). -/
def Fmt.infinity (f : Fmt) (neg : Bool) : Nat := f.signBit neg + (2 ^ f.expBits - 1) * 2 ^ f.frac
/-- The canonical NaN: sign 0, all-ones exponent, top fraction bit (Table 3.2). -/
def Fmt.nan (f : Fmt) : Nat := (2 ^ f.expBits - 1) * 2 ^ f.frac + 2 ^ (f.frac - 1)

/-- An exact value: a NaN, an infinity, or (−1)^neg × sig × 2^ex. A zero keeps its sign. -/
inductive FVal where
  | nan
  | inf (neg : Bool)
  | fin (neg : Bool) (sig : Nat) (ex : Int)
  deriving DecidableEq, Repr

/-- invalid (Table 3.7). -/
def flInvalid : FlagBits := 1
/-- overflow. -/
def flOverflow : FlagBits := 2
/-- inexact. -/
def flInexact : FlagBits := 4
/-- underflow. -/
def flUnderflow : FlagBits := 8

/-- The exact value of an encoding (R38). -/
def Fmt.decode (f : Fmt) (n : Nat) : FVal :=
  let neg := bitOf n (f.expBits + f.frac)
  let e := bitsOf n (f.expBits + f.frac - 1) f.frac
  let m := n % 2 ^ f.frac
  if e = 2 ^ f.expBits - 1 then (if m = 0 then .inf neg else .nan)
  else if e = 0 then .fin neg m (f.emin - f.frac)
  else .fin neg (2 ^ f.frac + m) ((e : Int) - f.bias - f.frac)

/-- A B4 element with its block scale (R39, Table 3.4). -/
def decodeB4 (scale elem : Nat) : FVal :=
  if scale % 256 = 255 then .nan
  else
    let neg := bitOf elem 3
    let mag2 := match elem % 8 with   -- twice the magnitude of Table 3.4
      | 0 => 0 | 1 => 1 | 2 => 2 | 3 => 3 | 4 => 4 | 5 => 6 | 6 => 8 | _ => 12
    .fin neg mag2 ((scale % 256 : Int) - 127 - 1)

/-- An OCP E4M3 encoding (Table 3.3): only 0x7F and 0xFF are NaN, there is no infinity. -/
def decodeOcp (n : Nat) : FVal :=
  let neg := bitOf n 7
  let e := bitsOf n 6 3
  let m := n % 8
  if e = 15 ∧ m = 7 then .nan
  else if e = 0 then .fin neg m (-9)
  else .fin neg (8 + m) ((e : Int) - 10)

/-- The exact value of an element of a non-B4 format code. -/
def decodeCode (code n : Nat) : FVal :=
  match fmtOfCode code with
  | some f => f.decode (n % 2 ^ f.width)
  | none => if code = 6 then decodeOcp n else .nan

/-- ⌊log₂ (num / den)⌋ for positive num and den. -/
def floorLog2Q (num den : Nat) : Int :=
  let e : Int := (Nat.log2 num : Int) - (Nat.log2 den : Int)
  let ge : Bool := if e ≥ 0 then decide (den * 2 ^ e.toNat ≤ num) else decide (den ≤ num * 2 ^ (-e).toNat)
  if ge then e else e - 1

/-- num/den scaled by 2^(-q), as a quotient of naturals. -/
def scaleQ (num den : Nat) (q : Int) : Nat × Nat :=
  if q ≥ 0 then (num, den * 2 ^ q.toNat) else (num * 2 ^ (-q).toNat, den)

/-- The carry, overflow, zero, subnormal and flag rules of R48, from the rounded significand k at ulp 2^q. -/
def packRounded (f : Fmt) (neg : Bool) (e : Int) (k0 : Nat) (q0 : Int) (inexact : Bool) : Nat × FlagBits :=
  let carry := k0 = 2 ^ (f.frac + 1)
  let k := if carry then 2 ^ f.frac else k0
  let q := if carry then q0 + 1 else q0
  if k = 0 then (f.signBit neg, if inexact then flUnderflow ||| flInexact else 0)
  else if k ≥ 2 ^ f.frac ∧ q + f.frac > f.emax then (f.infinity neg, flOverflow ||| flInexact)
  else
    let enc := if k < 2 ^ f.frac then k
      else (q + f.frac + f.bias).toNat * 2 ^ f.frac + (k - 2 ^ f.frac)
    (f.signBit neg + enc,
      (if inexact then flInexact else 0) ||| (if inexact ∧ e < f.emin then flUnderflow else 0))

/-- Round the exact positive value num/den once into `f` (R48, R49, R50). `sr` is `some u` for stochastic rounding. -/
def roundQ (f : Fmt) (neg : Bool) (num den : Nat) (sr : Option Nat) : Nat × FlagBits :=
  if num = 0 then (f.signBit neg, 0)
  else
    let e := floorLog2Q num den
    let q := max e f.emin - f.frac
    let nd := scaleQ num den q
    let k := nd.1 / nd.2
    let r := nd.1 % nd.2
    let up : Bool := match sr with
      | none => decide (2 * r > nd.2) || (decide (2 * r = nd.2) && decide (k % 2 = 1))
      | some u => decide (r * 65536 / nd.2 + u % 65536 ≥ 65536)
    packRounded f neg e (if up then k + 1 else k) q (decide (r ≠ 0))

/-- Round the exact value sig × 2^ex (R48). -/
def roundDyadic (f : Fmt) (neg : Bool) (sig : Nat) (ex : Int) (sr : Option Nat) : Nat × FlagBits :=
  if ex ≥ 0 then roundQ f neg (sig * 2 ^ ex.toNat) 1 sr else roundQ f neg sig (2 ^ (-ex).toNat) sr

/-- The single conversion of 03_number_formats.md: any exact value scaled by 2^s into `f` (R41, R42, R48). -/
def convertVal (f : Fmt) (v : FVal) (s : Int) (sr : Option Nat) : Nat × FlagBits :=
  match v with
  | .nan => (f.nan, flInvalid)
  | .inf neg => (f.infinity neg, 0)
  | .fin neg sig ex => if sig = 0 then (f.signBit neg, 0) else roundDyadic f neg sig (ex + s) sr

/-- The signed significand of a finite value at exponent `e`, where `e` is at most its own. -/
def alignedInt (neg : Bool) (sig : Nat) (ex e : Int) : Int :=
  let m : Int := (sig * 2 ^ (ex - e).toNat : Nat)
  if neg then -m else m

/-- Round the exact value m × 2^e; a zero takes the sign `zneg`. -/
def roundInt (f : Fmt) (m : Int) (e : Int) (zneg : Bool) : Nat × FlagBits :=
  if m = 0 then (f.signBit zneg, 0) else roundDyadic f (decide (m < 0)) m.natAbs e none

/-- IEEE 754 addition, rounded once with RNE (R113, R69): opposite infinities give the canonical NaN with invalid. -/
def addVal (f : Fmt) (a b : FVal) : Nat × FlagBits :=
  match a, b with
  | .nan, _ => (f.nan, flInvalid)
  | _, .nan => (f.nan, flInvalid)
  | .inf n, .inf n' => if n = n' then (f.infinity n, 0) else (f.nan, flInvalid)
  | .inf n, .fin _ _ _ => (f.infinity n, 0)
  | .fin _ _ _, .inf n => (f.infinity n, 0)
  | .fin n s e, .fin n' s' e' =>
    let m := min e e'
    roundInt f (alignedInt n s e m + alignedInt n' s' e' m) m (n && n')

/-- The negated value. -/
def negVal : FVal → FVal
  | .nan => .nan
  | .inf n => .inf (!n)
  | .fin n s e => .fin (!n) s e

/-- The exact product, or a special; `none` for infinity × zero. -/
def mulExact (a b : FVal) : Option FVal :=
  match a, b with
  | .nan, _ => some .nan
  | _, .nan => some .nan
  | .inf n, .inf n' => some (.inf (n ^^ n'))
  | .inf n, .fin n' s' _ => if s' = 0 then none else some (.inf (n ^^ n'))
  | .fin n s _, .inf n' => if s = 0 then none else some (.inf (n ^^ n'))
  | .fin n s e, .fin n' s' e' => some (.fin (n ^^ n') (s * s') (e + e'))

/-- IEEE 754 multiplication, rounded once. -/
def mulVal (f : Fmt) (a b : FVal) : Nat × FlagBits :=
  match mulExact a b with
  | none => (f.nan, flInvalid)
  | some v => convertVal f v 0 none

/-- Fused multiply-add with one rounding; infinity × zero is invalid whatever the addend (R113). -/
def fmaVal (f : Fmt) (a b c : FVal) : Nat × FlagBits :=
  match mulExact a b with
  | none => (f.nan, flInvalid)
  | some p => addVal f p c

/-- The real value order of two non-NaN values: -1, 0 or 1 (−0 and +0 equal). -/
def cmpVal (a b : FVal) : Int :=
  match a, b with
  | .nan, _ => 0
  | _, .nan => 0
  | .inf n, .inf n' => if n = n' then 0 else if n then -1 else 1
  | .inf n, .fin _ _ _ => if n then -1 else 1
  | .fin _ _ _, .inf n => if n then 1 else -1
  | .fin n s e, .fin n' s' e' =>
    let m := min e e'
    let d := alignedInt n s e m - alignedInt n' s' e' m
    if d < 0 then -1 else if d = 0 then 0 else 1

/-- Whether a value is a NaN. -/
def isNanVal : FVal → Bool
  | .nan => true
  | _ => false

/-- The sign of a value. -/
def negOf : FVal → Bool
  | .nan => false
  | .inf n => n
  | .fin n _ _ => n

/-- Minimum or maximum of R114: a NaN operand gives the canonical NaN with invalid; −0 is below +0. -/
def minMaxVal (f : Fmt) (wantMax : Bool) (x y : Nat) : Nat × FlagBits :=
  let a := f.decode x
  let b := f.decode y
  if isNanVal a || isNanVal b then (f.nan, flInvalid)
  else
    let c := cmpVal a b
    let aLess : Bool := decide (c < 0) || (decide (c = 0) && negOf a && !(negOf b))
    (if aLess == wantMax then y else x, 0)

/-- One operation of a packed or binary32 lane on encodings of `f`: 0 add, 1 subtract, 2 multiply, 3 fused multiply-add. -/
def arithOp (f : Fmt) (op : Nat) (x y z : Nat) : Nat × FlagBits :=
  let a := f.decode x
  let b := f.decode y
  match op with
  | 0 => addVal f a b
  | 1 => addVal f a (negVal b)
  | 2 => mulVal f a b
  | _ => fmaVal f a b (f.decode z)

/-- binary32 addition on encodings. -/
def addB32 (x y : Nat) : Nat × FlagBits := arithOp fmtB32 0 x y 0

/-- VF2I of R119: round to an int32 with RNE and saturation; a NaN delivers 0x8000_0000 with inexact. -/
def f2i (x : Nat) : Nat × FlagBits :=
  match fmtB32.decode x with
  | .nan => (0x80000000, flInexact)
  | .inf neg => (if neg then 0x80000000 else 0x7FFFFFFF, flInexact)
  | .fin neg sig ex =>
    let nd := scaleQ sig 1 (-ex)
    let k := nd.1 / nd.2
    let r := nd.1 % nd.2
    let up : Bool := decide (2 * r > nd.2) || (decide (2 * r = nd.2) && decide (k % 2 = 1))
    let m : Int := if neg then -((if up then k + 1 else k : Nat) : Int) else (if up then k + 1 else k : Nat)
    if m < -(2 ^ 31) then (0x80000000, flInexact)
    else if m > 2 ^ 31 - 1 then (0x7FFFFFFF, flInexact)
    else (twosOf 32 m, if r ≠ 0 then flInexact else 0)

/-- VI2F of R119: an int32 converted under R48 with RNE. -/
def i2f (x : Nat) : Nat × FlagBits :=
  let i := signedOf 32 x
  roundInt fmtB32 i 0 false

end Sys2Proof.Machine
end

