-- ==== Sys2Proof/Machine/CoreTypes.lean ====
section
/-! DEFINITION. The state of one core (04, 05, 06, 07, 09): what it runs, its storage, and what is in flight. -/

namespace Sys2Proof.Machine

/-- What a result writes when it lands (R92). -/
inductive LandKind where
  /-- bytes of a vector register from byte `off` on -/
  | vreg (vd off : Nat) (bytes : List Byte)
  /-- bytes of the activation scratchpad (VST, RECV) -/
  | spad (addr : Nat) (bytes : List Byte)
  /-- a scalar register -/
  | sreg (sd : Nat) (v : W32)
  /-- a conversion with SR into `vd` from byte `off` on: its elements are rounded at the landing with the words that register `rnd` then holds (R118) -/
  | cvt (vd off fmtD : Nat) (src : List FVal) (rnd : Nat)
  /-- the scratchpad writes of a copy (R102) -/
  | copy (writes : List (Nat × List Byte))
  /-- accumulator row `row` of array `arr`: initial value (0 +0, 1 keep, 2 `init`), `n` columns, then the chunk sums (empty for K = 0) -/
  | acc (row arr initSel : Nat) (init : List Nat) (n : Nat) (sums : List (Nat × FlagBits))
  /-- a converted tile with its metadata word, of converter `conv` (R83) -/
  | tile (conv : Nat) (writes : List (Nat × List Byte)) (flags : FlagBits) (rescaled : Bool)
  deriving DecidableEq, Repr

/-- A result in flight: the cycle its operation issued in, the cycle it lands in, and what it writes. -/
structure Landing where
  iss : Nat
  cycle : Nat
  what : LandKind
  deriving DecidableEq, Repr

/-- One level of the loop stack (R447): body of bundles `first` to `last`, issues of the body left after the present one. -/
structure LoopFrame where
  first : Nat
  last : Nat
  left : Nat
  deriving DecidableEq, Repr

/-- The effective fields of a matrix instruction (Table 4.4). -/
structure MmaF where
  four : Bool
  fmtA : Nat
  fmtW : Nat
  accInit : Nat
  array : Nat
  m : Nat
  k : Nat
  n : List Nat
  ws : List Nat
  actAddr : Nat
  rowStride : Nat
  chunkStride : Nat
  scaleAddr : Nat
  accRow : Nat
  accLoad : Nat
  rsv : Nat
  deriving DecidableEq, Repr

/-- A matrix instruction that occupies the activation stream (R61, R75): its issue cycle, the tiles of the chunk in progress (per array), those of the
next chunk once the second register sets hold them (R65), the rows of the chunk read in each pass, and the initial values read. -/
structure MmaRun where
  f : MmaF
  t0 : Nat
  tiles : Tab (List Byte)
  nextTiles : Option (Tab (List Byte))
  rows : Tab (List FVal)
  inits : Tab (List Nat)
  deriving DecidableEq, Repr

/-- The effective fields of an output conversion (Table 4.6). -/
structure OcvF where
  conv : Nat
  fmtD : Nat
  rnd : Nat
  scale : Int
  rescale : Bool
  accRow : Nat
  accStride : Nat
  rows : Nat
  cols : Nat
  dst : Nat
  dstStride : Nat
  metaAddr : Nat
  tensor : Nat
  elemBase : Nat
  elemStride : Nat
  rsv : Nat
  deriving DecidableEq, Repr

/-- An output conversion whose converter is reserved (R83): its issue cycle and the accumulator rows read so far. -/
structure ConvRun where
  f : OcvF
  t0 : Nat
  rowsRead : List (List Nat)
  deriving DecidableEq, Repr

/-- A COPY or ATOM in progress under a copy tag (R208): the raw record, the run-time offset of its word, the order among the task's hashed copies (R359), and the elements
of an ATOM not yet applied (address, value; R212); the source lines that a copy has read (R214), whether it has requests out at other devices, and its status word once all its writes have been
made and only those of other devices are unacknowledged (R215). -/
structure CopyRun where
  tag : Nat
  atom : Bool
  record : Nat
  add : Nat
  iss : Nat
  order : Nat
  todo : List (Nat × Nat)
  got : Tab (List Byte)
  away : Bool
  done : Option Nat
  deriving DecidableEq, Repr

/-- A weight fill in progress (R152): the raw record and the run-time offsets to src_offset and scale_offset; of a fill that travels in the slots of its fill flow, the bytes that have entered the network,
those that have come, and what they hold, by offset in the region. -/
structure FillRun where
  record : Nat
  addSrc : Nat
  addScale : Nat
  asked : Nat
  come : Nat
  got : Tab Byte
  deriving DecidableEq, Repr

/-- A SIG that waits for its condition (R171). -/
structure SigPend where
  iss : Nat
  ctr : Nat
  op : Nat
  arg : Nat
  deriving DecidableEq, Repr

/-- The running tile-task (R99, R100): where its descriptor lies, the descriptor itself, the version slot bound for each region field, the
profile in effect, and whether it is selected for cross-core replay (R309). -/
structure TaskRun where
  ctx : Nat
  queue : Nat
  ring : Nat
  desc : BitVec 1024
  bound : List (Option Nat)
  tp2 : Bool
  replay : Bool
  deriving DecidableEq, Repr

/-- What the signals of a task's SIGs carry to name it, from 1 on. -/
def TaskRun.key (t : TaskRun) : Nat := t.queue * 65536 + t.ring + 1
/-- The region that field `i` of the task's descriptor names. -/
def TaskRun.region (t : TaskRun) (i : Nat) : Nat := bitsOf t.desc.toNat (143 + 16 * i) (128 + 16 * i)

/-- A hashed copy's digest record (R358, R359): shard, digest (1 inputs, 2 weights, 3 outputs), task_id, order among the task's hashed copies, bytes delivered, digest. -/
structure HashRec where
  shard : Nat
  kind : Nat
  task : Nat
  order : Nat
  len : Nat
  digest : List Byte
  deriving DecidableEq, Repr

/-- A sample captured by the Footstool (R106 to R108): the context whose task it was taken from and, in wide mode, the watch entry; of a chunk, the activation values of each pass and
the weight column, of a conversion, the accumulator value, scale exponent, destination format and random word; the array or converter, the first K index or element, the column, and what was
delivered. -/
structure FsSample where
  ctx : Nat
  entry : Option Nat
  conv : Bool
  unit : Nat
  wide32 : Bool
  a0 : List FVal
  a1 : List FVal
  a2 : List FVal
  weights : List FVal
  value : Nat
  scale : Int
  fmtD : Nat
  word : Option Nat
  firstK : Nat
  column : Nat
  delivered : Nat
  flags : Nat
  deriving DecidableEq, Repr

/-- A Footstool mismatch that ends the next task (R106): the syndrome, and the kind and index of the unit. -/
structure FsFault where
  syndrome : Nat
  kind : Nat
  unit : Nat
  deriving DecidableEq, Repr

/-- One core. -/
structure Core where
  -- issue (R87, R89, R92, R100, R105, R447)
  run : Option TaskRun
  icyc : Nat
  cyc : Nat
  wd : Nat
  wdLimit : Nat
  pc : Nat
  issued : Nat
  pen : Nat
  next : Option (Nat × Nat)
  loops : List LoopFrame
  ending : Bool
  ended : Bool
  halted : Bool
  haltNext : Bool
  -- storage (R74, R88, R62, R102, R111, R89)
  sregs : Tab W32
  vregs : Tab (List Byte)
  accs : Tab W32
  staging : Tab Byte
  halves : Tab Nat
  halfSrc : Tab Nat
  spad : Tab (List Byte)
  imem : Tab Byte
  -- in flight (R75, R83, R92, R152, R171, R208, R153)
  mma : Option MmaRun
  convs : Tab ConvRun
  lands : List Landing
  copies : List CopyRun
  tagStatus : Tab Nat
  fills : List FillRun
  sigs : List SigPend
  sigCount : Nat
  outEps : Tab (List (Nat × List Byte))
  inEps : Tab (List Byte)
  -- flags (R53): units 0–3 output converters, 4 vector unit, 5 copies
  flags : Tab FlagBits
  rescaled : Bool
  hashed : Nat
  -- lane generators (R133), test mode (R135)
  lanes : Tab W128
  test : Bool
  -- the Footstool: captured samples, samples dropped, and the mismatch that ends the next task (R106, R107); replay capture (R310)
  fsBuf : List FsSample
  fsDropped : Nat
  fsPending : Option FsFault
  captures : Nat
  abandoned : Bool
  -- task digest (R312) and bytes sent per endpoint
  digest : Nat
  sent : Tab Nat
  -- records of the task's hashed copies, discarded if it ends in error (R358)
  hashes : List HashRec
  deriving DecidableEq, Repr

/-- 64 zero bytes: a scratchpad line. -/
def zeroLine : List Byte := List.replicate 64 0
/-- 512 zero bytes: a vector register. -/
def zeroVreg : List Byte := List.replicate 512 0

/-- A core at reset: no task, all storage 0, nothing in flight. -/
def Core.reset : Core :=
  { run := none, icyc := 0, cyc := 0, wd := 0, wdLimit := 4000, pc := 0, issued := 0, pen := 0, next := none, loops := [], ending := false, ended := false,
    halted := false, haltNext := false, sregs := [], vregs := [], accs := [], staging := [], halves := [], halfSrc := [], spad := [], imem := [], mma := none, convs := [],
    lands := [], copies := [], tagStatus := [], fills := [], sigs := [], sigCount := 0, outEps := [], inEps := [], flags := [],
    rescaled := false, hashed := 0, lanes := [], test := false, fsBuf := [], fsDropped := 0, fsPending := none, captures := 0, abandoned := false, digest := 0, sent := [], hashes := [] }

/-- What the Footstool of a core is set to (FS_CTRL, FS_WATCH): the sampling exponent of each mode that is on, and the region of each watch entry. -/
structure FsCtl where
  exact : Option Nat
  wide : Option Nat
  watch : List Nat
  deriving DecidableEq, Repr

/-- What a core's operations read of the context and the device: its instruction window, timing profile, the draw coordinates of R125, the shard's flag word,
the size of the version bound for each region field and of its pending version, strict mode, whether every hash unit of the die is busy (R360), and whether a hashed copy of the task is
illegal (R359), the counter windows by die (R166), and the context and the Footstool's settings. -/
structure CoreEnv where
  winBase : Nat
  winSize : Nat
  tp2 : Bool
  seed : Nat
  stream : Nat
  stepNo : Nat
  flagWord : Nat
  regSize : List (Option Nat)
  regPend : List (Option Nat)
  strict : Bool
  hashBusy : Bool
  hashBad : Bool
  wins : Tab (Nat × Nat)
  ctx : Nat
  fs : FsCtl
  deriving DecidableEq, Repr

/-- The op field and the slot of an operation, as an error record names them (Table 13.5). -/
abbrev OpAt := Nat × Nat
/-- No operation. -/
def noOp : OpAt := (0xFF, 0)

/-- The outcome of an operation of a core: the new core, or the completion status (Table 5.5) with which the task ends. -/
inductive CoreRes where
  | ok (c : Core)
  | err (status : Nat) (op : OpAt := noOp)
  deriving DecidableEq, Repr

end Sys2Proof.Machine
end

