-- ==== Sys2Proof/Machine/ProgTypes.lean ====
section
/-! DEFINITION. A program binary as the device holds it after its load checks (R401, R403, R404, R452). -/

namespace Sys2Proof.Machine

/-- A slot item (Table 17.7, 0x02). -/
structure SlotDecl where
  die : Nat
  channel : Nat
  slot : Nat
  flow : Nat
  deriving DecidableEq, Repr

/-- A flow item (0x03): kind 0 fill, 1 stream send, 2 stream read, 3 collective, 4 other. -/
structure FlowDecl where
  flow : Nat
  kind : Nat
  core : Nat
  ep : Nat
  ring : Nat
  sel : Nat
  deriving DecidableEq, Repr

/-- A ring item (0x04): its die, size exponent, sending core and endpoint, readers and their endpoints. -/
structure RingDecl where
  ring : Nat
  die : Nat
  lg : Nat
  core : Nat
  ep : Nat
  readers : Nat
  eps : List Nat
  deriving DecidableEq, Repr

/-- A queue item (0x05). -/
structure QueueDecl where
  die : Nat
  mask : Nat
  lg : Nat
  step : Bool
  deriving DecidableEq, Repr

/-- A collective queue item (0x06). -/
structure CqDecl where
  index : Nat
  linkDie : Nat
  lg : Nat
  deriving DecidableEq, Repr

/-- A schedule record (R404). -/
structure Sched where
  h : Nat
  fenced : Nat
  stepPred : Nat
  stages : List (List Nat)
  slots : List SlotDecl
  flows : List FlowDecl
  rings : List RingDecl
  queues : List QueueDecl
  cqs : List CqDecl
  partners : List (List Nat)
  deriving DecidableEq, Repr

/-- A counter of a die's window (0x0005): mode 0 ADD, 1 MAX; the forward entry of a proxy. -/
structure CtrDecl where
  die : Nat
  index : Nat
  mode : Nat
  proxy : Option Nat
  hostInput : Bool
  deriving DecidableEq, Repr

/-- One member of a barrier (0x0006). -/
structure BarMember where
  member : Nat
  arrStep : Nat
  arrCtr : Nat
  relCtr : Nat
  deriving DecidableEq, Repr

/-- A barrier of the program (0x0006). -/
structure BarDecl where
  id : Nat
  members : List BarMember
  deriving DecidableEq, Repr

/-- A forward entry (0x0007). -/
structure FwdDecl where
  die : Nat
  index : Nat
  shard : Nat
  ctr : Nat
  deriving DecidableEq, Repr

/-- A declared region (0x0009). -/
structure RegionDecl where
  id : Nat
  shared : Bool
  commitPub : Bool
  cacheable : Bool
  mirrored : Bool
  modelState : Bool
  win : Nat
  shard : Nat
  size : Nat
  digest : List Byte
  deriving DecidableEq, Repr

/-- A parsed program. -/
structure Prog where
  profile : Nat
  arrays : Nat
  lanes : Nat
  shards : Nat
  members : Nat
  h0 : Nat
  hmax : Nat
  maxLen : Nat
  features : Nat
  descVers : Nat
  planDigest : List Byte
  imageDigest : List Byte
  shardBytes : Nat
  streams : List Nat
  windows : List (Nat × Nat × List Byte)
  scheds : List Sched
  ctrs : List CtrDecl
  barriers : List BarDecl
  forwards : List FwdDecl
  groups : List (Nat × List Nat)
  regions : List RegionDecl
  replay : List (Nat × Nat)
  mirrorFrames : Nat
  spareFrames : Nat
  admCtr : Nat
  maxSeq : Nat
  admBytes : Nat
  deriving DecidableEq, Repr

/-- The load manifest (R403). -/
structure Manifest where
  jobId : List Byte
  members : List Nat
  hosts : List Nat
  deriving DecidableEq, Repr

end Sys2Proof.Machine
end

