-- ==== Sys2Proof/Machine/Types.lean ====
section
/-! DEFINITION. Queues, contexts, error records, memory tables, sync counters and collectives (08, 09, 10, 12, 13, 14) as plain data. -/

namespace Sys2Proof.Machine

/-! ### Error records (R315) -/

/-- An error record with the fields of Table 13.5; the fields that the model never sets apart (rec_ver 1) are formed when it is encoded. -/
structure ErrRec where
  action : Nat
  cls : Nat
  unitKind : Nat
  die : Nat
  core : Nat
  unitIndex : Nat
  opcode : Nat
  opSlot : Nat
  ctx : Nat
  queue : Nat
  taskId : Nat
  ctxValid : Bool
  cabIndex : Nat
  cq : Bool
  time : Nat
  step : Nat
  temp : Nat
  railMv : Nat
  addr : Nat
  syndrome : Nat
  seq : Nat
  deriving DecidableEq, Repr

/-! ### Sync counters (R165 to R167) -/

/-- A counter at its home: value, mode (0 ADD, 1 MAX), proxy flag with its forward index, the last master and time. -/
structure Counter where
  value : Nat
  mode : Nat
  proxy : Bool
  fwd : Nat
  lastMaster : Nat
  lastTime : Nat
  deriving DecidableEq, Repr

/-- A signal on its way to its home (R168): op 1 add, 2 set-max; the signalling master, the context, and for a SIG the task that issued it (0 for any other signal). -/
structure Signal where
  ctr : Nat
  op : Nat
  arg : Nat
  master : Nat
  ctx : Nat
  task : Nat
  deriving DecidableEq, Repr

/-- A forward entry of a die (Table 8.5). -/
structure Fwd where
  tgtCtr : Nat
  tgtCtx : Nat
  tgtDev : Nat
  deriving DecidableEq, Repr

/-- A barrier node of this member (R180, R181): its counters, tree links and the generations its children and the parent have reached. -/
structure BarNode where
  ctx : Nat
  barrier : Nat
  ld : Nat
  member : Bool
  arrStep : Nat
  arrCtr : Nat
  relCtr : Nat
  parent : Option Nat
  children : List Nat
  childGen : Tab Nat
  reported : Nat
  released : Nat
  deriving DecidableEq, Repr

/-- The snapshot registers of a die (Table 8.10). -/
structure SyncDbg where
  value : Nat
  lastMaster : Nat
  lastTime : Nat
  ready : Bool
  waiters : List (Nat × Nat × Nat)   -- queue, wait 0 or 1, wait value
  owner : Nat
  proxy : Bool
  mode : Nat
  deriving DecidableEq, Repr

/-! ### Memory tables (R193, R218) -/

/-- A region table entry (Table 9.13). -/
structure Region where
  version : Nat
  bases : List Nat
  size : Nat
  owner : Nat
  cacheable : Bool
  commitPub : Bool
  shared : Bool
  win : Nat
  stack : Nat             -- stack of its versions when win = 0
  pend : Nat
  cur : Nat
  states : List Nat      -- Table 9.14: 0 free, 1 pending, 2 current, 3 draining
  digests : List (List Byte)
  mapped : List Nat      -- contexts that map a shared region
  mirrored : Bool
  modelState : Bool
  shard : Nat
  publishing : Bool
  deriving DecidableEq, Repr

/-! ### Queues (R277, R278) -/

/-- One queue of a context: ring, pointers, core set, and what has been dispatched of it. -/
structure Queue where
  ctx : Nat
  base : Nat
  lg : Nat
  head : Nat
  tail : Nat
  mask : Nat
  step : Bool
  descVer : Nat
  paused : Bool            -- dispatched its last_of_step task (R281)
  running : List Nat       -- ring indices in flight
  stall : Nat              -- local time counted in the head's present stall, and the limit it began under (R183)
  stallLimit : Nat
  stepHead : Nat           -- head at the last committed boundary
  deriving DecidableEq, Repr

/-! ### Collective queues (R234) -/

/-- The collective in progress at the head of a queue (R235): the fields of its descriptor (Table 10.5); its start, the timeout in effect and the time counted (R240); the words held of each pass of each contribution, keyed
pass × 2^44 + (shard × 64 + part) × 2^24 + block, and the order in which they came; the flags of the results delivered to each shard; the copies of a message that failed their CRC (R238); results written; it runs again after a cancellation (R291). -/
structure CollRun where
  op : Nat
  group : Nat
  count : Nat
  parts : Nat
  seq : Nat
  src : Nat
  dst : Nat
  stride : Nat
  sigCtr : Nat
  sigOp : Nat
  sigArg : Nat
  limit : Nat
  waited : Nat
  held : Tab (List Nat)
  order : List Nat
  flags : Tab Nat
  retries : Tab Nat
  done : Bool
  again : Bool
  deriving DecidableEq, Repr

/-- A collective queue of a context (Table 10.6): its engine, ring and pointers; the collective in progress, whether its head runs again after a cancellation (R291), and messages and failure
notices of collectives that this device has not started. -/
structure Cq where
  engine : Nat
  linkDie : Nat
  base : Nat
  lg : Nat
  head : Nat
  tail : Nat
  run : Option CollRun
  again : Bool
  early : List CollMsg
  notes : List CollMsg
  stall : Nat
  stallLimit : Nat
  stepHead : Nat
  deriving DecidableEq, Repr

/-- A collective in progress is cancelled; its descriptor stays at the head (R290). -/
def Cq.cancel (q : Cq) : Cq := { q with run := none, again := q.again || q.run.isSome }

/-! ### Contexts -/

/-- A hosted shard: flag word, stream ID and base (Tables 3.8, 6.7; R233). -/
structure Shard where
  flags : Nat
  stream : Nat
  base : Nat
  deriving DecidableEq, Repr

/-- The command block (R284, Tables 12.10 and 12.11): argument bytes, the command in progress and the last result. -/
structure CtxCmd where
  args : List Nat
  op : Nat
  tag : Nat
  busy : Bool
  result : Nat
  rtag : Nat
  master : Nat
  phase : Nat
  last : Nat
  deriving DecidableEq, Repr

/-- The job of a context: what LOAD or RESTORE established, and the state of its commits and restarts (R318, R319, R403, R449, R451). -/
structure CtxJob where
  prog : Option Prog
  man : Option Manifest
  peers : Tab Nat
  sched : Nat
  gen : Nat
  committed : Nat
  loadedFresh : Bool
  reports : List Nat
  reported : Bool
  released : Bool
  ready : List Nat
  readySent : Bool
  hwRestarts : Nat
  progAbort : Bool
  recovered : Bool
  drained : Bool
  lost : List Nat
  seedDigest : Option (List Byte)
  stopCause : Nat
  mirrorSrc : Nat          -- member whose mirror frames this device holds, and the frames (R329)
  mirrorOf : List Nat
  recWritten : Bool        -- the commit record of the step stands at every buddy (R329)
  commits : List (Nat × Nat)   -- steps committed within the detection interval and their times (R335)
  adopt : List Nat         -- lost members whose shards this device adopts at the restart (R333)
  restartPend : Bool       -- YIELDED with a restart to perform at its RESUME (R292, R320)
  awaited : List Nat       -- shared regions that are not yet current (R221)
  sources : Tab Nat        -- shared region → 0 on the device, 1 fetched from a neighbour, 2 supplied by the host
  qids : List Nat          -- the queue ID of each declared queue
  held : Bool              -- a restart of a context that is LOADING, YIELDED or STOPPED, and keeps that state (R320)
  resetPend : Bool         -- its partition is to be reset at the restart (R325)
  initial : Bool           -- the committed step is the initial state (R286)
  unsettled : Bool         -- drained in an abort after this member reported, before the outcome of the commit is known (R318)
  deriving DecidableEq, Repr

/-- Step and yield bookkeeping (R109, R110, R281, R285 to R290, R294). -/
structure CtxStep where
  step : Nat
  stepTime : Nat
  stepPred : Nat
  slip : Nat
  tasksDone : Nat
  firstAt : Option Nat
  yieldedAt : Option Nat
  yieldedSum : Nat
  point : Nat               -- 0 none, 2 a step boundary
  pointAt : Nat             -- the step at whose boundary the waiting yield takes effect (R289)
  origin : Bool             -- a yield of the job began here, and the members wait for this device's resume (R289)
  deadlines : Tab Nat       -- yield source → deadline of its hold (R288)
  evict : Option Nat        -- pending EVICT and its target
  unloadAt : Option Nat     -- issue time of an UNLOAD in progress
  hold : Nat                -- boundary hold: 0 none, 1 opening without a free slot, 2 evaluation holds training, 3 receipt ring full, 4 initial boundary awaits release
  external : Bool           -- an external write happened in the step (R24)
  discarded : Nat
  netRot : Nat
  reached : Nat             -- step time when the boundary was reached (R109)
  deriving DecidableEq, Repr

/-- A sequence that has been admitted, or whose join or leave is pending (R298). -/
structure SeqRec where
  id : Nat
  len : Nat
  frames : Nat
  base : Nat
  deriving DecidableEq, Repr

/-- An EVAL_BIND (R301): the training context, the regions it names, hold_train; whether it has been made, and the slot bound of each region. -/
structure EvalBind where
  train : Nat
  regions : List Nat
  hold : Bool
  made : Bool
  bound : List (Nat × Nat)
  deriving DecidableEq, Repr

/-- The slots that a context has bound for evaluation: region and slot, the latest binding first. -/
def evalSlots (l : List EvalBind) : List (Nat × Nat) := l.flatMap (·.bound)

/-- Memory, versions, sequences, receipts and logs of a context. -/
structure CtxMem where
  image : Option (Nat × Nat)      -- image area: address and bytes asked for
  imageDone : Bool                -- LOAD or RESTORE has used the image area
  view : Tab Nat                  -- region → slot at the last boundary (R22)
  evals : List EvalBind           -- the bindings of an evaluation context, latest first (R301)
  joins : List SeqRec
  leaves : List Nat
  admitted : List SeqRec
  admBuf : Nat
  unacked : Tab Nat               -- buddy → mirror writes that it has not acknowledged (R201)
  hashes : List HashRec
  snapshot : Tab (Nat × Nat)      -- counter → value, mode at the committed boundary
  pendAt : List (Nat × Nat)       -- own regions with a version pending at the committed boundary, before commit_pub opened any, and the version they then had (R319)
  rcptWr : Nat
  rcptRd : Nat
  admRec : List Byte              -- the admission record of the step (R300)
  rcptWait : List (List Byte)     -- receipts that wait for ring room (R361)
  replayArea : Tab (Nat × Nat)    -- die → base, bytes
  captured : Tab Nat              -- die → bytes of its replay area in use (R310)
  deriving DecidableEq, Repr

/-- Unacknowledged mirror writes of a context (R201). -/
def CtxMem.unackedSum (m : CtxMem) : Nat := (m.unacked.map (·.2)).foldl (· + ·) 0

/-- One context (Table 12.3 and the context page). -/
structure Ctx where
  state : Nat
  errStop : Bool
  ysrc : Nat
  notify : Nat
  cmd : CtxCmd
  job : CtxJob
  st : CtxStep
  mem : CtxMem
  shards : Tab Shard
  wins : Tab (Nat × Nat)          -- die → counter window base, count (R166)
  windows : Tab (Nat × Nat)       -- core → instruction window base, bytes (R89)
  fwds : Tab (List Nat)           -- die → the forward entries placed for the program's, in its order (R177)
  cqs : Tab Cq
  seed : Nat
  seedMask : Nat
  lastErr : Nat
  deriving DecidableEq, Repr

def CtxCmd.reset : CtxCmd := { args := [0, 0, 0, 0, 0, 0, 0], op := 0, tag := 0, busy := false, result := 0, rtag := 0, master := 0, phase := 0, last := 0 }

def CtxJob.reset : CtxJob :=
  { prog := none, man := none, peers := [], sched := 0, gen := 0, committed := 0, loadedFresh := false,
    reports := [], reported := false, released := false, ready := [], readySent := false, hwRestarts := 0, progAbort := false, recovered := false,
    drained := false, lost := [], seedDigest := none, stopCause := 0, mirrorSrc := 0, mirrorOf := [],
    recWritten := false, commits := [], adopt := [], restartPend := false, awaited := [], sources := [], qids := [], held := false, resetPend := false, initial := false, unsettled := false }

def CtxStep.reset : CtxStep :=
  { step := 0, stepTime := 0, stepPred := 0, slip := 0, tasksDone := 0, firstAt := none, yieldedAt := none, yieldedSum := 0, point := 0, pointAt := 0, origin := false, deadlines := [],
    evict := none, unloadAt := none, hold := 0, external := false, discarded := 0, netRot := 0, reached := 0 }

def CtxMem.reset : CtxMem :=
  { image := none, imageDone := false, view := [], evals := [], joins := [], leaves := [],
    admitted := [], admBuf := 0, unacked := [], hashes := [], snapshot := [], pendAt := [], rcptWr := 0, rcptRd := 0, admRec := [], rcptWait := [], replayArea := [], captured := [] }

/-- An unloaded context. -/
def Ctx.reset : Ctx :=
  { state := 0, errStop := false, ysrc := 0, notify := 0, cmd := CtxCmd.reset, job := CtxJob.reset, st := CtxStep.reset, mem := CtxMem.reset,
    shards := [], wins := [], windows := [], fwds := [], cqs := [], seed := 0, seedMask := 0, lastErr := 0 }

/-- A tile-task that has ended in error and whose status waits for the answers to requests that its copies sent to other devices (R101): core, task, status, cycles and copy tags. -/
structure LateEnd where
  core : Nat
  task : TaskRun
  status : Nat
  cyc : Nat
  tags : List Nat
  deriving DecidableEq, Repr

/-- A replay waiting for a partner (R311, R313): the original core, its task, digest and the digests of the replays made. -/
structure Replay where
  core : Nat
  task : TaskRun
  digest : Nat
  results : List (Nat × Nat)
  deriving DecidableEq, Repr

/-- The dispatch arbiter of a core (R282) with the head it has chosen: queue, ring index and local time. -/
structure Arb where
  cur : Nat
  credit : Nat
  lastCtx : List Nat
  lastQ : Tab Nat
  chosen : Option (Nat × Nat)
  deriving DecidableEq, Repr

def Arb.reset : Arb := { cur := 3, credit := 0, lastCtx := [63, 63, 63, 63], lastQ := [], chosen := none }

end Sys2Proof.Machine
end

