-- ==== Sys2Proof/Machine/DevTypes.lean ====
section
/-! DEFINITION. The device-wide parts of the state as plain data: root die and boot (14, 16), pins (19), power (15), register pages (18), network (07), links and
PCI Express (11), fault handling (13), management (14, 15). -/

namespace Sys2Proof.Machine

/-! ### Root die, boot and identity (00, 14, 16) -/

/-- One-time fuses (Table 14.1). -/
structure Fuses where
  rootHash : List (List Byte)
  revoke : Nat
  svn : Nat
  uds : Nat
  serial : Nat
  debugPolicy : Nat
  deriving DecidableEq, Repr

/-- What the boot ROM recorded of the image it booted (R345, Table 14.6). -/
structure BootRec where
  image : Nat
  measurement : List Byte
  version : Nat
  commitSvn : Bool
  svn : Nat
  firstFail : Nat
  deriving DecidableEq, Repr

/-- Root die state: stepping (false A1, true B0), fuses, module flash, boot progress and BU_READY. -/
structure Root where
  b0 : Bool
  fuses : Fuses
  flash : Tab Byte
  flashFence : Nat
  flashRecs : List ErrRec
  flashBundle : List Nat
  flashChain : List Byte
  devid : Nat
  straps : Nat
  standby : Bool
  por : Bool
  boot : BootRec
  recovery : Bool
  bureauUp : Bool
  mainEn : Bool
  mainUp : Bool
  mainSince : Nat
  crossings : Bool
  stackUp : List Nat
  stackFail : List Nat
  testDone : Bool
  testDoneAt : Nat
  linksDone : Bool
  ready : Bool
  readyMs : Nat
  fail : Nat
  failUnit : Nat
  fencedAtReady : Nat
  withheld : List Nat
  offline : Bool
  nonce : Nat
  healthy : Bool
  entropyRecAt : Nat
  seeded : Bool
  hmacKey : List Byte
  hmacCount : Nat
  deriving DecidableEq, Repr

/-- Module pins (chapter 19) and the JTAG port (R378, R439). -/
structure Pins where
  straps : Nat
  yieldFiltered : Bool
  perstN : Bool
  alertN : Bool
  thermtripN : Bool
  mainPg : Bool
  jtagIr : Nat
  jtagBypass : Bool
  jtagChain : List Bool
  deriving DecidableEq, Repr

/-! ### Power and temperature (15) -/

/-- Power measurement, limiter, clocks and sensors (R369 to R375): the last input power and voltage; the measurements of the last 1 ms with whether cycles were withheld; since when the input
power has been above the cap, or at or below it; whether the threshold is the cap; since when cycles have been withheld, and whether that was recorded; the arithmetic clock of each compute die and the highest that thermal
control allows it, in MHz (unlisted: 1,200); the sensors' last readings (16-bit two's complement), those excluded, their runs of disagreeing readings; sensors that throttle, with the time of their last
record; when a die's clock was last raised; rail voltages in mV, keyed unit × 4 + rail (0 logic, 1 SRAM, 2 I/O) with units 0–19 the dies, 20–35 the stacks, 36 standby. -/
structure Power where
  watts : Nat
  mv : Nat
  hist : List (Nat × Bool)
  aboveAt : Option Nat
  belowAt : Option Nat
  atCap : Bool
  withheldAt : Option Nat
  sustained : Bool
  clocks : Tab Nat
  limits : Tab Nat
  temps : Tab Nat
  excluded : List Nat
  disagree : Tab Nat
  throttled : List Nat
  throttleAt : Tab Nat
  raiseAt : Tab Nat
  rails : Tab Nat
  tripped : Bool
  deriving DecidableEq, Repr

/-! ### Register pages (18) -/

/-- The common header state of a block page (Table 18.2). -/
structure Blk where
  hold : Bool
  freeze : Bool
  pending : Bool
  rejected : Bool
  err : Nat
  mask : Nat
  locked : Nat
  scratch : Nat
  aclSel : Nat
  deriving DecidableEq, Repr

def Blk.reset : Blk :=
  { hold := false, freeze := false, pending := false, rejected := false, err := 0, mask := 0, locked := 0, scratch := 0, aclSel := 0 }

/-- A read latch of one master on one register (R412): the page and offset of its lowest word, and the value latched. -/
structure Latch where
  master : Nat
  addr : Nat
  value : Nat
  deriving DecidableEq, Repr

/-- Registers: headers by page, the values in effect and the shadows of table-driven fields (keyed page × 4,096 + offset of the word; only values that differ from the reset value are
listed), written shadow words, write collections of WO registers, statistics with their frozen accumulators, access tables in effect and shadow; `collect` holds what a master wrote to the words of a WO register (master, word, value). -/
structure Regs where
  blks : Tab Blk
  live : Tab W32
  shadow : Tab W32
  latches : List Latch
  collect : List (Nat × Nat × Nat)
  stats : Tab Nat
  frozen : Tab Nat
  acl : Tab Nat
  aclShadow : Tab Nat
  strictActive : Bool
  clearSinceReset : Bool
  deriving DecidableEq, Repr

/-! ### Network and streams (07) -/

/-- A stream ring in a die cache (R153): its context, capacity, bytes held with the absolute position of the first, reader positions. -/
structure RingSt where
  ctx : Nat
  die : Nat
  cap : Nat
  base : Nat
  bytes : List Byte
  core : Nat
  ep : Nat
  readers : Tab Nat
  deriving DecidableEq, Repr

/-- An unscheduled flit waiting at a channel (R158, R159, R264): virtual channel (0 RQ, 1 RS, 2 HOST, 3 MGMT, 4 maintenance), input port, destination and source (a die below 20, else 256 + a cabinet
index); on links its sub-channel (0 lo, 1 hi) and the dimension in which it travels (0 x, 1 y, 2 z, 3 none yet); the credit that goes back when it leaves the receive buffer of a port (1 + its key, 0 for none). -/
structure OpenFlit where
  vc : Nat
  input : Nat
  dest : Nat
  src : Nat
  sub : Nat
  dim : Nat
  owe : Nat
  deriving DecidableEq, Repr

/-- A scheduled flit between two output channels (R144): the channel that it passes next and the slot in which it is presented there, the input of that router it comes by, its tag, and its contents: for a
stream the pieces of its SENDs with their issue cycles, for a fill the pieces of its region with their offsets. -/
structure Flit where
  die : Nat
  channel : Nat
  slot : Nat
  input : Nat
  ctx : Nat
  flow : Nat
  segs : List (Nat × List Byte)
  deriving DecidableEq, Repr

/-- The open-traffic arbiter of a channel: weighted round robin over RQ, HOST, MGMT and round robin over inputs (R159). -/
structure ChanArb where
  cur : Nat
  credit : Nat
  lastIn : List Nat
  deriving DecidableEq, Repr

/-- Network state: rings keyed context × 256 + ring; the scheduled flits on their way; keyed context × 4,096 + flow, what waits in the transmit queue of a link port (pieces with the issue cycles of their
SENDs) and at the receive side of one (R163), the bytes of a read flow that have reached its core, the bytes of a stream flow injected whose ring room has not come back to the sender, and the room freed
and not yet returned; waiting open flits and arbiters keyed die × 64 + channel; crossing latency in cycles; NET_CONFLICT per die. -/
structure Net where
  rings : Tab RingSt
  flits : List Flit
  txq : Tab (List (Nat × List Byte))
  rxq : Tab (List (Nat × List Byte))
  arrived : Tab (List Byte)
  used : Tab Nat
  owed : Tab Nat
  waiting : Tab (List OpenFlit)
  arbs : Tab ChanArb
  latency : Nat
  conflict : Tab Nat
  deriving DecidableEq, Repr

/-! ### What the module sends -/

/-- Everything the module sends to hosts, other modules, management and pins, in order. -/
inductive Out where
  /-- an MSI-X message of a function and vector (R276) -/
  | msix (fn vector : Nat)
  /-- the completion of a host request: function, status (0 successful, 1 unsupported request, 2 completer abort, 3 request retry), data -/
  | completion (fn status : Nat) (data : List Byte)
  /-- a message in the SYNC class to a device: kind and fields (to this device itself, or waiting for a credit) -/
  | sync (dev kind : Nat) (fields : List Nat)
  /-- a message in the SYNC class as it leaves on a link: link, the device it is for, kind and fields -/
  | syncOn (link dev kind : Nat) (fields : List Nat)
  /-- a message on the MGMT path to a device: kind and fields -/
  | mgmt (dev kind : Nat) (fields : List Nat)
  /-- a remote memory request: device, operation (0 read, 1 write, 16 + aop atomic), stack-local address, context at the target, path (0 data, 1 mirror, 2 host function of that number, 3 Bureau), length, bytes -/
  | remote (dev op addr ctx path len : Nat) (data : List Byte)
  /-- the response to a remote request: device, status (0 done, else the record class of the refusal), data -/
  | response (dev status : Nat) (data : List Byte)
  /-- a collective message to a device: kind, fields and payload -/
  | coll (dev kind : Nat) (fields payload : List Nat)
  /-- a packet or training message on a link: kind and fields -/
  | link (link kind : Nat) (fields : List Nat) (data : List Byte)
  /-- a Dravbo packet on a link: a piece packet of 268 bytes or a control packet of 32 (R244) -/
  | packet (link : Nat) (bytes : List Byte)
  /-- a scheduled flit forwarded on a channel -/
  | flit (die channel ctx flow : Nat)
  /-- an open-traffic flit forwarded on a channel -/
  | openFlit (die channel vc dest : Nat)
  /-- a management message over MCTP: protocol (0 control, 5 SPDM, 0x10 + type PLDM, 0x7E vendor-defined), command, data -/
  | mctp (proto cmd : Nat) (data : List Byte)
  /-- data shifted out of the JTAG port -/
  | jtag (bits : List Bool)
  /-- an output pin that changed: 0 ALERT_N, 1 THERMTRIP_N, 2 MAIN_PG, 3 JTAG EXTEST drive -/
  | pin (pin : Nat) (level : Bool)
  deriving DecidableEq, Repr

/-! ### Links (11) -/

/-- One Dravbo link (Tables 11.6, 11.8; R245, R253): state, reason, retrains and their times, entry into the state; whether the training is a retrain, and whether its first ALIGN runs; the far end of
the last IDENT; the version; the packets in the replay buffer (sequence number, header fields, payload) and how often each was replayed; the next sequence numbers; NAK out; packets not acknowledged. -/
structure Link where
  state : Nat
  reason : Nat
  retrains : Nat
  retrainAt : List Nat
  enteredAt : Nat
  again : Bool
  short : Bool
  farValid : Bool
  farIndex : Nat
  farLink : Nat
  farPlan : Nat
  farStepping : Nat
  farMax : Nat
  farDevid : Nat
  version : Nat
  txSeq : Nat
  unacked : List (Nat × List Nat × List Byte)
  replays : Tab Nat
  rxSeq : Nat
  nakOut : Bool
  rxCount : Nat
  deriving DecidableEq, Repr

def Link.reset : Link :=
  { state := 0, reason := 0, retrains := 0, retrainAt := [], enteredAt := 0, again := false, short := false, farValid := false, farIndex := 0, farLink := 0, farPlan := 0,
    farStepping := 0, farMax := 0, farDevid := 0, version := 0, txSeq := 0, unacked := [], replays := [], rxSeq := 0, nakOut := false, rxCount := 0 }

/-- A port slot that is being received (R246): its context, flow and the pieces that have come, with their places. -/
structure SlotIn where
  ctx : Nat
  flow : Nat
  ps : List (Nat × List Byte)
  deriving DecidableEq, Repr

/-- A port slot sent whose SCHED credits are out (R156, R247): its flow, the earliest issue cycle of its SENDs, its pieces and its bytes. -/
structure SlotOut where
  flow : Nat
  iss : Nat
  pieces : Nat
  bytes : Nat
  deriving DecidableEq, Repr

/-- Logical ports (R246, R247, R266). Slots received and not yet delivered, and those delivered lately, keyed (port × 65,536 + frame) × 256 + slot. Credits as running totals: packets sent, credits returned
by the far end and credits returned to it, keyed port × 128 + unit (0 to 63 a context's SCHED credits, 64 to 71 OPEN as VC × 2 + sub-channel, 72 MAINT, 73 SYNC). The slots whose SCHED credits are out, keyed
port × 128 + context; the slots received of a flow whose bytes have not reached their ring (port, pieces, bytes), keyed context × 4,096 + flow; SYNC messages that wait for a credit, by port. Lost ports; the
frame × 256 + slot that each port stands at, and the links of its frame. -/
structure Ports where
  slots : Tab SlotIn
  done : List Nat
  sent : Tab Nat
  back : Tab Nat
  freed : Tab Nat
  away : Tab (List SlotOut)
  inq : Tab (List (Nat × Nat × Nat))
  syncq : Tab (List Out)
  lost : List Nat
  mark : Tab Nat
  live : Tab (List Nat)
  deriving DecidableEq, Repr

/-- The PCI Express endpoint (R267 to R272): link, rate code (Table 18.8), width and mode; virtual functions enabled; written configuration words, keyed function × 1,024 + word; Advanced Error
Reporting status by function; masked vectors and pending messages, as function × 64 + vector; unload notices that a module could not be reached with (R272): device and function, 64 for all. -/
structure Pcie where
  linkUp : Bool
  rate : Nat
  width : Nat
  flit : Bool
  vfs : Nat
  config : Tab W32
  aer : Tab Nat
  msixOpen : List Nat
  msixPending : List Nat
  owed : List (Nat × Nat)
  shut : Bool
  deriving DecidableEq, Repr

/-! ### Fault handling, assembly, management -/

/-- Error log, fences, replays, in-field test, loss timers and Cabinet assembly (R306, R307, R311, R317, R321, R331, R338, R393 to R396). -/
structure Care where
  transit : List ErrRec
  log : List ErrRec
  nextSeq : Nat
  fenced : Nat
  fencedCpe : List Nat
  fencedHash : List Nat
  fencedCe : List Nat
  upsets : Tab (List Nat)
  replays : List Replay
  late : List LateEnd
  wantTest : List Nat
  iftPhase : Nat
  iftCore : Nat
  iftStart : Nat
  iftPeriodAt : Nat
  iftNext : Nat
  iftCand : Nat
  heard : Tab Nat
  hbAt : Nat
  lostDevs : List Nat
  lostPorts : List (Nat × Nat)   -- ports of other devices without a live link, as reported (R265)
  cabState : Nat
  present : List Nat
  seen : List (Nat × Nat)
  forwarded : List (Nat × Nat)
  asmAt : Nat
  protos : Tab Nat
  xingErr : Tab Nat
  uncorr : Tab Nat
  cache : List (Nat × Nat)
  hashRem : Tab Nat
  linebufs : List (Nat × Nat)
  records : Tab (List Byte)
  deriving DecidableEq, Repr

/-- Management (R349, R362, R365, R379): the endpoint ID and whether the bus owner has discovered the endpoint; the PLDM terminus ID and event receiver; the SPDM connection: version in use (16 × major + minor, 0
before GET_VERSION), which negotiations are done, the messages of negotiation, of certificates and of measurements since the last signature; receipts queued for signing; the Lectern, with its scope, its
end (0 for none) and the nonce that is valid with its end. -/
structure Mgmt where
  eid : Nat
  spdmVersion : Nat
  spdmCaps : Bool
  spdmAlgs : Bool
  spdmVca : List Byte
  spdmB : List Byte
  spdmL : List Byte
  signQ : List (Nat × Nat)
  lecOpen : Bool
  lecScope : Nat
  lecUntil : Nat
  lecOpened : Bool
  lecNonce : Option (Nat × Nat)
  discovered : Bool
  tid : Nat
  evtEid : Nat
  deriving DecidableEq, Repr

end Sys2Proof.Machine
end

