-- ==== Sys2Proof/Machine/State.lean ====
section
/-! DEFINITION. The state of the module, its faults and refusals, and its state at reset. -/

namespace Sys2Proof.Machine

/-- Reasons for which the machine stops. The manual turns every error into a state change (a completion status, an error record, a register), so no command of this
block stops the machine: the type has no constructor. Safe: nothing that the manual lets go on is stopped. -/
inductive Fault where
  deriving DecidableEq, Repr

/-- Commands without a meaning. -/
inductive Refusal where
  /-- raised by an arm of `exec` whose command has no meaning yet; safe: nothing is claimed about it -/
  | notModelled (mnemonic : String)
  deriving DecidableEq, Repr

/-- The T20 module. -/
structure State where
  /-- the commands that wait, first in first out -/
  pending : List Instr
  /-- everything sent to hosts, other modules, management and pins, in order (the model's own) -/
  out : List Out
  /-- index of the next free value (the model's own; assumption log 6) -/
  freeIx : Nat
  /-- RT_LTIME, in units of 10 ns (R367) -/
  now : Nat
  root : Root
  pins : Pins
  power : Power
  regs : Regs
  cores : Tab Core
  /-- Gridun DRAM: stack × 2^36 + offset → byte; an unlisted byte reads 0 (R194, R387; assumption log 9) -/
  mem : Tab Byte
  /-- lines known to be uncorrectable: address of the line in `mem`'s keys → number of bad symbols -/
  badLines : Tab Nat
  /-- the frame table (Table 9.2) -/
  frames : Tab Nat
  /-- frames of the region table (Table 9.13) -/
  regions : Tab Region
  net : Net
  /-- counters inside a window: device counter number → counter -/
  ctrs : Tab Counter
  /-- signals on their way to their homes -/
  sigs : List Signal
  /-- counter values known at a dispatcher: die × 2^18 + device counter → value (R175) -/
  known : Tab Nat
  /-- values on their way to a subscribing dispatcher: die, device counter, value -/
  notices : List (Nat × Nat × Nat)
  fwds : Tab Fwd
  bars : Tab BarNode
  dbg : Tab SyncDbg
  queues : Tab Queue
  ctxs : Tab Ctx
  arbs : Tab Arb
  links : Tab Link
  ports : Ports
  pcie : Pcie
  care : Care
  mgmt : Mgmt
  deriving DecidableEq, Repr

def Fuses.reset : Fuses := { rootHash := [], revoke := 0, svn := 0, uds := 0, serial := 0, debugPolicy := 0 }

def BootRec.reset : BootRec :=
  { image := 0, measurement := [], version := 0, commitSvn := false, svn := 0, firstFail := 0 }

/-- The root die at reset. DESIGN CHOICE (assumption log 7): the module is of stepping A1 (`b0` false); R1 covers both steppings, and no command changes it. -/
def Root.reset : Root :=
  { b0 := false, fuses := Fuses.reset, flash := [], flashFence := 0, flashRecs := [], flashBundle := [], flashChain := [], devid := 0, straps := 0, standby := false, por := false,
    boot := BootRec.reset, recovery := false, bureauUp := false, mainEn := false, mainUp := false, mainSince := 0, crossings := false, stackUp := [],
    stackFail := [], testDone := false, testDoneAt := 0, linksDone := false, ready := false, readyMs := 0, fail := 0, failUnit := 0, fencedAtReady := 0, withheld := [],
    offline := false, nonce := 0, healthy := false, entropyRecAt := 0, seeded := false, hmacKey := [], hmacCount := 0 }

def Pins.reset : Pins :=
  { straps := 0, yieldFiltered := true, perstN := false, alertN := true, thermtripN := true, mainPg := false, jtagIr := 0, jtagBypass := false,
    jtagChain := [] }

def Power.reset : Power :=
  { watts := 0, mv := 0, hist := [], aboveAt := none, belowAt := none, atCap := false, withheldAt := none, sustained := false, clocks := [], limits := [], temps := [],
    excluded := [], disagree := [], throttled := [], throttleAt := [], raiseAt := [], rails := [], tripped := false }

def Regs.reset : Regs :=
  { blks := [], live := [], shadow := [], latches := [], collect := [], stats := [], frozen := [], acl := [], aclShadow := [],
    strictActive := true, clearSinceReset := false }

def Net.reset : Net :=
  { rings := [], flits := [], txq := [], rxq := [], arrived := [], used := [], owed := [], waiting := [], arbs := [], latency := 8, conflict := [] }
def Ports.reset : Ports := { slots := [], done := [], sent := [], back := [], freed := [], away := [], inq := [], syncq := [], lost := [], mark := [], live := [] }
def Pcie.reset : Pcie :=
  { linkUp := false, rate := 0, width := 0, flit := false, vfs := 0, config := [], aer := [],
    msixOpen := [], msixPending := [], owed := [], shut := false }
def Care.reset : Care :=
  { transit := [], log := [], nextSeq := 0, fenced := 0, fencedCpe := [], fencedHash := [], fencedCe := [], upsets := [], replays := [], late := [], wantTest := [],
    iftPhase := 0, iftCore := 0, iftStart := 0, iftPeriodAt := 0, iftNext := 0, iftCand := 0, heard := [], hbAt := 0, lostDevs := [], lostPorts := [], cabState := 0, present := [],
    seen := [], forwarded := [], asmAt := 0, protos := [], xingErr := [], uncorr := [], cache := [], hashRem := [], linebufs := [], records := [] }
def Mgmt.reset : Mgmt :=
  { eid := 0, spdmVersion := 0, spdmCaps := false, spdmAlgs := false, spdmVca := [], spdmB := [], spdmL := [], signQ := [], lecOpen := false, lecScope := 0, lecUntil := 0,
    lecOpened := false, lecNonce := none, discovered := false, tid := 0, evtEid := 0 }

/-- The module before standby power, every register at its reset value (log 1). -/
def State.reset : State :=
  { pending := [], out := [], freeIx := 0, now := 0, root := Root.reset, pins := Pins.reset, power := Power.reset, regs := Regs.reset, cores := [], mem := [],
    badLines := [], frames := [], regions := [], net := Net.reset, ctrs := [], sigs := [], known := [], notices := [], fwds := [], bars := [], dbg := [],
    queues := [], ctxs := [], arbs := [], links := [], ports := Ports.reset, pcie := Pcie.reset, care := Care.reset, mgmt := Mgmt.reset }

end Sys2Proof.Machine
end

