-- ==== Sys2Proof/Machine/RegMap.lean ====
section
/-! DEFINITION. The register pages (Table 18.5), the block headers' constants, and the RW and WC fields that the register store holds, with their reset values, ranges,
writers and lock groups (Tables 2.4a, 5.7, 5.8, 5.10, 6.11, 6.12, 7.4, 7.9, 9.3, 9.5, 9.7, 9.8, 10.8, 11.5, 11.7, 11.15, 12.5, 12.8, 12.9, 12.13, 13.10, 14.15, 15.5, 16.4, 18.4, 18.8). -/

namespace Sys2Proof.Machine

/-- What a register page holds (Table 18.5). -/
inductive PageKind where
  | rootId | bureau | power | linkCfg | security
  | diePower (die : Nat)
  | router (die : Nat)
  | slots (die page : Nat)
  | sync (die page : Nat)
  | dieCache (die : Nat)
  | dispatch (die : Nat)
  | stack (n : Nat)
  | core (n : Nat)
  | cpe (die e : Nat)
  | hash (die : Nat)
  | d2d (die : Nat)
  | collEng (ld : Nat)
  | portSlots (ld page : Nat)
  | barrier (ld : Nat)
  | link (n : Nat)
  | pcie
  | ctx (n : Nat)
  | imem (core unit : Nat)
  | empty
  deriving DecidableEq, Repr

/-- The kind of a page of a compute die's area. -/
def cdPage (d o : Nat) : PageKind :=
  if o = 0 then .router d
  else if o ≤ 9 then .slots d (o - 1)
  else if o ≤ 0xC then .sync d (o - 0xA)
  else if o = 0xD then .dieCache d
  else if o = 0xE then .dispatch d
  else if o = 0xF then .stack d
  else if o ≤ 0x17 then .core (8 * d + (o - 0x10))
  else if o ≤ 0x1B then .cpe d (o - 0x18)
  else if o = 0x1C then .hash d
  else if o = 0x1D then .diePower d
  else if o = 0x1E then .d2d d
  else .empty

/-- The kind of a page of a link die's area. -/
def ldPage (j o : Nat) : PageKind :=
  if o = 0 then .router (16 + j)
  else if o = 1 then .collEng j
  else if o ≤ 3 then .portSlots j (o - 2)
  else if o = 4 then .hash (16 + j)
  else if o = 5 then .diePower (16 + j)
  else if o = 6 then .barrier j
  else if 0x10 ≤ o ∧ o ≤ (if j = 2 then 0x19 else 0x1A) then .link (11 * j + (o - 0x10))
  else if j = 2 ∧ o = 0x1A then .pcie
  else .empty

/-- The kind of page `p` (R425). -/
def pageKind (p : Nat) : PageKind :=
  if p = 0 then .rootId
  else if p = 1 then .bureau
  else if p = 2 then .power
  else if p = 3 then .linkCfg
  else if p = 4 then .security
  else if p = 5 then .diePower 19
  else if 0x100 ≤ p ∧ p < 0x500 then cdPage ((p - 0x100) / 0x40) ((p - 0x100) % 0x40)
  else if 0x500 ≤ p ∧ p < 0x5C0 then ldPage ((p - 0x500) / 0x40) ((p - 0x500) % 0x40)
  else if 0x1000 ≤ p ∧ p < 0x1040 then .ctx (p - 0x1000)
  else if 0x2000 ≤ p ∧ p < 0x4000 then .imem ((p - 0x2000) / 0x40) ((p - 0x2000) % 0x40)
  else .empty

/-- The page that carries the header of the block page `p` belongs to. -/
def ownerPage (p : Nat) : Nat :=
  match pageKind p with
  | .slots d _ => 0x100 + 0x40 * d
  | .sync d _ => 0x100 + 0x40 * d + 0xA
  | .portSlots j _ => 0x500 + 0x40 * j
  | .imem c _ => 0x100 + 0x40 * (c / 8) + 0x10 + c % 8
  | _ => p

/-- Page of a core, a compute die's router, its dispatch block, its stack, a context, a link. -/
def corePage (c : Nat) : Nat := 0x100 + 0x40 * (c / 8) + 0x10 + c % 8
def routerPage (d : Nat) : Nat := if d < 16 then 0x100 + 0x40 * d else 0x500 + 0x40 * (d - 16)
def dispatchPage (d : Nat) : Nat := 0x100 + 0x40 * d + 0xE
def stackPage (n : Nat) : Nat := 0x100 + 0x40 * n + 0xF
def dieCachePage (d : Nat) : Nat := 0x100 + 0x40 * d + 0xD
def syncPage (d : Nat) : Nat := 0x100 + 0x40 * d + 0xA
def ctxPage (n : Nat) : Nat := 0x1000 + n
def cePage (j : Nat) : Nat := 0x500 + 0x40 * j + 1
def hashPage (d : Nat) : Nat := if d < 16 then 0x100 + 0x40 * d + 0x1C else 0x500 + 0x40 * (d - 16) + 4
def cpePage (d e : Nat) : Nat := 0x100 + 0x40 * d + 0x18 + e
def diePowerPage (d : Nat) : Nat := if d < 16 then 0x100 + 0x40 * d + 0x1D else if d < 19 then 0x500 + 0x40 * (d - 16) + 5 else 5
def d2dPage (d : Nat) : Nat := 0x100 + 0x40 * d + 0x1E
def barrierPage (j : Nat) : Nat := 0x500 + 0x40 * j + 6
def linkPage (l : Nat) : Nat := 0x500 + 0x40 * (l / 11) + 0x10 + l % 11

/-- Block type, instance and die of BLK_ID. -/
def blkId (k : PageKind) : Nat × Nat × Nat :=
  match k with
  | .rootId => (1, 0, 19) | .bureau => (2, 0, 19) | .power => (3, 0, 19) | .linkCfg => (4, 0, 19) | .security => (5, 0, 19)
  | .diePower d => (6, 0, d)
  | .router d => (if d < 16 then 0x10 else 0x20, 0, d)
  | .sync d _ => (0x11, 0, d)
  | .dieCache d => (0x12, 0, d)
  | .dispatch d => (0x13, 0, d)
  | .stack n => (0x14, n, n)
  | .core n => (0x15, n % 8, n / 8)
  | .cpe d e => (0x16, e, d)
  | .hash d => (0x17, 0, d)
  | .d2d d => (0x18, 0, d)
  | .collEng j => (0x21, 0, 16 + j)
  | .barrier j => (0x22, 0, 16 + j)
  | .link n => (0x23, n, 16 + n / 11)
  | .pcie => (0x24, 0, 18)
  | .ctx n => (0x30, n, 19)
  | _ => (0, 0, 0)

/-- Who may write a field besides the Bureau (R416): any admitted master, nobody, the physical function, the owning function and the physical function. -/
inductive Writers where
  | any | bureau | pf | owner
  deriving DecidableEq, Repr

/-- A stored field: word offset, bits, whether it is shadowed (WC), reset value, range, writers, lock group, and whether it may be written only while every queue of
its context is stopped. -/
structure RegField where
  off : Nat
  hi : Nat
  lo : Nat
  wc : Bool
  rst : Nat
  rmin : Nat
  rmax : Nat
  who : Writers
  grp : Option Nat
  stopped : Bool
  deriving DecidableEq, Repr

/-- A field with its full range. -/
def mkField (off hi lo : Nat) (wc : Bool) (rst : Nat) (who : Writers) (grp : Option Nat) : RegField :=
  ⟨off, hi, lo, wc, rst, 0, 2 ^ (hi - lo + 1) - 1, who, grp, false⟩
/-- A field with a stated range. -/
def rngField (off hi lo : Nat) (wc : Bool) (rst rmin rmax : Nat) (who : Writers) (grp : Option Nat) : RegField :=
  ⟨off, hi, lo, wc, rst, rmin, rmax, who, grp, false⟩
/-- A live field of a context page that is writable only while every queue is stopped. -/
def stopField (off hi lo : Nat) : RegField := ⟨off, hi, lo, false, 0, 0, 2 ^ (hi - lo + 1) - 1, .owner, none, true⟩

/-- NET_CTRL (Table 7.9). -/
def netFields : List RegField :=
  [rngField 0x80 20 20 true 1 0 1 .bureau (some 0), rngField 0x80 19 16 true 1 1 15 .bureau (some 0), rngField 0x80 15 12 true 2 1 15 .bureau (some 0),
   rngField 0x80 11 8 true 4 1 15 .bureau (some 0), rngField 0x80 7 0 true 224 128 240 .bureau (some 0)]

/-- The stored fields of a slot table entry at word offset `o` (Table 7.4); the kind of a maintenance slot is fixed. -/
def slotEntryFields (o : Nat) : List RegField :=
  [mkField o 19 8 true 0 .bureau (some 0), mkField o 7 2 true 0 .bureau (some 0)] ++ (if o / 4 % 64 = 63 then [] else [rngField o 1 0 true 0 0 1 .bureau (some 0)])

/-- FS_WATCHn (Table 5.10). -/
def watchFields (o : Nat) : List RegField :=
  [mkField o 15 0 false 0xFFFF .any (some 1), mkField o 31 16 false 0 .any (some 1), mkField (o + 4) 31 0 false 0 .any (some 1),
   mkField (o + 8) 31 0 false 0 .any (some 1)]

/-- The fields stored at word offset `o` of a page. -/
def fieldsAt (k : PageKind) (o : Nat) : List RegField :=
  match k with
  | .bureau =>
    if o = 0x100 then [rngField 0x100 0 0 true 1 0 1 .pf (some 0)]
    else if o = 0x110 then [rngField 0x110 12 8 true 8 4 16 .pf (some 1), rngField 0x110 0 0 true 1 0 1 .pf (some 1)]
    else if o = 0x138 then [rngField 0x138 23 16 true 10 1 50 .pf (some 2), rngField 0x138 15 0 true 1000 100 10000 .pf (some 2)]
    else if o = 0x140 then
      [rngField 0x140 24 24 true 1 0 1 .pf (some 2), rngField 0x140 23 16 true 20 5 100 .pf (some 2), rngField 0x140 15 0 true 24 1 720 .pf (some 2)]
    else if o = 0x208 then [mkField 0x208 31 0 false 0 .pf none]
    else if o = 0x320 then [rngField 0x320 15 0 true 120 10 3600 .pf (some 2)]
    else []
  | .power => if o = 0x80 then [rngField 0x80 11 0 false 1800 600 2000 .pf (some 0)] else []
  | .linkCfg =>
    if 0x100 ≤ o ∧ o < 0x140 then
      if o % 8 = 0 then [mkField o 31 0 true 0 .bureau (some 0)] else [mkField o 6 0 true 0 .bureau (some 0)]
    else if 0x400 ≤ o ∧ o < 0x600 then
      [mkField o 4 4 true 0 .bureau (some 0), mkField o 3 3 true 0 .bureau (some 0), mkField o 2 0 true 0 .bureau (some 0)]
    else []
  | .diePower d => if o = 0x80 ∧ d < 16 then [rngField 0x80 26 16 true 1200 400 1200 .bureau (some 0)] else []
  | .router _ => if o = 0x80 then netFields else []
  | .slots _ _ => slotEntryFields o
  | .portSlots _ _ => slotEntryFields o
  | .dieCache _ => if o = 0x80 then [rngField 0x80 6 0 true 4 0 64 .bureau (some 0)] else []
  | .dispatch _ =>
    if o = 0x80 then
      [rngField 0x80 3 0 true 8 1 15 .bureau (some 0), rngField 0x80 7 4 true 4 1 15 .bureau (some 0),
       rngField 0x80 11 8 true 2 1 15 .bureau (some 0), rngField 0x80 15 12 true 1 1 15 .bureau (some 0)]
    else []
  | .stack _ =>
    if o = 0x80 then [rngField 0x80 15 8 true 16 1 255 .bureau (some 0), rngField 0x80 7 0 true 8 1 64 .bureau (some 0)]
    else if 0x800 ≤ o then
      if o % 8 = 0 then [mkField o 31 16 true 0 .bureau (some 0), mkField o 15 0 true 0 .bureau (some 0)]
      else [rngField o 23 4 true 0 0 786303 .bureau (some 0), rngField o 3 0 true 0 0 11 .bureau (some 0)]   -- src_frame [19:16]: 786,303 is 0xB_FFFF
    else []
  | .core _ =>
    if o = 0x80 then [rngField 0x80 15 0 true 4000 400 60000 .pf (some 0)]
    else if o = 0xC0 then
      [rngField 0xC0 20 16 true 16 8 24 .any (some 0), rngField 0xC0 12 8 true 12 8 20 .any (some 0), mkField 0xC0 1 1 true 0 .any (some 0),
       mkField 0xC0 0 0 true 1 .any (some 0)]
    else if 0x100 ≤ o ∧ o < 0x300 then (watchFields (o / 0x20 * 0x20)).filter (fun f => f.off = o)
    else if o = 0x340 then [mkField 0x340 0 0 true 0 .bureau (some 2)]
    else if o = 0x348 ∨ o = 0x34C then [mkField o 31 0 true 0 .bureau (some 2)]
    else []
  | .collEng _ => if o = 0x80 then [rngField 0x80 15 0 true 200 10 10000 .bureau (some 0)] else []
  | .link _ => if o = 0x80 then [mkField 0x80 0 0 true 1 .any (some 0)] else []
  | .ctx _ =>
    if o = 0x48 then
      [rngField 0x48 15 8 true 0 0 50 .pf (some 0), mkField 0x48 1 1 true 0 .pf (some 0), mkField 0x48 0 0 true 0 .pf (some 0)]
    else if o = 0x50 then [mkField 0x50 1 0 true 2 .pf (some 0)]
    else if o = 0x88 then [mkField 0x88 15 0 false 0 .any none]
    else if o = 0x330 then [rngField 0x330 15 0 true 2000 10 60000 .pf (some 0)]
    else if o = 0x3D4 then [rngField 0x3D4 19 0 true 786304 0 786304 .pf (some 0)]
    else if o = 0x700 then [mkField 0x700 11 0 false 0 .any none]
    else if o = 0x840 then [stopField 0x840 31 0]
    else if o = 0x844 then [stopField 0x844 15 0, stopField 0x844 23 16, stopField 0x844 31 31]
    else if o = 0x880 then [stopField 0x880 31 0]
    else if o = 0x884 then [stopField 0x884 15 0, stopField 0x884 23 16]
    else if o = 0x890 then [stopField 0x890 15 0]
    else []
  | _ => []

/-- The links of port `p` in the default bundling (Table 11.4). -/
def defaultLinks (p : Nat) : List Nat :=
  match p with
  | 0 => [11, 12, 13, 14] | 1 => [15, 16, 17, 18] | 2 => [0, 1, 2, 3] | 3 => [4, 5, 6, 7] | 4 => [22, 23, 24, 25]
  | 5 => [8, 9, 26, 27] | 6 => [10, 19, 20, 21] | 7 => [28, 29, 30, 31] | _ => []

/-- Reset value of the word at offset `o` of a page, from its stored fields. Maintenance slots (R143) read kind 0b11, and the ports hold the default bundling. -/
def resetWord (k : PageKind) (o : Nat) : Nat :=
  match k with
  | .slots _ _ | .portSlots _ _ => if o / 4 % 64 = 63 ∧ o % 4 = 0 then 3 else 0
  | .linkCfg =>
    if 0x100 ≤ o ∧ o < 0x140 ∧ o % 8 = 0 then ((defaultLinks ((o - 0x100) / 8)).map (2 ^ ·)).foldl (· + ·) 0 else 0
  | _ => ((fieldsAt k o).map (fun f => f.rst * 2 ^ f.lo)).foldl (· + ·) 0

/-- Key of a stored word. -/
def wordKey (page off : Nat) : Nat := page * 4096 + off

/-- The value in effect of a stored word. -/
def Regs.word (r : Regs) (page off : Nat) : Nat :=
  match tfind r.live (wordKey page off) with
  | some v => v.toNat
  | none => resetWord (pageKind page) off

/-- The shadow of a stored word (R417): what was last written, else the value in effect. -/
def Regs.shadowWord (r : Regs) (page off : Nat) : Nat :=
  match tfind r.shadow (wordKey page off) with
  | some v => v.toNat
  | none => r.word page off

/-- Bits [hi:lo] of a stored word in effect. -/
def Regs.field (r : Regs) (page off hi lo : Nat) : Nat := bitsOf (r.word page off) hi lo

/-- Set the value in effect of a stored word. -/
def Regs.setWord (r : Regs) (page off v : Nat) : Regs := { r with live := tset r.live (wordKey page off) (BitVec.ofNat 32 v) }

/-- Whether a page has WC fields (BLK_CAPS.shadow). -/
def pageShadow (k : PageKind) : Bool :=
  match k with
  | .bureau | .linkCfg | .dieCache _ | .stack _ | .core _ | .router _ | .sync .. | .dispatch _ | .collEng _ | .link _ | .ctx _ => true
  | .diePower d => decide (d < 16)
  | _ => false

/-- Whether a page holds an access table (BLK_CAPS.acl, Table 14.8). -/
def pageAcl (k : PageKind) : Bool :=
  match k with
  | .bureau | .linkCfg | .dieCache _ | .stack _ | .core _ => true
  | .sync _ p => decide (p = 0)
  | _ => false

/-- Lock groups of a page (Table 18.4, R423). -/
def lockGroups (k : PageKind) : Nat :=
  match k with
  | .bureau => 4
  | .core _ => 4
  | _ => 1

/-- Lock groups the host physical function may lock (Table 18.4). -/
def hostLockable (k : PageKind) : Nat :=
  match k with
  | .bureau => 7
  | .core _ => 3
  | .power => 1
  | .ctx _ => 1
  | _ => 0

/-- The lock group of a page's access-table entries. -/
def aclGroup (k : PageKind) : Nat :=
  match k with
  | .bureau => 3
  | .core _ => 3
  | _ => 0

end Sys2Proof.Machine
end

