-- ==== Sys2Proof/Machine/Crypto.lean ====
section
/-! DEFINITION. The keyed generator's block function (R122), the SHA-256 digests (R344, R356, R359), HMAC (R391), the two CRCs (R244, R312)
and the verification of an RSA signature (R344). -/

namespace Sys2Proof.Machine

/-! ### ChaCha with 8 rounds (R122) -/

/-- Element `i` of a list of words; 0 past its end. -/
def wAt (l : List W32) (i : Nat) : W32 := l.getD i 0

/-- One quarter round on words a, b, c, d of the state, in the order of RFC 8439 (Table 6.9). -/
def quarterRound (st : List W32) (ia ib ic id : Nat) : List W32 :=
  let a := wAt st ia
  let b := wAt st ib
  let c := wAt st ic
  let d := wAt st id
  let a := a + b
  let d := (d ^^^ a).rotateLeft 16
  let c := c + d
  let b := (b ^^^ c).rotateLeft 12
  let a := a + b
  let d := (d ^^^ a).rotateLeft 8
  let c := c + d
  let b := (b ^^^ c).rotateLeft 7
  (((st.set ia a).set ib b).set ic c).set id d

/-- A column round and a diagonal round. -/
def doubleRound (st : List W32) : List W32 :=
  let st := quarterRound st 0 4 8 12
  let st := quarterRound st 1 5 9 13
  let st := quarterRound st 2 6 10 14
  let st := quarterRound st 3 7 11 15
  let st := quarterRound st 0 5 10 15
  let st := quarterRound st 1 6 11 12
  let st := quarterRound st 2 7 8 13
  quarterRound st 3 4 9 14

/-- The 16-word input state of Table 6.5. `seed` is the 256-bit seed, byte 0 least significant. -/
def chachaInput (seed block tensorPurpose step stream : Nat) : List W32 :=
  [0x61707865, 0x3320646E, 0x79622D32, 0x6B206574] ++
  (List.range 8).map (fun i => BitVec.ofNat 32 (seed / 2 ^ (32 * i))) ++
  [BitVec.ofNat 32 block, BitVec.ofNat 32 tensorPurpose, BitVec.ofNat 32 step, BitVec.ofNat 32 stream]

/-- The keyed-generator block of R122: 4 double rounds, then the input state added word by word. -/
def chachaBlock (input : List W32) : List W32 :=
  let r := doubleRound (doubleRound (doubleRound (doubleRound input)))
  List.zipWith (· + ·) r input

/-- The word for element `n` of a draw (R123). -/
def keyedWord (seed stream step tensorPurpose n : Nat) : W32 :=
  wAt (chachaBlock (chachaInput seed (n / 16) tensorPurpose step stream)) (n % 16)

/-! ### SHA-256 -/

/-- The largest r below 2^`k` with r^`e` at most `n`, bit by bit. -/
def rootBelow (e n : Nat) : Nat → Nat → Nat
  | 0, r => r
  | k + 1, r => rootBelow e n k (if (r + 2 ^ k) ^ e ≤ n then r + 2 ^ k else r)

/-- The primes below 312: no divisor among the primes up to 17. -/
def smallPrimes : List Nat :=
  (List.range 312).filter (fun n => decide (2 ≤ n) && [2, 3, 5, 7, 11, 13, 17].all (fun d => decide (n = d) || decide (n % d ≠ 0)))

/-- The first 32 bits of the fraction of the `e`-th root of `p`. -/
def rootFraction (e p : Nat) : W32 := BitVec.ofNat 32 (rootBelow e (p * 2 ^ (32 * e)) 37 0)

/-- The round constants of SHA-256: the cube roots of the 64 primes. -/
def shaK : List W32 := smallPrimes.map (rootFraction 3)

/-- The initial hash value of SHA-256: the square roots of the first 8 primes. -/
def shaInit : List W32 := (smallPrimes.take 8).map (rootFraction 2)

/-- The message schedule, newest word first, extended `n` times. -/
def shaExtend : Nat → List W32 → List W32
  | 0, w => w
  | n + 1, w =>
    let x := wAt w 14    -- w[t-15]
    let y := wAt w 1     -- w[t-2]
    let s0 := x.rotateRight 7 ^^^ x.rotateRight 18 ^^^ x >>> 3
    let s1 := y.rotateRight 17 ^^^ y.rotateRight 19 ^^^ y >>> 10
    shaExtend n ((wAt w 15 + s0 + wAt w 6 + s1) :: w)

/-- One round on the eight working variables. -/
def shaRound (v : List W32) (kw : W32 × W32) : List W32 :=
  let a := wAt v 0
  let b := wAt v 1
  let c := wAt v 2
  let e := wAt v 4
  let f := wAt v 5
  let g := wAt v 6
  let s1 := e.rotateRight 6 ^^^ e.rotateRight 11 ^^^ e.rotateRight 25
  let ch := (e &&& f) ^^^ (~~~e &&& g)
  let t1 := wAt v 7 + s1 + ch + kw.1 + kw.2
  let s0 := a.rotateRight 2 ^^^ a.rotateRight 13 ^^^ a.rotateRight 22
  let t2 := s0 + ((a &&& b) ^^^ (a &&& c) ^^^ (b &&& c))
  [t1 + t2, a, b, c, wAt v 3 + t1, e, f, g]

/-- Compress one 64-byte block. -/
def shaBlock (h : List W32) (blk : List Byte) : List W32 :=
  let ws := (chunksOf 4 16 blk).map (fun b => BitVec.ofNat 32 (beNat b))
  let sched := (shaExtend 48 ws.reverse).reverse
  List.zipWith (· + ·) h ((List.zip shaK sched).foldl shaRound h)

/-- The padding of a message of `n` bytes. -/
def shaPad (n : Nat) : List Byte :=
  0x80 :: (List.replicate ((119 - n % 64) % 64) 0 ++ beBytes 8 (8 * n))

/-- The SHA-256 digest of a byte string. -/
def sha256 (m : List Byte) : List Byte :=
  let p := m ++ shaPad m.length
  ((chunksOf 64 (p.length / 64) p).foldl shaBlock shaInit).flatMap (fun w => beBytes 4 w.toNat)

/-- HMAC-SHA-256 with a key of at most 64 bytes. -/
def hmac256 (key m : List Byte) : List Byte :=
  let k := key ++ List.replicate (64 - key.length) 0
  sha256 (k.map (· ^^^ 0x5c) ++ sha256 (k.map (· ^^^ 0x36) ++ m))

/-! ### CRCs -/

/-- One bit of a reflected CRC-32. -/
def crc32Bit (c : Nat) : Nat := if c % 2 = 1 then (c / 2) ^^^ 0xEDB88320 else c / 2

/-- The CRC-32 of IEEE 802.3 over a byte string (R238, R244). -/
def crc32 (bs : List Byte) : Nat :=
  (bs.foldl (fun c b => Nat.repeat crc32Bit 8 (c ^^^ b.toNat)) 0xFFFFFFFF) ^^^ 0xFFFFFFFF

/-- One bit of the CRC-64 of R312. -/
def crc64Bit (c : Nat) : Nat :=
  if c ≥ 2 ^ 63 then (2 * c % 2 ^ 64) ^^^ 0x42F0E1EBA9EA3693 else 2 * c

/-- The CRC-64 of R312: ECMA-182 polynomial, initial value 0, no reflection, no final XOR. -/
def crc64 (bs : List Byte) : Nat :=
  bs.foldl (fun c b => Nat.repeat crc64Bit 8 (c ^^^ (b.toNat * 2 ^ 56))) 0

/-! ### RSA (R344) -/

/-- b^e mod n by `k` bits of e, most significant first. -/
def powModGo (b e n : Nat) : Nat → Nat → Nat
  | 0, r => r
  | k + 1, r => powModGo b e n k (if e.testBit k then r * r % n * b % n else r * r % n)

/-- b^e mod n for an exponent below 2^32. -/
def powMod (b e n : Nat) : Nat := powModGo (b % n) e n 32 (1 % n)

/-- The DER prefix of a SHA-256 DigestInfo. -/
def digestInfoPrefix : List Byte :=
  [0x30, 0x31, 0x30, 0x0d, 0x06, 0x09, 0x60, 0x86, 0x48, 0x01, 0x65, 0x03, 0x04, 0x02, 0x01, 0x05, 0x00, 0x04, 0x20]

/-- The PKCS #1 v1.5 encoded message of a SHA-256 digest in `len` bytes. -/
def emsaPkcs1 (len : Nat) (digest : List Byte) : List Byte :=
  let t := digestInfoPrefix ++ digest
  [0x00, 0x01] ++ List.replicate (len - t.length - 3) 0xff ++ [0x00] ++ t

/-- RSASSA-PKCS1-v1_5 verification with SHA-256: `modulus` of `len` bytes, exponent `e`. -/
def rsaVerify (len modulus e : Nat) (digest sig : List Byte) : Bool :=
  decide (sig.length = len) && decide (beNat sig < modulus) &&
    decide (beBytes len (powMod (beNat sig) e modulus) = emsaPkcs1 len digest)

end Sys2Proof.Machine
end

