-- ==== Sys2Proof/Machine/CoreOps.lean ====
section
/-! DEFINITION. Named operations over the storage of a core: registers, scratchpad lines with their valid bits (R102, R103), accumulators, staging,
instruction memory, landings (R92, R93) and the latencies of Table 5.3. -/

namespace Sys2Proof.Machine

/-- Bytes of the activation scratchpad: 6 MiB. -/
def spadBytes : Nat := 6 * 2 ^ 20

/-! ### Latencies (Table 5.3) -/

/-- The rows of Table 5.3 that an issued operation lands by. -/
inductive LatRow where
  | mma | ocv | vArith | vCmp | vConv | vRcp | vDiv | vExp | vTanh | vRng | vFrl | vLoad | vStore | vAcc | vFlag | scalar
  deriving DecidableEq, Repr

/-- Latency in arithmetic cycles under TP1 or TP2 (Table 5.3). A TP1 program keeps its TP1 latencies on B0 (R97). -/
def latency (tp2 : Bool) : LatRow → Nat
  | .mma => if tp2 then 20 else 24
  | .ocv => if tp2 then 10 else 12
  | .vArith => 4
  | .vCmp => 2
  | .vConv => if tp2 then 4 else 5
  | .vRcp => if tp2 then 10 else 12
  | .vDiv => if tp2 then 14 else 16
  | .vExp => if tp2 then 12 else 14
  | .vTanh => if tp2 then 16 else 20
  | .vRng => if tp2 then 8 else 10
  | .vFrl => 2
  | .vLoad => if tp2 then 5 else 6
  | .vStore => 3
  | .vAcc => if tp2 then 6 else 8
  | .vFlag => 4
  | .scalar => 1

/-- Cycles from dispatch to the first bundle (Table 5.3). -/
def dispatchLatency (tp2 : Bool) : Nat := if tp2 then 80 else 96
/-- Bundles not issued after a taken branch (Table 5.3). -/
def branchPenalty (tp2 : Bool) : Nat := if tp2 then 2 else 3

/-! ### Registers -/

/-- Scalar register `i`; s31 reads 0 (R88). -/
def Core.sreg (c : Core) (i : Nat) : W32 := if i = 31 then 0 else tget 0 c.sregs i
/-- Write scalar register `i`; a write to s31 is discarded (R88). -/
def Core.setSreg (c : Core) (i : Nat) (v : W32) : Core :=
  if i = 31 then c else { c with sregs := tput 0 c.sregs i v }
/-- The 512 bytes of vector register `i` (R111). -/
def Core.vreg (c : Core) (i : Nat) : List Byte := tget zeroVreg c.vregs i
/-- Overlay a list with another one from position `off` on. -/
def overlay {α : Type} (old : List α) (off : Nat) (new : List α) : List α :=
  old.take off ++ new ++ old.drop (off + new.length)
/-- Write bytes of vector register `i` from byte `off` on. -/
def Core.setVreg (c : Core) (i off : Nat) (bs : List Byte) : Core :=
  { c with vregs := tput zeroVreg c.vregs i (overlay (c.vreg i) off bs) }
/-- Elements of `w` bytes of a byte string, little-endian. -/
def elemsOf (w : Nat) (bs : List Byte) : List Nat := (chunksOf w bs.length bs).map leNat
/-- Pack elements of `w` bytes, little-endian. -/
def packElems (w : Nat) (es : List Nat) : List Byte := es.flatMap (leBytes w)
/-- The 128 lanes of vector register `i` as numbers. -/
def Core.lanesOf (c : Core) (i : Nat) : List Nat := elemsOf 4 (c.vreg i)
/-- Accumulator `col` of accumulator row `row` (R74). -/
def Core.acc (c : Core) (row col : Nat) : Nat := (tget 0 c.accs (row * 64 + col)).toNat
/-- Write an accumulator. -/
def Core.setAcc (c : Core) (row col v : Nat) : Core :=
  { c with accs := tput 0 c.accs (row * 64 + col) (BitVec.ofNat 32 v) }
/-- Raise sticky flags of a unit (R53). -/
def Core.raise (c : Core) (unit : Nat) (f : FlagBits) : Core :=
  { c with flags := tput 0 c.flags unit (tget 0 c.flags unit ||| f) }
/-- The OR of every unit's flags with `rescaled`, as the task folds them (R54, Table 3.8). -/
def Core.foldedFlags (c : Core) : Nat :=
  (c.flags.foldl (fun a e => a ||| e.2) (0 : FlagBits)).toNat + (if c.rescaled then 16 else 0)

/-! ### Scratchpad (R102, R103) -/

/-- The lines that `n` bytes at `a` touch, in rising order. -/
def linesOf (a n : Nat) : List Nat :=
  if n = 0 then [] else (List.range ((a + n - 1) / 64 - a / 64 + 1)).map (· + a / 64)
/-- Read `n` bytes at `a`; none if a touched line is invalid (R103). -/
def Core.spadRead (c : Core) (a n : Nat) : Option (List Byte) :=
  if (linesOf a n).all (fun l => (tfind c.spad l).isSome) then
    some ((((linesOf a n).flatMap (fun l => tget zeroLine c.spad l)).drop (a % 64)).take n)
  else none
/-- Write a piece of one line: an invalid line becomes valid with its other bytes 0 (R102). -/
def Core.spadWriteLine (c : Core) (line off : Nat) (bs : List Byte) : Core :=
  { c with spad := tset c.spad line (overlay (tget zeroLine c.spad line) off bs) }
/-- Write bytes at `a`, line by line; `fuel` bounds the number of lines. -/
def Core.spadWriteGo : Nat → Core → Nat → List Byte → Core
  | 0, c, _, _ => c
  | fuel + 1, c, a, bs =>
    if bs.isEmpty then c
    else
      let k := 64 - a % 64
      Core.spadWriteGo fuel (c.spadWriteLine (a / 64) (a % 64) (bs.take k)) (a + k) (bs.drop k)
/-- Write bytes at `a`, setting the valid bits of the lines touched (R102). -/
def Core.spadWrite (c : Core) (a : Nat) (bs : List Byte) : Core := Core.spadWriteGo (bs.length / 64 + 2) c a bs

/-! ### Staging (R62, R63) -/

/-- State of a staging half: 0 empty, 1 filling, 2 ready. -/
def Core.half (c : Core) (array h : Nat) : Nat := tget 0 c.halves (array * 2 + h)
/-- Set the state of a staging half. -/
def Core.setHalf (c : Core) (array h v : Nat) : Core := { c with halves := tput 0 c.halves (array * 2 + h) v }

/-! ### Instruction memory (R87, R89) -/

/-- Slot `slot` of bundle `pc` of the window, or none beyond its end (R89). -/
def fetchSlot (c : Core) (e : CoreEnv) (pc slot : Nat) : Option W32 :=
  if (pc + 1) * 16 ≤ e.winSize then some (BitVec.ofNat 32 (leNat (tbytes c.imem (e.winBase + pc * 16 + slot * 4) 4))) else none
/-- The 32-byte record at `rec` (units of 32 bytes) of the window, or none beyond its end. -/
def fetchRecord (c : Core) (e : CoreEnv) (rec : Nat) : Option Nat :=
  if (rec + 1) * 32 ≤ e.winSize then some (leNat (tbytes c.imem (e.winBase + rec * 32) 32)) else none

/-! ### Landings (R92, R93) -/

/-- The scratchpad lines that a list of writes touches, each once. -/
def writtenLines (ws : List (Nat × List Byte)) : List Nat := (ws.flatMap (fun w => linesOf w.1 w.2.length)).dedup

/-- The vector registers, scratchpad lines (offset by 64) and scalar registers (offset by 2^20) that a landing writes. A write to s31 writes no register, so it meets no other
(DESIGN CHOICE, assumption log 131). -/
def LandKind.targets : LandKind → List Nat
  | .vreg vd _ _ => [vd]
  | .cvt vd _ _ _ _ => [vd]
  | .copy ws => (writtenLines ws).map (· + 64)
  | .spad a bs => (linesOf a bs.length).map (· + 64)
  | .sreg sd _ => if sd = 31 then [] else [sd + 2 ^ 20]
  | .acc .. => []
  | .tile _ ws _ _ => (writtenLines ws).map (· + 64)

/-- Whether two results of the list that land in one cycle write one vector register, scratchpad line or scalar register (R93, R446). -/
def collides : List Landing → Bool
  | [] => false
  | l :: ls => ls.any (fun m => l.cycle = m.cycle && (l.what.targets.any (fun t => m.what.targets.contains t))) || collides ls

/-- The start value of accumulator `col` under acc_init (R69): +0, the contents, or the value loaded. -/
def accStart (c : Core) (row initSel : Nat) (init : List Nat) (col : Nat) : Nat :=
  if initSel = 0 then 0 else if initSel = 1 then c.acc row col else init.getD col 0

/-- Write columns `col …` of an accumulator row: the start value, plus the chunk sum where there is one (R69, R78). -/
def landAcc (row arr initSel : Nat) (init : List Nat) (sums : List (Nat × FlagBits)) : Nat → Nat → Core → Core
  | 0, _, c => c
  | n + 1, col, c =>
    let start := accStart c row initSel init col
    let c := match sums[col]? with
      | none => c.setAcc row col start
      | some (v, f) =>
        let r := addB32 start v
        (c.setAcc row col r.1).raise arr (f ||| r.2)
    landAcc row arr initSel init sums n (col + 1) c

/-- The values and the flags of a list of results. -/
def joinLanes (rs : List (Nat × FlagBits)) : List Nat × FlagBits :=
  (rs.map (·.1), rs.foldl (fun a r => a ||| r.2) 0)

/-- Write a list of byte strings to the scratchpad, each at its address. -/
def Core.spadWrites (c : Core) (ws : List (Nat × List Byte)) : Core := ws.foldl (fun c w => c.spadWrite w.1 w.2) c

/-- The elements of a conversion with SR as they land: element i takes bits [15:0] of lane i of register `rnd` (R118). -/
def Core.landCvt (c : Core) (vd off fmtD : Nat) (src : List FVal) (rnd : Nat) : Core :=
  let us := c.lanesOf rnd
  let j := joinLanes (src.mapIdx (fun i v => convertVal ((fmtOfCode fmtD).getD fmtB32) v 0 (some (us.getD i 0 % 65536))))
  (c.setVreg vd off (packElems (codeBits fmtD / 8) j.1)).raise 4 j.2

/-- Write a result (R92). -/
def Core.land (c : Core) : LandKind → Core
  | .vreg vd off bs => c.setVreg vd off bs
  | .cvt vd off fd src rnd => c.landCvt vd off fd src rnd
  | .copy ws => c.spadWrites ws
  | .spad a bs => c.spadWrite a bs
  | .sreg sd v => c.setSreg sd v
  | .acc row arr initSel init n sums => landAcc row arr initSel init sums n 0 c
  | .tile conv ws f resc =>
    let c := (c.spadWrites ws).raise conv f
    { c with rescaled := c.rescaled || resc }

/-- The results due at or before the present cycle, in landing order. -/
def Core.dueLands (c : Core) : List Landing := sortBy (·.cycle) (c.lands.filter (fun l => l.cycle ≤ c.icyc))

/-- Write every result that is due, in landing order; the later landing stands (R92). A writeback collision ends the task with 0x13 (R93). -/
def Core.landDue (c : Core) : CoreRes :=
  if collides c.dueLands then .err 0x13
  else .ok (c.dueLands.foldl (fun c l => c.land l.what) { c with lands := c.lands.filter (fun l => c.icyc < l.cycle) })

/-- Put a result in flight, to land `lat` cycles after the present one. -/
def Core.emit (c : Core) (lat : Nat) (what : LandKind) : Core :=
  { c with lands := c.lands ++ [⟨c.icyc, c.icyc + lat, what⟩] }

/-! ### Task digest (R312) -/

/-- Add an effect record (Table 13.4) to the task digest: the sum modulo 2^64 of the CRC-64 of the records. -/
def Core.addEffect (c : Core) (bs : List Byte) : Core := { c with digest := (c.digest + crc64 bs) % 2 ^ 64 }

/-! ### Issue conditions shared by the slots -/

/-- Whether bundles may issue: a task runs, it is not halted, has not ended and pays no penalty (R87, R100, R447, R381). -/
def Core.canFetch (c : Core) : Bool := c.run.isSome && !c.halted && !c.ended && decide (c.pen = 0)

/-- Whether slot `slot` of the present bundle has issued. -/
def Core.slotIssued (c : Core) (slot : Nat) : Bool := bitOf c.issued slot

/-- Mark slot `slot` of the present bundle issued. -/
def Core.markIssued (c : Core) (slot : Nat) : Core := { c with issued := c.issued ||| 2 ^ slot }

/-- A copy tag in use (R208). -/
def Core.tagBusy (c : Core) (tag : Nat) : Bool := c.copies.any (fun k => k.tag = tag)

/-- Bytes an outbound endpoint's buffer holds (R153). -/
def Core.outHeld (c : Core) (ep : Nat) : Nat := (tget [] c.outEps ep).foldl (fun a x => a + x.2.length) 0

/-- The lane generator step of R133 on x, y, z, w (x in the low word). -/
def laneNext (g : W128) : W128 :=
  let x := BitVec.extractLsb' 0 32 g
  let w := BitVec.extractLsb' 96 32 g
  let t := x ^^^ (x <<< 11)
  let w' := w ^^^ (w >>> 19) ^^^ t ^^^ (t >>> 8)
  w' ++ (BitVec.extractLsb' 96 32 g ++ (BitVec.extractLsb' 64 32 g ++ BitVec.extractLsb' 32 32 g) : BitVec 96)

/-- The output of a lane generator: its word w (R133). -/
def laneOut (g : W128) : W32 := BitVec.extractLsb' 96 32 g

/-- Advance the 128 lane generators of a core (R133). An unlisted generator is all zero and stays so. -/
def Core.advanceLanes (c : Core) : Core := { c with lanes := c.lanes.map (fun e => (e.1, laneNext e.2)) }

end Sys2Proof.Machine
end

