-- ==== Sys2Proof/Machine/MatrixOps.lean ====
section
/-! DEFINITION. Set-aligned accumulation (R66 to R69), the matrix instructions' records, checks and cycle-by-cycle reads (R73 to R78, R85, R86, R90, R91, R448),
and output conversion (R79 to R84). -/

namespace Sys2Proof.Machine

/-! ### One chunk (R66) -/

/-- An exact product: sign, significand and exponent; a zero product has significand 0. -/
abbrev ExactProd := Bool × Nat × Int

/-- The exponent of the leading bit of a nonzero product. -/
def leadExp (p : ExactProd) : Int := p.2.2 + Nat.log2 p.2.1

/-- E of R66: the largest leading-bit exponent over the nonzero products. -/
def chunkE : List ExactProd → Option Int
  | [] => none
  | p :: ps =>
    match (if p.2.1 = 0 then none else some (leadExp p)), chunkE ps with
    | none, e => e
    | some a, none => some a
    | some a, some b => some (max a b)

/-- t of R66 for one product, and whether bits were dropped: ⌊p / 2^g⌋ toward negative infinity. -/
def truncProd (g : Int) (p : ExactProd) : Int × Bool :=
  let m : Int := if p.1 then -(p.2.1 : Int) else p.2.1
  if p.2.2 ≥ g then (m * 2 ^ (p.2.2 - g).toNat, false)
  else
    let d : Int := 2 ^ (g - p.2.2).toNat
    (m / d, decide (m % d ≠ 0))      -- Int division by a positive number rounds toward negative infinity

/-- The finite case of R66 over the products of a set. -/
def chunkFinite (ps : List ExactProd) : Nat × FlagBits :=
  match chunkE ps with
  | none => (if ps.all (fun p => p.1) && !ps.isEmpty then 0x80000000 else 0, 0)
  | some e =>
    let ts := (ps.filter (fun p => p.2.1 ≠ 0)).map (truncProd (e - 48))
    let s := ts.foldl (fun a t => a + t.1) 0
    let dropped := ts.any (·.2)
    if s = 0 then (0, if dropped then flInexact ||| flUnderflow else 0)
    else
      let r := roundInt fmtB32 s (e - 48) false
      let fl := r.2 ||| (if dropped then flInexact else 0)
      -- underflow: inexact and |value| below 2^−126
      let tiny : Bool := decide ((floorLog2Q s.natAbs 1) + (e - 48) < -126)
      (r.1, if (fl &&& flInexact) ≠ 0 && tiny then fl ||| flUnderflow else fl)

/-- The special cases of R66, decided on the operand pairs: some NaN or ∞ × 0, else the infinities that occur. -/
def chunkSpecial (prs : List (FVal × FVal)) : Option (Nat × FlagBits) :=
  let ms := prs.map (fun p => mulExact p.1 p.2)
  if ms.any (fun m => match m with | none => true | some .nan => true | _ => false) then some (fmtB32.nan, flInvalid)
  else
    let pos := ms.any (fun m => m = some (.inf false))
    let neg := ms.any (fun m => m = some (.inf true))
    if pos && neg then some (fmtB32.nan, flInvalid)
    else if pos then some (fmtB32.infinity false, 0)
    else if neg then some (fmtB32.infinity true, 0)
    else none

/-- The exact product of two finite values. -/
def exactProd (p : FVal × FVal) : Option ExactProd :=
  match mulExact p.1 p.2 with
  | some (.fin n s e) => some (n, s, e)
  | _ => none

/-- One chunk of set-aligned accumulation (R66): the binary32 result and its flags. -/
def chunkSum (prs : List (FVal × FVal)) : Nat × FlagBits :=
  match chunkSpecial prs with
  | some r => r
  | none => chunkFinite (prs.filterMap exactProd)

/-! ### The split of binary32 mode (R85) -/

/-- x0 of R85: the upper 16 bits of the encoding. -/
def splitHi (v : FVal) : FVal :=
  match v with
  | .fin n s e => fmtB32.decode ((convertVal fmtB32 (.fin n s e) 0 none).1 / 65536 * 65536)
  | v => v

/-- x1 of R85: the upper 16 bits of the encoding of x − x0; a zero difference takes the sign of x. -/
def splitLo (v : FVal) : FVal :=
  match v with
  | .fin n s e =>
    let enc := (convertVal fmtB32 (.fin n s e) 0 none).1
    match fmtB32.decode (enc / 65536 * 65536) with
    | .fin _ s0 e0 =>
      let m := min e e0
      let d := (alignedInt false s e m - alignedInt false s0 e0 m).toNat
      fmtB32.decode ((convertVal fmtB32 (.fin n d m) 0 none).1 / 65536 * 65536)
    | v => v
  | v => v

/-- A chunk in binary32 mode (R85): specials on the original pairs of pass A, and the set of 3n products a0·w0, a0·w1, a1·w0, each
from the activation values its pass read. A value that becomes NaN or infinite only in pass B or C gives no product (DESIGN CHOICE, assumption log 11). -/
def chunkSum32 (wcol a0s a1s a2s : List FVal) : Nat × FlagBits :=
  match chunkSpecial (List.zip a0s wcol) with
  | some r => r
  | none =>
    chunkFinite
      (((List.zip (a0s.map splitHi) (wcol.map splitHi)) ++ (List.zip (a1s.map splitHi) (wcol.map splitLo)) ++
        (List.zip (a2s.map splitLo) (wcol.map splitHi))).filterMap exactProd)

/-! ### Pairings and staging (Tables 4.1, 4.2) -/

/-- A pairing of Table 4.1: K elements per chunk, passes, element bits, staging slots and slot size. -/
structure Pairing where
  c : Nat
  passes : Nat
  bits : Nat
  slots : Nat
  slotSize : Nat
  rowBytes : Nat
  deriving DecidableEq, Repr

def pairing16 : Pairing := ⟨64, 1, 16, 16, 8192, 128⟩
def pairing8 : Pairing := ⟨128, 1, 8, 16, 8192, 128⟩
def pairing4 : Pairing := ⟨256, 1, 4, 14, 8704, 128⟩
def pairing32 : Pairing := ⟨64, 3, 32, 8, 16384, 256⟩

/-- The pairing that a weight format belongs to (Table 4.1). -/
def pairingOf (fmt : Nat) : Option Pairing :=
  match fmt with
  | 0 => some pairing32
  | 1 => some pairing16
  | 2 => some pairing16
  | 3 => some pairing8
  | 4 => some pairing8
  | 5 => some pairing4
  | _ => none

/-- The pairing of an activation and a weight format; none for an illegal combination (R60). -/
def mmaPairing (fa fw : Nat) : Option Pairing :=
  match pairingOf fa, pairingOf fw with
  | some p, some q => if p = q then some p else none
  | _, _ => none

/-- Start byte of slot `i` in an array's staging (R62). -/
def slotStart (p : Pairing) (i : Nat) : Nat := i / (p.slots / 2) * 65536 + i % (p.slots / 2) * p.slotSize
/-- Half of slot `i` (R62). -/
def slotHalf (p : Pairing) (i : Nat) : Nat := i / (p.slots / 2)

/-- Element (k, col) of a tile in staging, given the tile's bytes (R64). -/
def tileElem (p : Pairing) (fmt : Nat) (tile : List Byte) (k col : Nat) : FVal :=
  let by' := fun i => (tile.getD i 0).toNat
  if p.bits = 4 then
    let b := by' (32 * k + col / 2)
    decodeB4 (by' (8192 + 64 * (k / 32) + col)) (if col % 2 = 0 then b % 16 else b / 16)
  else
    let w := p.bits / 8
    decodeCode fmt (leNat ((tile.drop ((k * 64 + col) * w)).take w))

/-! ### Matrix instructions -/

/-- The effective fields of a matrix operation: the record of Table 5.2 with the offsets of Table 5.1 added. -/
def mmaFields (c : Core) (w : W32) (r : Nat) : MmaF :=
  let n := w.toNat
  let reg := fun hi lo => let i := bitsOf n hi lo; if i = 31 then 0 else (c.sreg i).toNat
  { four := decide (bitsOf n 3 0 = 2), fmtA := bitsOf r 3 0, fmtW := bitsOf r 7 4, accInit := bitsOf r 9 8, array := bitsOf r 11 10,
    m := bitsOf r 22 12, k := bitsOf r 39 23,
    n := [bitsOf r 46 40, bitsOf r 53 47, bitsOf r 60 54, bitsOf r 67 61],
    ws := [bitsOf r 71 68, bitsOf r 75 72, bitsOf r 79 76, bitsOf r 83 80],
    actAddr := bitsOf r 106 84 + reg 21 17, rowStride := bitsOf r 122 107, chunkStride := bitsOf r 145 123,
    scaleAddr := bitsOf r 168 146 + reg 31 27, accRow := bitsOf r 180 169 + reg 26 22, accLoad := bitsOf r 203 181, rsv := bitsOf r 255 204 }

/-- The arrays with a nonzero column count, with that count and their first slot (R94). -/
def MmaF.arrays (f : MmaF) : List (Nat × Nat × Nat) :=
  if f.four then
    ((List.range 4).map (fun a => (a, f.n.getD a 0, f.ws.getD a 0))).filter (fun x => x.2.1 ≠ 0)
  else [(f.array, f.n.getD 0 0, f.ws.getD 0 0)]

/-- Row groups G = ⌈M / 64⌉ (R75). -/
def MmaF.groups (f : MmaF) : Nat := ceilDiv f.m 64
/-- Chunks C = ⌈K / c⌉ (R75). -/
def MmaF.chunks (f : MmaF) (p : Pairing) : Nat := ceilDiv f.k p.c
/-- Included K indices of chunk `j` (R76). -/
def MmaF.chunkK (f : MmaF) (p : Pairing) (j : Nat) : Nat := min p.c (f.k - j * p.c)
/-- Activation lines read for a row of chunk `j` (R76). -/
def MmaF.chunkLines (f : MmaF) (p : Pairing) (j : Nat) : Nat := ceilDiv (f.chunkK p j * p.bits) 512
/-- Occupancy of the activation stream (R75, R78). -/
def MmaF.occupancy (f : MmaF) (p : Pairing) : Nat :=
  if f.k = 0 then f.groups * 64 else f.groups * 64 * f.chunks p * p.passes
/-- Accumulator row of output row `r` on array `a` (R74). -/
def MmaF.outRow (f : MmaF) (a r : Nat) : Nat := if f.four then f.accRow + 4 * r + a else f.accRow + r
/-- Address of the initial values of output row `r` on array `a`, in the row order of R74. -/
def MmaF.initAddr (f : MmaF) (a r : Nat) : Nat := f.accLoad + 256 * (if f.four then 4 * r + a else r)
/-- One past the last activation byte of chunk `j` over every row. -/
def MmaF.actEnd (f : MmaF) (p : Pairing) (j : Nat) : Nat :=
  f.actAddr + (f.m - 1) * f.rowStride + j * f.chunkStride + 64 * f.chunkLines p j

/-- The range checks of Table 4.4 on the effective fields, and the scratchpad bounds of R73. -/
def MmaF.legal (f : MmaF) (p : Pairing) : Bool :=
  let cs := f.chunks p
  decide (f.rsv = 0) && decide (f.accInit ≤ 2) && decide (1 ≤ f.m ∧ f.m ≤ 1024) && decide (f.k ≤ 65536) &&
  (if f.four then decide (f.array = 0) && f.n.all (fun x => decide (x ≤ 64)) && f.n.any (fun x => decide (x ≠ 0)) &&
      f.ws.all (fun x => decide (x < p.slots))
    else decide (1 ≤ f.n.getD 0 0 ∧ f.n.getD 0 0 ≤ 64) && (f.n.drop 1).all (fun x => decide (x = 0)) &&
      (f.ws.drop 1).all (fun x => decide (x = 0)) && decide (f.ws.getD 0 0 < p.slots)) &&
  decide (f.actAddr % 64 = 0 ∧ f.actAddr < spadBytes) && decide (f.rowStride % 64 = 0) && decide (f.chunkStride % 64 = 0) &&
  decide (f.accRow + (if f.four then 4 * f.m else f.m) ≤ 4096) &&
  (decide (f.k = 0) || (decide (f.actEnd p (cs - 1) ≤ spadBytes) && (decide (cs < 2) || decide (f.actEnd p (cs - 2) ≤ spadBytes)))) &&
  (decide (p.bits ≠ 4) || (decide (f.scaleAddr % 8 = 0) &&
      (decide (f.k = 0) || decide (f.scaleAddr + 8 * f.m * cs ≤ spadBytes)))) &&
  (decide (f.accInit ≠ 2) || (decide (f.accLoad % 256 = 0) &&
      f.arrays.all (fun a => decide (f.initAddr a.1 (f.m - 1) + 256 ≤ spadBytes))))

/-- The accumulator rows a matrix instruction writes lie between these two (R84). -/
def MmaF.writesRow (f : MmaF) (row : Nat) : Bool :=
  if f.four then f.arrays.any (fun a => decide (f.accRow + a.1 ≤ row ∧ (row - f.accRow - a.1) % 4 = 0 ∧ row < f.accRow + a.1 + 4 * f.m))
  else decide (f.accRow ≤ row ∧ row < f.accRow + f.m)

/-- Whether the activation stream is occupied in the present cycle (R75, R93). -/
def Core.streamBusy (c : Core) : Bool :=
  match c.mma with
  | none => false
  | some r =>
    match mmaPairing r.f.fmtA r.f.fmtW with
    | none => false
    | some p => decide (c.icyc < r.t0 + r.f.occupancy p)

/-- Cycles that a converter is reserved per tile row: A of R83. -/
def OcvF.attempts (f : OcvF) : Nat := if f.rescale then 1 + min 3 ((f.scale + 64) / 4).toNat else 1

/-- Whether converter reservation `r` still stands in cycle `cyc` (R83). -/
def ConvRun.reserved (r : ConvRun) (cyc : Nat) : Bool := decide (cyc < r.t0 + r.f.rows * r.f.attempts)

/-- The matrix instruction in progress, as an error record names it. -/
def Core.mmaOp (c : Core) : OpAt :=
  match c.mma with
  | some r => (if r.f.four then 2 else 1, 0)
  | none => noOp

/-- Whether the tile of chunk `j` is staged for every array used: 0 all ready, 1 some half filling, 2 some half empty (R63, R94). -/
def Core.chunkStaged (c : Core) (f : MmaF) (p : Pairing) (j : Nat) : Nat :=
  let hs := f.arrays.map (fun a => c.half a.1 (slotHalf p ((a.2.2 + j) % p.slots)))
  if hs.any (fun h => decide (h = 0)) then 2 else if hs.any (fun h => decide (h = 1)) then 1 else 0

/-- The chunk whose first row is read in the present cycle, for the instruction in progress. -/
def MmaRun.chunkStarting (r : MmaRun) (cyc : Nat) : Option Nat :=
  match mmaPairing r.f.fmtA r.f.fmtW with
  | none => none
  | some p =>
    if r.f.k = 0 then none
    else
      let per := p.passes * r.f.groups * 64
      let d := cyc - r.t0
      if d % per = 0 ∧ d / per < r.f.chunks p then some (d / per) else none

/-- The M-slot operation of the present bundle would hold at its first chunk (R63, R94). -/
def mmaIssueHold (c : Core) (e : CoreEnv) (w : W32) : Bool :=
  match fetchRecord c e (bitsOf w.toNat 16 4) with
  | none => false
  | some r =>
    let f := mmaFields c w r
    match mmaPairing f.fmtA f.fmtW with
    | none => false
    | some p => f.legal p && decide (f.k ≠ 0) && decide (c.chunkStaged f p 0 = 1)

/-- The instruction in progress has reached a chunk whose staging half has a fill in progress (R63). -/
def Core.chunkHold (c : Core) : Bool :=
  match c.mma with
  | none => false
  | some r =>
    match r.chunkStarting c.icyc, mmaPairing r.f.fmtA r.f.fmtW with
    | some j, some p => decide (c.chunkStaged r.f p j = 1)
    | _, _ => false

/-- The instruction in progress has reached a chunk whose staging half was never filled (R94). -/
def Core.chunkEmpty (c : Core) : Bool :=
  match c.mma with
  | none => false
  | some r =>
    match r.chunkStarting c.icyc, mmaPairing r.f.fmtA r.f.fmtW with
    | some j, some p => decide (c.chunkStaged r.f p j = 2)
    | _, _ => false

/-- Issue of MMA1 or MMA4 (R73, R90, R93, R84, R94). Where several of the statuses 0x12, 0x14 and 0x19 apply, the first in this order stands (DESIGN CHOICE, assumption log 129). -/
def issueMma (c : Core) (e : CoreEnv) (w : W32) : CoreRes :=
  match fetchRecord c e (bitsOf w.toNat 16 4) with
  | none => .err 0x15
  | some r =>
    let f := mmaFields c w r
    match mmaPairing f.fmtA f.fmtW with
    | none => .err 0x10
    | some p =>
      if !f.legal p then .err 0x10
      else if c.streamBusy then .err 0x12
      else if c.convs.any (fun k => k.2.reserved c.icyc &&
          (List.range k.2.f.rows).any (fun i => f.writesRow (k.2.f.accRow + i * k.2.f.accStride))) then .err 0x14
      else if f.k ≠ 0 ∧ c.chunkStaged f p 0 = 2 then .err 0x19
      else .ok { c with mma := some ⟨f, c.icyc, [], none, [], []⟩ }

/-! ### The reads of each cycle (R448) -/

/-- The included activation elements of row `r` in chunk `j`, from the scratchpad; none if a line touched is invalid. -/
def readActRow (c : Core) (f : MmaF) (p : Pairing) (j r : Nat) : Option (List FVal) :=
  let nk := f.chunkK p j
  match c.spadRead (f.actAddr + r * f.rowStride + j * f.chunkStride) (64 * f.chunkLines p j) with
  | none => none
  | some bs =>
    if p.bits = 4 then
      match c.spadRead (f.scaleAddr + 8 * (r * f.chunks p + j)) 8 with
      | none => none
      | some sc =>
        some ((List.range nk).map (fun i =>
          let b := (bs.getD (i / 2) 0).toNat
          decodeB4 (sc.getD (i / 32) 0).toNat (if i % 2 = 0 then b % 16 else b / 16)))
    else
      let w := p.bits / 8
      some (((elemsOf w bs).take nk).map (decodeCode f.fmtA))

/-- The initial values of output row `r` for every array used (acc_init = 0b10): the whole row of 256 bytes, also with n below 64 (DESIGN CHOICE, assumption log 21). -/
def readInits (c : Core) (f : MmaF) (r : Nat) : Option (Tab (List Nat)) :=
  f.arrays.foldl (fun acc a =>
    match acc, c.spadRead (f.initAddr a.1 r) 256 with
    | some t, some bs => some (tset t a.1 (elemsOf 4 bs))
    | _, _ => none) (some [])

/-- The column `col` of a tile over the included K indices. -/
def tileColumn (p : Pairing) (fmt : Nat) (tile : List Byte) (nk col : Nat) : List FVal :=
  (List.range nk).map (fun k => tileElem p fmt tile k col)

/-- The chunk results of one activation row on one array. -/
def rowSums (p : Pairing) (f : MmaF) (tile : List Byte) (n nk : Nat) (a0 a1 a2 : List FVal) : List (Nat × FlagBits) :=
  (List.range n).map (fun col =>
    let wc := tileColumn p f.fmtW tile nk col
    if p.passes = 3 then chunkSum32 wc a0 a1 a2 else chunkSum (List.zip a0 wc))

/-- Snapshot the tiles of chunk `j` for every array used, in the cycle in which the chunk begins (R62). -/
def snapTiles (c : Core) (f : MmaF) (p : Pairing) (j : Nat) : Tab (List Byte) :=
  f.arrays.foldl (fun t a =>
    tset t a.1 (tbytes c.staging (a.1 * 131072 + slotStart p ((a.2.2 + j) % p.slots)) p.slotSize)) []

/-- The tile of the next chunk loads into the second register sets while chunk `j` runs, in the first cycle in which its staging halves are ready (R65; DEDUCED, assumption log 135). -/
def MmaRun.loadNext (run : MmaRun) (c : Core) (p : Pairing) (j : Nat) : MmaRun :=
  if run.nextTiles.isNone ∧ j + 1 < run.f.chunks p ∧ c.chunkStaged run.f p (j + 1) = 0 then
    { run with nextTiles := some (snapTiles c run.f p (j + 1)) }
  else run

/-- The run at cycle `d` of its occupancy: at the first cycle of a chunk the tile registers swap, and the next chunk's tile loads as soon as it may (R62, R65). -/
def MmaRun.atChunk (run : MmaRun) (c : Core) (p : Pairing) (d j : Nat) : MmaRun :=
  let run := if d % (p.passes * (run.f.groups * 64)) = 0 then
      { run with tiles := run.nextTiles.getD (snapTiles c run.f p j), nextTiles := none, rows := [] }
    else run
  run.loadNext c p j

/-! ### The Footstool's samples (R106 to R108) -/

/-- The output of lane 0 of the core's generators, on which the choice of samples draws (R107). -/
def Core.draw (c : Core) : Nat := (laneOut (tget 0 c.lanes 0)).toNat

/-- Whether draw `x` selects element `q` of a cycle's results at 2^−rate (DESIGN CHOICE, assumption log 134). -/
def fsPicks (x rate q : Nat) : Bool := decide ((x + q) % 2 ^ rate = 0)

/-- Samples enter the capture buffer of 64 entries; those that find it full are dropped (R107). -/
def Core.fsTake (c : Core) (xs : List FsSample) : Core :=
  { c with fsBuf := (c.fsBuf ++ xs).take 64, fsDropped := min (2 ^ 24 - 1) (c.fsDropped + ((c.fsBuf ++ xs).length - 64)) }

/-- The sample of the chunk result in column `col` of array `a` (R106, R108). -/
def chunkSample (e : CoreEnv) (p : Pairing) (f : MmaF) (entry : Option Nat) (tile : List Byte) (a col j : Nat) (a0 a1 a2 : List FVal) (res : Nat × FlagBits) : FsSample :=
  ⟨e.ctx, entry, false, a, decide (p.passes = 3), a0, a1, a2, tileColumn p f.fmtW tile (f.chunkK p j) col, 0, 0, 0, none, j * p.c, col, res.1, res.2.toNat⟩

/-- The samples of one row's chunk results on one array: in exact mode, and in wide mode for each watch entry that names the region its weights came from. -/
def chunkSamples (c : Core) (e : CoreEnv) (p : Pairing) (f : MmaF) (tile : List Byte) (a ws j : Nat) (a0 a1 a2 : List FVal) (sums : List (Nat × FlagBits)) : List FsSample :=
  let src := tget 0xFFFF c.halfSrc (a * 2 + slotHalf p ((ws + j) % p.slots))
  let at' := fun entry col => chunkSample e p f entry tile a col j a0 a1 a2 (sums.getD col (0, 0))
  (match e.fs.exact with
    | none => []
    | some r => ((List.range sums.length).filter (fun col => fsPicks c.draw r (64 * a + col))).map (at' none)) ++
  (match e.fs.wide with
    | none => []
    | some r =>
      let ns := (List.range 16).filter (fun n => decide (e.fs.watch.getD n 0xFFFF = src ∧ src ≠ 0xFFFF))
      if ns.isEmpty then []
      else ((List.range sums.length).filter (fun col => fsPicks (c.draw / 16) r (64 * a + col))).flatMap (fun col => ns.map (fun n => at' (some n) col)))

/-- Reads of the matrix instruction in progress in the present cycle (R448), and the landings they give (R92): each chunk result and each row group but the last lands as it is
formed, `lat` cycles after its group (DESIGN CHOICE, assumption log 10). A read of an invalid line ends the task with 0x11. -/
def mmaCycle (c : Core) (e : CoreEnv) (lat : Nat) : CoreRes :=
  match c.mma with
  | none => .ok c
  | some run =>
    match mmaPairing run.f.fmtA run.f.fmtW with
    | none => .ok c
    | some p =>
      let f := run.f
      let d := c.icyc - run.t0
      let g64 := f.groups * 64
      if f.occupancy p ≤ d then .ok { c with mma := none }
      else
        let jp := d / g64                     -- chunk × passes + pass (0 for K = 0)
        let j := jp / p.passes
        let pass := jp % p.passes
        let g := d % g64 / 64
        let r := d % g64                      -- row 64 g + (r mod 64)
        let run := if f.k = 0 then run else run.atChunk c p d j
        if f.m ≤ r then .ok { c with mma := some run }
        else
          let inits : Option (Tab (List Nat)) := if f.accInit = 2 ∧ j = 0 ∧ pass = 0 then readInits c f r else some []
          match inits with
          | none => .err 0x11 c.mmaOp
          | some ini =>
            let run := if ini = [] then run else { run with inits := ini.foldl (fun t x => tset t (r * 4 + x.1) x.2) run.inits }
            if f.k = 0 then
              let at' := run.t0 + g64 + lat
              .ok { c with
                mma := some run
                lands := c.lands ++ f.arrays.map (fun a =>
                  ⟨run.t0, at', .acc (f.outRow a.1 r) a.1 f.accInit (tget [] run.inits (r * 4 + a.1)) a.2.1 []⟩) }
            else
              match readActRow c f p j r with
              | none => .err 0x11 c.mmaOp
              | some row =>
                let rows := tset run.rows (r * 3 + pass) row
                if pass + 1 < p.passes then .ok { c with mma := some { run with rows := rows } }
                else
                  let nk := f.chunkK p j
                  let at' := run.t0 + ((j * p.passes + p.passes - 1) * f.groups + g + 1) * 64 + lat
                  let a0 := tget [] rows (r * 3)
                  let a1 := tget [] rows (r * 3 + 1)
                  let a2 := tget [] rows (r * 3 + 2)
                  let res := f.arrays.map (fun a => (a, rowSums p f (tget [] run.tiles a.1) a.2.1 nk a0 a1 a2))
                  .ok (Core.fsTake { c with
                    mma := some { run with rows := rows }
                    lands := c.lands ++ res.map (fun x =>
                      ⟨run.t0, at', .acc (f.outRow x.1.1 r) x.1.1 (if j = 0 then f.accInit else 1) (tget [] run.inits (r * 4 + x.1.1)) x.1.2.1 x.2⟩) }
                    (res.flatMap (fun x => chunkSamples c e p f (tget [] run.tiles x.1.1) x.1.1 x.1.2.2 j a0 a1 a2 x.2)))

/-! ### Output conversion (R79 to R83) -/

/-- The effective fields of an OCV: the record of Table 5.2 with the offsets of Table 5.1 added. -/
def ocvFields (c : Core) (w : W32) (r : Nat) : OcvF :=
  let n := w.toNat
  let reg := fun hi lo => let i := bitsOf n hi lo; if i = 31 then 0 else (c.sreg i).toNat
  { conv := bitsOf r 1 0, fmtD := bitsOf r 5 2, rnd := bitsOf r 7 6, scale := signedOf 8 (bitsOf r 15 8), rescale := bitOf r 16,
    accRow := bitsOf r 28 17 + reg 26 22, accStride := bitsOf r 31 29, rows := bitsOf r 38 32, cols := bitsOf r 45 39,
    dst := bitsOf r 68 46 + reg 21 17, dstStride := bitsOf r 84 69, metaAddr := bitsOf r 107 85, tensor := bitsOf r 131 108,
    elemBase := bitsOf r 167 132 + reg 31 27, elemStride := bitsOf r 203 168, rsv := bitsOf r 255 204 }

/-- Bytes per destination element. -/
def OcvF.elemBytes (f : OcvF) : Nat := codeBits f.fmtD / 8

/-- The range checks of Table 4.6 on the effective fields, with R80's limit under SR. The last accumulator row is bounded by 4,095, and tile and metadata word by the scratchpad
(DESIGN CHOICE, assumption log 128). -/
def OcvF.legal (f : OcvF) : Bool :=
  decide (f.rsv = 0) && decide (f.fmtD ≤ 4) && decide (f.rnd ≤ 1) && decide (-64 ≤ f.scale ∧ f.scale ≤ 63) &&
  decide (1 ≤ f.accStride ∧ f.accStride ≤ 4) && decide (1 ≤ f.rows ∧ f.rows ≤ 64) && decide (1 ≤ f.cols ∧ f.cols ≤ 64) &&
  decide (f.accRow + (f.rows - 1) * f.accStride ≤ 4095) &&
  decide (f.dst % 64 = 0) && decide (f.dstStride % 64 = 0) &&
  decide (f.dst + (f.rows - 1) * f.dstStride + f.cols * f.elemBytes ≤ spadBytes) &&
  (!f.rescale || (decide (f.metaAddr % 4 = 0) && decide (f.metaAddr + 4 ≤ spadBytes))) &&
  (decide (f.rnd = 0) || decide (f.elemBase + (f.rows - 1) * f.elemStride + f.cols - 1 < 2 ^ 36))

/-- Issue of OCV (R79, R90, R93). -/
def issueOcv (c : Core) (e : CoreEnv) (w : W32) : CoreRes :=
  match fetchRecord c e (bitsOf w.toNat 16 4) with
  | none => .err 0x15
  | some r =>
    let f := ocvFields c w r
    if !f.legal then .err 0x10
    else if (match tfind c.convs f.conv with | some k => k.reserved c.icyc | none => false) then .err 0x12
    else .ok { c with convs := tset c.convs f.conv ⟨f, c.icyc, []⟩ }

/-- One attempt of a tile at scale `s` (R80): each row's encodings, the flags, and whether a finite value overflowed. -/
def ocvAttempt (f : OcvF) (e : CoreEnv) (rows : List (List Nat)) (s : Int) : List (List Nat) × FlagBits × Bool :=
  let fmt := (fmtOfCode f.fmtD).getD fmtB32
  let cells := rows.mapIdx (fun r row => (row.take f.cols).mapIdx (fun j v =>
    let val := fmtB32.decode v
    let sr := if f.rnd = 1 then
        some ((keyedWord e.seed e.stream e.stepNo (f.tensor * 256 + 3) (f.elemBase + r * f.elemStride + j)).toNat % 65536)
      else none
    let o := convertVal fmt val s sr
    let fin := match val with | .fin .. => true | _ => false
    (o.1, o.2, fin && decide (o.2 &&& flOverflow ≠ 0))))
  (cells.map (fun row => row.map (·.1)), (cells.flatMap id).foldl (fun a x => a ||| x.2.1) 0, (cells.flatMap id).any (fun x => x.2.2))

/-- The attempts of R81: lower the scale by 4 while a finite value overflows, at most three times and never below −64. Gives retries and the attempt. -/
def ocvRetry (f : OcvF) (e : CoreEnv) (rows : List (List Nat)) : Nat → Nat → Int → Nat × Int × (List (List Nat) × FlagBits × Bool)
  | 0, k, s => (k, s, ocvAttempt f e rows s)
  | fuel + 1, k, s =>
    let a := ocvAttempt f e rows s
    if f.rescale && a.2.2 && decide (s - 4 ≥ -64) then ocvRetry f e rows fuel (k + 1) (s - 4) else (k, s, a)

/-- The metadata word of Table 4.7. -/
def metaWord (overflow : Bool) (retries : Nat) (scale : Int) : Nat :=
  b2n overflow * 1024 + retries * 256 + twosOf 8 scale

/-- The samples of a conversion's elements in exact mode: each captures the written attempt (R106). -/
def convSamples (c : Core) (e : CoreEnv) (f : OcvF) (rows : List (List Nat)) : List FsSample :=
  match e.fs.exact with
  | none => []
  | some rate =>
    let t := ocvRetry f e rows 3 0 f.scale
    let fmt := (fmtOfCode f.fmtD).getD fmtB32
    ((List.range (f.rows * f.cols)).filter (fun q => fsPicks (c.draw / 16) rate (4096 * f.conv + q))).map (fun q =>
      let r := q / f.cols
      let j := q % f.cols
      let v := (rows.getD r []).getD j 0
      let el := f.elemBase + r * f.elemStride + j
      let sr := if f.rnd = 1 then some ((keyedWord e.seed e.stream e.stepNo (f.tensor * 256 + 3) el).toNat % 65536) else none
      let o := convertVal fmt (fmtB32.decode v) t.2.1 sr
      ⟨e.ctx, none, true, f.conv, false, [], [], [], [], v, t.2.1, f.fmtD, sr, el, j, o.1, o.2.toNat⟩)

/-- The tile of a conversion whose rows have been read: what lands (R80 to R82). Tile and metadata word are one result; where rows overlap, the later row stands, and the word over
both (DESIGN CHOICE, assumption log 130). -/
def ocvTile (f : OcvF) (e : CoreEnv) (rows : List (List Nat)) : LandKind :=
  let r := ocvRetry f e rows 3 0 f.scale
  let writes := r.2.2.1.mapIdx (fun i row => (f.dst + i * f.dstStride, packElems f.elemBytes row))
  .tile f.conv (writes ++ (if f.rescale then [(f.metaAddr, leBytes 4 (metaWord r.2.2.2.2 r.1 r.2.1))] else []))
    r.2.2.2.1 (decide (r.1 ≠ 0))

/-- The read of one converter in the present cycle (R448); after the last row its tile is formed and lands at the end of the reservation plus the latency (R83). -/
def convCycle (e : CoreEnv) (lat : Nat) (c : Core) (key : Nat) (run : ConvRun) : Core :=
  let d := c.icyc - run.t0
  let a := run.f.attempts
  if run.f.rows * a ≤ d then { c with convs := tdel c.convs key }
  else if d % a = 0 then
    let row := run.f.accRow + d / a * run.f.accStride
    let rows := run.rowsRead ++ [(List.range 64).map (fun j => c.acc row j)]
    let c := { c with convs := tset c.convs key { run with rowsRead := rows } }
    if rows.length = run.f.rows then
      Core.fsTake { c with lands := c.lands ++ [⟨run.t0, run.t0 + run.f.rows * a + lat, ocvTile run.f e rows⟩] } (convSamples c e run.f rows)
    else c
  else c

/-- The reads of every converter in the present cycle. -/
def convsCycle (e : CoreEnv) (c : Core) : Core :=
  c.convs.foldl (fun c k => convCycle e (latency e.tp2 .ocv) c k.1 k.2) c

end Sys2Proof.Machine
end

