-- ==== Sys2Proof/Machine/Special.lean ====
section
/-! DEFINITION. The special functions of R115 and the normal-deviate table of R128: each exact value is enclosed between two
rationals, and the delivered binary32 value is the one to which both ends of the enclosure round (R49). -/

namespace Sys2Proof.Machine

/-- ⌊√n⌋ by trial of one bit at a time, from bit `i - 1` down. -/
def isqrtGo (n : Nat) : Nat → Nat → Nat
  | 0, r => r
  | i + 1, r => isqrtGo n i (if (r + 2 ^ i) * (r + 2 ^ i) ≤ n then r + 2 ^ i else r)

/-- ⌊√n⌋. -/
def isqrt (n : Nat) : Nat := isqrtGo n (Nat.log2 n / 2 + 1) 0

/-- Fraction bits of the fixed-point enclosures. -/
def fixP : Nat := 400

/-- Σ z^(2k+1)/(2k+1), every term rounded down. `t` is z^(2k+1), `z2` is z². -/
def atanhLo (z2 : Nat) : Nat → Nat → Nat → Nat
  | 0, _, _ => 0
  | n + 1, k, t => t / (2 * k + 1) + atanhLo z2 n (k + 1) (t * z2 / 2 ^ fixP)

/-- The same sum with every term rounded up; the caller adds the remainder. -/
def atanhHi (z2 : Nat) : Nat → Nat → Nat → Nat
  | 0, _, _ => 4
  | n + 1, k, t => ceilDiv t (2 * k + 1) + atanhHi z2 n (k + 1) (ceilDiv (t * z2) (2 ^ fixP) + 1)

/-- An enclosure of ln(m) for a rational m = a/b in [1, 2], in units of 2^(−fixP): 2 atanh((m − 1)/(m + 1)). -/
def lnBounds (a b : Nat) : Nat × Nat :=
  let zn := a - b
  let zd := a + b
  let lo := zn * 2 ^ fixP / zd
  let hi := ceilDiv (zn * 2 ^ fixP) zd
  (2 * atanhLo (lo * lo / 2 ^ fixP) 140 0 lo, 2 * atanhHi (ceilDiv (hi * hi) (2 ^ fixP)) 140 0 hi)

/-- An enclosure of ln 2. -/
def ln2Bounds : Nat × Nat := lnBounds 2 1

/-- Σ yᵏ/k!, rounded down. -/
def expLo (y : Nat) : Nat → Nat → Nat → Nat
  | 0, _, _ => 0
  | n + 1, k, t => t + expLo y n (k + 1) (t * y / 2 ^ fixP / (k + 1))

/-- Σ yᵏ/k! rounded up, with the remainder of an argument below 1. -/
def expHi (y : Nat) : Nat → Nat → Nat → Nat
  | 0, _, t => 2 * t + 4
  | n + 1, k, t => t + expHi y n (k + 1) (ceilDiv (ceilDiv (t * y) (2 ^ fixP)) (k + 1) + 1)

/-- An enclosure of eʸ for y in [lo, hi] below 1 (units of 2^(−fixP)). -/
def expBounds (lo hi : Nat) : Nat × Nat :=
  (expLo lo 110 0 (2 ^ fixP), expHi hi 110 0 (2 ^ fixP))

/-- Square an enclosure `n` times. -/
def sqBounds : Nat → Nat × Nat → Nat × Nat
  | 0, b => b
  | n + 1, b => sqBounds n (b.1 * b.1 / 2 ^ fixP, ceilDiv (b.2 * b.2) (2 ^ fixP))

/-- The value both ends of an enclosure [a/d, b/c] round to, or the uninterpreted value of the operand where they differ. -/
def roundBounds (op x : Nat) (neg : Bool) (a d b c : Nat) : Nat × FlagBits :=
  let lo := roundQ fmtB32 neg a d none
  let hi := roundQ fmtB32 neg b c none
  if lo.1 = hi.1 then (lo.1, lo.2 ||| flInexact) else (Config.specialValue op x % 2 ^ 32, flInexact)

/-- Numerator and denominator of sig × 2^ex. -/
def ratOf (sig : Nat) (ex : Int) : Nat × Nat :=
  if ex ≥ 0 then (sig * 2 ^ ex.toNat, 1) else (sig, 2 ^ (-ex).toNat)

/-- 1/va (R115, Table 6.4). -/
def fRcp (x : Nat) : Nat × FlagBits :=
  match fmtB32.decode x with
  | .nan => (fmtB32.nan, flInvalid)
  | .inf n => (fmtB32.signBit n, 0)
  | .fin n s e =>
    if s = 0 then (fmtB32.infinity n, flOverflow ||| flInexact)
    else let r := ratOf s e; roundQ fmtB32 n r.2 r.1 none

/-- va / vb (R115, Table 6.4). -/
def fDiv (x y : Nat) : Nat × FlagBits :=
  match fmtB32.decode x, fmtB32.decode y with
  | .nan, _ => (fmtB32.nan, flInvalid)
  | _, .nan => (fmtB32.nan, flInvalid)
  | .inf _, .inf _ => (fmtB32.nan, flInvalid)
  | .inf n, .fin n' _ _ => (fmtB32.infinity (n ^^ n'), 0)
  | .fin n _ _, .inf n' => (fmtB32.signBit (n ^^ n'), 0)
  | .fin n s e, .fin n' s' e' =>
    if s = 0 ∧ s' = 0 then (fmtB32.nan, flInvalid)
    else if s' = 0 then (fmtB32.infinity (n ^^ n'), flOverflow ||| flInexact)
    else if s = 0 then (fmtB32.signBit (n ^^ n'), 0)
    else
      let a := ratOf s e
      let b := ratOf s' e'
      roundQ fmtB32 (n ^^ n') (a.1 * b.2) (a.2 * b.1) none

/-- √va (R115, Table 6.4): the integer root of a scaled significand with a sticky bit. -/
def fSqrt (x : Nat) : Nat × FlagBits :=
  match fmtB32.decode x with
  | .nan => (fmtB32.nan, flInvalid)
  | .inf n => if n then (fmtB32.nan, flInvalid) else (x, 0)
  | .fin n s e =>
    if s = 0 then (x, 0)
    else if n then (fmtB32.nan, flInvalid)
    else
      let r := ratOf s e
      -- √(num/den) = √(num·den)/den, at 2^120 scale
      let v := r.1 * r.2 * 2 ^ 240
      let q := isqrt v
      roundQ fmtB32 false (2 * q + b2n (decide (q * q ≠ v))) (2 * r.2 * 2 ^ 120) none

/-- 1/√va (R115, Table 6.4). -/
def fRsqrt (x : Nat) : Nat × FlagBits :=
  match fmtB32.decode x with
  | .nan => (fmtB32.nan, flInvalid)
  | .inf n => if n then (fmtB32.nan, flInvalid) else (0, 0)
  | .fin n s e =>
    if s = 0 then (fmtB32.infinity n, flOverflow ||| flInexact)
    else if n then (fmtB32.nan, flInvalid)
    else
      let r := ratOf s e
      -- √(den/num) = √(num·den)/num, at 2^200 scale
      let v := r.1 * r.2 * 2 ^ 400
      let q := isqrt v
      roundQ fmtB32 false (2 * q + b2n (decide (q * q ≠ v))) (2 * r.1 * 2 ^ 200) none

/-- 2^n as a rational. -/
def pow2Q (n : Int) : Nat × Nat := if n ≥ 0 then (2 ^ n.toNat, 1) else (1, 2 ^ (-n).toNat)

/-- 2^va (R115, Table 6.4). -/
def fExp2 (x : Nat) : Nat × FlagBits :=
  match fmtB32.decode x with
  | .nan => (fmtB32.nan, flInvalid)
  | .inf n => (if n then 0 else fmtB32.infinity false, 0)
  | .fin neg s e =>
    let nd := ratOf s e
    let fl : Int := if neg then -((ceilDiv nd.1 nd.2 : Nat) : Int) else ((nd.1 / nd.2 : Nat) : Int)
    if fl ≥ 129 then (fmtB32.infinity false, flOverflow ||| flInexact)
    else if fl < -160 then (0, flUnderflow ||| flInexact)
    else
      let rem := if neg then (nd.2 - nd.1 % nd.2) % nd.2 else nd.1 % nd.2   -- fraction × nd.2
      let p := pow2Q fl
      if rem = 0 then roundQ fmtB32 false p.1 p.2 none
      else
        let f := rem * 2 ^ fixP / nd.2                     -- exact: nd.2 divides 2^fixP
        let b := expBounds (f * ln2Bounds.1 / 2 ^ fixP) (ceilDiv (f * ln2Bounds.2) (2 ^ fixP))
        roundBounds 0x44 x false (b.1 * p.1) (2 ^ fixP * p.2) (b.2 * p.1) (2 ^ fixP * p.2)

/-- log₂ va (R115, Table 6.4). -/
def fLog2 (x : Nat) : Nat × FlagBits :=
  match fmtB32.decode x with
  | .nan => (fmtB32.nan, flInvalid)
  | .inf n => if n then (fmtB32.nan, flInvalid) else (fmtB32.infinity false, 0)
  | .fin n s e =>
    if s = 0 then (fmtB32.infinity true, flOverflow ||| flInexact)
    else if n then (fmtB32.nan, flInvalid)
    else
      let l := Nat.log2 s
      let ex : Int := e + l
      if s = 2 ^ l then roundInt fmtB32 ex 0 false
      else
        let b := lnBounds s (2 ^ l)
        let lo := b.1 * 2 ^ fixP / ln2Bounds.2
        let hi := ceilDiv (b.2 * 2 ^ fixP) ln2Bounds.1
        if ex ≥ 0 then
          let i := ex.toNat * 2 ^ fixP
          roundBounds 0x45 x false (i + lo) (2 ^ fixP) (i + hi) (2 ^ fixP)
        else
          let i := (-ex).toNat * 2 ^ fixP
          roundBounds 0x45 x true (i - hi) (2 ^ fixP) (i - lo) (2 ^ fixP)

/-- tanh va (R115, Table 6.4). -/
def fTanh (x : Nat) : Nat × FlagBits :=
  match fmtB32.decode x with
  | .nan => (fmtB32.nan, flInvalid)
  | .inf n => (fmtB32.signBit n + 0x3F800000, 0)
  | .fin n s e =>
    if s = 0 then (x, 0)
    else
      let r := ratOf s e
      if r.1 ≥ 32 * r.2 then (fmtB32.signBit n + 0x3F800000, flInexact)
      else if r.1 * 2 ^ 20 < r.2 then
        -- x − x³/3 < tanh x < x − x³/3 + 2x⁵/15
        let d3 := 3 * r.2 ^ 3
        let loN := 3 * r.1 * r.2 ^ 2 - r.1 ^ 3
        roundBounds 0x46 x n loN d3 (5 * r.2 ^ 2 * loN + 2 * r.1 ^ 5) (15 * r.2 ^ 5)
      else
        let t := r.1 * 2 ^ fixP / (64 * r.2)             -- 2x/128, rounded down
        let b := sqBounds 7 (expBounds t (t + 1))
        roundBounds 0x46 x n (b.1 - 2 ^ fixP) (b.1 + 2 ^ fixP) (b.2 - 2 ^ fixP) (b.2 + 2 ^ fixP)

/-! ### The normal-deviate table (R128) -/

/-- Alternating sum Σ (−1)^k 2^(−4k... ) of atan(1/m) in units of 2^(−fixP), as (positive part, negative part), rounded down. -/
def atanInvGo (m : Nat) : Nat → Nat → Nat → Nat × Nat → Nat × Nat
  | 0, _, _, acc => acc
  | n + 1, k, t, acc =>
    let v := t / (2 * k + 1)
    atanInvGo m n (k + 1) (t / (m * m)) (if k % 2 = 0 then (acc.1 + v, acc.2) else (acc.1, acc.2 + v))

/-- π in units of 2^(−fixP), within 2^12 of the true value (Machin: 16 atan(1/5) − 4 atan(1/239)). -/
def piFix : Nat :=
  let a := atanInvGo 5 100 0 (2 ^ fixP / 5) (0, 0)
  let b := atanInvGo 239 100 0 (2 ^ fixP / 239) (0, 0)
  16 * (a.1 - a.2) - 4 * (b.1 - b.2)

/-- S(x) = Σ (−1)^k x^(2k+1) / (2^k k! (2k+1)) = ∫₀ˣ e^(−u²/2) du, as (positive part, negative part), rounded down. -/
def normIntGo (x2 : Nat) : Nat → Nat → Nat → Nat × Nat → Nat × Nat
  | 0, _, _, acc => acc
  | n + 1, k, t, acc =>
    let v := t / (2 * k + 1)
    normIntGo x2 n (k + 1) (t * x2 / 2 ^ fixP / (2 * (k + 1))) (if k % 2 = 0 then (acc.1 + v, acc.2) else (acc.1, acc.2 + v))

/-- Compare x = num/2^200 with Φ⁻¹(0.5 + j/8,192): −1 below, 1 above, 0 undecided. S(x)² against 2π (j/8,192)². -/
def cmpNormal (num j : Nat) : Int :=
  let x := num * 2 ^ (fixP - 200)
  let sp := normIntGo (x * x / 2 ^ fixP) 200 0 x (0, 0)
  let sv := sp.1 - sp.2
  let lhs := sv * sv * 8192 * 8192
  let rhs := 2 * piFix * j * j * 2 ^ fixP
  let tol := 2 ^ (fixP + 100)
  if lhs + tol < rhs then -1 else if rhs + tol < lhs then 1 else 0

/-- 2^200 times the value of a positive binary32 encoding below 8. -/
def b32Scaled (enc : Nat) : Nat :=
  match fmtB32.decode enc with
  | .fin _ s e => s * 2 ^ (e + 200).toNat
  | _ => 0

/-- The largest encoding whose value is below the deviate, by bisection of the bits from bit `i - 1` down. -/
def normSearch (j : Nat) : Nat → Nat → Nat
  | 0, r => r
  | i + 1, r =>
    normSearch j i (if r + 2 ^ i ≤ 0x40FFFFFF ∧ cmpNormal (b32Scaled (r + 2 ^ i)) j = -1 then r + 2 ^ i else r)

/-- T[j] of R128. -/
def normalTable (j : Nat) : Nat :=
  if j = 0 then 0
  else
    let b := normSearch j 31 0
    let c := cmpNormal ((b32Scaled b + b32Scaled (b + 1)) / 2) j
    if c = -1 then b + 1 else if c = 1 then b else Config.specialValue 0x53 j % 2 ^ 32

/-- The normal deviate of a word (R128). -/
def normalDeviate (w : Nat) : Nat :=
  let sgn := bitOf w 31
  let j := bitsOf w 30 19
  let f := (roundQ fmtB32 false (w % 2 ^ 19) (2 ^ 19) none).1
  let lo := normalTable j
  let hi := if j < 4095 then normalTable (j + 1) else lo
  let d := (arithOp fmtB32 1 hi lo 0).1
  let m := (arithOp fmtB32 3 f d lo).1
  if m % 2 ^ 31 = 0 then 0 else if sgn then m ^^^ 0x80000000 else m

end Sys2Proof.Machine
end

