-- ==== Sys2Proof/Machine/VectorOps.lean ====
section
/-! DEFINITION. The V-slot word (R112), the lane-wise operations of R113 to R119, the keyed draws of R127 and the vector memory operations of R120. -/

namespace Sys2Proof.Machine

/-- Fields of a V-slot word (Table 6.2). -/
def vOp (w : W32) : Nat := bitsOf w.toNat 7 0
def vVd (w : W32) : Nat := bitsOf w.toNat 13 8
def vVa (w : W32) : Nat := bitsOf w.toNat 19 14
def vVb (w : W32) : Nat := bitsOf w.toNat 25 20
def vVc (w : W32) : Nat := bitsOf w.toNat 31 26
def vSa (w : W32) : Nat := bitsOf w.toNat 18 14
def vImm (w : W32) : Nat := bitsOf w.toNat 31 19

/-- The op codes of Table 6.3. -/
def vLegalOp (op : Nat) : Bool :=
  decide (1 ≤ op ∧ op ≤ 0x0C) || decide (0x10 ≤ op ∧ op ≤ 0x18) || decide (0x20 ≤ op ∧ op ≤ 0x2B) || decide (0x30 ≤ op ∧ op ≤ 0x32) ||
  decide (0x40 ≤ op ∧ op ≤ 0x46) || decide (0x50 ≤ op ∧ op ≤ 0x53) || decide (op = 0x58) || decide (0x60 ≤ op ∧ op ≤ 0x63)

/-- Three lists in step. -/
def zip3With {α β γ δ : Type} (f : α → β → γ → δ) (a : List α) (b : List β) (c : List γ) : List δ :=
  List.zipWith (fun x yz => f x yz.1 yz.2) a (List.zip b c)

/-- Deliver element results to `vd` at a latency, raising flags in the vector unit (R53, R92). -/
def vDeliver (c : Core) (e : CoreEnv) (row : LatRow) (vd w : Nat) (rs : List (Nat × FlagBits)) : CoreRes :=
  let j := joinLanes rs
  .ok ((c.raise 4 j.2).emit (latency e.tp2 row) (.vreg vd 0 (packElems w j.1)))

/-- An arithmetic operation (0 add, 1 subtract, 2 multiply, 3 fused multiply-add) on every element of a format (R113). A two-operand form must have vc 0 (R112). -/
def vArith (f : Fmt) (op : Nat) (c : Core) (e : CoreEnv) (w : W32) : CoreRes :=
  if op ≠ 3 ∧ vVc w ≠ 0 then .err 0x10
  else
    let k := f.width / 8
    let a := elemsOf k (c.vreg (vVa w))
    let b := elemsOf k (c.vreg (vVb w))
    let d := elemsOf k (c.vreg (vVc w))
    vDeliver c e .vArith (vVd w) k (zip3With (fun x y z => arithOp f op x y z) a b d)

/-- Minimum or maximum on every element of a format (R114). -/
def vMinMax (f : Fmt) (wantMax : Bool) (c : Core) (e : CoreEnv) (w : W32) : CoreRes :=
  if vVc w ≠ 0 then .err 0x10
  else
    let k := f.width / 8
    vDeliver c e .vCmp (vVd w) k (List.zipWith (minMaxVal f wantMax) (elemsOf k (c.vreg (vVa w))) (elemsOf k (c.vreg (vVb w))))

/-- A binary32 comparison mask: false for every comparison with a NaN (R114). -/
def cmpMask (test : Int → Bool) (x y : Nat) : Nat × FlagBits :=
  let a := fmtB32.decode x
  let b := fmtB32.decode y
  (if isNanVal a || isNanVal b then 0 else if test (cmpVal a b) then 0xFFFFFFFF else 0, 0)

/-- A comparison on every lane. -/
def vCompare (test : Int → Bool) (c : Core) (e : CoreEnv) (w : W32) : CoreRes :=
  if vVc w ≠ 0 then .err 0x10
  else vDeliver c e .vCmp (vVd w) 4 (List.zipWith (cmpMask test) (c.lanesOf (vVa w)) (c.lanesOf (vVb w)))

/-- An integer, logical or shift operation on every lane, which raises no flag (R114). -/
def vInt (g : W32 → W32 → W32) (c : Core) (e : CoreEnv) (w : W32) : CoreRes :=
  if vVc w ≠ 0 then .err 0x10
  else
    vDeliver c e .vCmp (vVd w) 4
      (List.zipWith (fun x y => ((g (BitVec.ofNat 32 x) (BitVec.ofNat 32 y)).toNat, 0)) (c.lanesOf (vVa w)) (c.lanesOf (vVb w)))

/-- VSEL: (va AND vc) OR (vb AND NOT vc). -/
def selWord (x y m : Nat) : Nat × FlagBits :=
  let a := BitVec.ofNat 32 x
  let b := BitVec.ofNat 32 y
  let k := BitVec.ofNat 32 m
  (((a &&& k) ||| (b &&& ~~~k)).toNat, 0)

/-- The same value in every lane. -/
def splat (v : Nat) : List (Nat × FlagBits) := List.replicate 128 (v, 0)

/-- VSEL on every lane. -/
def vSelect (c : Core) (e : CoreEnv) (w : W32) : CoreRes :=
  vDeliver c e .vCmp (vVd w) 4 (zip3With selWord (c.lanesOf (vVa w)) (c.lanesOf (vVb w)) (c.lanesOf (vVc w)))

/-- VBCAST: the scalar register va[4:0] in every lane. -/
def vBroadcast (c : Core) (e : CoreEnv) (w : W32) : CoreRes :=
  if vVb w ≠ 0 ∨ vVc w ≠ 0 ∨ vVa w ≥ 32 then .err 0x10
  else vDeliver c e .vCmp (vVd w) 4 (splat (c.sreg (vVa w)).toNat)

/-- VLANE: lane i = i. -/
def vLaneIndex (c : Core) (e : CoreEnv) (w : W32) : CoreRes :=
  if vVa w ≠ 0 ∨ vVb w ≠ 0 ∨ vVc w ≠ 0 then .err 0x10
  else vDeliver c e .vCmp (vVd w) 4 ((List.range 128).map (fun i => (i, 0)))

/-- A one-operand function on every lane. -/
def vUnary (row : LatRow) (g : Nat → Nat × FlagBits) (c : Core) (e : CoreEnv) (w : W32) : CoreRes :=
  if vVb w ≠ 0 ∨ vVc w ≠ 0 then .err 0x10
  else vDeliver c e row (vVd w) 4 ((c.lanesOf (vVa w)).map g)

/-- VDIV on every lane (R115). -/
def vDivide (c : Core) (e : CoreEnv) (w : W32) : CoreRes :=
  if vVc w ≠ 0 then .err 0x10
  else vDeliver c e .vDiv (vVd w) 4 (List.zipWith fDiv (c.lanesOf (vVa w)) (c.lanesOf (vVb w)))

/-! ### VCVT (R116 to R118) -/

/-- Elements that a VCVT converts: N of R117. -/
def cvtCount (fs fd : Nat) : Nat :=
  if fs = 0 ∨ fd = 0 then 128
  else if codeBits fd = 8 ∧ (codeBits fs = 8 ∨ fs = 5) then 512
  else 256

/-- Elements a register holds of a format (Table 6.1). -/
def regElems (code : Nat) : Nat := if code = 5 then 512 else 4096 / codeBits code

/-- The range checks of R116 to R118 on a VCVT word. -/
def cvtLegal (fs fd rnd part : Nat) : Bool :=
  let n := cvtCount fs fd
  let bs := codeBits fs
  let bd := codeBits fd
  decide (fs ≤ 5) && decide (fd ≤ 4) && decide (rnd ≤ 1) && (decide (rnd = 0) || decide (fs = 0)) &&
  (if bs = bd then decide (part = 0) else decide (part * n < regElems (if bs < bd then fs else fd)))

/-- The exact value of element `i` of a register of format `fs`. -/
def regElem (fs : Nat) (bs : List Byte) (i : Nat) : FVal :=
  if fs = 5 then
    let b := (bs.getD (i / 2) 0).toNat
    decodeB4 (bs.getD (256 + i / 32) 0).toNat (if i % 2 = 0 then b % 16 else b / 16)
  else
    let w := codeBits fs / 8
    decodeCode fs (leNat ((bs.drop (i * w)).take w))

/-- VCVT: N elements converted under R48; only the converted elements of a narrower destination are written (R117). With SR the random words are those of register va XOR 1 at the
landing, since a draw may fill it until then (R118). -/
def vConvert (c : Core) (e : CoreEnv) (w : W32) : CoreRes :=
  let n := w.toNat
  let fs := bitsOf n 23 20
  let fd := bitsOf n 27 24
  let rnd := bitsOf n 29 28
  let part := bitsOf n 31 30
  if !cvtLegal fs fd rnd part then .err 0x10
  else
    let cnt := cvtCount fs fd
    let bs := codeBits fs
    let bd := codeBits fd
    let src := c.vreg (vVa w)
    let s0 := if bs < bd then part * cnt else 0
    let d0 := if bd < bs then part * cnt else 0
    let vals := (List.range cnt).map (fun i => regElem fs src (s0 + i))
    if rnd = 1 then .ok (c.emit (latency e.tp2 .vConv) (.cvt (vVd w) (d0 * (bd / 8)) fd vals (vVa w ^^^ 1)))
    else
      let j := joinLanes (vals.map (fun v => convertVal ((fmtOfCode fd).getD fmtB32) v 0 none))
      .ok ((c.raise 4 j.2).emit (latency e.tp2 .vConv) (.vreg (vVd w) (d0 * (bd / 8)) (packElems (bd / 8) j.1)))

/-! ### Keyed draws (R127, R128) -/

/-- One lane of a VRNG: form 0 W, 1 U, 2 B, 3 N, from va, vb and the scalar register of vc. -/
def rngLane (e : CoreEnv) (form tp a b : Nat) : Nat :=
  let w := (keyedWord e.seed e.stream e.stepNo tp (b % 16 * 2 ^ 32 + a)).toNat
  match form with
  | 0 => w
  | 1 => (roundQ fmtB32 false (w / 256) (2 ^ 24) none).1
  | 2 => if w / 256 < b / 256 then 0x3F800000 else 0
  | _ => normalDeviate w

/-- A VRNG draw: no form raises a flag. -/
def vRng (form : Nat) (c : Core) (e : CoreEnv) (w : W32) : CoreRes :=
  if vVc w ≥ 32 then .err 0x10
  else
    let tp := (c.sreg (vVc w)).toNat
    vDeliver c e .vRng (vVd w) 4
      (List.zipWith (fun a b => (rngLane e form tp a b, 0)) (c.lanesOf (vVa w)) (c.lanesOf (vVb w)))

/-- VFRL: the lane generators' outputs; in strict mode the task ends with 0x16 (R133, R136). -/
def vFrl (c : Core) (e : CoreEnv) (w : W32) : CoreRes :=
  if vVa w ≠ 0 ∨ vVb w ≠ 0 ∨ vVc w ≠ 0 then .err 0x10
  else if e.strict then .err 0x16
  else vDeliver c e .vFrl (vVd w) 4 ((List.range 128).map (fun i => ((laneOut (tget 0 c.lanes i)).toNat, 0)))

/-! ### Vector memory operations (R120) -/

/-- The scratchpad address of VLD and VST: s[sa] + 4 × imm. -/
def vAddr (c : Core) (w : W32) : Nat := (c.sreg (vSa w)).toNat + 4 * vImm w

/-- The address checks of R120. -/
def vAddrLegal (a : Nat) : Bool := decide (a % 4 = 0 ∧ a + 512 ≤ spadBytes)

/-- VLD: 512 bytes of valid lines into vd; an invalid line ends the task with 0x11 (R103). -/
def vLoad (c : Core) (e : CoreEnv) (w : W32) : CoreRes :=
  if !vAddrLegal (vAddr c w) then .err 0x10
  else
    match c.spadRead (vAddr c w) 512 with
    | none => .err 0x11
    | some bs => .ok (c.emit (latency e.tp2 .vLoad) (.vreg (vVd w) 0 bs))

/-- VST: the 512 bytes of vd to the scratchpad. -/
def vStore (c : Core) (e : CoreEnv) (w : W32) : CoreRes :=
  if !vAddrLegal (vAddr c w) then .err 0x10
  else .ok (c.emit (latency e.tp2 .vStore) (.spad (vAddr c w) (c.vreg (vVd w))))

/-- VACC: accumulator rows r and r + 1 into lanes 0–63 and 64–127. -/
def vAccRead (c : Core) (e : CoreEnv) (w : W32) : CoreRes :=
  let r := (c.sreg (vSa w)).toNat + vImm w
  if r > 4094 then .err 0x10
  else .ok (c.emit (latency e.tp2 .vAcc)
    (.vreg (vVd w) 0 (packElems 4 ((List.range 128).map (fun i => c.acc (r + i / 64) (i % 64))))))

/-- VFLG: the flag word of the task's shard in every lane. -/
def vFlagRead (c : Core) (e : CoreEnv) (w : W32) : CoreRes :=
  if vSa w ≠ 0 ∨ vImm w ≠ 0 then .err 0x10
  else vDeliver c e .vFlag (vVd w) 4 (splat e.flagWord)

end Sys2Proof.Machine
end

