-- ==== Sys2Proof/Machine/SlotOps.lean ====
section
/-! DEFINITION. The C-slot operations (R446, R447, R171), the S-slot operations at issue (R150 to R155, R207 to R212), the holds of R94, and the cycle of a core
(R87, R92, R105, R133). -/

namespace Sys2Proof.Machine

/-! ### Scalar operations (R446) -/

def cOp (w : W32) : Nat := bitsOf w.toNat 7 0
def cSd (w : W32) : Nat := bitsOf w.toNat 12 8
def cSa (w : W32) : Nat := bitsOf w.toNat 17 13
def cSb (w : W32) : Nat := bitsOf w.toNat 22 18
def cImm14 (w : W32) : BitVec 14 := BitVec.extractLsb' 18 14 w

/-- The op codes of Table 5.12. -/
def cLegalOp (op : Nat) : Bool :=
  decide (0xC0 ≤ op ∧ op ≤ 0xCA) || decide (0xD0 ≤ op ∧ op ≤ 0xD4) || decide (op = 0xE0) || decide (op = 0xE4) || decide (op = 0xE8) || decide (op = 0xFF)

/-- A two-register scalar operation; its reserved bits [31:23] must be 0. -/
def scalarReg (g : W32 → W32 → W32) (c : Core) (e : CoreEnv) (w : W32) : CoreRes :=
  if bitsOf w.toNat 31 23 ≠ 0 then .err 0x10
  else .ok (c.emit (latency e.tp2 .scalar) (.sreg (cSd w) (g (c.sreg (cSa w)) (c.sreg (cSb w)))))

/-- A scalar operation with a 14-bit immediate, extended as `ext` says. -/
def scalarImm (ext : BitVec 14 → W32) (g : W32 → W32 → W32) (c : Core) (e : CoreEnv) (w : W32) : CoreRes :=
  .ok (c.emit (latency e.tp2 .scalar) (.sreg (cSd w) (g (c.sreg (cSa w)) (ext (cImm14 w)))))

/-- LUI: sd = imm19 × 2^13. -/
def scalarLui (c : Core) (e : CoreEnv) (w : W32) : CoreRes :=
  .ok (c.emit (latency e.tp2 .scalar) (.sreg (cSd w) (BitVec.ofNat 32 (bitsOf w.toNat 31 13 * 2 ^ 13))))

/-! ### Control (R447, R100) -/

/-- A body that ends at bundle `last` lies in the innermost active body. -/
def bodyFits (loops : List LoopFrame) (last : Nat) : Bool :=
  match loops with
  | [] => true
  | f :: _ => decide (last ≤ f.last)

/-- A branch target lies in the innermost active body. -/
def targetFits (loops : List LoopFrame) (t : Nat) : Bool :=
  match loops with
  | [] => true
  | f :: _ => decide (f.first ≤ t ∧ t ≤ f.last)

/-- LOOP: count N = s[sa] at issue; body of n bundles after this one. -/
def issueLoop (c : Core) (_e : CoreEnv) (w : W32) : CoreRes :=
  let n := w.toNat
  let body := bitsOf n 27 14
  if bitOf n 13 ∨ bitsOf n 31 28 ≠ 0 ∨ body = 0 then .err 0x10
  else if c.loops.length ≥ 4 then .err 0x10
  else if !bodyFits c.loops (c.pc + body) then .err 0x10
  else
    let cnt := (c.sreg (bitsOf n 12 8)).toNat
    if cnt = 0 then .ok { c with next := some (c.pc + body + 1, 0) }
    else .ok { c with loops := ⟨c.pc + 1, c.pc + body, cnt - 1⟩ :: c.loops }

/-- Whether a BR is taken (R447). -/
def brTaken (cond : Nat) (v : W32) : Bool :=
  match cond with
  | 0 => true
  | 1 => v = 0
  | 2 => v ≠ 0
  | _ => v.msb

/-- BR: a taken branch must stay in the innermost active body; it pays the penalty of Table 5.3. -/
def issueBr (c : Core) (e : CoreEnv) (w : W32) : CoreRes :=
  let n := w.toNat
  let target := bitsOf n 28 15
  if bitsOf n 31 29 ≠ 0 then .err 0x10
  else if !brTaken (bitsOf n 9 8) (c.sreg (bitsOf n 14 10)) then .ok c
  else if !targetFits c.loops target then .err 0x10
  else .ok { c with next := some (target, branchPenalty e.tp2) }

/-- END: the last bundle of the kernel (R100, step 2). -/
def issueEnd (c : Core) (_e : CoreEnv) (w : W32) : CoreRes :=
  if bitsOf w.toNat 31 8 ≠ 0 then .err 0x10 else .ok { c with ending := true }

/-- Whether a counter number lies in the context's windows (R166). -/
def inWindow (wins : Tab (Nat × Nat)) (num : Nat) : Bool := decide (num % 16384 < (tget (0, 0) wins (num / 16384)).2)

/-- SIG (R171): queued until its condition is met; at most 16 per task; a counter number outside the windows is illegal (R166). -/
def issueSig (c : Core) (e : CoreEnv) (w : W32) : CoreRes :=
  let n := w.toNat
  let sop := bitsOf n 9 8
  let a := (c.sreg (bitsOf n 14 10)).toNat
  if bitsOf n 31 20 ≠ 0 ∨ sop = 0 ∨ sop = 3 ∨ a ≥ 2 ^ 18 ∨ !inWindow e.wins a ∨ c.sigCount ≥ 16 then .err 0x10
  else
    .ok { c with
      sigs := c.sigs ++ [⟨c.icyc, a, sop, (c.sreg (bitsOf n 19 15)).toNat⟩]
      sigCount := c.sigCount + 1 }

/-- Whether every operation issued up to cycle `iss` has landed and completed (R171). -/
def Core.settledUpTo (c : Core) (iss : Nat) : Bool :=
  decide (iss < c.icyc) && c.lands.all (fun l => decide (iss < l.iss)) &&
  (match c.mma with | none => true | some r => decide (iss < r.t0) || !c.streamBusy) &&
  c.convs.all (fun k => decide (iss < k.2.t0) || !k.2.reserved c.icyc) &&
  c.copies.all (fun k => decide (iss < k.iss)) &&
  c.outEps.all (fun ep => ep.2.all (fun x => decide (iss < x.1)))

/-! ### Fills (R151) -/

/-- The fields of a WFILL record (Table 7.7) with the word's offsets added. -/
structure WfillF where
  array : Nat
  half : Nat
  sel : Nat
  transpose : Bool
  tiles : Nat
  fmt : Nat
  src : Nat
  tileStride : Nat
  rowStride : Nat
  scaleOff : Nat
  rsv : Nat
  deriving DecidableEq, Repr

def wfillFields (r addSrc addScale : Nat) : WfillF :=
  { array := bitsOf r 1 0, half := bitsOf r 2 2, sel := bitsOf r 4 3, transpose := bitOf r 5, tiles := bitsOf r 9 6, fmt := bitsOf r 13 10,
    src := bitsOf r 55 16 + addSrc, tileStride := bitsOf r 87 56, rowStride := bitsOf r 111 88, scaleOff := bitsOf r 151 112 + addScale,
    rsv := bitsOf r 15 14 + bitsOf r 255 152 }

/-- Stored rows of a tile and bytes per stored row (R151, R200). -/
def WfillF.rows (f : WfillF) (p : Pairing) : Nat := if f.transpose then 64 else if p.bits = 4 then 128 else p.c
def WfillF.rowLen (f : WfillF) (p : Pairing) : Nat := if f.transpose then p.c * p.bits / 8 else if p.bits = 4 then 64 else 8 * p.bits

/-- The range checks of Table 7.7 and the extent check of R151 against the bound version's size. -/
def WfillF.legal (f : WfillF) (p : Pairing) (size : Nat) : Bool :=
  decide (f.rsv = 0) && decide (1 ≤ f.tiles ∧ f.tiles ≤ p.slots / 2) && decide (f.src % 64 = 0) && decide (f.tileStride % 64 = 0) &&
  decide (f.rowStride % 64 = 0) && decide (f.scaleOff % 8 = 0) && (decide (p.bits = 4) || decide (f.scaleOff = 0)) &&
  decide (f.src + (f.tiles - 1) * f.tileStride + (f.rows p - 1) * f.rowStride + f.rowLen p ≤ size) &&
  (decide (p.bits ≠ 4) || decide (f.scaleOff + 512 * f.tiles ≤ size))

/-- Issue of WFILL: the half stops being ready in this cycle (R152). -/
def issueWfill (c : Core) (e : CoreEnv) (w : W32) : CoreRes :=
  let n := w.toNat
  match fetchRecord c e (bitsOf n 16 4) with
  | none => .err 0x15
  | some r =>
    let reg := fun i => if i = 31 then 0 else (c.sreg i).toNat
    let fr : FillRun := ⟨r, reg (bitsOf n 21 17), reg (bitsOf n 31 27), 0, 0, []⟩
    let f := wfillFields r fr.addSrc fr.addScale
    match pairingOf f.fmt, e.regSize.getD f.sel none with
    | some p, some size =>
      if bitsOf n 26 22 ≠ 31 ∨ !f.legal p size then .err 0x10
      else .ok { c.setHalf f.array f.half 1 with fills := c.fills ++ [fr] }
    | _, _ => .err 0x10

/-- The bytes of the half that a fill writes, from a reader of region bytes (R64, R151, R200). -/
def fillHalf (f : WfillF) (p : Pairing) (rd : Nat → Nat → List Byte) : List Byte :=
  let tile := fun i =>
    let base := f.src + i * f.tileStride
    let rows := (List.range (f.rows p)).map (fun r => rd (base + r * f.rowStride) (f.rowLen p))
    let elems : List Byte :=
      if !f.transpose then rows.flatMap id
      else if p.bits = 4 then
        (List.range p.c).flatMap (fun k =>
          (List.range 32).map (fun jp =>
            let nib := fun (col : Nat) => let b := ((rows.getD col []).getD (k / 2) 0).toNat; if k % 2 = 0 then b % 16 else b / 16
            BitVec.ofNat 8 (nib (2 * jp) + 16 * nib (2 * jp + 1))))
      else
        let w := p.bits / 8
        (List.range p.c).flatMap (fun k => rows.flatMap (fun row => (row.drop (k * w)).take w))
    let scales := if p.bits = 4 then rd (f.scaleOff + 512 * i) 512 else []
    (elems ++ scales ++ List.replicate p.slotSize 0).take p.slotSize
  (((List.range f.tiles).flatMap tile) ++ List.replicate 65536 0).take 65536

/-! ### Streams (R150, R153 to R155) -/

def sEp (w : W32) : Nat := bitsOf w.toNat 6 4
def sLen (w : W32) : Nat := 64 * (bitsOf w.toNat 9 7 + 1)
def sAddr (c : Core) (w : W32) : Nat := (c.sreg (bitsOf w.toNat 14 10)).toNat + 64 * bitsOf w.toNat 31 15

/-- The address checks of Table 7.6. -/
def sLegal (c : Core) (w : W32) : Bool :=
  decide ((c.sreg (bitsOf w.toNat 14 10)).toNat % 64 = 0) && decide (sAddr c w + sLen w ≤ spadBytes)

/-- SEND: scratchpad lines into an outbound endpoint buffer (R154). -/
def issueSend (c : Core) (_e : CoreEnv) (w : W32) : CoreRes :=
  if !sLegal c w then .err 0x10
  else
    match c.spadRead (sAddr c w) (sLen w) with
    | none => .err 0x11
    | some bs =>
      let off := tget 0 c.sent (sEp w)
      let c := { c with outEps := tset c.outEps (sEp w) (tget [] c.outEps (sEp w) ++ [(c.icyc, bs)]), sent := tput 0 c.sent (sEp w) (off + bs.length) }
      .ok ((chunksOf 64 8 bs).zipIdx.foldl (fun c x => c.addEffect ([1] ++ leBytes 1 (sEp w) ++ leBytes 4 (off + 64 * x.2) ++ x.1)) c)

/-- RECV: bytes of a read endpoint into scratchpad lines, at the latency of a vector store (R155). -/
def issueRecv (c : Core) (e : CoreEnv) (w : W32) : CoreRes :=
  if !sLegal c w then .err 0x10
  else
    let held := tget [] c.inEps (sEp w)
    .ok ({ c with inEps := tput [] c.inEps (sEp w) (held.drop (sLen w)) }.emit (latency e.tp2 .vStore)
      (.spad (sAddr c w) (held.take (sLen w))))

/-! ### Copies (R207 to R212) -/

/-- The fields of a COPY record (Table 9.10); `add` is the register offset added to src. -/
structure CopyF where
  srcKind : Nat
  dstKind : Nat
  srcSel : Nat
  dstSel : Nat
  gather : Bool
  transpose : Bool
  esize : Nat
  conv : Bool
  fmtS : Nat
  fmtD : Nat
  hash : Nat
  src : Nat
  dst : Nat
  rowBytes : Nat
  rows : Nat
  srcStride : Nat
  dstStride : Nat
  idxAddr : Nat
  rnd : Nat
  rsv : Nat
  deriving DecidableEq, Repr

def copyFields (r add : Nat) : CopyF :=
  { srcKind := bitsOf r 1 0, dstKind := bitsOf r 3 2, srcSel := bitsOf r 5 4, dstSel := bitsOf r 7 6, gather := bitOf r 8,
    transpose := bitOf r 9, esize := bitsOf r 11 10, conv := bitOf r 12, fmtS := bitsOf r 16 13, fmtD := bitsOf r 20 17,
    hash := bitsOf r 22 21, src := bitsOf r 71 24 + add, dst := bitsOf r 119 72, rowBytes := (bitsOf r 137 120 + 1) * 4,
    rows := bitsOf r 153 138 + 1, srcStride := bitsOf r 185 154, dstStride := bitsOf r 217 186, idxAddr := bitsOf r 240 218,
    rnd := bitsOf r 242 241, rsv := bitsOf r 23 23 + bitsOf r 255 243 }

/-- Bits of a source element: of fmt_s under conversion, else of esize. -/
def CopyF.srcBits (f : CopyF) : Nat := if f.conv then codeBits f.fmtS else 4 * 2 ^ f.esize
/-- Bits of a destination element. -/
def CopyF.dstBits (f : CopyF) : Nat := if f.conv then codeBits f.fmtD else 4 * 2 ^ f.esize
/-- Elements of a source row. A B4 row holds b blocks of 32 elements in 17 b bytes (R210). -/
def CopyF.rowElems (f : CopyF) : Nat :=
  if f.conv ∧ f.fmtS = 5 then f.rowBytes / 17 * 32 else f.rowBytes * 8 / f.srcBits
/-- Destination rows and bytes per destination row (R210). -/
def CopyF.dstRows (f : CopyF) : Nat := if f.transpose then f.rowElems else f.rows
def CopyF.dstRowBytes (f : CopyF) : Nat :=
  if f.transpose then ceilDiv (f.rows * f.dstBits) 8
  else if f.conv then f.rowElems * f.dstBits / 8 else f.rowBytes

/-- The range checks of Table 9.10 and R210 on the effective fields; `ssize`, `dsize` are the sizes of the version bound for the source and the
destination where they are of kind region. -/
def CopyF.legal (f : CopyF) (ssize dsize : Option Nat) : Bool :=
  decide (f.rsv = 0) && decide (f.srcKind ≤ 2) && decide (f.dstKind ≤ 2) &&
  decide (f.src % 4 = 0) && decide (f.dst % 4 = 0) && decide (f.srcStride % 4 = 0) && decide (f.dstStride % 4 = 0) &&
  decide (f.idxAddr % 4 = 0) && (!f.gather || decide (f.idxAddr + 4 * f.rows ≤ spadBytes)) && decide (f.rnd = 0) &&
  (f.conv || f.transpose || (decide (f.fmtS = 0) && decide (f.fmtD = 0) && decide (f.esize = 0))) &&
  decide (f.fmtS ≤ 6) && decide (f.fmtD ≤ 4) &&
  (!f.conv ||
    (if f.fmtS = 5 then decide (f.rowBytes % 68 = 0) else decide (f.rowBytes * 8 % codeBits f.fmtS = 0))) &&
  (!f.transpose || (decide (f.fmtS ≠ 5) && decide (f.rowBytes * 8 % f.srcBits = 0) &&
    (!f.conv || decide (4 * 2 ^ f.esize = codeBits f.fmtS)))) &&
  decide (f.rows * f.rowBytes ≤ 64 * 2 ^ 20) &&
  (match f.srcKind with
    | 0 => true
    | 1 => (match ssize with
      | none => false
      | some n => f.gather || decide (f.src + (f.rows - 1) * f.srcStride + f.rowBytes ≤ n))
    | _ => f.gather || decide (f.src + (f.rows - 1) * f.srcStride + f.rowBytes ≤ spadBytes)) &&
  (match f.dstKind with
    | 0 => true
    | 1 => (match dsize with
      | none => false
      | some n => decide (f.dst + (f.dstRows - 1) * f.dstStride + f.dstRowBytes ≤ n))
    | _ => decide (f.dst + (f.dstRows - 1) * f.dstStride + f.dstRowBytes ≤ spadBytes))

/-- The run-time offset of a copy word: the register `i`, or 0 for s31. -/
def copyAdd (c : Core) (i : Nat) : Nat := if i = 31 then 0 else (c.sreg i).toNat

/-- COPY at issue: checked and started under its tag (R208, R210). -/
def issueCopy (c : Core) (e : CoreEnv) (w : W32) : CoreRes :=
  let n := w.toNat
  match fetchRecord c e (bitsOf n 16 4) with
  | none => .err 0x15
  | some r =>
    let add := copyAdd c (bitsOf n 30 26)
    let f := copyFields r add
    if bitOf n 31 ∨ !f.legal (e.regSize.getD f.srcSel none) (e.regPend.getD f.dstSel none) then .err 0x10
    else if f.hash ≠ 0 ∧ (65536 ≤ c.hashed ∨ e.hashBad) then .err 0x10
    else .ok { c with copies := c.copies ++ [⟨bitsOf n 25 17, false, r, add, c.icyc, c.hashed, [], [], false, none⟩], hashed := c.hashed + (if f.hash = 0 then 0 else 1) }

/-- The fields of an ATOM record (Table 9.11). -/
structure AtomF where
  aop : Nat
  base : Nat
  stride : Nat
  n : Nat
  idxAddr : Nat
  valAddr : Nat
  rsv : Nat
  deriving DecidableEq, Repr

def atomFields (r add : Nat) : AtomF :=
  { aop := bitsOf r 3 0, base := bitsOf r 51 4 + add, stride := bitsOf r 83 52, n := bitsOf r 99 84 + 1, idxAddr := bitsOf r 122 100,
    valAddr := bitsOf r 145 123, rsv := bitsOf r 255 146 }

/-- Element size of an ATOM in bytes. -/
def AtomF.width (f : AtomF) : Nat := if f.aop = 2 then 8 else 4

/-- The range checks of Table 9.11. -/
def AtomF.legal (f : AtomF) : Bool :=
  decide (f.rsv = 0) && decide (1 ≤ f.aop ∧ f.aop ≤ 10) && decide (f.base % f.width = 0) && decide (f.stride % f.width = 0) &&
  decide (f.idxAddr % 4 = 0) && decide (f.valAddr % f.width = 0) && decide (f.idxAddr + 4 * f.n ≤ spadBytes) &&
  decide (f.valAddr + f.width * f.n ≤ spadBytes)

/-- ATOM at issue: the floating-point add faults in strict mode (R32, R205); the index and value lists are read from valid lines (R103). -/
def issueAtom (c : Core) (e : CoreEnv) (w : W32) : CoreRes :=
  let n := w.toNat
  match fetchRecord c e (bitsOf n 16 4) with
  | none => .err 0x15
  | some r =>
    let add := copyAdd c (bitsOf n 30 26)
    let f := atomFields r add
    if bitOf n 31 ∨ !f.legal then .err 0x10
    else if f.aop = 10 ∧ e.strict then .err 0x16
    else
      match c.spadRead f.idxAddr (4 * f.n), c.spadRead f.valAddr (f.width * f.n) with
      | some is, some vs =>
        let todo := List.zipWith (fun i v => (((Int.ofNat f.base + signedOf 32 i * f.stride) % 2 ^ 48).toNat, v)) (elemsOf 4 is) (elemsOf f.width vs)
        .ok { c with copies := c.copies ++ [⟨bitsOf n 25 17, true, r, add, c.icyc, 0, todo, [], false, none⟩] }
      | _, _ => .err 0x11

/-- The address and line count of a PREF (R211), or none for an illegal encoding. A page is 64 KiB (R191). -/
def prefRange (c : Core) (w : W32) (r : Nat) : Option (Nat × Nat) :=
  let n := w.toNat
  let a := bitsOf r 47 0 + copyAdd c (bitsOf n 21 17)
  let k := bitsOf r 57 48 + 1
  if bitsOf n 31 22 ≠ 0 ∨ bitsOf r 255 58 ≠ 0 ∨ a / 65536 ≠ (a + 64 * k - 1) / 65536 then none else some (a, k)

/-- PREF at issue: it takes no tag and its task does not wait for it. -/
def issuePref (c : Core) (e : CoreEnv) (w : W32) : CoreRes :=
  match fetchRecord c e (bitsOf w.toNat 16 4) with
  | none => .err 0x15
  | some r => match prefRange c w r with
    | none => .err 0x10
    | some _ => .ok c

/-- CWAIT: the tag's last status to sd (R209). -/
def issueCwait (c : Core) (e : CoreEnv) (w : W32) : CoreRes :=
  let n := w.toNat
  if bitsOf n 16 13 ≠ 0 ∨ bitsOf n 31 22 ≠ 0 then .err 0x10
  else .ok (c.emit (latency e.tp2 .scalar) (.sreg (bitsOf n 21 17) (BitVec.ofNat 32 (tget 0 c.tagStatus (bitsOf n 12 4)))))

/-! ### Holds (R94) and the cycle of a core -/

/-- Whether the S-slot operation of the present bundle holds: a full outbound buffer, missing inbound bytes, a busy copy tag, or no free hash unit. -/
def sIssueHold (c : Core) (e : CoreEnv) (w : W32) : Bool :=
  let n := w.toNat
  match bitsOf n 3 0 with
  | 2 => sLegal c w && decide (c.outHeld (sEp w) + sLen w > 2048)
  | 3 => sLegal c w && decide ((tget [] c.inEps (sEp w)).length < sLen w)
  | 4 => c.tagBusy (bitsOf n 25 17) ||
    (e.hashBusy && (match fetchRecord c e (bitsOf n 16 4) with | some r => decide (bitsOf r 22 21 ≠ 0) | none => false))
  | 5 => c.tagBusy (bitsOf n 25 17)
  | 7 => c.tagBusy (bitsOf n 12 4)
  | _ => false

/-- The word of slot `slot` of the present bundle; 0 beyond the window. -/
def Core.slotWord (c : Core) (e : CoreEnv) (slot : Nat) : W32 := (fetchSlot c e c.pc slot).getD 0

/-- The core holds issue in the present cycle (R94): the instruction in progress waits for a staging half, or the bundle, of which no slot has issued,
would hold. -/
def Core.holding (c : Core) (e : CoreEnv) : Bool :=
  c.run.isSome && (!c.halted || c.ended) &&
    (c.chunkHold ||
      (c.canFetch && decide (c.issued = 0) &&
        ((decide (bitsOf (c.slotWord e 0).toNat 3 0 = 1 ∨ bitsOf (c.slotWord e 0).toNat 3 0 = 2) && mmaIssueHold c e (c.slotWord e 0)) ||
          sIssueHold c e (c.slotWord e 2))))

/-- Whether a slot word's op code is absent from its table (R90, R112, R150, R446); a no-operation word with other bits set counts among them. -/
def badWord (slot : Nat) (w : W32) : Bool :=
  if w = 0 then false
  else
    let n := w.toNat
    match slot with
    | 0 => decide (bitsOf n 3 0 = 0 ∨ 4 ≤ bitsOf n 3 0)
    | 1 => !vLegalOp (bitsOf n 7 0)
    | 2 => decide (bitsOf n 3 0 = 0 ∨ 8 ≤ bitsOf n 3 0)
    | _ => !cLegalOp (bitsOf n 7 0)

/-- Slot `slot` and the op field of its word (R87, R112, R150, R446). -/
def opAt (slot : Nat) (w : W32) : OpAt := (if slot = 0 ∨ slot = 2 then bitsOf w.toNat 3 0 else bitsOf w.toNat 7 0, slot)

/-- An error at issue names the operation of its word (Table 13.5). -/
def CoreRes.named (slot : Nat) (w : W32) : CoreRes → CoreRes
  | .ok c => .ok c
  | .err st _ => .err st (opAt slot w)

/-- Every slot of the present bundle has issued or is a no-operation. -/
def Core.bundleDone (c : Core) (e : CoreEnv) : Bool :=
  (List.range 4).all (fun s => c.slotIssued s || decide (c.slotWord e s = 0))

/-- The loop back edge (R447): after the last bundle of the innermost body, back to its first bundle while iterations remain. -/
def backEdge (pc : Nat) : List LoopFrame → Nat × List LoopFrame
  | [] => (pc + 1, [])
  | f :: fs =>
    if pc ≠ f.last then (pc + 1, f :: fs)
    else if f.left = 0 then backEdge pc fs
    else (f.first, { f with left := f.left - 1 } :: fs)

/-- Move to the next bundle after the present one has issued: a taken branch or an empty loop, else the back edge or the next in sequence. An empty loop at the end of the enclosing
body leaves that body without its back edge (DESIGN CHOICE, assumption log 132). -/
def Core.nextBundle (c : Core) : Core :=
  let c := { c with issued := 0, halted := c.halted || c.haltNext, haltNext := false }
  if c.ending then { c with ended := true }
  else
    match c.next with
    | some (t, p) => { c with pc := t, pen := p, next := none, loops := if p = 0 then c.loops.filter (fun f => decide (t ≤ f.last)) else c.loops }
    | none =>
      let b := backEdge c.pc c.loops
      { c with pc := b.1, loops := b.2 }

/-- The end of an arithmetic cycle that is not held: operands of the cycle are read (R448), the cycle count advances, and the next bundle stands ready. -/
def Core.passCycle (c : Core) (e : CoreEnv) (bundle : Bool) : CoreRes :=
  match mmaCycle c e (latency e.tp2 .mma) with
  | .err st op => .err st op
  | .ok c =>
    let c := convsCycle e c
    let c := if bundle then c.nextBundle else if c.pen ≠ 0 then { c with pen := c.pen - 1 } else c
    let c := { c with icyc := c.icyc + 1, cyc := c.cyc + 1, wd := if c.halted then c.wd else c.wd + 1 }
    if c.canFetch ∧ e.winSize < (c.pc + 1) * 16 then .err 0x15
    else if c.chunkEmpty then .err 0x19 c.mmaOp
    else .ok c

/-- One arithmetic cycle of a core with a running task (R87, R92, R94, R105). A held cycle moves only the cycle counts. A bundle that has not wholly issued means
that the limiter withholds the cycle: nothing moves. In a halted core nothing moves either, so that what is in flight lands at its cycle count (R381); a kernel that has ended still drains. -/
def Core.cycle (c : Core) (e : CoreEnv) : CoreRes :=
  if c.halted ∧ !c.ended then .ok c
  else
    match c.landDue with
    | .err st op => .err st op
    | .ok c =>
      if c.holding e then .ok { c with cyc := c.cyc + 1, wd := if c.halted then c.wd else c.wd + 1 }
      else if c.canFetch then
        match (List.range 4).find? (fun s => badWord s (c.slotWord e s)) with
        | some slot => .err 0x10 (opAt slot (c.slotWord e slot))
        | none => if c.bundleDone e then c.passCycle e true else .ok c
      else c.passCycle e false

/-- Why a slot operation does not issue now, or that it may: the word is the one at the present bundle, its slot has not issued, and the core does not hold. -/
def Core.mayIssue (c : Core) (e : CoreEnv) (slot : Nat) (w : W32) : Bool :=
  c.canFetch && !c.slotIssued slot && decide (fetchSlot c e c.pc slot = some w) && !c.holding e

/-- Issue of one slot operation (R87): results due are landed first; an op code absent from the table ends the task with 0x10; a word of another operation
does not issue; else the operation takes effect and its slot has issued. -/
def Core.issue (c : Core) (e : CoreEnv) (slot : Nat) (isOp : W32 → Bool) (eff : Core → CoreEnv → W32 → CoreRes) (w : W32) : CoreRes :=
  match c.landDue with
  | .err st op => .err st op
  | .ok c =>
    if !c.mayIssue e slot w then .ok c
    else if badWord slot w then .err 0x10 (opAt slot w)
    else if !isOp w then .ok c
    else (eff (c.markIssued slot) e w).named slot w

end Sys2Proof.Machine
end

