-- ==== Sys2Proof/Machine/Ops.lean ====
section
/-! DEFINITION. The named operations over the state that every family uses: cores, contexts, queues, statistics, memory with its checks (R189, R352, R353), error records
(R315 to R317), stopping and aborting a context (R275, R319, R449), ending a tile-task in error (R101), fencing a core (R321). -/

namespace Sys2Proof.Machine

/-! ### Parts of the state -/

/-- Core `c`. -/
def State.core (s : State) (c : Nat) : Core := tget Core.reset s.cores c
/-- Replace core `c`. -/
def State.setCore (s : State) (c : Nat) (k : Core) : State := { s with cores := tput Core.reset s.cores c k }
/-- Context `n`. -/
def State.ctx (s : State) (n : Nat) : Ctx := tget Ctx.reset s.ctxs n
/-- Replace context `n`. -/
def State.setCtx (s : State) (n : Nat) (k : Ctx) : State := { s with ctxs := tput Ctx.reset s.ctxs n k }
/-- Change context `n`. -/
def State.modCtx (s : State) (n : Nat) (f : Ctx → Ctx) : State := s.setCtx n (f (s.ctx n))
/-- The next free value below `n` (assumption log 6). -/
def State.freeVal (s : State) (n : Nat) : Nat := Config.free s.freeIx % n
/-- Count `k` free values as drawn. -/
def State.drawn (s : State) (k : Nat) : State := { s with freeIx := s.freeIx + k }
/-- The device's cabinet index (R258). -/
def State.cab (s : State) : Nat := bitsOf s.root.straps 17 11
/-- The arbiter of core `c`. -/
def State.arb (s : State) (c : Nat) : Arb := tget Arb.reset s.arbs c
/-- Header of the block of page `p`. -/
def State.blk (s : State) (p : Nat) : Blk := tget Blk.reset s.regs.blks p
/-- Change the header of the block of page `p`. -/
def State.modBlk (s : State) (p : Nat) (f : Blk → Blk) : State :=
  { s with regs := { s.regs with blks := tput Blk.reset s.regs.blks p (f (s.blk p)) } }
/-- Set a bit of BLK_ERR of the block that page `p` belongs to. -/
def State.blkErr (s : State) (p bit : Nat) : State :=
  s.modBlk (ownerPage p) (fun b => { b with err := b.err ||| 2 ^ bit })
/-- Link `l`. -/
def State.link (s : State) (l : Nat) : Link := tget Link.reset s.links l
/-- Replace link `l`. -/
def State.setLink (s : State) (l : Nat) (k : Link) : State := { s with links := tput Link.reset s.links l k }

/-! ### Ports, routes and what is sent (R250, R263) -/

/-- The links of port `p` by the port map in effect (Table 11.5). -/
def State.portLinks (s : State) (p : Nat) : List Nat :=
  (List.range 32).filter (fun l => bitOf (s.regs.word 3 (0x100 + 8 * p)) l)
/-- The live links of port `p`: those in ACTIVE (R253). -/
def State.liveLinks (s : State) (p : Nat) : List Nat := (s.portLinks p).filter (fun l => decide ((s.link l).state = 6))
/-- The entry of the route table for device `d` (Table 11.15). -/
def State.routeEntry (s : State) (d : Nat) : Nat := s.regs.word 3 (0x400 + 4 * d)
/-- The home link die of a port: the one that holds most of its links, the lower-numbered on a tie (R250). -/
def State.portHome (s : State) (p : Nat) : Nat :=
  let n := fun j => ((s.portLinks p).filter (fun l => decide (l / 11 = j))).length
  if n 1 ≤ n 0 ∧ n 2 ≤ n 0 then 0 else if n 2 ≤ n 1 then 1 else 2
/-- The link that SYNC traffic of a port uses: a live link of its home link die where one exists, else any live link (R266). -/
def State.syncLink (s : State) (p : Nat) : Option Nat :=
  ((s.liveLinks p).find? (fun l => decide (l / 11 = s.portHome p))).orElse (fun _ => (s.liveLinks p).head?)
/-- The port toward device `d`: its entry is valid and the port has a live link. -/
def State.routePort (s : State) (d : Nat) : Option Nat :=
  let e := s.routeEntry d
  if bitOf e 3 ∧ !(s.liveLinks (e % 8)).isEmpty then some (e % 8) else none

/-- Append to what the module has sent. -/
def State.emit (s : State) (o : Out) : State := { s with out := s.out ++ [o] }

/-! ### Credits of a port (R247, Table 11.3) -/

/-- Key of a credit count: port and unit (0 to 63 a context's SCHED credits, 64 to 71 OPEN as VC × 2 + sub-channel, 72 MAINT, 73 SYNC). -/
def creditKey (p u : Nat) : Nat := p * 128 + u
def maintUnit : Nat := 72
def syncUnit : Nat := 73
/-- Credits of a unit that are out at a port. -/
def State.creditsOut (s : State) (p u : Nat) : Nat := tget 0 s.ports.sent (creditKey p u) - tget 0 s.ports.back (creditKey p u)
/-- `n` packets of a unit are sent at a port. -/
def State.spend (s : State) (p u n : Nat) : State :=
  { s with ports := { s.ports with sent := tput 0 s.ports.sent (creditKey p u) (tget 0 s.ports.sent (creditKey p u) + n) } }

/-- A SYNC message leaves by a port while it holds one of the port's 64 credits; else it waits (R247, R249). -/
def State.sendSync (s : State) (p : Nat) (o : Out) : State :=
  match s.syncLink p, o with
  | some l, .sync d kind fields =>
    if s.creditsOut p syncUnit < 64 then (s.spend p syncUnit 1).emit (.syncOn l d kind fields)
    else { s with ports := { s.ports with syncq := tput [] s.ports.syncq p (tget [] s.ports.syncq p ++ [o]) } }
  | _, _ => s

/-- The other device that a message is routed to. -/
def Out.target : Out → Option Nat
  | .sync d _ _ | .mgmt d _ _ | .remote d .. | .response d _ _ | .coll d .. => some d
  | _ => none

/-- The class of the record of a message that has no route: signal undeliverable in the SYNC class, else route unavailable (R179, R263). -/
def Out.lostClass : Out → Nat
  | .sync .. => 0x35
  | _ => 0x39

/-- An error record of a message discarded for want of a route to device `d`. -/
def lostRec (cab now cls d : Nat) : ErrRec :=
  { action := if cls = 0x35 then 0 else 0xB, cls := cls, unitKind := 8, die := 0, core := 0, unitIndex := d, opcode := 0xFF, opSlot := 0, ctx := 0, queue := 0,
    taskId := 0, ctxValid := false, cabIndex := cab, cq := false, time := now, step := 0, temp := 0, railMv := 0, addr := 0, syndrome := d, seq := 0 }

/-- Send a message: to a host, a pin or a link directly; to another device by the route table, or discarded with its record where no live route leads there, a request being
answered to its source with an error response. -/
def State.send (s : State) (o : Out) : State :=
  match o.target with
  | none => s.emit o
  | some d =>
    if d = s.cab then s.emit o
    else match s.routePort d, o with
    | some p, .sync .. => s.sendSync p o
    | some _, _ => s.emit o
    | none, _ =>
      let s := { s with care := { s.care with transit := s.care.transit ++ [lostRec s.cab s.now o.lostClass d] } }
      match o with
      | .remote .. => s.emit (.response s.cab 0x39 [])
      | _ => s
/-- Send several messages. -/
def State.sendAll (s : State) (os : List Out) : State := os.foldl State.send s

/-! ### Answers to host functions (R270, R353) -/

/-- The module is a Shelf's bridge: a host module in slot 0, which brings up its endpoint even with other straps that are invalid (R259, R267). -/
def State.bridge (s : State) : Bool := bitOf s.root.straps 10 && decide (bitsOf s.root.straps 2 0 = 0)

/-- A completion for a host function (0 successful, 1 Unsupported Request, 2 Completer Abort, 4 with poisoned data): at the bridge to the host, logged in the function's Advanced Error Reporting registers
unless it is successful (bits 20, 15 and 12 of its status); at another module of the Shelf, a response to the bridge module. -/
def State.hostAnswer (s : State) (fn status : Nat) (data : List Byte) : State :=
  if !s.bridge then s.send (.response (s.cab / 8 * 8) status data)
  else
    let bit := if status = 1 then 20 else if status = 2 then 15 else 12
    let s := if status = 0 ∨ status = 3 then s else { s with pcie := { s.pcie with aer := tput 0 s.pcie.aer fn (tget 0 s.pcie.aer fn ||| 2 ^ bit) } }
    s.emit (.completion fn status data)

/-- A host request refused with a record class (R353): a read completes with Unsupported Request for a decode error, else with Completer Abort; a write is dropped. Both are logged. -/
def State.hostRefused (s : State) (fn cls : Nat) (read : Bool) : State :=
  let status := if cls = 0x37 then 1 else 2
  if read then s.hostAnswer fn status []
  else if !s.bridge then s
  else { s with pcie := { s.pcie with aer := tput 0 s.pcie.aer fn (tget 0 s.pcie.aer fn ||| 2 ^ (if status = 1 then 20 else 15)) } }

/-! ### Statistics (R421) -/

/-- Kinds of statistic of a page. -/
inductive Stat where
  | fsMismatch | fsDropped | fsChecked | eccCorrected | eccUncorrectable | ceRetransmits | ceDuplicates | fecCorrected | fecUncorrectable | fecReplays
  | rplMismatch | rplAbandoned | rplReplayed | commitCount | regFaults | protErr (p : Nat) | copies | mibHashed | forwarded | signed | skipped
  | healthFail | strictFaults | iftPassed | iftFailed | planMismatch
  deriving DecidableEq, Repr

/-- Number of a kind within its page, its width, and whether it wraps (else it saturates). -/
def Stat.spec : Stat → Nat × Nat × Bool
  | .fsMismatch => (0, 16, false) | .fsDropped => (1, 24, false) | .fsChecked => (2, 24, true) | .eccCorrected => (3, 32, false)
  | .eccUncorrectable => (4, 32, false) | .ceRetransmits => (5, 32, false) | .ceDuplicates => (6, 32, false) | .fecCorrected => (7, 32, false)
  | .fecUncorrectable => (8, 16, false) | .fecReplays => (9, 16, false) | .rplMismatch => (10, 16, false) | .rplAbandoned => (11, 24, false)
  | .rplReplayed => (12, 24, true) | .commitCount => (13, 16, true) | .regFaults => (14, 16, false) | .protErr p => (15 + p % 4, 32, false)
  | .copies => (19, 32, true) | .mibHashed => (20, 32, true) | .forwarded => (21, 32, true) | .signed => (22, 32, true) | .skipped => (23, 16, false)
  | .healthFail => (24, 16, false) | .strictFaults => (25, 16, false) | .iftPassed => (26, 32, true) | .iftFailed => (27, 16, false)
  | .planMismatch => (28, 16, false)

/-- The key of a statistic. -/
def statKey (page : Nat) (k : Stat) : Nat := page * 32 + k.spec.1
/-- Add to a count, wrapping or saturating as its field gives. -/
def statAdd (k : Stat) (v n : Nat) : Nat := if k.spec.2.2 then (v + n) % 2 ^ k.spec.2.1 else satAdd k.spec.2.1 v n
/-- The value of a statistic. -/
def State.stat (s : State) (page : Nat) (k : Stat) : Nat := tget 0 s.regs.stats (statKey page k)
/-- The counts that stat_freeze holds still (R421). -/
def Stat.freezes : Stat → Bool
  | .strictFaults | .iftPassed | .iftFailed | .planMismatch => false
  | _ => true
/-- Count `n` events; while stat_freeze is 1 they go to the hidden accumulator (R421). -/
def State.count (s : State) (page : Nat) (k : Stat) (n : Nat) : State :=
  if (s.blk page).freeze && k.freezes then { s with regs := { s.regs with frozen := tput 0 s.regs.frozen (statKey page k) (tget 0 s.regs.frozen (statKey page k) + n) } }
  else { s with regs := { s.regs with stats := tput 0 s.regs.stats (statKey page k) (statAdd k (s.stat page k) n) } }

/-! ### Host notification (R276) -/

/-- Whether a vector of a function of the endpoint may not send: MSI-X is not enabled, or the function or the vector is masked (assumption log 46). -/
def State.vectorHeld (s : State) (fn vec : Nat) : Bool :=
  let ctl := (tget 0 s.pcie.config (fn * 1024 + 0x2C)).toNat
  !bitOf ctl 31 || bitOf ctl 30 || !s.pcie.msixOpen.contains (fn * 64 + vec)

/-- Send an MSI-X message, or hold it pending while its vector is masked; the masks are the bridge module's. -/
def State.msix (s : State) (fn vec : Nat) : State :=
  if s.bridge && s.vectorHeld fn vec then
    { s with pcie := { s.pcie with msixPending := if s.pcie.msixPending.contains (fn * 64 + vec) then s.pcie.msixPending
        else s.pcie.msixPending ++ [fn * 64 + vec] } }
  else s.send (.msix fn vec)

/-- A host function's LOAD_BEGIN has reached a module of the Shelf that is not the bridge: the function is enabled there, and so are those below it (R270, assumption log 46). -/
def State.sawFn (s : State) (master : Nat) : State :=
  if s.bridge ∨ master < 0x8001 ∨ 0x8040 ≤ master then s else { s with pcie := { s.pcie with vfs := max s.pcie.vfs (master - 0x8000) } }

/-- The function that owns a context (R270): function n, or the physical function where its virtual function is not enabled. -/
def State.ownerFn (s : State) (n : Nat) : Nat := if 1 ≤ n ∧ n ≤ s.pcie.vfs then n else 0

/-- Set a notify bit of a context (16 to 19 of CTX_STATE); the message goes out when the bit changes from 0 to 1: vector 0 of the owning virtual function, or vector n of the physical
function. -/
def State.notify (s : State) (n bit : Nat) : State :=
  let b := 2 ^ (bit - 16)
  if (s.ctx n).notify &&& b ≠ 0 then s
  else
    let s := s.modCtx n (fun c => { c with notify := c.notify ||| b })
    if s.ownerFn n = 0 then s.msix 0 n else s.msix n 0

/-! ### Memory -/

/-- Bytes of one stack that are populated: 48 GiB. -/
def stackBytes : Nat := 48 * 2 ^ 30

/-- A decoded memory address: the device (its own index for a local one), stack and offset (R189, R190). -/
def State.decodeAddr (s : State) (a : Nat) : Option (Nat × Nat × Nat) :=
  let r : Option (Nat × Nat × Nat) :=
    if a < 0x010000000000 then some (s.cab, a / 2 ^ 36, a % 2 ^ 36)
    else if 0x200000000000 ≤ a ∧ a < 0x20C000000000 then
      let o := a - 0x200000000000
      some (s.cab, bitsOf o 15 12, (o / 65536) * 4096 + o % 4096)
    else if 0x400000000000 ≤ a ∧ a < 0xC00000000000 then
      let r := a - 0x400000000000
      some (r / 2 ^ 40, bitsOf r 39 36, r % 2 ^ 36)
    else none
  match r with
  | some (d, k, o) => if o ≥ stackBytes then none else some (d, k, o)
  | none => none

/-- Key of a byte in DRAM. -/
def memKey (stack off : Nat) : Nat := stack * 2 ^ 36 + off
/-- Frame of an offset. -/
def frameOf (off : Nat) : Nat := off / 65536
/-- Read `n` bytes of a stack. -/
def State.memRead (s : State) (stack off n : Nat) : List Byte := tbytes s.mem (memKey stack off) n
/-- Write bytes of a stack. -/
def State.memWrite (s : State) (stack off : Nat) (bs : List Byte) : State := { s with mem := tputBytes s.mem (memKey stack off) bs }

/-- Attributes of a frame table entry (Table 9.2). -/
def feAlloc (e : Nat) : Bool := bitOf e 0
def feOwner (e : Nat) : Nat := bitsOf e 6 1
def feShared (e : Nat) : Bool := bitOf e 8
def feStable (e : Nat) : Bool := bitOf e 9
def fePref (e : Nat) : Bool := bitOf e 10
def feMirror (e : Nat) : Bool := bitOf e 11
def feRo (e : Nat) : Bool := bitOf e 12
def feZeroing (e : Nat) : Bool := bitOf e 13
def feMap (e : Nat) : Nat := bitsOf e 23 16
/-- Frames programs may use. -/
def userFrames : Nat := 786304
/-- The entry of frame `f`. -/
def State.frame (s : State) (f : Nat) : Nat := tget 0 s.frames f
/-- Write the entry of frame `f`. -/
def State.setFrame (s : State) (f e : Nat) : State := { s with frames := tput 0 s.frames f e }
/-- The frames from `f` on, `n` of them. -/
def framesFrom (f n : Nat) : List Nat := (List.range n).map (· + f)
/-- Change the entries of some frames. -/
def State.modFrames (s : State) (fs : List Nat) (g : Nat → Nat) : State := fs.foldl (fun s f => s.setFrame f (g (s.frame f))) s

/-! ### Access tables (R351, R352) -/

/-- Rights of Table 14.9. -/
inductive Right where
  | r | w | a | s
  deriving DecidableEq, Repr

/-- The bit of a right in an access table entry. -/
def Right.bit : Right → Nat
  | .r => 40 | .w => 41 | .a => 42 | .s => 43

/-- Build an entry (Table 14.9); no context means any. -/
def aclEntry (lo hi : Nat) (ctx : Option Nat) (wlo whi : Nat) (rights : List Right) (xown : Bool) : Nat :=
  lo + hi * 2 ^ 16 + (match ctx with | some n => n * 2 ^ 32 | none => 2 ^ 38) + 2 ^ 39 + (rights.map (fun g => 2 ^ g.bit)).foldl (· + ·) 0 +
  (if xown then 2 ^ 44 else 0) + wlo * 2 ^ 48 + whi * 2 ^ 80

/-- The permanent entry of a table (Table 14.11), at index 0. -/
def permanentEntry (k : PageKind) : Nat :=
  match k with
  | .stack _ | .dieCache _ => aclEntry 0 0x2FFF none 0 786303 [.r, .w, .a] false
  | .core _ => aclEntry 0x8000 0x8000 none 0 64 [.r, .w] false
  | .bureau => aclEntry 0x8000 0x8000 none 0 16383 [.r, .w] false
  | _ => 0

/-- Key of entry `e` of the table of a page; `port` is 0 but in the link configuration page. -/
def aclKey (page port e : Nat) : Nat := (page * 8 + port) * 256 + e
/-- Entry `e` in effect. -/
def State.aclAt (s : State) (page port e : Nat) : Nat :=
  match tfind s.regs.acl (aclKey page port e) with
  | some v => v
  | none => if e = 0 then permanentEntry (pageKind page) else 0

/-- Whether an entry admits a request (R352). -/
def aclAdmits (e master ctx lo hi : Nat) (right : Right) (windowed : Bool) : Bool :=
  bitOf e 39 && decide (bitsOf e 15 0 ≤ master ∧ master ≤ bitsOf e 31 16) && (bitOf e 38 || decide (bitsOf e 37 32 = ctx)) &&
  (!windowed || decide (bitsOf e 79 48 ≤ lo ∧ hi ≤ bitsOf e 111 80)) && bitOf e right.bit

/-- The entries in effect of a table: the permanent one and those written. -/
def State.aclEntries (s : State) (page port : Nat) : List Nat :=
  s.aclAt page port 0 ::
    (s.regs.acl.filter (fun x => decide (aclKey page port 0 < x.1 ∧ x.1 ≤ aclKey page port 255))).map (·.2)

/-- What the owner of a context may do before its load has written the entries of Table 14.11 (R284, R403; assumption log 120): reach the context's page while its function is enabled, and
the stacks between LOAD_BEGIN and LOAD, where R353's owner check leaves it the image area. -/
def State.ownerAdmits (s : State) (page master ctx lo hi : Nat) (right : Right) : Bool :=
  decide (ctx < 64 ∧ (right = .r ∨ right = .w) ∧ master = 0x8000 + ctx ∧ (ctx = 0 ∨ ctx ≤ s.pcie.vfs ∨ s.bridge = false)) &&
    (match pageKind page with
    | .bureau => decide (lo = 0x1000 + ctx ∧ hi = lo)
    | .stack _ => decide ((s.ctx ctx).state = 0) && (s.ctx ctx).mem.image.isSome
    | _ => false)

/-- Whether a table admits a request (R352): the Bureau always, the Lectern while open, and a context's owner as it loads. -/
def State.admits (s : State) (page port master ctx lo hi : Nat) (right : Right) : Bool :=
  decide (master = 0xF000) || (decide (master = 0xF001) && s.mgmt.lecOpen) || s.ownerAdmits page master ctx lo hi right ||
    (decide (master ≠ 0xF001) && (s.aclEntries page port).any (fun e => aclAdmits e master ctx lo hi right (decide (page ≠ 3))))

/-- Whether a read is admitted by an entry with xown = 1 (R353). -/
def State.admitsXown (s : State) (page master ctx lo hi : Nat) : Bool :=
  (s.aclEntries page 0).any (fun e => aclAdmits e master ctx lo hi .r true && bitOf e 44)

/-- The checks of R353 on a request to a stack of this device, under the access table of page `page` (the stack's, or the die cache's for an atomic): none if it is admitted, else the
class of the first check failed. -/
def State.memCheckAt (s : State) (page : Nat) (right : Right) (master ctx off len : Nat) : Option Nat :=
  let lo := frameOf off
  let hi := frameOf (off + len - 1)
  let fs := framesFrom lo (hi - lo + 1)
  if off + len > stackBytes then some 0x37
  else if !s.admits page 0 master ctx lo hi right then some 0x38
  else if master = 0xF000 then
    if fs.any (fun f => decide (f < userFrames) && (!feAlloc (s.frame f) || feZeroing (s.frame f))) then some 0x38
    else if right ≠ .r ∧ fs.any (fun f => feStable (s.frame f) || feRo (s.frame f)) then some 0x36 else none
  else if fs.any (fun f => decide (userFrames ≤ f)) then some 0x38
  else if fs.any (fun f => !feAlloc (s.frame f) || feZeroing (s.frame f)) then some 0x38
  else if fs.any (fun f => !feShared (s.frame f) && decide (feOwner (s.frame f) ≠ ctx)) && !(decide (right = .r) && s.admitsXown page master ctx lo hi) then
    some 0x38
  else if right ≠ .r ∧ fs.any (fun f => feStable (s.frame f) || feRo (s.frame f)) then some 0x36
  else none

/-- The checks of R353 on a read or write of a stack of this device. -/
def State.memCheck (s : State) (right : Right) (master ctx stack off len : Nat) : Option Nat :=
  s.memCheckAt (stackPage stack) right master ctx off len

/-! ### Mirrors (R201) -/

/-- A mirror map entry (Table 9.7). -/
def State.mirrorEntry (s : State) (stack m : Nat) : Nat :=
  s.regs.word (stackPage stack) (0x800 + 8 * m) + s.regs.word (stackPage stack) (0x804 + 8 * m) * 2 ^ 32

/-- The valid buddies of a mirror map entry. -/
def mirrorBuddies (e : Nat) : List Nat :=
  (if bitOf e 7 then [bitsOf e 6 0] else []) ++ (if bitOf e 15 then [bitsOf e 14 8] else [])

/-- The context that a member announced for a job (R350, R451); 0 until it has announced. -/
def peerCtx (c : Ctx) (dev : Nat) : Nat := ((tfind c.job.peers dev).getD 64) % 64

/-- Send a write that was applied to a mirrored frame to each valid buddy, counting it against its context (R201). -/
def State.mirror (s : State) (ctx stack off : Nat) (bs : List Byte) : State :=
  let fe := s.frame (frameOf off)
  if !feMirror fe then s
  else
    let e := s.mirrorEntry stack (feMap fe)
    let bs' := mirrorBuddies e
    let tgt := off + (bitsOf e 55 36) * 65536 - (bitsOf e 35 16) * 65536
    (s.sendAll (bs'.map (fun b => .remote b 1 (stack * 2 ^ 36 + tgt) (peerCtx (s.ctx ctx) b) 1 bs.length bs))).modCtx ctx
      (fun c => { c with mem := { c.mem with unacked := bs'.foldl (fun t b => tput 0 t b (tget 0 t b + 1)) c.mem.unacked } })

/-- The lines that a write of `n` bytes at `off` covers whole are no longer in error (R196). -/
def State.clearLines (s : State) (stack off n : Nat) : State :=
  { s with badLines := s.badLines.filter (fun b => !decide (memKey stack off ≤ b.1 ∧ b.1 + 64 ≤ memKey stack off + n)) }

/-- A write applied at its base die, with its mirror writes; a full line replaces an uncorrectable one (R196). -/
def State.applyWrite (s : State) (ctx stack off : Nat) (bs : List Byte) : State :=
  ((s.memWrite stack off bs).clearLines stack off bs.length).mirror ctx stack off bs

/-- Whether a step of a context is in progress (R24): from its first RESUME until it stops. -/
def Ctx.inStep (c : Ctx) : Bool := decide (c.state = 2 ∨ c.state = 3 ∨ c.state = 4 ∨ c.state = 6)

/-- An external write under R24 touches a context during a step. -/
def State.external (s : State) (n : Nat) : State :=
  if (s.ctx n).inStep then s.modCtx n (fun c => { c with st := { c.st with external := true } }) else s

/-- Split a run of device addresses at granules of `g` bytes (the 4 KiB granules of the interleaved window, or lines); `fuel` bounds the pieces. -/
def pieces (g : Nat) : Nat → Nat → Nat → List (Nat × Nat)
  | 0, _, _ => []
  | fuel + 1, a, n =>
    if n = 0 then []
    else
      let k := min n (g - a % g)
      (a, k) :: pieces g fuel (a + k) (n - k)

/-- Read a run of local device addresses without checks, granule by granule; a byte that does not decode reads 0. -/
def State.devRead (s : State) (a n : Nat) : List Byte :=
  (pieces 4096 (n / 4096 + 2) a n).flatMap (fun p =>
    match s.decodeAddr p.1 with
    | some (_, k, o) => s.memRead k o p.2
    | none => List.replicate p.2 0)

/-- Whether a run of local device addresses touches an uncorrectable line (R196). -/
def State.devBad (s : State) (a n : Nat) : Bool :=
  (pieces 4096 (n / 4096 + 2) a n).any (fun p =>
    match s.decodeAddr p.1 with
    | some (_, k, o) => s.badLines.any (fun b => decide (b.1 + 64 > memKey k o ∧ b.1 < memKey k o + p.2))
    | none => false)

/-- Write a run of local device addresses without checks, with mirror writes. -/
def State.devWriteGo (ctx : Nat) : List (Nat × Nat) → List Byte → State → State
  | [], _, s => s
  | p :: ps, bs, s =>
    let s := match s.decodeAddr p.1 with
      | some (_, k, o) => s.applyWrite ctx k o (bs.take p.2)
      | none => s
    State.devWriteGo ctx ps (bs.drop p.2) s

/-- Write a run of local device addresses without checks, with mirror writes. -/
def State.devWrite (s : State) (ctx a : Nat) (bs : List Byte) : State :=
  State.devWriteGo ctx (pieces 4096 (bs.length / 4096 + 2) a bs.length) bs s

/-! ### Error records (R315 to R317) -/

/-- A record of this device at the present time. -/
def State.mkRec (s : State) (cls action : Nat) : ErrRec :=
  { action := action, cls := cls, unitKind := 0, die := 0, core := 0, unitIndex := 0, opcode := 0xFF, opSlot := 0, ctx := 0, queue := 0, taskId := 0,
    ctxValid := false, cabIndex := s.cab, cq := false, time := s.now, step := 0, temp := 0, railMv := 0, addr := 0, syndrome := 0, seq := 0 }

/-- A record that names a context. -/
def State.ctxRec (s : State) (cls action n : Nat) : ErrRec :=
  { s.mkRec cls action with ctx := n, ctxValid := true, step := (s.ctx n).st.step }

/-- The temperature sensor nearest a record's unit (R373, Table 15.6b; assumption log 45); none for a record without a die. -/
def ErrRec.sensor (r : ErrRec) : Option Nat :=
  if r.unitKind = 0 ∨ r.unitKind = 8 then none
  else if r.unitKind = 7 then some (71 + r.unitIndex % 16)
  else if r.die < 16 then some (r.die * 4 + (if r.unitKind = 2 ∨ r.unitKind = 3 ∨ r.unitKind = 4 then r.core % 8 / 2 else 0))
  else if r.die < 19 then some (64 + 2 * (r.die - 16))
  else some 70
/-- The logic rail of a record's unit. -/
def ErrRec.rail (r : ErrRec) : Option Nat :=
  if r.unitKind = 0 ∨ r.unitKind = 8 then none else if r.unitKind = 7 then some ((20 + r.unitIndex % 16) * 4) else some (r.die * 4)

/-- Put a record on its way to the root die (R317), with the temperature and the supply of its unit. -/
def State.record (s : State) (r : ErrRec) : State :=
  let r := { r with
    temp := match r.sensor with | some k => tget 0 s.power.temps k | none => 0
    railMv := match r.rail with | some k => tget 0 s.power.rails k | none => 0 }
  { s with care := { s.care with transit := s.care.transit ++ [r] } }

/-- The 64 bytes of a record as a number (Table 13.5). -/
def ErrRec.encode (r : ErrRec) : Nat :=
  1 + r.action * 2 ^ 4 + r.cls * 2 ^ 8 + r.unitKind * 2 ^ 16 + r.die * 2 ^ 20 + r.core * 2 ^ 25 + r.unitIndex * 2 ^ 32 + r.opcode * 2 ^ 48 + r.opSlot * 2 ^ 56 +
  r.ctx * 2 ^ 58 + r.queue * 2 ^ 64 + r.taskId * 2 ^ 80 + b2n r.ctxValid * 2 ^ 112 + r.cabIndex * 2 ^ 113 + b2n r.cq * 2 ^ 120 + r.time * 2 ^ 128 +
  r.step * 2 ^ 192 + r.temp * 2 ^ 256 + r.railMv * 2 ^ 272 + r.addr * 2 ^ 288 + r.syndrome * 2 ^ 336 + r.seq * 2 ^ 464

/-- Name the unit of a record. -/
def ErrRec.unit (r : ErrRec) (kind die core index : Nat) : ErrRec := { r with unitKind := kind, die := die, core := core, unitIndex := index }

/-- The Lectern may write while it is open with the write scope (R379, R380). -/
def State.lecternWrites (s : State) (master : Nat) : Bool := decide (master = 0xF001) && s.mgmt.lecOpen && bitOf s.mgmt.lecScope 1
/-- Only the Bureau and the host physical function write a register; the restriction holds for the Lectern too (R416). -/
def pfOrBureau (master : Nat) : Bool := decide (master = 0x8000 ∨ master = 0xF000)

/-! ### Stopping and aborting a context (R275, R319, R449) -/

/-- A context counts as loaded in every state but UNLOADED (R30). -/
def Ctx.loaded (c : Ctx) : Bool := decide (c.state ≠ 0)

/-- The Bureau completes the command in progress of a context (R284): return value, result and tag, busy clear, notify[17]. -/
def State.cmdDone (s : State) (n result : Nat) (ret : Option Nat) : State :=
  (s.modCtx n (fun c => { c with cmd := { c.cmd with
    args := match ret with | some v => c.cmd.args.set 0 v | none => c.cmd.args
    busy := false, result := result, rtag := c.cmd.tag, phase := 0 } })).notify n 17

/-- A RESUME, YIELD or EVICT in progress can no longer complete as asked, because its context has stopped: it ends with 0x41 (assumption log 30). -/
def State.cmdCut (s : State) (n : Nat) : State :=
  let c := (s.ctx n).cmd
  if c.busy ∧ (c.op = 5 ∨ c.op = 6 ∨ c.op = 8) then s.cmdDone n 0x41 none else s

/-- The queues of a context stop: STOPPED with err_stop = 1, and the host is notified (R275, R276). The class of the record that led to the first stop is kept (R319, assumption log 126). -/
def State.stopCtx (s : State) (n cls : Nat) : State :=
  if (s.ctx n).state = 0 then s
  else
    let s := s.modCtx n (fun c => { c with
      state := 5, errStop := true, cqs := c.cqs.map (fun q => (q.1, { q.2 with run := none, again := false }))
      job := { c.job with held := false, drained := false, readySent := false, ready := [], stopCause := if c.state = 5 ∧ c.errStop then c.job.stopCause else cls }
      st := { c.st with point := 0, deadlines := [], evict := none, hold := 0 } })
    (s.notify n 18).cmdCut n

/-- The other members of a context's job, as cabinet indices. -/
def State.peersOf (s : State) (n : Nat) : List Nat :=
  match (s.ctx n).job.man with
  | some m => m.members.filter (fun d => decide (d ≠ s.cab) && !(s.ctx n).job.lost.contains d)
  | none => []

/-- The live members of a job, this device among them. -/
def State.liveMembers (s : State) (n : Nat) : List Nat :=
  match (s.ctx n).job.man with
  | some m => m.members.filter (fun d => !(s.ctx n).job.lost.contains d)
  | none => [s.cab]

/-- The coordinator of a job: its live member with the lowest cabinet index (R318). -/
def State.coordinatorOf (s : State) (n : Nat) : Nat := (s.liveMembers n).foldl min (s.cab)

/-- Kinds of message to members of a job in the SYNC class or on the MGMT path (the model's numbering of messages whose layout the manual leaves open, log 5). -/
def msgAbort : Nat := 1
def msgStop : Nat := 2
def msgYield : Nat := 3
def msgResume : Nat := 4
def msgCommitReport : Nat := 5
def msgCommitRelease : Nat := 6
def msgReady : Nat := 7
def msgRestartRelease : Nat := 8
def msgPlacement : Nat := 9
def msgAnnounce : Nat := 10
def msgLost : Nat := 11
def msgHeartbeat : Nat := 12
def msgSignal : Nat := 13
def msgBarArrival : Nat := 14
def msgBarRelease : Nat := 15
def msgHolderQuery : Nat := 16
def msgHolderAnswer : Nat := 17
def msgCommitRecord : Nat := 18
def msgStateAnswer : Nat := 19
def msgAssembly : Nat := 20
def msgRelinquish : Nat := 21
def msgRefusal : Nat := 22
def msgUnload : Nat := 23
def msgRepair : Nat := 24
def msgFetch : Nat := 25
def msgStateRequest : Nat := 26
def msgSaveRecord : Nat := 27
def msgGrant : Nat := 28
def msgPort : Nat := 29

/-- The job stops on every member (action 0x2): this member's record of class 0x47 names the member and the class that led to it (R319). -/
def State.stopJob (s : State) (n member cls : Nat) (noAdopter : Bool) : State :=
  let s := s.record { s.ctxRec 0x47 2 n with syndrome := member + cls * 256 + b2n noAdopter * 65536 }
  let s := s.sendAll ((s.peersOf n).map (fun d => .sync d msgStop [peerCtx (s.ctx n) d, (s.ctx n).job.gen, member, cls, b2n noAdopter]))
  s.stopCtx n cls

/-- A restart of the context is in progress: RESTARTING, or held in another state (R319, R320). -/
def Ctx.restarting (c : Ctx) : Bool := decide (c.state = 6) || c.job.held

/-- An earlier attempt of the step aborted for a program cause, and no abort of this attempt is under way (R449). -/
def Ctx.allowanceUsed (c : Ctx) : Bool := c.job.progAbort && !c.restarting && !c.job.restartPend

/-- What an abort of the context comes to, as a record's action gives it (Table 13.7, R449, R319): a stop of the job, or a restart. -/
def Ctx.abortAction (c : Ctx) (program : Bool) : Nat :=
  if (program && c.allowanceUsed) || (!program && !c.restarting && decide (4 ≤ c.job.hwRestarts)) then 2 else 3

/-- The first steps of an abort (R319, R320): dispatch stops, collectives in progress are cancelled, the members are told. Tile-tasks in flight run on. A YIELDED context and a loaded one before
its first RESUME keep their state. An event that joins a restart undoes only this member's own readiness. -/
def State.beginRestart (s : State) (n cls : Nat) (tell : Bool) : State :=
  let s := if tell then s.sendAll ((s.peersOf n).map (fun d => .sync d msgAbort [peerCtx (s.ctx n) d, (s.ctx n).job.gen, cls])) else s
  let keep := decide ((s.ctx n).state = 4 ∨ (s.ctx n).state = 5)
  let s := s.modCtx n (fun c =>
    { c with
      state := if keep then c.state else 6
      cqs := c.cqs.map (fun q => (q.1, { q.2 with run := none, again := false }))
      job := { c.job with ready := c.job.ready.filter (fun d => decide (d ≠ s.cab)), readySent := false, drained := false, unsettled := false, held := keep }
      st := { c.st with hold := 0 } })
  s.notify n 18

/-- A context is aborted (R319, R449): a program cause in a later attempt of a step that aborted for one, or a fifth hardware restart, stops the job instead. A context that is unloaded, unloading or stopped by
an error does not restart; a load in progress ends first; one that drains for a yield enters YIELDED with the restart pending, when the cause is the program's (R292). -/
def State.abortWith (s : State) (n cls : Nat) (program tell : Bool) : State :=
  let c := s.ctx n
  if c.state = 0 ∨ c.st.unloadAt.isSome ∨ (c.state = 5 ∧ c.errStop) then s
  else if c.state = 1 then s.modCtx n (fun c => { c with job := { c.job with held := true, stopCause := cls } })
  else if program ∧ c.allowanceUsed ∧ tell then s.stopJob n s.cab cls false
  else if program ∧ c.state = 3 ∧ tell then s.modCtx n (fun c => { c with job := { c.job with progAbort := true, restartPend := true, stopCause := cls } })
  else if ¬program ∧ 4 ≤ c.job.hwRestarts ∧ !c.restarting ∧ tell then s.stopJob n s.cab cls false
  else
    let s := s.modCtx n (fun c =>
      { c with job := { c.job with
          progAbort := c.job.progAbort || program
          hwRestarts := if program ∨ c.restarting then c.job.hwRestarts else c.job.hwRestarts + 1
          stopCause := cls } })
    s.beginRestart n cls tell

/-- An abort that begins on this device. -/
def State.abortCtx (s : State) (n cls : Nat) (program : Bool) : State := s.abortWith n cls program true

/-! ### Schedules and cores -/

/-- The schedule record in effect. -/
def Ctx.schedule (c : Ctx) : Option Sched := match c.job.prog with | some p => p.scheds[c.job.sched]? | none => none

/-- The flow of the fills of a core from a region field of the descriptor, if the schedule in effect gives it slots (R152). -/
def Ctx.fillFlow (c : Ctx) (core sel : Nat) : Option Nat :=
  match c.schedule with
  | none => none
  | some d => (d.flows.find? (fun f => decide (f.kind = 0 ∧ f.core = core ∧ f.sel = sel) && d.slots.any (fun x => decide (x.flow = f.flow)))).map (·.flow)
/-- Whether a flow carries fills of a core. -/
def Ctx.fillsCore (c : Ctx) (core flow : Nat) : Bool :=
  match c.schedule with
  | none => false
  | some d => d.flows.any (fun f => decide (f.kind = 0 ∧ f.core = core ∧ f.flow = flow))
/-- Key of a context's flow. -/
def flowKey (ctx flow : Nat) : Nat := ctx * 4096 + flow
/-- Key of a context's ring. -/
def ringKey (ctx ring : Nat) : Nat := ctx * 256 + ring

/-- Whether a schedule names a core: in a queue's core set or a stage (R321). -/
def Sched.names (d : Sched) (core : Nat) : Bool :=
  d.queues.any (fun q => decide (q.die = core / 8) && bitOf q.mask (core % 8)) ||
  d.stages.any (fun g => decide (g.getD 2 0 = core / 8) && bitOf (g.getD 3 0) (core % 8))

/-- Whether the schedule in effect of a context names a core. -/
def Ctx.usesCore (c : Ctx) (core : Nat) : Bool := c.loaded && (match c.schedule with | some d => d.names core | none => false)

/-- Whether core `c` is fenced (BU_FENCE). -/
def State.fencedCore (s : State) (c : Nat) : Bool := bitOf s.care.fenced c

/-- The detection interval of a context in local time units: min(3 × step_pred, 60 s) (R308). -/
def Ctx.detection (c : Ctx) : Nat := min (3 * c.st.stepPred) 6000000000

/-- Contexts that count as loaded. -/
def State.loadedCtxs (s : State) : List Nat := (s.ctxs.filter (fun x => x.2.loaded)).map (·.1)

/-- A host request is not accepted while the contexts that an unload notice names remain (R272): it stays in the link, and is presented again. -/
def State.hostShut (s : State) (master : Nat) : Bool := s.pcie.shut && decide (0x8000 ≤ master ∧ master < 0x8040) && !s.loadedCtxs.isEmpty

/-- Draw `n` bytes, at most 32, of seed material or of a nonce (R391): from the entropy source while it is healthy (a free value, of which the last 256 bits are kept as the key), else as HMAC-SHA-256
under that key over a counter. -/
def State.drawBytes (s : State) (n : Nat) : Nat × State :=
  if s.root.healthy then
    let v := s.freeVal (2 ^ (8 * n))
    let k := s.root.hmacKey ++ leBytes n v
    (v, { s.drawn 1 with root := { s.root with hmacKey := k.drop (k.length - 32) } })
  else
    (leNat ((hmac256 s.root.hmacKey (leBytes 8 s.root.hmacCount)).take n), { s with root := { s.root with hmacCount := s.root.hmacCount + 1 } })

/-- The Bureau loads the lane generators of a core with 128 bits each; a lane whose bits are all zero has w set to 1 (R134). Test mode ends. -/
def State.seedLanes (s : State) (c : Nat) : State :=
  let r := (List.range 128).foldl (fun (a : Tab W128 × State) i =>
    let d := a.2.drawBytes 16
    (a.1 ++ [(i, BitVec.ofNat 128 (if d.1 = 0 then 2 ^ 96 else d.1))], d.2)) ([], s)
  r.2.setCore c { s.core c with lanes := r.1, test := false }

/-- A test, or the preparation of one, is over, and its core returns to the pool (R322, R338, R340); a core that was in test mode leaves it (R134, R135). -/
def State.endTest (s : State) : State :=
  let s := if s.care.iftPhase = 2 then
      let s := s.seedLanes s.care.iftCore
      { s with regs := s.regs.setWord (corePage s.care.iftCore) 0x340 0 }
    else s
  { s with care := { s.care with iftPhase := 0 } }

/-- A core is fenced (R321, R322, R324): its bit is set, an in-field test ends, every context whose schedule names it is aborted, and a record of class 0x46 is written, which names the
first suspect step: the earliest step of a context using the core whose commit fell within the detection interval (R335). -/
def State.fenceCore (s : State) (core cause : Nat) (persist : Bool) : State :=
  if s.fencedCore core then s
  else
    let s := s.endTest
    let s := { s with
      care := { s.care with fenced := s.care.fenced ||| 2 ^ core }
      root := if persist then { s.root with flashFence := s.root.flashFence ||| 2 ^ core } else s.root }
    let users := s.loadedCtxs.filter (fun n => (s.ctx n).usesCore core)
    let suspect := users.flatMap (fun n => ((s.ctx n).job.commits.filter (fun x => decide (s.now ≤ x.2 + (s.ctx n).detection))).map (·.1))
    let first := suspect.foldl min (suspect.headD 0)
    let s := users.foldl (fun s n => s.abortCtx n 0x46 false) s
    s.record { (s.mkRec 0x46 4).unit 2 (core / 8) core 0 with
      syndrome := first + cause * 2 ^ 64 + b2n persist * 2 ^ 72 }

/-! ### Tile-tasks -/

/-- Bits [hi:lo] of a descriptor (Table 5.6). -/
def descField (d : BitVec 1024) (hi lo : Nat) : Nat := bitsOf d.toNat hi lo
def descShard (d : BitVec 1024) : Nat := descField d 27 16
def descTaskId (d : BitVec 1024) : Nat := descField d 95 64

/-- Queue `q`. -/
def State.queue (s : State) (q : Nat) : Option Queue := tfind s.queues q
/-- Address of entry `i` of a queue's ring (R278). -/
def Queue.entry (q : Queue) (i : Nat) : Nat := q.base + 128 * (i % 2 ^ q.lg)

/-- Hash units of a die that a hashed copy occupies. -/
def State.hashBusyUnits (s : State) (die : Nat) : Nat :=
  (((s.cores.filter (fun x => decide (x.1 / 8 = die))).flatMap (fun x => x.2.copies)).filter (fun k => !k.atom && decide (bitsOf k.record 22 21 ≠ 0))).length

/-- The settings of a core's Footstool: FS_CTRL, and the region of each watch entry (R106, R108). -/
def State.fsCtl (s : State) (c : Nat) : FsCtl :=
  let p := corePage c
  { exact := if s.regs.field p 0xC0 0 0 = 1 then some (s.regs.field p 0xC0 12 8) else none
    wide := if s.regs.field p 0xC0 1 1 = 1 then some (s.regs.field p 0xC0 20 16) else none
    watch := if s.regs.field p 0xC0 1 1 = 1 then (List.range 16).map (fun n => s.regs.field p (0x100 + 0x20 * n) 15 0) else [] }

/-- What the operations of a core read of its context and device. -/
def State.env (s : State) (c : Nat) : CoreEnv :=
  match (s.core c).run with
  | none => { winBase := 0, winSize := 0, tp2 := false, seed := 0, stream := 0, stepNo := 0, flagWord := 0, regSize := [], regPend := [], strict := s.regs.strictActive,
              hashBusy := false, hashBad := false, wins := [], ctx := 0, fs := s.fsCtl c }
  | some t =>
    let k := s.ctx t.ctx
    let w := tget (0, 0) k.windows c
    let sh := tget (⟨0, 0, 0⟩ : Shard) k.shards (descShard t.desc)
    let regs := (List.range 4).map (fun i => descField t.desc (143 + 16 * i) (128 + 16 * i))
    { winBase := w.1, winSize := w.2, tp2 := t.tp2, seed := k.seed, stream := sh.stream, stepNo := k.st.step % 2 ^ 32, flagWord := sh.flags,
      regSize := regs.mapIdx (fun i r => match tfind s.regions r, t.bound.getD i none with | some g, some _ => some g.size | _, _ => none),
      regPend := regs.map (fun r => match tfind s.regions r with | some g => if g.pend < 3 then some g.size else none | none => none),
      strict := s.regs.strictActive,
      hashBusy := decide (16 ≤ s.hashBusyUnits (c / 8) + (s.care.fencedHash.filter (fun u => decide (u / 16 = c / 8))).length)
      wins := k.wins
      ctx := t.ctx
      fs := s.fsCtl c
      hashBad := decide (0xFFFFFFFD ≤ descTaskId t.desc) ||
        decide (65536 ≤ ((k.mem.hashes ++ s.cores.flatMap (fun x => match x.2.run with | some r => if r.ctx = t.ctx then x.2.hashes else [] | none => [])).filter
          (fun h => decide (h.shard = descShard t.desc))).length) }

/-- A core with nothing running or in flight; its storage is cleared at the next dispatch (R95). -/
def Core.idle (c : Core) : Core :=
  { c with run := none, icyc := 0, cyc := 0, wd := 0, pc := 0, issued := 0, pen := 0, next := none, loops := [], ending := false, ended := false, mma := none,
           convs := [], lands := [], copies := [], tagStatus := [], fills := [], sigs := [], sigCount := 0, flags := [], rescaled := false, hashed := 0,
           captures := 0, abandoned := false, digest := 0, sent := [], hashes := [] }

/-- Write status, core, cycles and done_time of a descriptor, with 0 in the reserved bits between them (R100 step 6, R101, Table 5.6). -/
def State.writeCompletion (s : State) (c : Nat) (t : TaskRun) (status cycles : Nat) : State :=
  match s.queue t.queue with
  | none => s
  | some q =>
    let a := q.entry t.ring
    s.devWrite t.ctx (a + 104) ([BitVec.ofNat 8 status, BitVec.ofNat 8 c, 0, 0] ++ leBytes 4 (min cycles 0xFFFFFFFF) ++ leBytes 8 s.now)

/-- A task has left its core: its ring index leaves the queue's set of running tasks. -/
def State.queueDone (s : State) (q ring : Nat) : State :=
  match s.queue q with
  | none => s
  | some k => { s with queues := tset s.queues q { k with running := k.running.filter (fun i => decide (i ≠ ring)) } }

/-- The record of a task's error (R101): class the status, naming the core, context, queue, task and failing operation. -/
def State.taskRec (s : State) (c : Nat) (t : TaskRun) (status action : Nat) (op : OpAt := noOp) : ErrRec :=
  { (s.ctxRec status action t.ctx).unit 2 (c / 8) c 0 with queue := t.queue, taskId := descTaskId t.desc, opcode := op.1, opSlot := op.2 }

/-- The action code of a completion status (Table 5.5, Table 13.6, R449): none for a task that its context's UNLOAD ends (R294). -/
def State.statusAction (s : State) (n status : Nat) : Nat :=
  if status = 0x17 then (if (s.ctx n).st.unloadAt.isSome then 0 else (s.ctx n).abortAction true)
  else if status = 0x18 then (s.ctx n).abortAction false
  else if status = 0x1A then 4 else 2

/-- The SIGs of a task that have not been applied are discarded (R101). -/
def State.dropSigs (s : State) (t : TaskRun) : State := { s with sigs := s.sigs.filter (fun g => decide (g.task ≠ t.key)) }

/-- The status of a task that ended in error is written once every request that it sent to another device has been answered (R101): at once where none is out, else when the copies named have
heard. -/
def State.lateCompletion (s : State) (c : Nat) (t : TaskRun) (status cyc : Nat) (tags : List Nat) : State :=
  if tags.isEmpty then (s.writeCompletion c t status cyc).queueDone t.queue t.ring
  else { s with care := { s.care with late := s.care.late ++ [⟨c, t, status, cyc, tags⟩] } }

/-- The tags of a core's copies and atomics that have requests out at other devices. -/
def Core.tagsOut (c : Core) : List Nat := (c.copies.filter (fun k => k.away)).map (·.tag)

/-- A tile-task ends in an error (R101): no signal, no flag, the count unchanged; its SIGs not yet applied are discarded, its status is written, and its core is free. The record
and the action that follow are the caller's. -/
def State.endQuiet (s : State) (c status : Nat) : State :=
  match (s.core c).run with
  | none => s
  | some t =>
    let k := s.core c
    ((s.setCore c k.idle).dropSigs t).lateCompletion c t status k.cyc k.tagsOut

/-- A tile-task ends in an error, with its record (R101). -/
def State.dropTask (s : State) (c status : Nat) (rec : ErrRec) : State :=
  if (s.core c).run.isNone then s else (s.endQuiet c status).record rec

/-- A tile-task ends with a status of Table 5.5 and its context action follows: stop for the program's errors (a strict-mode violation is counted, R32), abort for the watchdog
(program cause) and for an uncorrectable error, fence for a Footstool mismatch. The record names the failing operation. -/
def State.endTaskBy (s : State) (c status : Nat) (op : OpAt) : State :=
  match (s.core c).run with
  | none => s
  | some t =>
    let unload := (s.ctx t.ctx).st.unloadAt.isSome
    let s := s.dropTask c status (s.taskRec c t status (s.statusAction t.ctx status) op)
    if status = 0x17 then (if unload then s else s.abortCtx t.ctx 0x17 true)
    else if status = 0x18 then s.abortCtx t.ctx 0x18 false
    else if status = 0x1A then s.fenceCore c 0x1A true
    else if status = 0x16 then (s.count 1 .strictFaults 1).stopCtx t.ctx status
    else s.stopCtx t.ctx status

/-- A tile-task ends with a status that no one operation of it gave. -/
def State.endTask (s : State) (c status : Nat) : State := s.endTaskBy c status noOp

/-- A parity or uncorrectable error in a memory of a core (R307): its task ends with 0x18 and the context is aborted; the third within 24 h fences the core. -/
def State.coreUpset (s : State) (c : Nat) : State :=
  let old := (tget [] s.care.upsets c).filter (fun t => decide (s.now < t + 8640000000000))
  let s := { s with care := { s.care with upsets := tput [] s.care.upsets c (old ++ [s.now]) } }
  let s := s.endTask c 0x18
  if 2 ≤ old.length then s.fenceCore c 0x18 false else s

/-- The copy engine that serves a core: the engine of its local number modulo 4, or the next one that is not fenced (R306; assumption log 27). -/
def State.engineOf (s : State) (c : Nat) : Nat :=
  ((List.range 4).map (fun i => c / 8 * 4 + (c + i) % 4)).find? (fun e => !s.care.fencedCpe.contains e) |>.getD (c / 8 * 4 + c % 4)

/-- A parity error of an entry of a table: frame, region, route or forward entry (R307): the Bureau rewrites the entry from its copy, a record of class 0x03 is written, and the contexts
that use it are aborted. -/
def State.tableFault (s : State) (page index : Nat) (users : List Nat) : State :=
  users.foldl (fun s n => s.abortCtx n 0x03 false) (s.record { (s.mkRec 0x03 3).unit 5 0 0 page with syndrome := index })

/-- The record of a lockstep mismatch of an engine (R306). -/
def State.lockstepRec (s : State) (die e : Nat) : State := s.record { (s.mkRec 0x05 3).unit 9 die 0 e with syndrome := e % 16 }

/-- A lockstep mismatch of a copy engine's conversion unit or of a hash unit of a die (R306): the unit is fenced, and every context with work on it is aborted. -/
def State.copyFault (s : State) (die e : Nat) (hash : Bool) : State :=
  let users := s.cores.filterMap (fun k => match k.2.run with
    | some t => if k.1 / 8 = die ∧ k.2.copies.any (fun x => if hash then !x.atom && decide (bitsOf x.record 22 21 ≠ 0) else decide (s.engineOf k.1 = e)) then some t.ctx else none
    | none => none)
  let s := s.lockstepRec die e
  let s := if hash then { s with care := { s.care with fencedHash := s.care.fencedHash ++ [die * 16 + (s.care.fencedHash.filter (fun u => decide (u / 16 = die))).length % 16] } }
    else { s with care := { s.care with fencedCpe := s.care.fencedCpe ++ [e] } }
  users.dedup.foldl (fun s n => s.abortCtx n 0x05 false) s

/-- Carry out an operation of core `c`: the new core, or the end of its task. -/
def State.coreResult (s : State) (c : Nat) (r : CoreRes) : State :=
  match r with
  | .ok k => s.setCore c k
  | .err st op => s.endTaskBy c st op

end Sys2Proof.Machine
end

