-- ==== Sys2Proof/Machine/NetOps.lean ====
section
/-! DEFINITION. Where things lie: wiring plans and default routes (R258 to R265), the mesh of dies (R10, R160), slot tables (R145). -/

namespace Sys2Proof.Machine

/-! ### Wiring plans (R258 to R260) -/

/-- The plan code of the straps. -/
def State.plan (s : State) : Nat := bitsOf s.root.straps 9 7
/-- HOSTMODE. -/
def State.hostMode (s : State) : Bool := bitOf s.root.straps 10
/-- The straps violate R259 (RT_STRAPS.plan_err). -/
def State.planErr (s : State) : Bool := bitOf s.root.straps 18

/-- The sizes of a plan in y and z (Table 11.11b). -/
def planYZ (plan : Nat) : Nat × Nat :=
  match plan with
  | 0 => (1, 1) | 1 => (2, 1) | 2 => (4, 1) | 3 => (4, 2) | _ => (4, 4)
/-- Shelves of a plan. -/
def planShelves (plan : Nat) : Nat := (planYZ plan).1 * (planYZ plan).2
/-- Modules of a plan. -/
def planModules (plan : Nat) : Nat := 8 * planShelves plan
/-- Coordinates of a cabinet index (R258). -/
def coords (d : Nat) : Nat × Nat × Nat := (d % 8, d / 8 % 4, d / 32)
/-- Cabinet index of coordinates. -/
def ofCoords (x y z : Nat) : Nat := (z * 4 + y) * 8 + x

/-- The far device of a port of the default bundling (Table 11.12); none where the port is unwired or carries PCI Express. -/
def farDevice (plan : Nat) (host : Bool) (d p : Nat) : Option Nat :=
  let c := coords d
  let x := c.1; let y := c.2.1; let z := c.2.2
  let ny := (planYZ plan).1; let nz := (planYZ plan).2
  match p with
  | 0 => some (ofCoords ((x + 1) % 8) y z)
  | 1 => some (ofCoords ((x + 7) % 8) y z)
  | 2 => if ny = 1 then none else some (ofCoords x ((y + 1) % ny) z)
  | 3 => if ny = 1 then none else some (ofCoords x ((y + ny - 1) % ny) z)
  | 4 => if nz = 1 then none else some (ofCoords x y ((z + 1) % nz))
  | 5 => if nz = 1 then none else some (ofCoords x y ((z + nz - 1) % nz))
  | 6 => some (ofCoords ((x + 4) % 8) y z)
  | 7 => if host ∨ x % 4 = 0 then none else some (ofCoords ((x + 4) % 8) y z)
  | _ => none

/-- The far port of a port (Table 11.12). -/
def farPortOf (p : Nat) : Nat :=
  match p with
  | 0 => 1 | 1 => 0 | 2 => 3 | 3 => 2 | 4 => 5 | 5 => 4 | _ => p

/-- The port that holds a link by the port map in effect. -/
def State.portOf (s : State) (l : Nat) : Option Nat := (List.range 8).find? (fun p => (s.portLinks p).contains l)
/-- The port of the default bundling that a link belongs to (Table 11.4). -/
def defaultPort (l : Nat) : Nat := ((List.range 8).find? (fun p => (defaultLinks p).contains l)).getD 8
/-- Whether a link has a planned far end, by its wiring (R260): the plan is valid and its port of the default bundling is wired. -/
def State.linkWired (s : State) (l : Nat) : Bool := !s.planErr && (farDevice s.plan s.hostMode s.cab (defaultPort l)).isSome
/-- The planned far device of a port: LCFG_PORT.far_index of a port that holds a wired link. -/
def State.portFar (s : State) (p : Nat) : Option Nat :=
  if (s.portLinks p).any s.linkWired then some (s.regs.word 3 (0x104 + 8 * p)) else none
/-- The planned far link of a link (R260), whatever port it is bundled in: link i of a port of the default bundling connects to link i of the far port. -/
def farLink (l : Nat) : Option Nat := (defaultLinks (farPortOf (defaultPort l)))[(defaultLinks (defaultPort l)).idxOf l]?
/-- Whether a link is to train: it is in a port and has a planned far end. -/
def State.linkPlanned (s : State) (l : Nat) : Bool := (s.portOf l).isSome && s.linkWired l

/-! ### Default routes and detours (R262, R265) -/

/-- The first port of the default route in a ring of size `n` with `d` the distance: + ports for d < n / 2, else the − port. -/
def ringPort (n d plus minus : Nat) : Option Nat := if d = 0 then none else if 2 * d < n then some plus else some minus

/-- The first port of the route from device `a` to device `b` (R262, Table 11.14); none to itself. -/
def firstPort (plan a b : Nat) : Option Nat :=
  let c := coords a; let e := coords b
  let dx := (e.1 + 8 - c.1) % 8
  match dx with
  | 1 | 2 => some 0
  | 3 => some 1
  | 4 => some 6
  | 5 => some 0
  | 6 | 7 => some 1
  | _ =>
    let ny := (planYZ plan).1; let nz := (planYZ plan).2
    match ringPort ny ((e.2.1 + ny - c.2.1) % ny) 2 3 with
    | some p => some p
    | none => ringPort nz ((e.2.2 + nz - c.2.2) % nz) 4 5

/-- The hops of the default route as devices with the port that each leaves by; `fuel` bounds them. -/
def routeHops (plan b : Nat) : Nat → Nat → List (Nat × Nat)
  | 0, _ => []
  | fuel + 1, a =>
    match firstPort plan a b with
    | none => []
    | some p =>
      match farDevice plan false a p with
      | some c => (a, p) :: routeHops plan b fuel c
      | none => []

/-- The next device on the torus route toward another device. -/
def nextOnRoute (plan a b : Nat) : Option Nat := ((routeHops plan b 12 a)[1]?).map (·.1) |>.orElse (fun _ => if a = b then none else some b)

/-- Whether `n` hops from device `a` by port `p` avoid every lost hop. -/
def ringClear (plan p : Nat) (lost : Nat × Nat → Bool) : Nat → Nat → Bool
  | 0, _ => true
  | n + 1, a => !lost (a, p) && ringClear plan p lost n ((farDevice plan false a p).getD a)

/-- The port of the ring direction that is clear: `n` hops on `plus` or `m − n` on `minus`, the shorter tried first. -/
def clearDir (plan : Nat) (lost : Nat × Nat → Bool) (a plus minus n m : Nat) : Option Nat :=
  let c1 := ringClear plan plus lost n a
  let c2 := ringClear plan minus lost (m - n) a
  if 2 * n ≤ m then (if c1 then some plus else if c2 then some minus else none)
  else if c2 then some minus else if c1 then some plus else none

/-- The first port of the detour from `a` toward `b` in the first dimension that is to be corrected: ring hops in the direction that avoids the lost hop, in x without C (R265). -/
def detourPort (plan a b : Nat) (lost : Nat × Nat → Bool) : Option Nat :=
  let c := coords a; let e := coords b
  let ny := (planYZ plan).1; let nz := (planYZ plan).2
  let dx := (e.1 + 8 - c.1) % 8
  let dy := (e.2.1 + ny - c.2.1) % ny
  let dz := (e.2.2 + nz - c.2.2) % nz
  if dx ≠ 0 then clearDir plan lost a 0 1 dx 8
  else if dy ≠ 0 then clearDir plan lost a 2 3 dy ny
  else if dz ≠ 0 then clearDir plan lost a 4 5 dz nz
  else none

/-- The dimension of a port: 0 x, 1 y, 2 z. -/
def portDim (p : Nat) : Nat := if p = 0 ∨ p = 1 ∨ p = 6 then 0 else if p = 2 ∨ p = 3 then 1 else 2

/-- A device of the plan that is missing in this device's view (R394). -/
def State.missing (s : State) (d : Nat) : Bool := decide (d ≠ s.cab) && !s.care.present.contains d

/-- Whether a hop is lost: it leaves this device by a port with no live link, leads from or to a missing device, or crosses a port that another device has reported lost (R265). -/
def State.hopLost (s : State) (h : Nat × Nat) : Bool :=
  (decide (h.1 = s.cab) && (s.liveLinks h.2).isEmpty) || s.missing h.1 || s.care.lostPorts.contains h ||
    (match farDevice s.plan false h.1 h.2 with | some d => s.missing d || s.care.lostPorts.contains (d, farPortOf h.2) | none => true)

/-- The route entry for a device: the default route where no hop of it is lost, else the detour in the dimension of the lost hop, the hops of other dimensions keeping the default;
invalid where there is no detour. -/
def State.routeFor (s : State) (d : Nat) : Nat :=
  if d = s.cab ∨ planModules s.plan ≤ d ∨ s.missing d then 0
  else
    let hops := routeHops s.plan d 12 s.cab
    match hops.head? with
    | none => 0
    | some h =>
      match hops.find? (fun x => s.hopLost x) with
      | none => 8 + h.2
      | some l =>
        match hops.find? (fun x => decide (portDim x.2 = portDim l.2)) with
        | none => 0
        | some turn =>
          match detourPort s.plan turn.1 d s.hopLost with
          | none => 0
          | some p => if portDim l.2 = portDim h.2 then 24 + p else 24 + h.2

/-- The Bureau fills or rewrites the route table (R263, R265). -/
def State.fillRoutes (s : State) : State :=
  { s with regs := (List.range (planModules s.plan)).foldl (fun r d => r.setWord 3 (0x400 + 4 * d) (s.routeFor d)) s.regs }

/-- Unload notices to the Shelf's other modules, function 64 for all contexts: sent, or kept until a route to the module is valid (R272). -/
def State.sendNotices (s : State) (l : List (Nat × Nat)) : State :=
  l.foldl (fun s x =>
    if (s.routePort x.1).isSome then s.send (.mgmt x.1 msgUnload [x.2])
    else { s with pcie := { s.pcie with owed := s.pcie.owed ++ [x] } }) s
/-- Routes have changed: notices that were kept are tried again. -/
def State.retryNotices (s : State) : State := ({ s with pcie := { s.pcie with owed := [] } } : State).sendNotices s.pcie.owed
/-- The other modules of the Shelf. -/
def State.shelfMates (s : State) : List Nat := ((List.range 8).map (· + s.cab / 8 * 8)).filter (fun d => decide (d ≠ s.cab))

/-! ### The view of the Cabinet (R393, R395) -/

/-- RT_IDENT.stepping. -/
def State.stepping (s : State) : Nat := if s.root.b0 then 0xB0 else 0xA1
/-- The highest link protocol version of this module: RT_IDENT.link_proto_max. -/
def State.protoMax (s : State) : Nat := if s.root.b0 then 0x11 else 0x10

/-- Planned ports of this device with no live link (BU_CAB_STAT.ports_short). -/
def State.portsShort (s : State) : Nat := ((List.range 8).filter (fun p => (s.portFar p).isSome && (s.liveLinks p).isEmpty)).length
/-- The view is complete: every planned device is present, and every planned port has a live link. -/
def State.viewComplete (s : State) : Bool := (List.range (planModules s.plan)).all (fun d => !s.missing d) && decide (s.portsShort = 0)

/-- Evaluate the state of the view once assembly has started (R395): 1 assembling, 2 complete, 3 degraded when the timeout has passed since ready. -/
def State.evalCab (s : State) : State :=
  if s.care.cabState = 0 then s
  else
    let st := if s.viewComplete then 2
      else if s.care.cabState = 3 ∨ s.care.asmAt + s.regs.field 1 0x320 15 0 * 100000000 ≤ s.now then 3 else 1
    { s with care := { s.care with cabState := st } }

/-- The last boot nonce seen of a device. -/
def State.nonceOf (s : State) (d : Nat) : Nat :=
  if d = s.cab then s.root.nonce else (((s.care.seen.filter (fun x => decide (x.1 = d))).getLast?).map (·.2)).getD 0

/-- Send an assembly message on every ACTIVE link but one (kind 6 in the model's numbering). -/
def State.floodAsm (s : State) (but : Option Nat) (fields : List Nat) (devid : Nat) : State :=
  ((List.range 32).filter (fun l => decide ((s.link l).state = 6 ∧ some l ≠ but))).foldl (fun s l => s.emit (.link l 6 fields (leBytes 16 devid))) s
/-- The device sends its own assembly message (R393). -/
def State.sendAsm (s : State) : State := s.floodAsm none [s.cab, s.root.nonce, s.plan, s.stepping, s.protoMax] s.root.devid

/-! ### The mesh (R10, R160) -/

/-- Compute dies attached to an edge die (Table 1.1): 16 to 18 the link dies, 19 the root die. -/
def attached (die : Nat) : List Nat :=
  match die with
  | 16 => [0, 1, 2, 3] | 17 => [3, 7, 11, 15] | 18 => [12, 13, 14, 15] | 19 => [0, 4, 8, 12] | _ => []

/-- The channel by which an open packet at compute die `a` leaves toward die `b`, first along the row, then along the column (R160); none at its own die. -/
def meshPort (a b : Nat) : Option Nat :=
  let r := a / 4; let c := a % 4
  match b with
  | 16 => some 16
  | 17 => some 17
  | 18 => some 18
  | 19 => some 19
  | _ =>
    if 20 ≤ b then none
    else if c < b % 4 then some 17
    else if b % 4 < c then some 19
    else if r < b / 4 then some 18
    else if b / 4 < r then some 16
    else none

/-- The die at the far side of a die-to-die port of compute die `a`: 16 N, 17 E, 18 S, 19 W. -/
def meshNext (a port : Nat) : Nat :=
  match port with
  | 16 => if a / 4 = 0 then 16 else a - 4
  | 17 => if a % 4 = 3 then 17 else a + 1
  | 18 => if a / 4 = 3 then 18 else a + 4
  | _ => if a % 4 = 0 then 19 else a - 1

/-- The input by which a flit enters the next die: the port of the far side. -/
def entryPort (port : Nat) : Nat :=
  match port with
  | 16 => 18 | 17 => 19 | 18 => 16 | _ => 17

/-- The path length in the mesh from compute die `a` to a die: to an edge die, to the nearest compute die attached to it. -/
def meshDist (a b : Nat) : Nat :=
  let one := fun (b : Nat) => (max (a / 4) (b / 4) - min (a / 4) (b / 4)) + (max (a % 4) (b % 4) - min (a % 4) (b % 4))
  if b < 16 then one b else ((attached b).map one).foldl min 6

/-- The compute-facing channel of a link die by which an open packet enters the mesh: that of the attached die nearest its destination, the lowest-numbered of several (assumption log 140). -/
def meshEntry (die b : Nat) : Nat :=
  let near := ((attached die).map (fun a => meshDist a b)).foldl min 6
  ((List.range 4).find? (fun i => decide (meshDist ((attached die).getD i 0) b = near))).getD 0

/-! ### Slot tables (R145, Table 7.4) -/

/-- The page and offset of the table of a channel: a compute die's channels 0 to 33; on a link die, 0 to 3 its compute-facing channels, whose tables lie outside the register space (assumption log 29), and
8 to 15 the transmit queues of ports P0 to P7 (R426). -/
def slotTable (die channel : Nat) : Option (Nat × Nat) :=
  if die < 16 ∧ channel < 34 then some (0x100 + 0x40 * die + 1 + channel / 4, 0x400 * (channel % 4))
  else if 16 ≤ die ∧ die < 19 ∧ channel < 4 then some (0x5000 + (die - 16), 0x400 * channel)
  else if 16 ≤ die ∧ die < 19 ∧ 8 ≤ channel ∧ channel < 16 then some (0x500 + 0x40 * (die - 16) + 2 + (channel - 8) / 4, 0x400 * (channel % 4))
  else none

/-- The entry of a slot of a channel. -/
def State.slotEntry (s : State) (die channel slot : Nat) : Nat :=
  match slotTable die channel with
  | some (p, o) => if slot % 64 = 63 then 3 else s.regs.word p (o + 4 * slot)
  | none => 0

/-- Write the entry of a slot in effect. -/
def State.setSlotEntry (s : State) (die channel slot v : Nat) : State :=
  match slotTable die channel with
  | some (p, o) => { s with regs := s.regs.setWord p (o + 4 * slot) v }
  | none => s

/-- Whether a flow of a context owns a slot of a channel. -/
def State.ownsSlot (s : State) (die channel ctx flow slot : Nat) : Bool :=
  let e := s.slotEntry die channel slot
  decide (e % 4 = 1 ∧ bitsOf e 7 2 = ctx ∧ bitsOf e 19 8 = flow)

/-- The scheduled slots of a channel. -/
def State.schedSlots (s : State) (die channel : Nat) : List Nat := (List.range 256).filter (fun i => decide (s.slotEntry die channel i % 4 = 1))

/-! ### Control packets and credits that go back (R244, R247) -/

/-- A control packet: its first byte names the contents; 28 bytes and their CRC-32. -/
def controlPacket (kind : Nat) (body : List Byte) : List Byte :=
  let b := ((BitVec.ofNat 8 kind :: body) ++ List.replicate 28 0).take 28
  b ++ leBytes 4 (crc32 b)

/-- `n` credits of a unit go back to the far end of a port as a running total: of a context with its number at the far device (contents 2), of another unit with the unit (contents 4). -/
def State.returnCredits (s : State) (p u n : Nat) : State :=
  let total := tget 0 s.ports.freed (creditKey p u) + n
  let s : State := { s with ports := { s.ports with freed := tput 0 s.ports.freed (creditKey p u) total } }
  match s.syncLink p with
  | none => s
  | some l =>
    let who := if u < 64 then peerCtx (s.ctx u) ((s.portFar p).getD 0) else u
    s.emit (.packet l (controlPacket (if u < 64 then 2 else 4) (leBytes 1 1 ++ leBytes 1 who ++ leBytes 4 total)))

/-- The received port slots whose bytes are all among the next `n` bytes of their flow, as ports and pieces, and the rest. -/
def popSlots : List (Nat × Nat × Nat) → Nat → List (Nat × Nat) × List (Nat × Nat × Nat)
  | [], _ => ([], [])
  | x :: xs, n =>
    if x.2.2 ≤ n then
      let r := popSlots xs (n - x.2.2)
      ((x.1, x.2.1) :: r.1, r.2)
    else ([], (x.1, x.2.1, x.2.2 - n) :: xs)

/-- `n` bytes of a flow that came by a port are in their ring, or at the next device: the credits of the pieces that brought them go back (assumption log 143). -/
def State.written (s : State) (ctx flow n : Nat) : State :=
  let k := flowKey ctx flow
  let r := popSlots (tget [] s.ports.inq k) n
  r.1.foldl (fun s x => s.returnCredits x.1 ctx x.2) { s with ports := { s.ports with inq := tput [] s.ports.inq k r.2 } }

end Sys2Proof.Machine
end

