-- ==== Sys2Proof/Machine/Issue.lean ====
section
/-! DEFINITION. The issue of a slot operation, shared by every operation of a bundle (R87). -/

namespace Sys2Proof.Machine

/-- Slot operation `w` of slot `slot` issues on core `c`: `isOp` says which words are of this operation, `eff` is its effect. A core that the module does not have, or a
word that is not the operation of the present bundle, leaves the state as it is. -/
def State.issueOp (s : State) (c slot : Nat) (isOp : W32 → Bool) (eff : Core → CoreEnv → W32 → CoreRes) (w : W32) : State :=
  if 128 ≤ c then s else s.coreResult c ((s.core c).issue (s.env c) slot isOp eff w)

/-- A C-slot word with op code `op`. -/
def isC (op : Nat) (w : W32) : Bool := decide (cOp w = op)
/-- A V-slot word with op code `op`. -/
def isV (op : Nat) (w : W32) : Bool := decide (vOp w = op)
/-- An M-slot or S-slot word with op code `op` in bits [3:0]. -/
def isMS (op : Nat) (w : W32) : Bool := decide (bitsOf w.toNat 3 0 = op)

end Sys2Proof.Machine
end

