-- ==== Sys2Proof/Machine/MemOps.lean ====
section
/-! DEFINITION. Frames, regions and versions (R191 to R194, R218, R219, R450), die caches (R199, R202, R206), and the containment of uncorrectable errors (R325 to R328). -/

namespace Sys2Proof.Machine

/-! ### Frames (R193, R194) -/

/-- Frames that no allocation may take: allocated or zeroing entries, and the frames withheld (R387, R328). -/
def State.unavail (s : State) : List Nat :=
  (s.frames.filter (fun e => feAlloc e.2 || feZeroing e.2)).map (·.1) ++ s.root.withheld

/-- The lowest-numbered run of `n` free zeroed frames (R194). -/
def State.findRun (s : State) (n : Nat) : Option Nat :=
  let u := s.unavail
  ((sortBy id (0 :: u.map (· + 1))).find? (fun c => decide (c + n ≤ userFrames) && u.all (fun f => decide (f < c ∨ c + n ≤ f))))

/-- The `n` lowest-numbered free zeroed frames (R194). -/
def State.lowestFree (s : State) (n : Nat) : Option (List Nat) :=
  let u := s.unavail
  let fs := ((List.range (n + u.length)).filter (fun f => !u.contains f)).take n
  if fs.all (fun f => decide (f < userFrames)) then some fs else none

/-- The entry of an allocated frame: owner, shared bit, mirror map. -/
def frameEntry (owner : Nat) (shared : Bool) (mir : Option Nat) : Nat :=
  1 + owner % 64 * 2 + b2n shared * 2 ^ 8 + (match mir with | some m => 2 ^ 11 + m % 256 * 2 ^ 16 | none => 0)

/-- Frames of a context's partition (R194). -/
def State.partition (s : State) (n : Nat) : List Nat :=
  (s.frames.filter (fun e => feAlloc e.2 && !feShared e.2 && decide (feOwner e.2 = n))).map (·.1)

/-- The smallest window of frames that holds a context's partition. -/
def State.partitionWindow (s : State) (n : Nat) : Nat × Nat :=
  match s.partition n with
  | [] => (0, 0)
  | f :: fs => (fs.foldl min f, fs.foldl max f)

/-- The entries of a job's members at the stacks and die caches of this device (Table 14.11) keep as their window the context's frames, whatever version or buffer the Bureau has allocated since
(assumption log 49). -/
def State.followPartition (s : State) (n : Nat) : State :=
  let w := s.partitionWindow n
  let upd := fun (x : Nat × Nat) =>
    if bitOf x.2 39 ∧ !bitOf x.2 38 ∧ bitsOf x.2 37 32 = n ∧ 0x4000 ≤ x.2 % 65536 ∧ x.2 % 65536 < 0x4080 then (x.1, x.2 % 2 ^ 48 + w.1 * 2 ^ 48 + w.2 * 2 ^ 80) else x
  { s with regs := { s.regs with acl := s.regs.acl.map upd, aclShadow := s.regs.aclShadow.map upd } }

/-- CTX_MEM.quota of a context. -/
def State.quota (s : State) (n : Nat) : Nat := s.regs.field (ctxPage n) 0x3D4 19 0

/-- Die-cache lines that survive when the lines of some frames are invalidated (R199). -/
def State.invalidate (s : State) (fs : List Nat) : State :=
  { s with care := { s.care with cache := s.care.cache.filter (fun l => !fs.contains (frameOf (l.2 % 2 ^ 36))) } }

/-- Frames are freed: stable is cleared, which invalidates their lines (R199), and they go to zeroing (R194). -/
def State.freeFrames (s : State) (fs : List Nat) : State :=
  (s.invalidate fs).modFrames fs (fun _ => 2 ^ 13)

/-- A frame is zeroed in every stack: its bytes and errors are gone. -/
def State.zeroFrame (s : State) (f : Nat) : State :=
  { s with
    mem := s.mem.filter (fun e => decide (frameOf (e.1 % 2 ^ 36) ≠ f))
    badLines := s.badLines.filter (fun e => decide (frameOf (e.1 % 2 ^ 36) ≠ f)) }

/-- Set and clear bits of frame entries: stable (bit 9), ro (bit 12). -/
def setProt (ro stable : Bool) (e : Nat) : Nat :=
  let e := if bitOf e 9 then e - 2 ^ 9 else e
  let e := if bitOf e 12 then e - 2 ^ 12 else e
  e + b2n stable * 2 ^ 9 + b2n ro * 2 ^ 12

/-! ### Regions (R218, R219) -/

/-- Region `r`. -/
def State.region (s : State) (r : Nat) : Option Region := tfind s.regions r
/-- Replace region `r`. -/
def State.setRegion (s : State) (r : Nat) (g : Region) : State := { s with regions := tset s.regions r g }

/-- Frames of a version of `size` bytes: in the interleaved window a frame holds 1 MiB of it, in a stack-local window 64 KiB. -/
def versionFrames (win size : Nat) : Nat := if win = 1 then ceilDiv size (2 ^ 20) else ceilDiv size 65536
/-- Device address of a run of frames from `f` on: interleaved, or local to stack `k`. -/
def runAddr (win k f : Nat) : Nat := if win = 1 then 0x200000000000 + f * 2 ^ 20 else k * 2 ^ 36 + f * 65536
/-- First frame of a device address of a run. -/
def addrFrame (win a : Nat) : Nat := if win = 1 then (a - 0x200000000000) / 2 ^ 20 else a % 2 ^ 36 / 65536
/-- Base of slot `k` of a region. -/
def Region.base (g : Region) (k : Nat) : Nat := g.bases.getD k 0
/-- State of slot `k` (Table 9.14): 0 free, 1 pending, 2 current, 3 draining. -/
def Region.slot (g : Region) (k : Nat) : Nat := g.states.getD k 0
/-- The frames of slot `k`. -/
def Region.frames (g : Region) (k : Nat) : List Nat := framesFrom (addrFrame g.win (g.base k)) (versionFrames g.win g.size)
/-- Set the state of slot `k`. -/
def Region.setSlot (g : Region) (k v : Nat) : Region := { g with states := g.states.set k v }

/-- The bytes of slot `k` of a region. -/
def State.versionBytes (s : State) (g : Region) (k : Nat) : List Byte := s.devRead (g.base k) g.size

/-- The version digest of R357: SHA-256 of the size and of the digests of its MiB pieces. -/
def versionDigest (size : Nat) (bs : List Byte) : List Byte :=
  sha256 (leBytes 8 size ++ (chunksOf (2 ^ 20) (size / 2 ^ 20 + 1) bs).flatMap sha256)

/-- The mirror map entry that the frames of a mirrored object take: the lowest entry, in stack 0's page, with a valid buddy. -/
def State.mirrorMapFor (s : State) (mirrored : Bool) : Option Nat :=
  if !mirrored then none else ((List.range 256).find? (fun m => !(mirrorBuddies (s.mirrorEntry 0 m)).isEmpty))

/-- Open a pending version in a free slot: frames allocated and set pending (R219). None if no slot is free or no run fits. The stack of a version in a stack-local window is
a free value, which every version of the region keeps (assumption log 26). -/
def State.openVersion (s : State) (r : Nat) : Option State :=
  match s.region r with
  | none => none
  | some g =>
    match (List.range 3).find? (fun k => g.slot k = 0), s.findRun (versionFrames g.win g.size) with
    | some k, some f =>
      let g' := { g.setSlot k 1 with bases := g.bases.set k (runAddr g.win g.stack f), pend := k }
      some ((s.modFrames (framesFrom f (versionFrames g.win g.size)) (fun _ => frameEntry g.owner g.shared (s.mirrorMapFor g.mirrored))).setRegion r g' |>.followPartition g.owner)
    | _, _ => none

/-- Whether some holder keeps slot `k` of region `r` bound: a running task, a task whose replay is pending, a strict context's view at its last boundary, an evaluation. -/
def State.slotHeld (s : State) (r k : Nat) : Bool :=
  let holds := fun (t : TaskRun) => (List.range 4).any (fun i => decide (descField t.desc (143 + 16 * i) (128 + 16 * i) = r) && decide (t.bound.getD i none = some k))
  s.cores.any (fun c => match c.2.run with | some t => holds t | none => false) ||
  s.care.replays.any (fun p => holds p.task) ||
  s.ctxs.any (fun c => c.2.loaded && ((evalSlots c.2.mem.evals).contains (r, k) || (s.regs.strictActive && decide (tfind c.2.mem.view r = some k))))

/-- The slots of a region that are in use. -/
def State.usedSlots (s : State) (r : Nat) : List Nat := (List.range 3).filter (fun k => match s.region r with | some g => decide (g.slot k ≠ 0) | none => false)

/-- The frames that a slot in use of another region holds too: one version may be current under several region IDs (R221). -/
def State.otherHolds (s : State) (r f : Nat) : Bool :=
  s.regions.any (fun g => decide (g.1 ≠ r) && (List.range 3).any (fun k => decide (g.2.slot k ≠ 0) && (g.2.frames k).contains f))

/-- Release slot `k` of a region: free, its frames to zeroing (R219, R194). -/
def State.releaseSlot (s : State) (r k : Nat) : State :=
  match s.region r with
  | none => s
  | some g => (s.freeFrames ((g.frames k).filter (fun f => !s.otherHolds r f))).setRegion r { g.setSlot k 0 with bases := g.bases.set k 0, digests := g.digests.set k [] }

/-- The pending version becomes current (R219, R357): frames read-only, stable if cacheable, the digest formed, the old current slot draining. -/
def State.publish (s : State) (r : Nat) : State :=
  match s.region r with
  | none => s
  | some g =>
    if 3 ≤ g.pend then s
    else
      let k := g.pend
      let dig := versionDigest g.size (s.versionBytes g k)
      let s := s.modFrames (g.frames k) (setProt true g.cacheable)
      let g := if g.slot g.cur = 2 ∧ g.cur ≠ k then g.setSlot g.cur 3 else g
      s.setRegion r { g.setSlot k 2 with cur := k, pend := 3, version := (g.version + 1) % 2 ^ 32, digests := g.digests.set k dig, publishing := false }

/-- A region has no pending version. -/
def State.noPending (s : State) (r : Nat) : State :=
  match s.region r with
  | none => s
  | some g => s.setRegion r { g with pend := 3, publishing := false }

/-- Discard the pending version of a region (R319, step 3). -/
def State.discardPending (s : State) (r : Nat) : State :=
  match s.region r with
  | none => s
  | some g => if 3 ≤ g.pend then s
    else (s.releaseSlot r g.pend).noPending r

/-- The private regions of a context. -/
def State.ownRegions (s : State) (n : Nat) : List Nat := (s.regions.filter (fun g => decide (g.2.owner = n) && !g.2.shared)).map (·.1)

/-- The size of the version that region field `i` of the task of a core binds, its base, or none. -/
def State.boundBase (s : State) (t : TaskRun) (i : Nat) : Option Nat :=
  match s.region (descField t.desc (143 + 16 * i) (128 + 16 * i)), t.bound.getD i none with
  | some g, some k => some (g.base k)
  | _, _ => none

/-- The base of the pending version that region field `i` names. -/
def State.pendBase (s : State) (t : TaskRun) (i : Nat) : Option Nat :=
  match s.region (descField t.desc (143 + 16 * i) (128 + 16 * i)) with
  | some g => if g.pend < 3 then some (g.base g.pend) else none
  | none => none

/-! ### Requests to the stacks (R203, R213, R353) -/

/-- Master ID of a core. -/
def coreMaster (c : Nat) : Nat := c
/-- Master ID of the copy engine that serves a core. -/
def State.copyMaster (s : State) (c : Nat) : Nat := 0x1000 + s.engineOf c
/-- Master ID of host function `n`. -/
def hostMaster (n : Nat) : Nat := 0x8000 + n

/-- Whether the Cabinet plan populates an index (R190, Table 11.11b). -/
def State.planned (s : State) (d : Nat) : Bool := decide (d < 8 * 2 ^ bitsOf s.root.straps 9 7)

/-- The check of a run of device addresses by one master: the class of the first piece refused, with its address; remote pieces pass, they are checked at their target. -/
def State.rangeCheck (s : State) (right : Right) (master ctx a n : Nat) : Option (Nat × Nat) :=
  (pieces 4096 (n / 4096 + 2) a n).findSome? (fun p =>
    match s.decodeAddr p.1 with
    | none => some (0x37, p.1)
    | some (d, k, o) =>
      if d ≠ s.cab then (if s.planned d then none else some (0x37, p.1))
      else (s.memCheck right master ctx k o p.2).map (fun c => (c, p.1)))

/-- The S-slot operations whose requests reach memory: WFILL, COPY, ATOM (R150, Table 9.9). -/
def wfillOp : OpAt := (1, 2)
def copyOp : OpAt := (4, 2)
def atomOp : OpAt := (5, 2)

/-- The record of a refused request (R353). A host's access is no work of a context, and its record names none (assumption log 121). -/
def State.refusalRec (s : State) (cls action master ctx addr : Nat) : ErrRec :=
  if master / 4096 = 8 then { s.mkRec cls action with addr := addr, syndrome := master }
  else { s.mkRec cls action with ctx := ctx % 64, ctxValid := true, step := (s.ctx ctx).st.step, addr := addr, syndrome := master }

/-- A task whose request was refused ends with status 0x10 and its context stops (R203); the record names the class of R353 and the operation whose request it was. -/
def State.refuseTask (s : State) (c master cls addr : Nat) (op : OpAt) : State :=
  match (s.core c).run with
  | none => s
  | some t =>
    let s := s.dropTask c 0x10 { (s.refusalRec cls 2 master t.ctx addr).unit 2 (c / 8) c 0 with
      queue := t.queue, taskId := descTaskId t.desc, opcode := op.1, opSlot := op.2 }
    s.stopCtx t.ctx cls

/-- A signal that context `n` sends through a forward entry was refused (R353): its source, this device, writes a record of class 0x38 that names the counter in the target context, and stops the
sending context. -/
def State.refuseSignal (s : State) (n num : Nat) : State := (s.record (s.refusalRec 0x38 2 (0x4200 + s.cab) n num)).stopCtx n 0x38

/-! ### Uncorrectable errors (R325 to R328) -/

/-- Write bytes of this device without mirror writes, clearing the errors of the lines written. -/
def State.quietWrite (s : State) (a : Nat) (bs : List Byte) : State :=
  ((pieces 64 (bs.length / 64 + 2) a bs.length).foldl (fun (x : State × List Byte) p =>
    (match x.1.decodeAddr p.1 with
     | some (_, k, o) => { x.1.memWrite k o (x.2.take p.2) with badLines := tdel x.1.badLines (memKey k (o / 64 * 64)) }
     | none => x.1, x.2.drop p.2)) (s, bs)).1

/-- The committed version of a region lies in mirrored frames whose mirror map entry has a valid buddy. -/
def State.versionMirrored (s : State) (g : Region) : Bool :=
  decide (g.slot g.cur = 2) && (g.frames g.cur).all (fun f => feMirror (s.frame f) && !(mirrorBuddies (s.mirrorEntry 0 (feMap (s.frame f)))).isEmpty)

/-- A partition reset (R325): stable and ro are cleared, the version slots of the context's own regions return to free with pending versions discarded, and every frame is zeroed. Each region
whose committed version lay in mirrored frames gets it back from the buddy's bytes, in the same frames, under the same version number; the others hold no version. -/
def State.resetPartition (s : State) (n : Nat) (fills : List (Nat × List Byte)) : State :=
  let fs := s.partition n
  let own := s.ownRegions n
  let keep := own.filter (fun r => match s.region r with | some g => s.versionMirrored g | none => false)
  let s := s.invalidate fs
  let s := s.modFrames fs (setProt false false)
  let s := fs.foldl State.zeroFrame s
  let s := own.foldl (fun s r =>
    match s.region r with
    | none => s
    | some g =>
      let gone := ((List.range 3).filter (fun k => decide (g.slot k ≠ 0) && !(keep.contains r && decide (k = g.cur)))).flatMap g.frames
      let s := s.freeFrames gone
      s.setRegion r { g with states := [0, 0, 0], pend := 3, publishing := false, digests := [[], [], []],
                             bases := if keep.contains r then (List.range 3).map (fun k => if k = g.cur then g.base k else 0) else [0, 0, 0] }) s
  keep.foldl (fun s r =>
    match s.region r with
    | none => s
    | some g =>
      let s := s.quietWrite (g.base g.cur) (((fills.find? (fun x => decide (x.1 = r))).map (·.2)).getD [] |>.take g.size)
      let s := (s.setRegion r { g.setSlot g.cur 1 with pend := g.cur }).publish r
      match s.region r with
      | some h => s.setRegion r { h with version := g.version }
      | none => s) s

/-- Count an uncorrectable error of a frame within a step; true at the second (R328). -/
def State.uncorrSecond (s : State) (n f : Nat) : Bool := decide (tfind s.care.uncorr f = some ((s.ctx n).st.step))

/-- Name an uncorrectable line in a record: its stack, its address and, in the syndrome, the symbols in error, the frame and the stack (Table 13.6). -/
def ErrRec.line (r : ErrRec) (stack off mask : Nat) : ErrRec :=
  { r.unit 7 stack 0 stack with addr := stack * 2 ^ 36 + off, syndrome := mask % 2 ^ 16 + frameOf off * 2 ^ 16 + stack * 2 ^ 36 }

/-- The symbols in error of a line, as they were found. -/
def State.badMask (s : State) (stack off : Nat) : Nat := tget 0 s.badLines (memKey stack (off / 64 * 64))

/-- Ask the devices of the Cabinet which hold a current version of a shared region (R221). -/
def State.askHolders (s : State) (r : Nat) (digest : List Byte) : State :=
  s.sendAll ((s.care.present.filter (fun d => decide (d ≠ s.cab))).map (fun d => .mgmt d msgHolderQuery (s.cab :: r :: digest.map (·.toNat))))

/-- The current version of a shared region is lost (R326): every context that maps it is aborted, the version goes, and the region is resolved again. -/
def State.dropShared (s : State) (r : Nat) (g : Region) (cls : Nat) : State :=
  let s := (g.mapped.foldl (fun s n => s.abortCtx n cls false) s).releaseSlot r g.cur
  let s := s.askHolders r (g.digests.getD g.cur [])
  (s.openVersion r).getD s

/-- The containment of an uncorrectable line of this device's memory (R325 to R328), with its one record (R315), made from `base`. -/
def State.containAs (s : State) (stack off cls : Nat) (base : ErrRec) : State :=
  let f := frameOf off
  let e := s.frame f
  let rec0 := fun (action : Nat) => { base.line stack off (s.badMask stack off) with action := action }
  if userFrames ≤ f then s.record (rec0 0)
  else if !feAlloc e then (s.record (rec0 0)).setFrame f (2 ^ 13)
  else if feShared e then
    let all := s.regions.filter (fun g => g.2.shared && (List.range 3).any (fun k => decide (g.2.slot k ≠ 0) && (g.2.frames k).contains f))
    let live := all.filter (fun g => decide (g.2.slot g.2.cur = 2) && (g.2.frames g.2.cur).contains f)
    if all.isEmpty then (s.record (rec0 0)).freeFrames [f]
    else if live.isEmpty then
      all.foldl (fun s x => ((List.range 3).filter (fun k => (x.2.frames k).contains f && decide (x.2.slot k = 3) && !s.slotHeld x.1 k)).foldl (fun s k => s.releaseSlot x.1 k) s) (s.record (rec0 0))
    else live.foldl (fun s x => s.dropShared x.1 x.2 cls) (s.record (rec0 6))
  else
    let n := feOwner e
    if s.uncorrSecond n f then
      ({ s.record { rec0 2 with ctx := n, ctxValid := true, step := (s.ctx n).st.step } with root := { s.root with withheld := s.root.withheld ++ [f] } }).stopCtx n cls
    else if (s.ctx n).job.mirrorOf.contains f then
      s.record (rec0 0) |>.send (.mgmt ((s.ctx n).job.mirrorSrc) msgRepair [peerCtx (s.ctx n) ((s.ctx n).job.mirrorSrc), stack, off / 64 * 64, f])
    else
      let s := { s.record { rec0 5 with ctx := n, ctxValid := true, step := (s.ctx n).st.step } with
        care := { s.care with uncorr := tset s.care.uncorr f ((s.ctx n).st.step) } }
      (s.abortCtx n cls false).modCtx n (fun c => { c with job := { c.job with resetPend := true } })

/-- The containment of an uncorrectable line that no task read. -/
def State.containLine (s : State) (stack off cls : Nat) : State := s.containAs stack off cls (s.mkRec cls 0)

/-- A task that read an uncorrectable line ends with status 0x18 (R196), and the line is contained; the one record names the task (R315). -/
def State.taskBad (s : State) (c a n : Nat) (op : OpAt) : State :=
  match (s.core c).run with
  | none => s
  | some t =>
    let bad := (pieces 4096 (n / 4096 + 2) a n).findSome? (fun p =>
      match s.decodeAddr p.1 with
      | some (_, k, o) => (s.badLines.find? (fun b => decide (b.1 + 64 > memKey k o ∧ b.1 < memKey k o + p.2))).map (fun b => (b.1 / 2 ^ 36, b.1 % 2 ^ 36))
      | none => none)
    match bad with
    | none => s
    | some (k, o) =>
      (s.endQuiet c 0x18).containAs k o 0x18 (s.taskRec c t 0x18 0 op)

/-! ### ECC of one line (R196) -/

/-- How many of the sixteen symbols of a line a mask names. -/
def symbols (mask : Nat) : Nat := ((List.range 16).filter (fun i => bitOf mask i)).length

/-- A line is read with the symbols of mask `bad` in error: one is corrected and written back, more are uncorrectable; both are counted. -/
def State.eccRead (s : State) (stack off bad : Nat) : State :=
  if symbols bad = 0 then s
  else if symbols bad = 1 then s.count (stackPage stack) .eccCorrected 1
  else { s.count (stackPage stack) .eccUncorrectable 1 with badLines := tset s.badLines (memKey stack (off / 64 * 64)) bad }

end Sys2Proof.Machine
end

