-- ==== Sys2Proof/Machine/Streams.lean ====
section
/-! DEFINITION. Weight fills and streams (R150 to R156). -/

namespace Sys2Proof.Machine

/-- WFILL (R151): a fill of one staging half starts. -/
def execWfill (core : Nat) (w : W32) (s : State) : Host.Outcome State Fault Refusal :=
  .next (s.issueOp core 2 (isMS 1) issueWfill w)

/-- The runs of region bytes that a fill reads: stored rows and, in a B4 pairing, scales. -/
def WfillF.ranges (f : WfillF) (p : Pairing) : List (Nat × Nat) :=
  (List.range f.tiles).flatMap (fun i =>
    (List.range (f.rows p)).map (fun r => (f.src + i * f.tileStride + r * f.rowStride, f.rowLen p)) ++
    (if p.bits = 4 then [(f.scaleOff + 512 * i, 512)] else []))

/-- The bytes that a fill reads. -/
def WfillF.total (f : WfillF) (p : Pairing) : Nat := ((f.ranges p).map (·.2)).foldl (· + ·) 0

/-- The oldest fill of a core completes (R152): its bytes, checked at the stack (R353, R196), are in the half, which becomes ready unless another fill of it is in progress (R63). A fill whose flow has slots
completes only when they have brought all its bytes; one without is paced by nothing (assumption log 142). -/
def State.fillDone (s : State) (core : Nat) : State :=
  match (s.core core).run, (s.core core).fills with
  | some t, fr :: rest =>
    let f := wfillFields fr.record fr.addSrc fr.addScale
    match pairingOf f.fmt, s.boundBase t f.sel with
    | some p, some base =>
      let rs := f.ranges p
      let slotted := ((s.ctx t.ctx).fillFlow core f.sel).isSome
      if slotted ∧ fr.come < f.total p then s
      else match rs.findSome? (fun r => s.rangeCheck .r (coreMaster core) t.ctx (base + r.1) r.2) with
      | some x => s.refuseTask core (coreMaster core) x.1 x.2 wfillOp
      | none =>
        match rs.find? (fun r => s.devBad (base + r.1) r.2) with
        | some r => s.taskBad core (base + r.1) r.2 wfillOp
        | none =>
          let bytes := fillHalf f p (fun o n => if slotted then tbytes fr.got o n else s.devRead (base + o) n)
          let c := s.core core
          let more := rest.any (fun r => decide ((wfillFields r.record 0 0).array = f.array ∧ (wfillFields r.record 0 0).half = f.half))
          s.setCore core { c.setHalf f.array f.half (if more then 1 else 2) with
            staging := tputBytes c.staging (f.array * 131072 + f.half * 65536) bytes, fills := rest,
            halfSrc := tset c.halfSrc (f.array * 2 + f.half) (t.region f.sel) }
    | _, _ => s
  | _, _ => s

/-- The runs of a list of runs that stand at a position of its bytes, up to `n` bytes of them. -/
def runsAt : List (Nat × Nat) → Nat → Nat → List (Nat × Nat)
  | [], _, _ => []
  | x :: xs, skip, n =>
    if n = 0 then []
    else if x.2 ≤ skip then runsAt xs (skip - x.2) n
    else
      let m := min (x.2 - skip) n
      (x.1 + skip, m) :: runsAt xs 0 (n - m)

/-- A flit of a fill flow leaves the stack (R152): the next 256 bytes of the oldest fill of its core from that region field that have not entered the network, each piece with its offset. -/
def State.fillFlit (s : State) (core ctx sel : Nat) : State × List (Nat × List Byte) :=
  let k := s.core core
  match k.run with
  | none => (s, [])
  | some t =>
    let wants := fun (fr : FillRun) =>
      let f := wfillFields fr.record fr.addSrc fr.addScale
      decide (f.sel = sel) && (match pairingOf f.fmt with | some p => decide (fr.asked < f.total p) | none => false)
    match k.fills.findIdx? wants, s.boundBase t sel with
    | some i, some base =>
      match k.fills[i]? with
      | none => (s, [])
      | some fr =>
        let f := wfillFields fr.record fr.addSrc fr.addScale
        let rs := match pairingOf f.fmt with | some p => runsAt (f.ranges p) fr.asked 256 | none => []
        let n := (rs.map (·.2)).foldl (· + ·) 0
        if t.ctx ≠ ctx then (s, [])
        else (s.setCore core { k with fills := k.fills.set i { fr with asked := fr.asked + n } }, rs.map (fun r => (r.1, s.devRead (base + r.1) r.2)))
    | _, _ => (s, [])

/-- A flit of a fill flow reaches its core: its bytes are those of the oldest fill from that region field that waits for some. -/
def State.fillArrive (s : State) (core sel : Nat) (segs : List (Nat × List Byte)) : State :=
  let k := s.core core
  match k.fills.findIdx? (fun fr => decide ((wfillFields fr.record fr.addSrc fr.addScale).sel = sel ∧ fr.come < fr.asked)) with
  | none => s
  | some i =>
    match k.fills[i]? with
    | none => s
    | some fr =>
      let n := segs.foldl (fun a x => a + x.2.length) 0
      s.setCore core { k with fills := k.fills.set i { fr with come := fr.come + n, got := segs.foldl (fun t x => tputBytes t x.1 x.2) fr.got } }

/-- WFILL_COMPLETE (R152): the oldest fill of the core completes and its half becomes ready; a hold on it ends. -/
def execWfillComplete (core : Nat) (s : State) : Host.Outcome State Fault Refusal :=
  .next (if 128 ≤ core then s else s.fillDone core)

/-- SEND (R154): scratchpad lines into an outbound endpoint buffer. -/
def execSend (core : Nat) (w : W32) (s : State) : Host.Outcome State Fault Refusal :=
  .next (s.issueOp core 2 (isMS 2) issueSend w)

/-- The replay area of the task's die (R310): base and bytes. -/
def State.replayArea (s : State) (c : Nat) : Nat × Nat :=
  match (s.core c).run with
  | none => (0, 0)
  | some t => tget (0, 0) (s.ctx t.ctx).mem.replayArea (c / 8)

/-- Whether the replay area of a die holds captures of a context's tasks other than that of core `c`: of tasks that run, or whose replay is pending. -/
def State.areaShared (s : State) (c n : Nat) : Bool :=
  s.care.replays.any (fun r => decide (r.task.ctx = n ∧ r.core / 8 = c / 8)) ||
  s.cores.any (fun k => decide (k.1 ≠ c ∧ k.1 / 8 = c / 8) && decide (0 < k.2.captures) && (match k.2.run with | some t => decide (t.ctx = n) | none => false))

/-- Capture bytes read by a task selected for replay (R310): they follow, in the area of its die, the captures of every other task that the area still holds; an overflow abandons its replay. -/
def State.capture (s : State) (c : Nat) (bs : List Byte) : State :=
  match (s.core c).run with
  | none => s
  | some t =>
    let k := s.core c
    if !t.replay || k.abandoned || bs.isEmpty then s
    else
      let a := s.replayArea c
      let used := if k.captures = 0 ∧ !s.areaShared c t.ctx then 0 else tget 0 (s.ctx t.ctx).mem.captured (c / 8)
      if a.2 < used + bs.length then (s.setCore c { k with abandoned := true }).count 1 .rplAbandoned 1
      else
        let s := s.modCtx t.ctx (fun x => { x with mem := { x.mem with captured := tput 0 x.mem.captured (c / 8) (used + bs.length) } })
        (s.devWrite t.ctx (a.1 + used) bs).setCore c { k with captures := k.captures + bs.length }

/-- RECV (R155): bytes of a read endpoint into scratchpad lines; a task selected for replay captures them (R310). -/
def execRecv (core : Nat) (w : W32) (s : State) : Host.Outcome State Fault Refusal :=
  let held := tget [] (s.core core).inEps (sEp w)
  let s' := s.issueOp core 2 (isMS 3) issueRecv w
  .next (if (tget [] (s'.core core).inEps (sEp w)).length < held.length then s'.capture core (held.take (sLen w)) else s')

/-- The flow declared for a core's endpoint with a kind (1 stream send, 2 stream read) in the schedule in effect of a context. -/
def Ctx.flowOf (c : Ctx) (kind core ep : Nat) : Option FlowDecl :=
  match c.schedule with
  | none => none
  | some d => d.flows.find? (fun f => decide (f.kind = kind ∧ f.core = core ∧ f.ep = ep))

/-- The context that owns an endpoint of a core, with its flow (R148: an endpoint belongs to one context from load to unload). -/
def State.endpointOwner (s : State) (kind core ep : Nat) : Option (Nat × FlowDecl) :=
  s.loadedCtxs.findSome? (fun n => ((s.ctx n).flowOf kind core ep).map (fun f => (n, f)))

/-- The bytes of a ring that reader `r` has not passed. -/
def RingSt.ahead (g : RingSt) (r : Nat) : List Byte := g.bytes.drop (tget 0 g.readers r - g.base)

/-- Free the bytes that every reader has passed (R153); the room is owed to the sender. -/
def RingSt.trim (g : RingSt) : RingSt × Nat :=
  let low := (g.readers.map (·.2)).foldl min (g.base + g.bytes.length)
  ({ g with base := low, bytes := g.bytes.drop (low - g.base) }, low - g.base)

/-- The bytes of a flow in the flits on their way. -/
def State.flowBytes (s : State) (ctx flow : Nat) : Nat :=
  (s.net.flits.filter (fun x => decide (x.ctx = ctx ∧ x.flow = flow))).foldl (fun a x => x.segs.foldl (fun a y => a + y.2.length) a) 0

/-- Room in the read-ahead buffer of 4 KiB of an endpoint beside what it holds and what its read flow brings. -/
def State.readRoom (s : State) (core ctx : Nat) (f : FlowDecl) : Nat :=
  4096 - (tget [] (s.core core).inEps f.ep).length - (tget [] s.net.arrived (flowKey ctx f.flow)).length - s.flowBytes ctx f.flow

/-- Take up to `n` bytes of its ring for a reader, as far as the ring holds bytes ahead of it and its read-ahead buffer has room; ring room that every reader has passed goes back toward the sender (R153). -/
def State.ringTake (s : State) (core ctx : Nat) (f : FlowDecl) (n : Nat) : State × List Byte :=
  match tfind s.net.rings (ringKey ctx f.ring) with
  | none => (s, [])
  | some g =>
    let bs := (g.ahead (core % 8)).take (min n (s.readRoom core ctx f))
    let g' := { g with readers := tset g.readers (core % 8) (max (tget 0 g.readers (core % 8)) g.base + bs.length) }.trim
    let key := match (s.ctx ctx).schedule with
      | some d => match d.flows.find? (fun x => decide (x.kind = 1 ∧ x.ring = f.ring)) with | some x => flowKey ctx x.flow | none => flowKey ctx 4095
      | none => flowKey ctx 4095
    ({ s with net := { s.net with rings := tset s.net.rings (ringKey ctx f.ring) g'.1, owed := tput 0 s.net.owed key (tget 0 s.net.owed key + g'.2) } }, bs)

/-- Whether the schedule in effect gives a flow slots. -/
def Ctx.slotted (c : Ctx) (flow : Nat) : Bool := match c.schedule with | some d => d.slots.any (fun x => decide (x.flow = flow)) | none => false

/-- Ring bytes fill a read endpoint (R155): those that the slots of its read flow have brought to the core; of a flow without slots, which nothing paces, as many as the ring holds ahead of the reader
(assumption log 142). -/
def State.endpointFetch (s : State) (core ep n : Nat) : State :=
  match s.endpointOwner 2 core ep with
  | none => s
  | some (ctx, f) =>
    let key := flowKey ctx f.flow
    let r : State × List Byte :=
      if (s.ctx ctx).slotted f.flow then
        let a := tget [] s.net.arrived key
        ({ s with net := { s.net with arrived := tput [] s.net.arrived key (a.drop n) } }, a.take n)
      else s.ringTake core ctx f n
    let k := r.1.core core
    r.1.setCore core { k with inEps := tput [] k.inEps ep (tget [] k.inEps ep ++ r.2) }

/-- READ_ENDPOINT_FETCH (R155): up to `n` ring bytes fill the read-ahead buffer of an endpoint of the core, whose flow the endpoint's context declares. -/
def execReadEndpointFetch (core ep n : Nat) (s : State) : Host.Outcome State Fault Refusal :=
  .next (if 128 ≤ core ∨ 8 ≤ ep then s else s.endpointFetch core ep n)

/-- CREDIT_RETURN (R154): up to `n` bytes of ring room or port credit come back to the sending endpoint of a core. -/
def execCreditReturn (core ep n : Nat) (s : State) : Host.Outcome State Fault Refusal :=
  .next (match s.endpointOwner 1 core ep with
      | none => s
      | some (ctx, f) =>
        let k := flowKey ctx f.flow
        let m := min (min n (tget 0 s.net.owed k)) (tget 0 s.net.used k)
        { s with net := { s.net with owed := tput 0 s.net.owed k (tget 0 s.net.owed k - m), used := tput 0 s.net.used k (tget 0 s.net.used k - m) } })

end Sys2Proof.Machine
end

