-- ==== Sys2Proof/Machine/SyncOps.lean ====
section
/-! DEFINITION. Sync counters, barrier nodes and the waits of queue heads (R165 to R187), and the passing of local time. -/

namespace Sys2Proof.Machine

/-- The device counter that a counter number of context `n` names (R166). -/
def State.deviceCtr (s : State) (n num : Nat) : Option Nat :=
  let w := tget (0, 0) (s.ctx n).wins (num / 16384)
  if num < 2 ^ 18 ∧ num % 16384 < w.2 then some (num / 16384 * 16384 + w.1 + num % 16384) else none

/-- The counter at its home. -/
def Counter.zero : Counter := ⟨0, 0, false, 0, 0, 0⟩
/-- Device counter `k`. -/
def State.ctr (s : State) (k : Nat) : Counter := tget Counter.zero s.ctrs k
/-- Replace device counter `k`. -/
def State.setCtr (s : State) (k : Nat) (c : Counter) : State := { s with ctrs := tset s.ctrs k c }

/-- The context whose window holds device counter `k`. -/
def State.ctrOwner (s : State) (k : Nat) : Option Nat :=
  (s.ctxs.find? (fun c =>
    let w := tget (0, 0) c.2.wins (k / 16384)
    decide (w.1 ≤ k % 16384 ∧ k % 16384 < w.1 + w.2))).map (·.1)

/-! ### Queue heads and their waits (R174, R175) -/

/-- The descriptor at the head of a queue. -/
def State.headDesc (s : State) (q : Queue) : BitVec 1024 := BitVec.ofNat 1024 (leNat (s.devRead (q.entry q.head) 128))

/-- Wait `w` of a descriptor: enable, counter number, value. -/
def descWait (d : BitVec 1024) (w : Nat) : Bool × Nat × Nat :=
  if w = 0 then (bitOf d.toNat 210, descField d 209 192, descField d 319 256) else (bitOf d.toNat 242, descField d 241 224, descField d 383 320)

/-- The value of a counter as the dispatcher of a die knows it: the home's value, or while new values are on their way the one it had before them. -/
def State.knownValue (s : State) (die k : Nat) : Nat :=
  if s.notices.any (fun x => decide (x.1 = die ∧ x.2.1 = k)) then tget 0 s.known (die * 2 ^ 18 + k) else (s.ctr k).value

/-- Whether a wait of a queue's head is an illegal encoding: it names no counter of the context, or a proxy (R166, R174). -/
def State.waitBad (s : State) (q : Queue) (w : Nat) : Bool :=
  let x := descWait (s.headDesc q) w
  x.1 && (match s.deviceCtr q.ctx x.2.1 with
    | none => true
    | some k => (s.ctr k).proxy)

/-- Whether a wait of a queue's head is satisfied as far as its dispatcher knows; a wait that is an illegal encoding does not stall. -/
def State.waitOk (s : State) (qid : Nat) (q : Queue) (w : Nat) : Bool :=
  let x := descWait (s.headDesc q) w
  if !x.1 then true
  else match s.deviceCtr q.ctx x.2.1 with
    | none => true
    | some k => (s.ctr k).proxy || decide (x.2.2 ≤ s.knownValue (qid / 512 / 8) k)

/-- Whether a head is ready for dispatch (R174): both waits are satisfied, or one is an illegal encoding, with which the task ends at its dispatch whatever the other waits for. -/
def State.headReady (s : State) (qid : Nat) (q : Queue) : Bool :=
  s.waitBad q 0 || s.waitBad q 1 || (s.waitOk qid q 0 && s.waitOk qid q 1)

/-- Whether the head of a queue stalls on a wait (R174). -/
def State.stalled (s : State) (qid : Nat) (q : Queue) : Bool := decide (q.head ≠ q.tail) && !q.paused && !s.headReady qid q

/-- The wait that a queue's head stalls on at the homes' values, the first of the two that is not satisfied: its number, device counter and value. -/
def State.stalledOn (s : State) (q : Queue) : Option (Nat × Nat × Nat) :=
  if q.head = q.tail ∨ q.paused ∨ s.waitBad q 0 ∨ s.waitBad q 1 then none
  else (List.range 2).findSome? (fun w =>
    let x := descWait (s.headDesc q) w
    match s.deviceCtr q.ctx x.2.1 with
    | some k => if x.1 ∧ (s.ctr k).value < x.2.2 then some (w, k, x.2.2) else none
    | none => none)

/-- The queues stalled on device counter `k`, with the wait and its value. -/
def State.waitersOn (s : State) (k : Nat) : List (Nat × Nat × Nat) :=
  s.queues.filterMap (fun e => match s.stalledOn e.2 with
    | some x => if x.2.1 = k then some (e.1, x.1, x.2.2) else none
    | none => none)

/-- The dies with a waiter on counter `k` are notified of its new value (R168, R175). -/
def State.notifyWaiters (s : State) (k old new : Nat) (dies : List Nat) : State :=
  dies.foldl (fun s d =>
    let s := if s.notices.any (fun x => decide (x.1 = d ∧ x.2.1 = k)) then s else { s with known := tput 0 s.known (d * 2 ^ 18 + k) old }
    { s with notices := s.notices ++ [(d, k, new)] }) s

/-! ### Signals (R168, R169, R177) -/

/-- A signal on its way to the counter that a number of context `n` names. -/
def State.sendSignal (s : State) (n num op arg master : Nat) : State :=
  match s.deviceCtr n num with
  | some k => { s with sigs := s.sigs ++ [⟨k, op, arg, master, n, 0⟩] }
  | none => s

/-- The counter number by which context `n` names device counter `k` of its windows (R166). -/
def State.ctrNumber (s : State) (n k : Nat) : Nat := k / 16384 * 16384 + (k % 16384 - (tget (0, 0) (s.ctx n).wins (k / 16384)).1)

/-- The record of a counter error (R169), which names the counter by its number, its block and the source; the owner's queues stop. -/
def State.ctrError (s : State) (cls k master : Nat) : State :=
  match s.ctrOwner k with
  | none => s
  | some n => (s.record { (s.ctxRec cls 2 n).unit 5 (k / 16384) 0 (syncPage (k / 16384)) with addr := s.ctrNumber n k, syndrome := master }).stopCtx n cls

/-- A proxy counter forwards a signal by its forward entry (R177): on this device, where a target outside the target context's windows refuses it (R353, assumption log 125), or in the SYNC class to
another one. -/
def State.forward (s : State) (k : Nat) (g : Signal) : State :=
  match tfind s.fwds (k / 16384 * 1024 + (s.ctr k).fwd) with
  | none => s.ctrError 0x33 k g.master
  | some f =>
    let n := (s.ctrOwner k).getD 0
    if f.tgtDev = s.cab then
      (match s.deviceCtr f.tgtCtx f.tgtCtr with
        | none => s.refuseSignal n f.tgtCtr
        | some _ => s.sendSignal f.tgtCtx f.tgtCtr g.op g.arg g.master)
    else
      s.send (.sync f.tgtDev msgSignal [f.tgtCtx, (s.ctx n).job.gen, f.tgtCtr, g.op, g.arg])

/-! ### Barrier nodes (R181) -/

/-- Key of the node of a barrier of a context. -/
def barKey (ctx barrier : Nat) : Nat := ctx * 256 + barrier

/-- Send a message of a barrier node, counted by its link die. -/
def State.barSend (s : State) (b : BarNode) (dev kind g : Nat) : State :=
  (s.send (.sync dev kind [peerCtx (s.ctx b.ctx) dev, (s.ctx b.ctx).job.gen, b.barrier, g])).count (barrierPage b.ld) .forwarded 1

/-- The release of generation `g` at a node: to every child, and set-max(g) to the release counter of a member. -/
def State.barRelease (s : State) (key g : Nat) : State :=
  match tfind s.bars key with
  | none => s
  | some b =>
    let s := { s with bars := tset s.bars key { b with released := max g b.released } }
    let s := b.children.foldl (fun s c => s.barSend b c msgBarRelease g) s
    if b.member then s.sendSignal b.ctx b.relCtr 2 g 0xF000 else s

/-- A node reports the highest generation that it and every child have reached. -/
def State.barAdvance (s : State) (key : Nat) : State :=
  match tfind s.bars key with
  | none => s
  | some b =>
    let kids := b.children.map (fun c => tget 0 b.childGen c)
    let own := if b.member then (match s.deviceCtr b.ctx b.arrCtr with | some k => some ((s.ctr k).value / b.arrStep) | none => some 0) else none
    let a := match own, kids with
      | some v, _ => kids.foldl min v
      | none, [] => 0
      | none, x :: xs => xs.foldl min x
    if a ≤ b.reported then s
    else
      let s := { s with bars := tset s.bars key { b with reported := a } }
      match b.parent with
      | none => s.barRelease key a
      | some p => s.barSend b p msgBarArrival a

/-- The nodes whose arrival counter is device counter `k` advance. -/
def State.barTouch (s : State) (k : Nat) : State :=
  (s.bars.filter (fun e => e.2.member && decide (s.deviceCtr e.2.ctx e.2.arrCtr = some k))).foldl (fun s e => s.barAdvance e.1) s

/-- A signal reaches its home and is applied in one step (R168). -/
def State.applySignal (s : State) (g : Signal) : State :=
  let c := s.ctr g.ctr
  if s.ctrOwner g.ctr = none then s
  else if c.proxy then s.forward g.ctr g
  else if (g.op = 1 ∧ c.mode ≠ 0) ∨ (g.op = 2 ∧ c.mode ≠ 1) ∨ g.op = 0 ∨ 2 < g.op then
    (s.setCtr g.ctr { c with lastMaster := g.master, lastTime := s.now }).ctrError 0x33 g.ctr g.master
  else
    let v := if g.op = 1 then min (c.value + g.arg) (2 ^ 64 - 1) else max c.value g.arg
    let ovf := decide (g.op = 1 ∧ 2 ^ 64 ≤ c.value + g.arg)
    let dies := ((s.waitersOn g.ctr).map (fun w => w.1 / 512 / 8)).dedup
    let s := s.setCtr g.ctr { c with value := v, lastMaster := g.master, lastTime := s.now }
    let s := if v = c.value then s else s.notifyWaiters g.ctr c.value v dies
    let s := s.barTouch g.ctr
    if ovf then s.ctrError 0x32 g.ctr g.master else s

/-! ### Local time -/

/-- CTX_WAIT_WD.limit of a context in units of 10 ns. -/
def State.waitLimit (s : State) (n : Nat) : Nat := s.regs.field (ctxPage n) 0x330 15 0 * 100000

/-- A core that runs a task of the context is halted; its context's wait watchdogs and collective timeouts do not count (R381). -/
def State.haltedCtx (s : State) (n : Nat) : Bool :=
  s.cores.any (fun c => c.2.halted && (match c.2.run with | some t => decide (t.ctx = n) | none => false))

/-- One unit of local time at a queue: a stalled head of a RUNNING context counts it (R183). -/
def State.queueTick (s : State) (qid : Nat) (q : Queue) : Queue :=
  if (s.ctx q.ctx).state ≠ 2 ∨ s.haltedCtx q.ctx then q
  else if s.stalled qid q then { q with stall := q.stall + 1, stallLimit := if q.stall = 0 then s.waitLimit q.ctx else q.stallLimit }
  else { q with stall := 0 }

/-- The collective descriptor at the head of a collective queue (Table 10.5). -/
def State.cqDesc (s : State) (q : Cq) : Nat := leNat (s.devRead (q.base + 64 * (q.head % 2 ^ q.lg)) 64)

/-- Whether the wait of a collective queue's head is satisfied (R234); an illegal counter does not stall. -/
def State.cqReady (s : State) (n : Nat) (q : Cq) : Bool :=
  let d := s.cqDesc q
  !bitOf d 114 ||
    (match s.deviceCtr n (bitsOf d 113 96) with
    | none => true
    | some k => (s.ctr k).proxy || decide (bitsOf d 191 128 ≤ (s.ctr k).value))

/-- One unit of local time at a collective queue: the stall of its head (R183, R234), or the time of its collective (R240). -/
def State.cqTick (s : State) (n : Nat) (q : Cq) : Cq :=
  match q.run with
  | some r => { q with stall := 0, run := some { r with waited := r.waited + 1 } }
  | none =>
  if q.head ≠ q.tail ∧ !s.cqReady n q then
    { q with stall := q.stall + 1, stallLimit := if q.stall = 0 then s.waitLimit n else q.stallLimit }
  else { q with stall := 0 }

/-- One unit of local time at a context: its collective queues count while it is RUNNING. -/
def State.ctxTick (s : State) (n : Nat) (c : Ctx) : Ctx :=
  if c.state ≠ 2 ∨ c.cqs.isEmpty ∨ s.haltedCtx n then c else { c with cqs := c.cqs.map (fun q => (q.1, s.cqTick n q.2)) }

/-- A tick of local time (assumption log 2): RT_LTIME counts one unit of 10 ns once power-on reset has ended (R367), and the stalls of queue heads are counted. -/
def State.tickTime (s : State) : State :=
  if s.root.standby && s.root.por then
    { s with now := s.now + 1, queues := s.queues.map (fun e => (e.1, s.queueTick e.1 e.2)), ctxs := s.ctxs.map (fun e => (e.1, s.ctxTick e.1 e.2)) }
  else s

end Sys2Proof.Machine
end

