-- ==== Sys2Proof/Machine/Sync.lean ====
section
/-! DEFINITION. Signals, waits, barriers and counter snapshots (R165 to R185). -/

namespace Sys2Proof.Machine

/-- Whether a master may use a context's command-like registers: the owning function, the physical function and the Bureau (R172, R284). A request of function n that has reached another module than the bridge comes
from an enabled function. -/
def State.mayCommand (s : State) (n master : Nat) : Bool :=
  decide (master = hostMaster (s.ownerFn n)) || (!s.bridge && decide (master = hostMaster n)) || pfOrBureau master

/-- The flows that a core sends for a context. -/
def Ctx.sendFlows (c : Ctx) (core : Nat) : List Nat :=
  match c.schedule with
  | none => []
  | some d => (d.flows.filter (fun f => decide (f.kind = 1 ∧ f.core = core))).map (·.flow)

/-- Whether every byte that the task of a core sent up to cycle `iss` is in its ring (R156): none is in a flit or in the transmit queue of a link port, and the far device of a flow that leaves this one has
returned the credits of its pieces, which it does once their bytes are in their ring. -/
def State.sentUpTo (s : State) (core ctx iss : Nat) : Bool :=
  ((s.ctx ctx).sendFlows core).all (fun f =>
    s.net.flits.all (fun x => decide (x.ctx ≠ ctx ∨ x.flow ≠ f) || x.segs.all (fun y => decide (iss < y.1))) &&
    (tget [] s.net.txq (flowKey ctx f)).all (fun x => decide (iss < x.1)) &&
    (List.range 8).all (fun p => (tget [] s.ports.away (creditKey p ctx)).all (fun x => decide (x.flow ≠ f ∨ iss < x.iss))))

/-- A SIG goes toward its counter's home; until it is applied it is discarded if its task ends in error (R101, R171). -/
def State.sendSig (s : State) (t : TaskRun) (num op arg master : Nat) : State :=
  match s.deviceCtr t.ctx num with
  | some k => { s with sigs := s.sigs ++ [⟨k, op, arg, master, t.ctx, t.key⟩] }
  | none => s

/-- The first pending SIG of a core whose condition is met is sent toward its counter's home (R171). -/
def State.sigMet (s : State) (core : Nat) : State :=
  match (s.core core).run, (s.core core).sigs with
  | some t, g :: rest =>
    if (s.core core).settledUpTo g.iss ∧ s.sentUpTo core t.ctx g.iss then
      let c := (s.core core).addEffect ([4] ++ leBytes 4 g.ctr ++ leBytes 1 g.op ++ leBytes 8 g.arg)
      (s.setCore core { c with sigs := rest }).sendSig t g.ctr g.op g.arg (coreMaster core)
    else s
  | _, _ => s

/-- SIG_CONDITION_MET (R171): the oldest pending SIG, its earlier operations landed and completed, is sent. -/
def execSigConditionMet (core : Nat) (s : State) : Host.Outcome State Fault Refusal := .next (s.sigMet core)

/-- Whether a counter number is declared a host input of the program (Table 17.7). -/
def Ctx.hostInput (c : Ctx) (num : Nat) : Bool :=
  match c.job.prog with
  | none => false
  | some p => p.ctrs.any (fun d => decide (d.die = num / 16384 ∧ d.index = num % 16384) && d.hostInput)

/-- CTX_SIG (R172): a host write signals one of the context's counters. -/
def execCtxSig (master ctx : Nat) (value : W64) (s : State) : Host.Outcome State Fault Refusal :=
  let v := value.toNat
  let op := bitsOf v 19 18
  let num := bitsOf v 17 0
  .next (if 64 ≤ ctx then s
    else if !s.mayCommand ctx master then s.blkErr (ctxPage ctx) 5
    else if op = 0 then s
    else if op = 3 ∨ s.deviceCtr ctx num = none then s.blkErr (ctxPage ctx) 0
    else
      let s := if (s.ctx ctx).hostInput num then s else s.external ctx
      s.sendSignal ctx num op (bitsOf v 63 20) master)

/-- SIGNAL_APPLY (R168, R307): the oldest signal on its way reaches its home and is applied; where the counter, or the forward entry of a proxy, is found in error its context is aborted, and the
restore rewrites the value, or the Bureau the entry. -/
def execSignalApply (upset : Bool) (s : State) : Host.Outcome State Fault Refusal :=
  .next (match s.sigs with
    | [] => s
    | g :: rest =>
      let s : State := { s with sigs := rest }
      match upset, s.ctrOwner g.ctr with
      | true, some n => if (s.ctr g.ctr).proxy then s.tableFault (syncPage (g.ctr / 16384)) (s.ctr g.ctr).fwd [n] else (s.record { s.ctxRec 0x03 3 n with addr := g.ctr, syndrome := g.ctr }).abortCtx n 0x03 false
      | _, _ => s.applySignal g)

/-- COUNTER_VALUE_NOTIFY (R175): a new value of a counter reaches the dispatcher of a die, which learns whether waits are satisfied. -/
def execCounterValueNotify (die ctr : Nat) (s : State) : Host.Outcome State Fault Refusal :=
  .next (match s.notices.find? (fun x => decide (x.1 = die ∧ x.2.1 = ctr)) with
    | none => s
    | some x => { s with notices := s.notices.erase x, known := tput 0 s.known (die * 2 ^ 18 + ctr) x.2.2 })

/-- Count a message discarded for its generation (R179, Table 8.7). -/
def State.discard (s : State) (n : Nat) : State :=
  s.modCtx n (fun c => { c with st := { c.st with discarded := satAdd 16 c.st.discarded 1 } })

/-- Whether a sync packet passes the access table of its port. -/
def State.portAdmitsSync (s : State) (port master ctx : Nat) : Bool := s.admits 3 port master ctx 0 0 .s

/-- CROSS_DEVICE_SIGNAL (R179, R177, R353): a signal of the SYNC class is checked at the port and at the counter block, and for its generation, and goes to its counter. -/
def execCrossDeviceSignal (m : SyncMsg) (s : State) : Host.Outcome State Fault Refusal :=
  let master := 0x4200 + m.dev % 128
  let refuse := (s.record (s.refusalRec 0x38 0xB master m.ctx m.ctr)).send (.sync m.dev msgRefusal [m.ctx, m.gen, m.ctr])
  .next (if 64 ≤ m.ctx then s
    else match s.deviceCtr m.ctx m.ctr with
      | none => refuse
      | some k =>
        if !s.portAdmitsSync m.port master m.ctx ∨ !s.admits (syncPage (k / 16384)) 0 master m.ctx (k % 16384) (k % 16384) .s then refuse
        else if m.gen ≠ (s.ctx m.ctx).job.gen then s.discard m.ctx
        else s.sendSignal m.ctx m.ctr m.op m.arg master)

/-- BARRIER_ARRIVAL_MESSAGE (R181): an arrival of a child; another generation of the context is discarded (R179). -/
def execBarrierArrivalMessage (m : BarMsg) (s : State) : Host.Outcome State Fault Refusal :=
  .next (if 64 ≤ m.ctx then s
    else if m.gen ≠ (s.ctx m.ctx).job.gen then s.discard m.ctx
    else match tfind s.bars (barKey m.ctx m.barrier) with
      | none => s
      | some b =>
        let b := { b with childGen := tput 0 b.childGen m.dev (max (tget 0 b.childGen m.dev) m.g) }
        State.barAdvance { s with bars := tset s.bars (barKey m.ctx m.barrier) b } (barKey m.ctx m.barrier))

/-- BARRIER_RELEASE_MESSAGE (R181): a release of the parent goes to the children and raises the release counter. -/
def execBarrierReleaseMessage (m : BarMsg) (s : State) : Host.Outcome State Fault Refusal :=
  .next (if 64 ≤ m.ctx then s
    else if m.gen ≠ (s.ctx m.ctx).job.gen then s.discard m.ctx
    else s.barRelease (barKey m.ctx m.barrier) m.g)

/-- The wait timeout of a queue (R183): its record names the counter, the wait value and the counter's value, and the context is aborted for a program cause. -/
def State.waitTimeout (s : State) (n queue num val : Nat) (cq : Bool) : State :=
  let v := match s.deviceCtr n num with | some k => (s.ctr k).value | none => 0
  (s.record { s.ctxRec 0x34 ((s.ctx n).abortAction true) n with queue := queue, cq := cq, addr := num, syndrome := val + v * 2 ^ 64 }).abortCtx n 0x34 true

/-- WAIT_WATCHDOG_EXPIRY (R183): the head of a queue has been stalled for longer than the limit. A queue number from 65,536 on names collective queue (q − 65,536) mod 16 of context
(q − 65,536) / 16. -/
def execWaitWatchdogExpiry (queue : Nat) (s : State) : Host.Outcome State Fault Refusal :=
  .next (if queue < 65536 then
      match s.queue queue with
      | none => s
      | some q =>
        if q.stall ≤ q.stallLimit ∨ (s.ctx q.ctx).state ≠ 2 ∨ !s.stalled queue q then s
        else
          let w := descWait (s.headDesc q) (if s.waitOk queue q 0 then 1 else 0)
          s.waitTimeout q.ctx queue w.2.1 w.2.2 false
    else
      let n := (queue - 65536) / 16
      match tfind (s.ctx n).cqs ((queue - 65536) % 16) with
      | none => s
      | some q =>
        if q.stall ≤ q.stallLimit ∨ (s.ctx n).state ≠ 2 ∨ s.cqReady n q then s
        else s.waitTimeout n ((queue - 65536) % 16) (bitsOf (s.cqDesc q) 113 96) (bitsOf (s.cqDesc q) 191 128) true)

/-- SYNC_DBG_SEL (R185): the Lectern, the Bureau or the physical function takes a snapshot of one counter at its home. -/
def execSyncDbgSel (master die index : Nat) (s : State) : Host.Outcome State Fault Refusal :=
  .next (if 16 ≤ die ∨ 16384 ≤ index then s
    else if master ≠ 0x8000 ∧ master ≠ 0xF000 ∧ !(decide (master = 0xF001) && s.mgmt.lecOpen) then s.blkErr (syncPage die) 5
    else
      let k := die * 16384 + index
      let snap : SyncDbg := match s.ctrOwner k with
        | none => ⟨0, 0, 0, false, [], 0, false, 0⟩
        | some n =>
          let c := s.ctr k
          ⟨if c.proxy then c.fwd else c.value, c.lastMaster, c.lastTime, false, s.waitersOn k, n, c.proxy, c.mode⟩
      { s with dbg := tset s.dbg die snap })

/-- SYNC_SNAPSHOT_COMPLETE (R185): the waiter list of the snapshot is gathered, and ready is set. -/
def execSyncSnapshotComplete (die : Nat) (s : State) : Host.Outcome State Fault Refusal :=
  .next (match tfind s.dbg die with
    | none => s
    | some d => { s with dbg := tset s.dbg die { d with ready := true } })

end Sys2Proof.Machine
end

