-- ==== Sys2Proof/Machine/CtxOps.lean ====
section
/-! DEFINITION. What the commands of a context share: issuing (R284), access entries (R355), yield points and drains (R288, R290), snapshots and save records (R184, R296), commit bookkeeping
(R318, R329), release of everything a context holds (R294), and a device that goes offline (R331). -/

namespace Sys2Proof.Machine

/-! ### Commands (R284) -/

/-- Free the image area of a context. -/
def State.freeImage (s : State) (n : Nat) : State :=
  match (s.ctx n).mem.image with
  | none => s
  | some (a, len) =>
    (s.freeFrames (framesFrom (addrFrame 1 a) (versionFrames 1 len))).modCtx n (fun c => { c with mem := { c.mem with image := none, imageDone := false } })

/-- Set the fields of the command block at the issue of a command. -/
def CtxCmd.issue (c : CtxCmd) (op tag master : Nat) (args : List Nat) : CtxCmd :=
  { c with args := (args ++ [0, 0, 0, 0, 0, 0, 0]).take 7, op := op, tag := tag % 256, busy := true, master := master, phase := 0, last := op }

/-- Issue a command (R284): a master that may not, or a command while another is in progress, changes only BLK_ERR; before the device is ready it returns 0x41. The image area of an
ended load is freed at the next command. -/
def State.command (s : State) (master n op tag : Nat) (args : List Nat) (body : State → State) : State :=
  if 64 ≤ n ∨ s.hostShut master then s
  else if !s.mayCommand n master then s.blkErr (ctxPage n) 5
  else if (s.ctx n).cmd.busy then s.blkErr (ctxPage n) 0
  else
    let s := s.modCtx n (fun c => { c with cmd := c.cmd.issue op tag master args })
    if !s.root.ready then s.cmdDone n 0x41 none
    else body (if (s.ctx n).mem.imageDone then s.freeImage n else s)

/-- Argument `i` of the command in progress. -/
def State.arg (s : State) (n i : Nat) : Nat := (s.ctx n).cmd.args.getD i 0

/-! ### Access entries (R351, R354, R355) -/

/-- Entries of a table that are free to take. -/
def State.aclRoom (s : State) (page port : Nat) : Nat := ((List.range 256).filter (fun e => decide (e ≠ 0 ∧ s.aclAt page port e = 0))).length

/-- Write an entry into the lowest free place of a table. -/
def State.grant (s : State) (page port e : Nat) : State :=
  match (List.range 256).find? (fun i => decide (i ≠ 0 ∧ s.aclAt page port i = 0)) with
  | some i => { s with regs := { s.regs with acl := tset s.regs.acl (aclKey page port i) e, aclShadow := tset s.regs.aclShadow (aclKey page port i) e } }
  | none => s

/-- Write one entry into the tables of several pages. -/
def State.grantAll (s : State) (pages : List Nat) (e : Nat) : State := pages.foldl (fun s p => s.grant p 0 e) s

/-- Remove the entries that a test names from every table. -/
def State.revoke (s : State) (bad : Nat → Nat → Bool) : State :=
  let keep := fun (x : Nat × Nat) => !(decide (x.1 % 256 ≠ 0) && bad (x.1 / 2048) x.2)
  { s with regs := { s.regs with acl := s.regs.acl.filter keep, aclShadow := s.regs.aclShadow.filter keep } }

/-- Pages of all stacks, die caches and counter blocks. -/
def stackPages : List Nat := (List.range 16).map stackPage
def dieCachePages : List Nat := (List.range 16).map dieCachePage
def syncPages : List Nat := (List.range 16).map syncPage

/-- The entry names context `n`. -/
def aclOf (n e : Nat) : Bool := bitOf e 39 && !bitOf e 38 && decide (bitsOf e 37 32 = n)

/-- The entries that the load of a context writes for its own device (Table 14.11). -/
def State.grantLocal (s : State) (n : Nat) : State :=
  let h := hostMaster (s.ownerFn n)
  let s := s.grantAll stackPages (aclEntry h h (some n) 0 786303 [.r, .w] false)
  let s := s.grantAll syncPages (aclEntry h h (some n) 0 16383 [.s] false)
  s.grant 1 0 (aclEntry h h (some n) (0x1000 + n) (0x1000 + n) [.r, .w] false)

/-- The members whose mirror writes this device takes (R329): those that have it as buddy0 or buddy1, which are the two members before it in manifest order (assumption log 34). -/
def State.mirrorSources (s : State) (n : Nat) : List Nat :=
  match (s.ctx n).job.man with
  | none => []
  | some m =>
    let back := fun k => m.members.getD ((m.members.idxOf s.cab + 2 * m.members.length - k) % m.members.length) s.cab
    [back 1, back 2].filter (fun d => decide (d ≠ s.cab))

/-- The entries for a member of the job that has announced its context (Table 14.11, R451). -/
def State.grantMember (s : State) (n d : Nat) : State :=
  let w := s.partitionWindow n
  let s := s.grantAll (stackPages ++ dieCachePages) (aclEntry (0x4000 + d) (0x4000 + d) (some n) w.1 w.2 [.r, .w, .a] false)
  let s := ((s.ctx n).wins).foldl (fun s x =>
    s.grant (syncPage x.1) 0 (aclEntry (0x4200 + d) (0x4200 + d) (some n) x.2.1 (x.2.1 + x.2.2 - 1) [.s] false)) s
  let s := (List.range 8).foldl (fun s p => s.grant 3 p (aclEntry (0x4200 + d) (0x4200 + d) (some n) 0 0 [.s] false)) s
  if (s.mirrorSources n).contains d ∧ !(s.ctx n).job.mirrorOf.isEmpty then
    s.grantAll stackPages (aclEntry (0x4100 + d) (0x4100 + d) (some n) ((s.ctx n).job.mirrorOf.foldl min 786303) ((s.ctx n).job.mirrorOf.foldl max 0) [.w] false)
  else s

/-! ### Counters of a context (R184) -/

/-- The local device counters of a context's windows. -/
def Ctx.counters (c : Ctx) : List Nat := c.wins.flatMap (fun w => (List.range w.2.2).map (fun i => w.1 * 16384 + w.2.1 + i))

/-- The values and modes of every window. -/
def State.counterValues (s : State) (n : Nat) : Tab (Nat × Nat) := (s.ctx n).counters.map (fun k => (k, ((s.ctr k).value, (s.ctr k).mode)))

/-- The own regions of a context that have a version pending now, with the version that each has. -/
def State.pendingNow (s : State) (n : Nat) : List (Nat × Nat) :=
  (s.ownRegions n).filterMap (fun r => match s.region r with
    | some g => if g.pend < 3 then some (r, g.version) else none
    | none => none)

/-- Record the committed snapshot (R285, action 2). -/
def State.takeSnapshot (s : State) (n : Nat) : State := s.modCtx n (fun c => { c with mem := { c.mem with snapshot := s.counterValues n } })

/-- Write saved values and modes into the windows; the barrier nodes of the context start from them. -/
def State.writeCounters (s : State) (vals : Tab (Nat × Nat)) : State :=
  vals.foldl (fun s x => s.setCtr x.1 { s.ctr x.1 with value := x.2.1, mode := x.2.2 }) s

/-! ### Tasks and streams of a context -/

/-- Cores that run a task of the context. -/
def State.runningOn (s : State) (n : Nat) : List Nat :=
  (s.cores.filter (fun c => match c.2.run with | some t => decide (t.ctx = n) | none => false)).map (·.1)

/-- No scheduled flit of the context is on its way, nothing of it waits at a link port, and every SCHED credit of it has come back but for those of the ports `except` (R248, R290). -/
def State.netEmpty (s : State) (n : Nat) (except : List Nat) : Bool :=
  let none' := fun (t : Tab (List (Nat × List Byte))) => t.all (fun x => decide (x.1 / 4096 ≠ n) || x.2.isEmpty)
  s.net.flits.all (fun f => decide (f.ctx ≠ n)) && none' s.net.txq && none' s.net.rxq &&
    (List.range 8).all (fun p => except.contains p || decide (s.creditsOut p n = 0))

/-- A context with no task in flight, no ended task that waits for answers, and no piece on its way. -/
def State.drained (s : State) (n : Nat) : Bool := (s.runningOn n).isEmpty && s.care.late.all (fun l => decide (l.task.ctx ≠ n)) && s.netEmpty n []

/-- The drain of an abort (R319): credits of a lost port, which cannot come back before the job has been placed anew, are not awaited (assumption log 141). -/
def State.abortDrained (s : State) (n : Nat) : Bool :=
  (s.runningOn n).isEmpty && s.care.late.all (fun l => decide (l.task.ctx ≠ n)) && s.netEmpty n s.ports.lost

/-- The queues of a context. -/
def State.queuesOf (s : State) (n : Nat) : List (Nat × Queue) := s.queues.filter (fun q => decide (q.2.ctx = n))

/-- A step queue has paused: it dispatched its last_of_step task, and that task and every earlier one have completed (R281). -/
def Queue.hasPaused (q : Queue) : Bool := q.paused && q.running.isEmpty

/-- The context's step work is done (R281, R314, R329): every step queue has paused, no collective is in progress, every replay of its tasks has compared, and no Footstool sample of them is unchecked. -/
def State.stepDone (s : State) (n : Nat) : Bool :=
  (s.queuesOf n).all (fun q => !q.2.step || q.2.hasPaused) && (s.ctx n).cqs.all (fun q => q.2.run.isNone && ((s.ctx n).job.recWritten || decide (q.2.head = q.2.tail) || !s.cqReady n q.2)) &&
  s.care.replays.all (fun r => decide (r.task.ctx ≠ n)) && s.cores.all (fun k => k.2.fsBuf.all (fun x => decide (x.ctx ≠ n)))

/-- The boundary of the context is held at action 4 (R285): its step has passed, and the boundary is not over. -/
def State.atAction4 (s : State) (n : Nat) : Bool := decide ((s.ctx n).st.hold = 1 ∨ (s.ctx n).st.hold = 2)

/-- The context is in its commit phase, or at the boundary that follows it (R16): its step work is done and it has not left the boundary. A context without a step queue has no commit phase. -/
def State.inCommit (s : State) (n : Nat) : Bool := s.atAction4 n || (s.stepDone n && (s.queuesOf n).any (fun q => q.2.step))

/-- The step at whose boundary a waiting yield takes effect: the present step, or where its boundary is held at action 4 the one that has just passed. -/
def State.boundaryStep (s : State) (n : Nat) : Nat := if s.atAction4 n then (s.ctx n).st.step - 1 else (s.ctx n).st.step

/-! ### Yield (R287 to R290) -/

/-- Step time so far, without yielded time (R109, R288). -/
def State.elapsed (s : State) (n : Nat) : Nat :=
  match (s.ctx n).st.firstAt with
  | none => 0
  | some t => s.now - t - (s.ctx n).st.yieldedSum - (match (s.ctx n).st.yieldedAt with | some y => s.now - y | none => 0)

/-- The yield point is reached (R290, steps 1 and 2): dispatch stops, collectives in progress are cancelled and stay at their queue heads. -/
def State.startDrain (s : State) (n : Nat) : State :=
  s.modCtx n (fun c => { c with state := 3, cqs := c.cqs.map (fun q => (q.1, q.2.cancel)), st := { c.st with point := 0, deadlines := [] } })

/-- The members of the job other than this device are told of a yield (R289): kind 0 a pull-in; 1 the boundary of the present step with the hold remaining in µs; 2 a pull-in that relays a yield whose
deadline has passed; 3 the boundary of the present step whatever the hold, from a device in its commit phase (assumption log 124). -/
def State.tellYield (s : State) (n kind rem : Nat) : State :=
  s.sendAll ((s.peersOf n).map (fun d => .sync d msgYield [peerCtx (s.ctx n) d, (s.ctx n).job.gen, kind, (s.ctx n).st.step, rem]))

/-- The point of a yield request (R288): 1 now, 2 the next step boundary, with the deadline of a hold. -/
def State.yieldPoint (s : State) (n mode hold : Nat) : Nat × Option Nat :=
  if s.inCommit n then (2, none)
  else if mode = 1 ∧ (s.ctx n).st.stepPred ≠ 0 ∧ (s.ctx n).st.stepPred ≤ s.elapsed n + hold then (2, some (s.now + hold))
  else (1, none)

/-- Apply the point chosen for a request of a source: now drains, the boundary of step `at'` waits with the deadlines of the pending requests; the earliest governs. -/
def State.setPoint (s : State) (n src at' : Nat) (p : Nat × Option Nat) : State :=
  if p.1 = 1 then s.startDrain n
  else
    let d := (s.ctx n).st.deadlines
    let d := match p.2 with
      | some b => tset d src (match tfind d src with | some a => min a b | none => b)
      | none => d
    s.modCtx n (fun c => { c with st := { c.st with point := 2, pointAt := if c.st.point = 2 then min c.st.pointAt at' else at', deadlines := d } })

/-- A yield of the job begins on this device: the members wait for its resume messages (R289). -/
def State.originate (s : State) (n : Nat) : State := s.modCtx n (fun c => { c with st := { c.st with origin := true } })

/-- A yield request of a source (bit 0 host, 1 pin), made on this device: the source bit is set, the point chosen (hold in units of 10 ns), and the other members are told. A request in a restart
takes effect when it completes (R288), on every member, which is told as of a pull-in; in any other state the request only sets its source bit. -/
def State.yieldRequest (s : State) (n src mode hold : Nat) : State :=
  let s := s.modCtx n (fun c => { c with ysrc := c.ysrc ||| 2 ^ src })
  if (s.ctx n).state = 6 then (s.tellYield n 0 0).originate n
  else if (s.ctx n).state ≠ 2 then s
  else
    let p := s.yieldPoint n mode hold
    let s := (s.tellYield n (if p.1 = 1 then 0 else if p.2.isSome then 1 else 3) (hold / 100)).originate n
    s.setPoint n src (s.boundaryStep n) p

/-- The originating device sends resume messages when its own sources, host and pin, have all ended (R289, assumption log 124). -/
def State.tellResume (s : State) (n : Nat) : State :=
  if !(s.ctx n).st.origin ∨ bitOf (s.ctx n).ysrc 0 ∨ bitOf (s.ctx n).ysrc 1 then s
  else (s.sendAll ((s.peersOf n).map (fun d => .sync d msgResume [peerCtx (s.ctx n) d, (s.ctx n).job.gen]))).modCtx n
    (fun c => { c with st := { c.st with origin := false } })

/-- A yield source of a context ends, and with it its request: its deadline no longer counts, and with no source left no yield waits for the boundary (R287, assumption log 122). -/
def State.endSource (s : State) (n src : Nat) : State :=
  (s.modCtx n (fun c =>
    let y := c.ysrc - (if bitOf c.ysrc src then 2 ^ src else 0)
    { c with ysrc := y, st := { c.st with deadlines := tdel c.st.deadlines src, point := if y = 0 then 0 else c.st.point } })).tellResume n

/-- A context with yield sources or a waiting yield does not run on; it may run. -/
def Ctx.mayRun (c : Ctx) : Bool := decide (c.ysrc = 0)

/-! ### Save records (Table 12.16) -/

/-- The shards that a context hosts on this device, ascending. -/
def Ctx.hosted (c : Ctx) : List Nat := c.shards.map (·.1)
/-- The regions that a program declares, in its order. -/
def Ctx.declared (c : Ctx) : List RegionDecl := match c.job.prog with | some p => p.regions | none => []
/-- The 32 bytes of the context's seed. -/
def Ctx.seedBytes (c : Ctx) : List Byte := leBytes 32 c.seed

/-- Everything of a save record but its closing digest. -/
def State.saveBody (s : State) (n step : Nat) (vals : Tab (Nat × Nat)) (vers : Nat → Nat) : List Byte :=
  let c := s.ctx n
  match c.job.prog with
  | none => []
  | some p =>
    leBytes 4 1 ++ leBytes 2 128 ++ leBytes 1 4 ++ leBytes 1 p.profile ++ p.planDigest ++ p.imageDigest ++ sha256 c.seedBytes ++ leBytes 8 step ++
    leBytes 2 p.shards ++ leBytes 2 c.hosted.length ++ leBytes 2 c.job.gen ++ List.replicate 10 0 ++
    c.wins.flatMap (fun w => leBytes 2 w.1 ++ leBytes 2 w.2.2 ++ (List.range w.2.2).flatMap (fun i =>
      let v := (tfind vals (w.1 * 16384 + w.2.1 + i)).getD (0, 0)
      leBytes 8 v.1 ++ leBytes 1 v.2)) ++
    c.shards.flatMap (fun h => leBytes 2 h.1 ++ leBytes 4 h.2.stream ++ p.regions.flatMap (fun r => leBytes 4 (vers r.id)))

/-- A save record with its closing digest. -/
def State.saveRecord (s : State) (n step : Nat) (vals : Tab (Nat × Nat)) (vers : Nat → Nat) : List Byte :=
  let b := s.saveBody n step vals vers
  b ++ sha256 b

/-- The version number of a region. -/
def State.versionOf (s : State) (r : Nat) : Nat := match s.region r with | some g => g.version | none => 0

/-- The buddies of a context's mirror entries that are valid. -/
def State.buddiesOf (s : State) (n : Nat) : List Nat :=
  let maps := ((s.partition n).filter (fun f => feMirror (s.frame f))).map (fun f => feMap (s.frame f))
  (maps.dedup.flatMap (fun m => mirrorBuddies (s.mirrorEntry 0 m))).dedup

/-! ### Release (R294) -/

/-- The flows of a context leave the network: flights, credits, rings, and what its endpoints hold (R148). -/
def State.releaseNet (s : State) (n : Nat) : State :=
  let mine := fun (k : Nat) => decide (k / 4096 = n)
  let eps := match (s.ctx n).schedule with | some d => d.flows | none => []
  let s := eps.foldl (fun s f =>
    let k := s.core f.core
    if f.kind = 1 then s.setCore f.core { k with outEps := tput [] k.outEps f.ep [] }
    else if f.kind = 2 then s.setCore f.core { k with inEps := tput [] k.inEps f.ep [] }
    else s) s
  let other := fun (x : Nat × Nat) => decide (x.1 % 128 ≠ n)
  { s with
    ports := { s.ports with
      sent := s.ports.sent.filter other, back := s.ports.back.filter other, freed := s.ports.freed.filter other, away := s.ports.away.filter (fun x => decide (x.1 % 128 ≠ n)),
      inq := s.ports.inq.filter (fun x => !mine x.1), slots := s.ports.slots.filter (fun x => decide (x.2.ctx ≠ n)) }
    net := { s.net with
      rings := s.net.rings.filter (fun x => decide (x.1 / 256 ≠ n)), flits := s.net.flits.filter (fun f => decide (f.ctx ≠ n)), txq := s.net.txq.filter (fun x => !mine x.1)
      rxq := s.net.rxq.filter (fun x => !mine x.1), arrived := s.net.arrived.filter (fun x => !mine x.1)
      used := s.net.used.filter (fun x => !mine x.1), owed := s.net.owed.filter (fun x => !mine x.1) } }

/-- Whether a page holds slot tables. -/
def slotPage (p : Nat) : Bool :=
  match pageKind p with
  | .slots .. | .portSlots .. => true
  | _ => decide (0x5000 ≤ p ∧ p < 0x5003)

/-- The slots of a context become open. -/
def State.releaseSlots (s : State) (n : Nat) : State :=
  let clear := fun (x : Nat × W32) => if slotPage (x.1 / 4096) && decide (x.2.toNat % 4 = 1 ∧ bitsOf x.2.toNat 7 2 = n) then (x.1, (0 : W32)) else x
  { s with regs := { s.regs with live := s.regs.live.map clear, shadow := s.regs.shadow.map clear } }

/-- The regions of a context: its own go, shared ones lose it as a mapper and go with their last one (R450). -/
def State.releaseRegions (s : State) (n : Nat) : State :=
  s.regions.foldl (fun s x =>
    let r := x.1
    let g := x.2
    if g.shared then
      if !g.mapped.contains n then s
      else if (g.mapped.filter (fun m => decide (m ≠ n))).isEmpty then
        let s := s.freeFrames ((List.range 3).flatMap (fun k => if g.slot k = 0 then [] else (g.frames k).filter (fun f => !s.otherHolds r f)))
        { s with regions := tdel s.regions r }
      else s.setRegion r { g with mapped := g.mapped.filter (fun m => decide (m ≠ n)) }
    else if g.owner = n then { s with regions := tdel s.regions r }
    else s) s

/-- The fields of a context's page return to their reset values, but for those of lock group 0 and BLK_LOCK (R424). -/
def State.resetCtxPage (s : State) (n : Nat) : State :=
  let p := ctxPage n
  let keep := fun (k : Nat) => decide (k / 4096 ≠ p) || [0x48, 0x50, 0x330, 0x3D4].contains (k % 4096)
  { s with regs := { s.regs with
      live := s.regs.live.filter (fun x => keep x.1), shadow := s.regs.shadow.filter (fun x => keep x.1)
      stats := s.regs.stats.filter (fun x => decide (x.1 / 32 ≠ p)), frozen := s.regs.frozen.filter (fun x => decide (x.1 / 32 ≠ p))
      blks := tput Blk.reset s.regs.blks p { Blk.reset with locked := (s.blk p).locked } } }

/-- The device releases everything that a context holds, the fields of its page return to their reset values (R424), and the state becomes UNLOADED (R294). -/
def State.releaseCtx (s : State) (n : Nat) : State :=
  let c := s.ctx n
  let s := (s.releaseNet n).releaseSlots n
  let qs := (s.queuesOf n).map (·.1)
  let mine := fun (k : Nat) => decide (s.ctrOwner k = some n)
  let s := { s with
    queues := s.queues.filter (fun q => decide (q.2.ctx ≠ n))
    arbs := s.arbs.map (fun (a : Nat × Arb) => (a.1, { a.2 with lastQ := tdel a.2.lastQ n, chosen := match a.2.chosen with | some x => if qs.contains x.1 then none else some x | none => none }))
    ctrs := s.ctrs.filter (fun x => !mine x.1), sigs := s.sigs.filter (fun g => !mine g.ctr), notices := s.notices.filter (fun x => !mine x.2.1)
    known := s.known.filter (fun x => !mine (x.1 % 2 ^ 18)), bars := s.bars.filter (fun b => decide (b.2.ctx ≠ n))
    fwds := s.fwds.filter (fun f => !(tget [] c.fwds (f.1 / 1024)).contains (f.1 % 1024))
    care := { s.care with replays := s.care.replays.filter (fun r => decide (r.task.ctx ≠ n)) } }
  let s := s.releaseRegions n
  let s := s.freeFrames (s.partition n)
  let s := s.revoke (fun _ e => aclOf n e)
  (s.resetCtxPage n).setCtx n { Ctx.reset with cmd := c.cmd, lastErr := c.lastErr }

/-- Every holder that the context has unloaded is told, and an UNLOAD or EVICT in progress completes. -/
def State.finishUnload (s : State) (n : Nat) : State :=
  let c := (s.ctx n).cmd
  let s := s.releaseCtx n
  let s := { s with pcie := { s.pcie with shut := s.pcie.shut && !s.loadedCtxs.isEmpty } }
  if c.busy ∧ c.op = 4 then s.cmdDone n 0 none
  else if c.busy ∧ c.op = 8 then s.cmdDone n 0 (some c.phase)
  else s

/-- UNLOAD begins (R294): a pull-in yield with its limit of 40 ms. A command in progress that can no longer complete ends with 0x41. -/
def State.startUnload (s : State) (n : Nat) : State :=
  if (s.ctx n).state = 0 then s
  else
    let c := (s.ctx n).cmd
    let s := if c.busy ∧ c.op ≠ 4 ∧ c.op ≠ 8 then s.cmdDone n 0x41 none else s
    let s := s.startDrain n
    s.modCtx n (fun c => { c with st := { c.st with unloadAt := some (c.st.unloadAt.getD s.now), hold := 0 } })

/-! ### Commit (R318) -/

/-- The version numbers that the regions of a context will have once the step being committed has published its commit_pub versions. -/
def State.commitVersion (s : State) (r : Nat) : Nat :=
  match s.region r with
  | some g => if g.commitPub ∧ g.pend < 3 then (g.version + 1) % 2 ^ 32 else g.version
  | none => 0

/-- The context of a member of the job. -/
def State.memberMsg (s : State) (n d kind : Nat) (fields : List Nat) : Out := .sync d kind (peerCtx (s.ctx n) d :: (s.ctx n).job.gen :: fields)

/-! ### Offline (R331) -/

/-- Flood a device-lost notice over the ports that have a live link. -/
def State.floodLost (s : State) (lost origin nonce : Nat) : State :=
  (List.range 8).foldl (fun s p =>
    if (s.liveLinks p).isEmpty then s
    else match s.portFar p with
      | some d => s.sendSync p (.sync d msgLost [lost, origin, nonce])
      | none => s) s

/-- ALERT_N (R436): low in recovery, offline, or with THERMTRIP_N low. -/
def State.alert (s : State) : State :=
  let v := !(s.root.recovery || s.root.offline || !s.pins.thermtripN)
  if v = s.pins.alertN then s else ({ s with pins := { s.pins with alertN := v } }).emit (.pin 0 v)

/-- The device takes itself offline (R331): ready reads 0, it sends the notice about itself, and it unloads every context of a job. -/
def State.goOffline (s : State) : State :=
  if s.root.offline then s
  else
    let s := ({ s with root := { s.root with offline := true, ready := false } }).alert
    let s := s.record { (s.mkRec 0x43 9).unit 8 0 0 s.cab with syndrome := s.cab + 128 }
    let s := s.floodLost s.cab s.cab s.root.nonce
    s.loadedCtxs.foldl (fun s n => s.startUnload n) s

/-- A protocol error of a die-to-die crossing (R142): counted and recorded with the class 0x04; the contexts with slots on the crossing abort (action 0x3,
assumption log 31); twice within 60 s takes the device offline (R331). Crossing `x` is port x mod 4 (N, E, S, W) of
compute die x / 4. -/
def State.crossingError (s : State) (x cycle : Nat) : State :=
  let s := s.count (d2dPage (x / 4)) (.protErr (x % 4)) 1
  let s := s.record { (s.mkRec 0x04 3).unit 1 (x / 4) 0 0 with syndrome := x % 4 + cycle % 65536 * 32 }
  let again := match tfind s.care.xingErr x with | some t => decide (s.now ≤ t + 6000000000) | none => false
  let s := { s with care := { s.care with xingErr := tset s.care.xingErr x s.now } }
  if again then s.goOffline
  else
    let users := ((s.schedSlots (x / 4) (16 + x % 4)).map (fun i => bitsOf (s.slotEntry (x / 4) (16 + x % 4) i) 7 2)).dedup
    users.foldl (fun s n => s.abortCtx n 0x04 false) s

end Sys2Proof.Machine
end

