-- ==== Sys2Proof/Machine/Network.lean ====
section
/-! DEFINITION. The time-slotted network (R142 to R164) and the arrival of error records (R317). -/

namespace Sys2Proof.Machine

/-! ### Crossings (R142, R331, R377) -/

/-- FRAME_MARKER_CHECK (R142): the frame marker of a crossing arrives in some cycle of the frame; any other than the crossing's fixed latency is a protocol error. -/
def execFrameMarkerCheck (crossing cycle : Nat) (s : State) : Host.Outcome State Fault Refusal :=
  .next (if 64 ≤ crossing ∨ !s.root.crossings ∨ cycle = s.net.latency then s else s.crossingError crossing s.net.latency)

/-- CROSSING_RECALIBRATION (R377): a recalibration finds the crossing outside its timing margin; its latency stays. -/
def execCrossingRecalibration (crossing : Nat) (s : State) : Host.Outcome State Fault Refusal :=
  .next (if 64 ≤ crossing ∨ !s.root.crossings then s else s.crossingError crossing s.net.latency)

/-- DIE_STOPS_ANSWERING (R331): a compute or link die stops answering. -/
def execDieStopsAnswering (die : Nat) (s : State) : Host.Outcome State Fault Refusal :=
  .next (if 19 ≤ die ∨ !s.root.mainUp then s else s.goOffline)

/-! ### Scheduled flits (R144, R152, R154, R155, R161, R162) -/

/-- Take `n` bytes from the front of a list of pieces, each with the issue cycle of its SEND. -/
def takeSegs : List (Nat × List Byte) → Nat → List (Nat × List Byte) × List (Nat × List Byte)
  | [], _ => ([], [])
  | x :: xs, n =>
    if n = 0 then ([], x :: xs)
    else if x.2.length ≤ n then
      let r := takeSegs xs (n - x.2.length)
      (x :: r.1, r.2)
    else ([(x.1, x.2.take n)], (x.1, x.2.drop n) :: xs)

/-- Bytes in a list of pieces. -/
def segBytes (l : List (Nat × List Byte)) : Nat := l.foldl (fun a x => a + x.2.length) 0

/-- The ring that a flow of a context writes in the schedule in effect. -/
def Ctx.flowRing (c : Ctx) (flow : Nat) : Option Nat :=
  match c.schedule with
  | none => none
  | some d => (d.flows.find? (fun f => decide (f.flow = flow ∧ f.kind = 1))).map (·.ring)

/-- Room that a sending flow may fill (R154): its ring's capacity; for a flow that continues on another device, the receive buffer's least share of 32 pieces. -/
def State.flowRoom (s : State) (ctx flow : Nat) : Nat :=
  match (s.ctx ctx).flowRing flow with
  | some r => match tfind s.net.rings (ringKey ctx r) with | some g => g.cap | none => 8192
  | none => 8192

/-- The declaration of a flow of a context in the schedule in effect, with a kind. -/
def Ctx.flowKind (c : Ctx) (kind flow : Nat) : Option FlowDecl :=
  match c.schedule with
  | none => none
  | some d => d.flows.find? (fun f => decide (f.flow = flow ∧ f.kind = kind))

/-- A flit of a stream flow leaves a core's outbound endpoint buffer: up to 256 bytes for which the flow has room (R154). -/
def State.sendFlit (s : State) (core ctx flow : Nat) : State × List (Nat × List Byte) :=
  match (s.ctx ctx).flowKind 1 flow with
  | none => (s, [])
  | some f =>
    let k := flowKey ctx flow
    let held := tget [] (s.core core).outEps f.ep
    let n := min (min 256 (segBytes held)) (s.flowRoom ctx flow - tget 0 s.net.used k)
    let t := takeSegs held n
    if n = 0 ∨ f.core ≠ core then (s, [])
    else
      let c := s.core core
      ({ s.setCore core { c with outEps := tput [] c.outEps f.ep t.2 } with net := { s.net with used := tput 0 s.net.used k (tget 0 s.net.used k + n) } }, t.1)

/-- A flit of a read flow leaves a ring of the die (R155): up to 256 bytes ahead of its reader. -/
def State.readFlit (s : State) (die ctx flow : Nat) : State × List (Nat × List Byte) :=
  match (s.ctx ctx).flowKind 2 flow with
  | none => (s, [])
  | some f =>
    if f.core / 8 ≠ die then (s, [])
    else
      let r := s.ringTake f.core ctx f 256
      (r.1, if r.2.isEmpty then [] else [(0, r.2)])

/-- A flit of a flow that came by a link port starts again toward its ring, while that has room, or toward the port by which it goes on (R163). -/
def State.farFlit (s : State) (ctx flow : Nat) : State × List (Nat × List Byte) :=
  let k := flowKey ctx flow
  let room := match (s.ctx ctx).flowRing flow with
    | some r => match tfind s.net.rings (ringKey ctx r) with | some g => g.cap - g.bytes.length - s.flowBytes ctx flow | none => 0
    | none => 8192 - segBytes (tget [] s.net.txq k)
  let t := takeSegs (tget [] s.net.rxq k) (min 256 room)
  ({ s with net := { s.net with rxq := tput [] s.net.rxq k t.2 } }, t.1)

/-- A flit of a stream flow enters its ring in the die cache. -/
def State.ringFlit (s : State) (die ctx flow : Nat) (bs : List Byte) : State :=
  let s := match (s.ctx ctx).flowRing flow with
    | none => s
    | some r =>
      match tfind s.net.rings (ringKey ctx r) with
      | none => s
      | some g => if g.die ≠ die then s else { s with net := { s.net with rings := tset s.net.rings (ringKey ctx r) { g with bytes := g.bytes ++ bs } } }
  s.written ctx flow bs.length

/-- SCHED credits of a context at a port (Table 11.3): its share of the 4,096 pieces of the receive buffer by its scheduled slots, at least 32. -/
def State.schedPool (s : State) (p ctx : Nat) : Nat :=
  let die := 16 + s.portHome p
  let all := s.schedSlots die (8 + p)
  let mine := all.filter (fun i => decide (bitsOf (s.slotEntry die (8 + p) i) 7 2 = ctx))
  max 32 (if all.isEmpty then 0 else 4096 * mine.length / all.length)

/-- A slot of a port's frame passes: the frame number counts when the slot number falls (R163), and the links that are live then are the links of the new frame (R266). -/
def State.portFrame (s : State) (p slot : Nat) : State :=
  let m := tget 0 s.ports.mark p
  let new := decide (slot ≤ m % 256)
  let f := if new then (m / 256 + 1) % 65536 else m / 256
  let live := if new ∨ (tget [] s.ports.live p).isEmpty then s.liveLinks p else tget [] s.ports.live p
  { s with ports := { s.ports with mark := tput 0 s.ports.mark p (f * 256 + slot), live := tput [] s.ports.live p live } }

/-- The header of a piece packet (Table 11.2), from its fields class, context, flow, slot, piece and frame, with the sequence number. How many of its four 64-byte units are empty stands in the bits that the
table reserves, 0 for a full piece (assumption log 144). -/
def pieceHeader (h : List Nat) (seq empty : Nat) : Nat :=
  h.getD 0 0 % 8 * 2 ^ 61 + h.getD 1 0 % 64 * 2 ^ 55 + h.getD 2 0 % 4096 * 2 ^ 43 + h.getD 3 0 % 256 * 2 ^ 35 + h.getD 4 0 % 16 * 2 ^ 31 + h.getD 5 0 % 65536 * 2 ^ 15 + empty * 2 ^ 12 + seq % 4096

/-- A piece packet: header, 256 bytes of payload, CRC-32 (R244); words are little-endian (assumption log 144). -/
def piecePacket (h : List Nat) (seq : Nat) (data : List Byte) : List Byte :=
  let b := leBytes 8 (pieceHeader h seq ((256 - data.length) / 64)) ++ (data ++ List.replicate 256 0).take 256
  b ++ leBytes 4 (crc32 b)

/-- Send one piece on a link, with its header fields: it stands in the replay buffer until it is acknowledged (R245). -/
def State.sendPiece (s : State) (l : Nat) (h : List Nat) (data : List Byte) : State :=
  let k := s.link l
  (s.setLink l { k with txSeq := (k.txSeq + 1) % 4096, unacked := k.unacked ++ [(k.txSeq, h, data)] }).emit (.packet l (piecePacket h k.txSeq data))

/-- Whether a link's replay buffer of 1.25 MiB has room for `n` more packets, with half the sequence numbers in use at most (R245, assumption log 144). -/
def Link.hasRoom (k : Link) (n : Nat) : Bool := decide ((k.unacked.length + n) * 268 ≤ 1310720 ∧ k.unacked.length + n ≤ 2048)

/-- A slot of a flow can leave by a port: bytes wait, a link is live, the context has SCHED credits for the slot's pieces (R247), and the replay buffers take them. -/
def State.portReady (s : State) (p ctx flow : Nat) : Bool :=
  let live := s.liveLinks p
  let n0 := (s.portLinks p).length
  !live.isEmpty && !(tget [] s.net.txq (flowKey ctx flow)).isEmpty && decide (s.creditsOut p ctx + n0 ≤ s.schedPool p ctx) && live.all (fun l => (s.link l).hasRoom n0)

/-- A slot of a flow that continues to another device leaves by a port (R163, R164): 256 bytes per nominal link, striped over the links of the frame; a piece for a link that has left service since goes on
a live one (R246). Its pieces carry the context that the job holds on the far device. -/
def State.portFlit (s : State) (p slot ctx flow : Nat) : State :=
  let live := s.liveLinks p
  let frame := tget [] s.ports.live p
  let k := flowKey ctx flow
  let n0 := (s.portLinks p).length
  let t := takeSegs (tget [] s.net.txq k) (256 * n0)
  let cs := chunksOf 256 n0 (t.1.flatMap (·.2))
  let s : State := (({ s with net := { s.net with txq := tput [] s.net.txq k t.2 } } : State).spend p ctx n0)
  let out : SlotOut := ⟨flow, (t.1.map (·.1)).foldl min (2 ^ 64), n0, segBytes t.1⟩
  let s : State := { s with ports := { s.ports with away := tput [] s.ports.away (creditKey p ctx) (tget [] s.ports.away (creditKey p ctx) ++ [out]) } }
  let far := peerCtx (s.ctx ctx) ((s.portFar p).getD 0)
  (List.range n0).foldl (fun s i =>
    let l := frame.getD (i % frame.length) 32
    let l := if live.contains l then l else live.getD (i % live.length) 0
    s.sendPiece l [0, far, flow, slot, i, tget 0 s.ports.mark p / 256] (cs.getD i [])) s

/-- The router that a flit reaches after it passes an output channel in a slot, with the slot of its next channel and the input it comes by (R144): the same router 4 slots on after an injection channel; the
router across a die-to-die crossing 12 slots on; none where the channel ends the path in the device. -/
def nextRouter (die channel slot : Nat) : Option (Nat × Nat × Nat) :=
  if die < 16 then
    if 16 ≤ channel ∧ channel < 20 then (if meshNext die channel < 16 then some (meshNext die channel, (slot + 12) % 256, entryPort channel) else none)
    else if (8 ≤ channel ∧ channel < 16) ∨ (23 ≤ channel ∧ channel < 26) ∨ 30 ≤ channel then some (die, (slot + 4) % 256, channel)
    else none
  else if channel < 4 then some ((attached die).getD channel 0, (slot + 12) % 256, die)
  else none

/-- The output channels by which a flit of a flow leaves a router in a slot (R144): those that the flow owns the slot of, several for a flow that is replicated; of a wrong table, where it owns that slot of
none, the channels of the router that the flow owns any slot of (assumption log 145). -/
def State.nextChannels (s : State) (die slot input ctx flow : Nat) : List Nat :=
  let outs := ((List.range 34).filter (fun c => decide (c < 8 ∨ (16 ≤ c ∧ c < 23) ∨ (26 ≤ c ∧ c < 30)))).filter (fun c => decide (c ≠ input))
  let now := outs.filter (fun c => s.ownsSlot die c ctx flow slot)
  if now.isEmpty then outs.filter (fun c => (List.range 256).any (fun i => s.ownsSlot die c ctx flow i)) else now

/-- A flit has passed the last channel of its path in the device: into a core, a ring, or the transmit queue of a link port. -/
def State.arriveFlit (s : State) (die channel : Nat) (f : Flit) : State :=
  let k := flowKey f.ctx f.flow
  if 16 ≤ die then s
  else if channel < 8 then
    match (s.ctx f.ctx).flowKind 0 f.flow, (s.ctx f.ctx).flowKind 2 f.flow with
    | some d, _ => if d.core = 8 * die + channel then s.fillArrive d.core d.sel f.segs else s
    | none, some d =>
      if d.core = 8 * die + channel then { s with net := { s.net with arrived := tput [] s.net.arrived k (tget [] s.net.arrived k ++ f.segs.flatMap (·.2)) } } else s
    | none, none => s
  else if 26 ≤ channel ∧ channel < 30 then s.ringFlit die f.ctx f.flow (f.segs.flatMap (·.2))
  else if 16 ≤ channel ∧ channel < 20 ∧ 16 ≤ meshNext die channel ∧ meshNext die channel < 19 then { s with net := { s.net with txq := tput [] s.net.txq k (tget [] s.net.txq k ++ f.segs) } }
  else s

/-- A scheduled flit passes an output channel: out of a port, to the next channel or channels of its path, or to its end. -/
def State.forwardFlit (s : State) (f : Flit) : State :=
  let s := s.emit (.flit f.die f.channel f.ctx f.flow)
  if 16 ≤ f.die ∧ 8 ≤ f.channel then (if s.portReady (f.channel - 8) f.ctx f.flow then s.portFlit (f.channel - 8) f.slot f.ctx f.flow else s)
  else
    match nextRouter f.die f.channel f.slot with
    | none => s.arriveFlit f.die f.channel f
    | some (d, slot, input) =>
      { s with net := { s.net with flits := s.net.flits ++ (s.nextChannels d slot input f.ctx f.flow).map (fun c => { f with die := d, channel := c, slot := slot, input := input }) } }

/-- What the source of a channel presents in a slot that a flow owns: an endpoint buffer (R154), the fill of a core (R152), a ring (R155), the receive side of a port, or its transmit queue (R163). -/
def State.sourceFlit (s : State) (die channel ctx flow : Nat) : State × List (Nat × List Byte) :=
  if die < 16 then
    if 8 ≤ channel ∧ channel < 16 then s.sendFlit (8 * die + (channel - 8)) ctx flow
    else if 23 ≤ channel ∧ channel < 26 then (match (s.ctx ctx).flowKind 0 flow with | some d => s.fillFlit d.core ctx d.sel | none => (s, []))
    else if 30 ≤ channel ∧ channel < 34 then s.readFlit die ctx flow
    else (s, [])
  else if channel < 4 then s.farFlit ctx flow
  else (s, if s.portReady (channel - 8) ctx flow then [(0, [])] else [])

/-- The flits that are due at a channel in a slot. -/
def State.dueFlits (s : State) (die channel slot : Nat) : List Flit := s.net.flits.filter (fun f => decide (f.die = die ∧ f.channel = channel ∧ f.slot = slot))

/-- NET_CONFLICT of a conflict (Table 7.10), with count `n`. -/
def conflictWord (channel slot entry ctx flow n : Nat) : Nat :=
  2 ^ 63 + min n 0x7FF * 2 ^ 52 + channel % 64 * 2 ^ 46 + slot % 256 * 2 ^ 38 + entry % 4 * 2 ^ 36 + bitsOf entry 7 2 * 2 ^ 30 + bitsOf entry 19 8 * 2 ^ 18 + ctx % 64 * 2 ^ 12 +
    flow % 4096

/-- Capture a conflict: the first since valid was cleared stays, the count rises. -/
def State.captureConflict (s : State) (die channel slot entry ctx flow : Nat) : State :=
  let w := tget 0 s.net.conflict die
  let v := if bitOf w 63 then (if bitsOf w 62 52 = 0x7FF then w else w + 2 ^ 52) else conflictWord channel slot entry ctx flow 1
  { s with net := { s.net with conflict := tput 0 s.net.conflict die v } }

/-- The context of a discarded flit: its record, its running tile-tasks end with 0x12, its queues stop (R162). -/
def State.conflictStop (s : State) (die channel slot entry ctx flow : Nat) : State :=
  let s := s.record { (s.ctxRec 0x30 2 ctx).unit 1 die 0 0 with syndrome := conflictWord channel slot entry ctx flow 1 }
  let s := (s.runningOn ctx).foldl (fun s c => match (s.core c).run with | some t => s.dropTask c 0x12 (s.taskRec c t 0x12 2) | none => s) s
  s.stopCtx ctx 0x30

/-- The flits presented in a slot of a channel leave what held them: those due there, that of the channel's own source, and others (assumption log 145). -/
def State.presented (s : State) (die channel slot : Nat) (others : List (Nat × Nat × Nat)) : State × List Flit :=
  let e := s.slotEntry die channel slot
  let due := s.dueFlits die channel slot
  let s : State := { s with net := { s.net with flits := s.net.flits.filter (fun f => !decide (f.die = die ∧ f.channel = channel ∧ f.slot = slot)) } }
  let own := if e % 4 = 1 then s.sourceFlit die channel (bitsOf e 7 2) (bitsOf e 19 8) else (s, [])
  (own.1, due ++ others.map (fun x => ⟨die, channel, slot, x.1, x.2.1, x.2.2, []⟩) ++
    (if own.2.isEmpty then [] else [⟨die, channel, slot, channel, bitsOf e 7 2, bitsOf e 19 8, own.2⟩]))

/-- The slot of a channel with the flits presented in it: the flit that matches the entry, from the lowest-numbered input, is forwarded; every other is discarded (R161, R162). -/
def State.passFlits (s : State) (die channel slot : Nat) (flits : List Flit) : State :=
  let e := s.slotEntry die channel slot
  let good := flits.filter (fun f => decide (e % 4 = 1 ∧ bitsOf e 7 2 = f.ctx ∧ bitsOf e 19 8 = f.flow))
  let win := (sortBy (·.input) good).head?
  let lost := sortBy (·.input) (match win with | some f => flits.erase f | none => flits)
  let s := match win with | some f => s.forwardFlit f | none => s
  match lost with
  | [] => s
  | f :: _ =>
    let s := s.captureConflict die channel slot e f.ctx f.flow
    (lost.foldl (fun (a : State × List Nat) x =>
      if a.2.contains x.ctx then a else (a.1.conflictStop die channel slot e x.ctx x.flow, x.ctx :: a.2)) (s, [])).1

/-- A slot of a channel passes; on a port channel it is a slot of the port's frame. -/
def State.passSlot (s : State) (die channel slot : Nat) (others : List (Nat × Nat × Nat)) : State :=
  let s := if 16 ≤ die ∧ 8 ≤ channel then s.portFrame (channel - 8) slot else s
  let r := s.presented die channel slot others
  r.1.passFlits die channel slot r.2

/-- A slot table entry found in error (R307): the Bureau rewrites it from its copy, and the context that owns the slot is aborted. -/
def State.slotUpset (s : State) (die channel slot : Nat) : State :=
  let e := s.slotEntry die channel slot
  let s := s.record { (s.mkRec 0x03 3).unit 1 die 0 0 with addr := slot, syndrome := channel * 256 + slot }
  if e % 4 = 1 then s.abortCtx (bitsOf e 7 2) 0x03 false else s

/-- A flit's tag is found in error (R161): a parity error, never a slot conflict. The flits presented in the slot are discarded, and the context that owns the slot is aborted (assumption log 145). -/
def State.tagUpset (s : State) (die channel slot : Nat) : State := (s.presented die channel slot []).1.slotUpset die channel slot

/-- FLIT_PASSES_CHANNEL (R144, R161, R307): a slot of a channel passes, with the scheduled flits presented in it: those of the flows that the state holds, and `others`, each with its input, context and flow
(flits of collective and other flows, whose contents travel as messages). `upset` 1 finds the table entry of the slot in error, 2 the tag of a flit. -/
def execFlitPassesChannel (die channel slot : Nat) (others : List (Nat × Nat × Nat)) (upset : Nat) (s : State) : Host.Outcome State Fault Refusal :=
  .next (if (slotTable die channel).isNone ∨ 256 ≤ slot ∨ !s.root.crossings then s
    else if upset = 1 then s.slotUpset die channel slot
    else if upset = 2 then s.tagUpset die channel slot
    else s.passSlot die channel slot (others.filter (fun f => decide (f.2.1 < 64 ∧ f.2.2 < 4096))))

/-! ### Open traffic (R149, R158 to R160, R263) -/

/-- Key of a channel. -/
def chanKey (die channel : Nat) : Nat := die * 64 + channel

/-- The die that an open packet for a destination is led to: a die of this device below 20, or from 256 on a device, by the home of its port in the route table. -/
def State.openDie (s : State) (dest : Nat) : Option Nat :=
  if dest < 20 then some dest
  else if 256 ≤ dest then (s.routePort (dest - 256)).map (fun p => 16 + s.portHome p)
  else none

/-- A packet for this device's own index, which is delivered here (R263). -/
def State.openHere (s : State) (dest : Nat) : Bool := decide (dest = 256 + s.cab)

/-- The output channel of a router by which an open packet goes on (R160, R263): along the mesh toward the die it is led to, there the transmit queue of its port; none where it has arrived. -/
def State.openChannel (s : State) (die dest : Nat) : Option Nat :=
  if s.openHere dest then none
  else
    match s.openDie dest with
    | none => none
    | some t =>
      if die = t then (if 256 ≤ dest then (s.routePort (dest - 256)).map (fun p => 8 + p) else none)
      else if die < 16 then meshPort die t
      else some (meshEntry die t)

/-- The next channel of an open packet that leaves die `die` by a channel, with the input it comes by; none where the channel ends its path in the device or it has arrived. -/
def State.nextHop (s : State) (die channel dest : Nat) : Option (Nat × Nat × Nat) :=
  match nextRouter die channel 0 with
  | some (d, _, input) => (s.openChannel d dest).map (fun c => (d, c, input))
  | none =>
    if die < 16 ∧ 16 ≤ channel ∧ channel < 20 then (s.openChannel (meshNext die channel) dest).map (fun c => (meshNext die channel, c, (attached (meshNext die channel)).idxOf die))
    else none

/-- The weight of a virtual channel in NET_CTRL of a die's router: RQ, HOST, MGMT (Table 7.9). -/
def State.vcWeight (s : State) (die vc : Nat) : Nat :=
  let f := fun hi lo => s.regs.field (routerPage die) 0x80 hi lo
  match vc with
  | 0 => f 11 8 | 2 => f 15 12 | _ => f 19 16

/-- Weighted round robin over RQ (0), HOST (2) and MGMT (3): the turns of the arbiter until a ready class with credit; `fuel` bounds the turns. -/
def wrrPick (weight : Nat → Nat) (ready : List Nat) : Nat → ChanArb → ChanArb × Option Nat
  | 0, a => (a, none)
  | k + 1, a =>
    if 0 < a.credit ∧ ready.contains a.cur then ({ a with credit := a.credit - 1 }, some a.cur)
    else
      let c := if a.cur = 0 then 2 else if a.cur = 2 then 3 else 0
      wrrPick weight ready k { a with cur := c, credit := weight c }

/-- Arbiter of a channel at reset. -/
def ChanArb.reset : ChanArb := { cur := 3, credit := 0, lastIn := [127, 127, 127, 127, 127] }

/-- The place of a flit in the round robin of its virtual channel: its input and sub-channel (R159, R264). -/
def OpenFlit.turn (f : OpenFlit) : Nat := (f.input * 2 + f.sub) % 128

/-- The flit of a virtual channel that its round robin serves next. -/
def pickFlit (l : List OpenFlit) (vc last : Nat) : Option OpenFlit :=
  match sortBy (fun i => (i + 128 - last - 1) % 128) ((l.filter (fun f => decide (f.vc = vc))).map (·.turn)) with
  | [] => none
  | i :: _ => l.find? (fun f => decide (f.vc = vc ∧ f.turn = i))

/-- The hop by a port crosses between coordinate 0 and the largest coordinate of a ring larger than 2 (R264). -/
def State.wrapHop (s : State) (p : Nat) : Bool :=
  let c := coords s.cab
  let ny := (planYZ s.plan).1; let nz := (planYZ s.plan).2
  match p with
  | 0 => decide (c.1 = 7) | 1 => decide (c.1 = 0)
  | 2 => decide (2 < ny ∧ c.2.1 + 1 = ny) | 3 => decide (2 < ny ∧ c.2.1 = 0)
  | 4 => decide (2 < nz ∧ c.2.2 + 1 = nz) | 5 => decide (2 < nz ∧ c.2.2 = 0)
  | _ => false

/-- The sub-channel of a packet on the hop by a port (R264): lo when it enters a dimension, hi from a chord hop or a wrap hop of it on. -/
def State.subChannel (s : State) (p : Nat) (f : OpenFlit) : Nat :=
  if p = 6 ∨ s.wrapHop p then 1 else if f.dim = portDim p then f.sub else 0

/-- The credit unit of a flit on the hop by a port (Table 11.3): MAINT, or OPEN by virtual channel and sub-channel; and the credits of its pool. -/
def State.openUnit (s : State) (p : Nat) (f : OpenFlit) : Nat := if f.vc = 4 then maintUnit else 64 + f.vc * 2 + s.subChannel p f
def openPool (u : Nat) : Nat := if u = maintUnit then 8 else 32

/-- Whether the next hop of a flit has a credit of its virtual channel: 8 flits per hop in the device, the port's credits on a link (R247). -/
def State.hopCredit (s : State) (die channel : Nat) (f : OpenFlit) : Bool :=
  if 16 ≤ die ∧ 8 ≤ channel then
    match s.syncLink (channel - 8) with
    | some l => decide (s.creditsOut (channel - 8) (s.openUnit (channel - 8) f) < openPool (s.openUnit (channel - 8) f)) && (s.link l).hasRoom 1
    | none => true
  else
    match s.nextHop die channel f.dest with
    | none => true
    | some (d, c, _) => decide (((tget [] s.net.waiting (chanKey d c)).filter (fun g => decide (g.vc = f.vc))).length < 8)

/-- A packet leaves the receive buffer of the port it came by: its credit goes back (R247). -/
def State.leaveBuffer (s : State) (f : OpenFlit) : State := if f.owe = 0 then s else s.returnCredits ((f.owe - 1) / 128) ((f.owe - 1) % 128) 1

/-- An open packet in the router of a die waits at the channel by which it goes on, or is delivered (channel 63). -/
def State.enqueueOpen (s : State) (die : Nat) (f : OpenFlit) : State :=
  match s.openChannel die f.dest with
  | some c => { s with net := { s.net with waiting := tput [] s.net.waiting (chanKey die c) (tget [] s.net.waiting (chanKey die c) ++ [f]) } }
  | none => (s.leaveBuffer f).emit (.openFlit die 63 f.vc f.dest)

/-- A packet is discarded for want of a route: a record of class 0x39, and for a request an error response on RS to its source (R263). -/
def State.discardOpen (s : State) (die : Nat) (f : OpenFlit) : State :=
  let s := s.record (lostRec s.cab s.now 0x39 (f.dest - 256))
  if (f.vc = 0 ∨ f.vc = 2) ∧ (s.openHere f.src ∨ (s.openDie f.src).isSome) then s.enqueueOpen die ⟨1, 63, f.src, 256 + s.cab, 0, 3, 0⟩ else s

/-- A packet leaves by a port on a link as a piece of class OPEN or MAINT, with its sub-channel (R264); its destination and source lead its payload, in the model's numbering (assumption log 144). -/
def State.openPiece (s : State) (p : Nat) (f : OpenFlit) : State :=
  match s.syncLink p with
  | none => s.discardOpen (16 + s.portHome p) f
  | some l =>
    let m := tget 0 s.ports.mark p
    (s.spend p (s.openUnit p f) 1).sendPiece l [if f.vc = 4 then 2 else 1, 0, f.vc % 4 + 4 * s.subChannel p f, m % 256, 0, m / 256] ((leBytes 4 f.dest ++ leBytes 4 f.src ++ List.replicate 256 0).take 256)

/-- A served flit goes to its next hop, over a link, or has arrived; one without a route is discarded (R263). -/
def State.serveFlit (s : State) (die channel : Nat) (f : OpenFlit) : State :=
  if !s.openHere f.dest ∧ (s.openDie f.dest).isNone then s.discardOpen die f
  else
    let s := s.emit (.openFlit die channel f.vc f.dest)
    if 16 ≤ die ∧ 8 ≤ channel then s.openPiece (channel - 8) f
    else
      match s.nextHop die channel f.dest with
      | none => s
      | some (d, c, i) => { s with net := { s.net with waiting := tput [] s.net.waiting (chanKey d c) (tget [] s.net.waiting (chanKey d c) ++ [{ f with input := i }]) } }

/-- One slot that is open to unscheduled traffic: a maintenance flit in a maintenance slot, else RS, else RQ, HOST and MGMT in weighted round robin (R158, R159). -/
def State.openSlot (s : State) (die channel slot : Nat) : State :=
  let k := chanKey die channel
  let w := tget [] s.net.waiting k
  let a := tget ChanArb.reset s.net.arbs k
  let ready := w.filter (fun f => s.hopCredit die channel f)
  let maint := if slot % 64 = 63 then w.find? (fun f => decide (f.vc = 4)) else none
  let rs := pickFlit ready 1 (a.lastIn.getD 1 127)
  let r : ChanArb × Option OpenFlit :=
    match maint, rs with
    | some f, _ => (a, some f)
    | none, some f => (a, some f)
    | none, none =>
      let p := wrrPick (s.vcWeight die) ((ready.map (·.vc)).filter (fun v => decide (v = 0 ∨ v = 2 ∨ v = 3))) 5 a
      (p.1, match p.2 with | some v => pickFlit ready v (a.lastIn.getD v 127) | none => none)
  match r.2 with
  | none => s
  | some f =>
    let s := { s with net := { s.net with
      waiting := tput [] s.net.waiting k (w.erase f)
      arbs := tput ChanArb.reset s.net.arbs k { r.1 with lastIn := r.1.lastIn.set f.vc f.turn } } }
    (s.leaveBuffer f).serveFlit die channel { f with owe := 0 }

/-- The owner of a scheduled slot presents a flit in it (R149). -/
def State.ownerPresent (s : State) (die channel slot : Nat) : Bool :=
  let e := s.slotEntry die channel slot
  (s.dueFlits die channel slot).any (fun f => decide (bitsOf e 7 2 = f.ctx ∧ bitsOf e 19 8 = f.flow)) || !(s.sourceFlit die channel (bitsOf e 7 2) (bitsOf e 19 8)).2.isEmpty

/-- The route entry to a device is found in error (R307): the contexts whose jobs have that device as a member use it. -/
def State.routeFault (s : State) (d : Nat) : State :=
  s.tableFault 3 d (s.loadedCtxs.filter (fun n => match (s.ctx n).job.man with | some m => m.members.contains d | none => false))

/-- OPEN_PACKET_HOP (R159): flits that arrived for a channel, each with its virtual channel (4 for a maintenance flit), input, destination and source, wait at it; then a slot that carries no scheduled flit
serves one: an open slot, an idle maintenance slot, or, where borrowing is enabled, a scheduled slot whose owner presents no flit (R149).
With `upset` the route entry of the first arrival is found in error at a link die (R307). -/
def execOpenPacketHop (die channel slot : Nat) (arrivals : List (Nat × Nat × Nat × Nat)) (upset : Bool) (s : State) : Host.Outcome State Fault Refusal :=
  .next (if (slotTable die channel).isNone ∨ 256 ≤ slot ∨ !s.root.crossings then s
    else
      let k := chanKey die channel
      let new := (arrivals.filter (fun x => decide (x.1 < 5 ∧ x.2.1 < 64))).map (fun x => OpenFlit.mk x.1 x.2.1 x.2.2.1 x.2.2.2 0 3 0)
      let s : State := { s with net := { s.net with waiting := tput [] s.net.waiting k (tget [] s.net.waiting k ++ new) } }
      let s := if upset ∧ 16 ≤ die then s.routeFault (match arrivals with | x :: _ => x.2.2.1 % 128 | [] => s.cab) else s
      if s.slotEntry die channel slot % 4 = 1 ∧ (s.regs.field (routerPage die) 0x80 20 20 = 0 ∨ s.ownerPresent die channel slot) then s
      else s.openSlot die channel slot)

/-! ### Error records (R317) -/

/-- Classes whose records are kept in module flash. -/
def flashClass (c : Nat) : Bool := decide (c = 0x1A ∨ c = 0x1B ∨ c = 0x1C ∨ c = 0x43 ∨ c = 0x45 ∨ c = 0x46)

/-- A record enters the two copies of the log, in the reserved areas of GS0 and GS15, where those stacks are up (R317; the place in the area is the model's, assumption log 150). -/
def State.logCopies (s : State) (r : ErrRec) : State :=
  let o := userFrames * 65536 + r.seq % 32768 * 64
  let bs := leBytes 64 r.encode
  let s := if s.root.stackUp.contains 0 then s.memWrite 0 o bs else s
  if s.root.stackUp.contains 15 then s.memWrite 15 o bs else s

/-- The Bureau numbers a record, keeps the latest 32,768, posts it to its context, keeps the classes that survive power loss (R317) and sends classes 0x50 to 0x5B as PLDM events (R382). -/
def State.logRecord (s : State) (r : ErrRec) : State :=
  let r := { r with seq := s.care.nextSeq }
  let log := s.care.log ++ [r]
  let s := { s with
    care := { s.care with nextSeq := (s.care.nextSeq + 1) % 2 ^ 32, log := log.drop (log.length - 32768) }
    root := if flashClass r.cls then { s.root with flashRecs := s.root.flashRecs ++ [r] } else s.root }
  let s := s.logCopies r
  let s := if 0x50 ≤ r.cls ∧ r.cls < 0x5C then s.emit (.mctp 0x12 0x0A (leBytes 64 r.encode)) else s
  if !r.ctxValid then s
  else
    let s := s.modCtx r.ctx (fun c => { c with lastErr := r.encode })
    if r.action = 0 ∨ r.action = 1 ∨ r.action = 0xB then s else s.notify r.ctx 18

/-- ERROR_RECORD_ARRIVAL (R317): the next record on its way reaches the root die. -/
def execErrorRecordArrival (s : State) : Host.Outcome State Fault Refusal :=
  .next (match s.care.transit with
    | [] => s
    | r :: rest => if !s.root.bureauUp then s else State.logRecord { s with care := { s.care with transit := rest } } r)

end Sys2Proof.Machine
end

