-- ==== Sys2Proof/Machine/ProgParse.lean ====
section
/-! DEFINITION. Reading a program binary and its load manifest (R401 to R404, R452): the layout checks of check 1 of Table 17.3 in one parser. -/

namespace Sys2Proof.Machine

/-- The little-endian integer of `n` bytes at offset `o`. -/
def fld (b : List Byte) (o n : Nat) : Nat := leNat ((b.drop o).take n)

/-- Whether `n` bytes at offset `o` are all 0. -/
def zeros (b : List Byte) (o n : Nat) : Bool := ((b.drop o).take n).all (fun x => decide (x = 0))

/-- A section of the directory: type, offset, length. -/
structure SecDir where
  typ : Nat
  off : Nat
  len : Nat
  deriving DecidableEq, Repr

/-- The section directory at 0x100; reserved flags must be 0. -/
def directory (b : List Byte) : Option (List SecDir) :=
  let n := fld b 0x1A 2
  if n = 0 ∨ 32 < n ∨ b.length < 0x100 + 16 * n then none
  else
    let es := (List.range n).map (fun i => SecDir.mk (fld b (0x100 + 16 * i) 2) (fld b (0x108 + 16 * i) 8) (fld b (0x104 + 16 * i) 4))
    let ok := (List.range n).all (fun i => zeros b (0x102 + 16 * i) 2) &&
      es.all (fun e => decide (1 ≤ e.typ ∧ e.typ ≤ 9 ∧ 0x100 + 16 * n ≤ e.off ∧ e.off + e.len ≤ b.length)) &&
      (es.map (·.typ)).dedup.length = n &&
      es.all (fun e => es.all (fun f => decide (e.typ = f.typ ∨ e.off + e.len ≤ f.off ∨ f.off + f.len ≤ e.off)))
    if ok then some es else none

/-- The bytes of the section of a type. -/
def getSection (b : List Byte) (d : List SecDir) (t : Nat) : Option (List Byte) :=
  (d.find? (fun e => e.typ = t)).map (fun e => (b.drop e.off).take e.len)

/-- 0x0003 Kernels: core, window units, image. -/
def parseKernels (b : List Byte) : Option (List (Nat × Nat × List Byte)) :=
  let n := fld b 0 4
  if b.length < 8 + 16 * n ∨ !zeros b 4 4 then none
  else
    let es := (List.range n).map (fun i => (fld b (8 + 16 * i) 1, fld b (10 + 16 * i) 2, fld b (12 + 16 * i) 4, fld b (16 + 16 * i) 8))
    let ok := (List.range n).all (fun i => zeros b (9 + 16 * i) 1) &&
      es.all (fun e => decide (e.1 < 128 ∧ 1 ≤ e.2.1 ∧ e.2.1 ≤ 64 ∧ e.2.2.1 ≤ e.2.1 * 4096 ∧ 8 + 16 * n ≤ e.2.2.2 ∧ e.2.2.2 + e.2.2.1 ≤ b.length)) &&
      (es.map (·.1)).dedup.length = n
    if ok then some (es.map (fun e => (e.1, e.2.1, (b.drop e.2.2.2).take e.2.2.1))) else none

/-- Size of one entry of a schedule item. -/
def itemSize (t : Nat) : Nat :=
  match t with
  | 1 => 4 | 2 => 8 | 3 => 8 | 4 => 16 | 5 => 8 | 6 => 4 | 7 => 4 | _ => 0

/-- The bytes of an entry as numbers. -/
def entryBytes (b : List Byte) (o n : Nat) : List Nat := ((b.drop o).take n).map (·.toNat)

/-- Put one entry of a schedule item into its record; none where a value breaks Table 17.7. -/
def addItem (d : Sched) (t : Nat) (e : List Byte) : Option Sched :=
  let f := fld e
  match t with
  | 1 =>
    if f 2 1 < 16 ∧ f 3 1 ≠ 0 ∧ f 0 1 < 16 ∧ f 1 1 < 128 then some { d with stages := d.stages ++ [entryBytes e 0 4] } else none
  | 2 =>
    if f 0 1 ≤ 18 ∧ f 1 1 < (if f 0 1 < 16 then 34 else 12) ∧ zeros e 3 1 ∧ zeros e 6 2 ∧ f 4 2 < 4096 then
      some { d with slots := d.slots ++ [⟨f 0 1, f 1 1, f 2 1, f 4 2⟩] } else none
  | 3 =>
    if f 0 2 < 4096 ∧ f 2 1 ≤ 4 ∧ f 3 1 < 128 ∧ f 4 1 < 8 ∧ f 6 1 < 4 ∧ zeros e 7 1 then
      some { d with flows := d.flows ++ [⟨f 0 2, f 2 1, f 3 1, f 4 1, f 5 1, f 6 1⟩] } else none
  | 4 =>
    if f 1 1 < 16 ∧ 16 ≤ f 2 1 ∧ f 2 1 ≤ 23 ∧ f 3 1 < 128 ∧ f 4 1 < 8 ∧ f 5 1 ≠ 0 ∧ zeros e 6 2 ∧ (entryBytes e 8 8).all (fun x => decide (x < 8)) then
      some { d with rings := d.rings ++ [⟨f 0 1, f 1 1, f 2 1, f 3 1, f 4 1, f 5 1, entryBytes e 8 8⟩] } else none
  | 5 =>
    if f 0 1 < 16 ∧ f 1 1 ≠ 0 ∧ 4 ≤ f 2 1 ∧ f 2 1 ≤ 12 ∧ f 3 1 < 2 ∧ zeros e 4 4 then
      some { d with queues := d.queues ++ [⟨f 0 1, f 1 1, f 2 1, decide (f 3 1 = 1)⟩] } else none
  | 6 =>
    if f 0 1 < 16 ∧ f 1 1 < 3 ∧ 4 ≤ f 2 1 ∧ f 2 1 ≤ 12 ∧ zeros e 3 1 then some { d with cqs := d.cqs ++ [⟨f 0 1, f 1 1, f 2 1⟩] } else none
  | 7 =>
    if f 0 1 < 128 ∧ f 1 1 < 128 ∧ f 2 1 < 128 ∧ f 1 1 / 8 = f 0 1 / 8 ∧ f 2 1 / 8 = f 0 1 / 8 ∧ zeros e 3 1 then
      some { d with partners := d.partners ++ [entryBytes e 0 3] } else none
  | _ => none

/-- The entries of one item. -/
def addItems (d : Sched) (t : Nat) (b : List Byte) : Nat → Option Sched
  | 0 => some d
  | n + 1 =>
    match addItem d t (b.take (itemSize t)) with
    | some d' => addItems d' t (b.drop (itemSize t)) n
    | none => none

/-- The items of a schedule body; `fuel` bounds their number. -/
def parseItems (d : Sched) : Nat → List Byte → Option Sched
  | 0, b => if b.isEmpty then some d else none
  | fuel + 1, b =>
    if b.isEmpty then some d
    else
      let t := fld b 0 2
      let n := fld b 4 4
      let len := n * itemSize t
      if b.length < 8 + len ∨ !zeros b 2 2 ∨ itemSize t = 0 then none
      else match addItems d t ((b.drop 8).take len) n with
        | some d' => parseItems d' fuel (b.drop (8 + len))
        | none => none

/-- The schedule records of section 0x0004 after its head (R404). -/
def parseScheds : Nat → List Byte → Option (List Sched)
  | 0, b => if b.isEmpty then some [] else none
  | n + 1, b =>
    let len := fld b 16 8
    if b.length < 24 + len ∨ !zeros b 2 6 then none
    else
      match parseItems ⟨fld b 0 1, fld b 1 1, fld b 8 8, [], [], [], [], [], [], []⟩ len ((b.drop 24).take len), parseScheds n (b.drop (24 + len)) with
      | some d, some ds => some (d :: ds)
      | _, _ => none

/-- The flag bytes of one die's counters, with the forward indices of its proxies in order. -/
def ctrDecls (die : Nat) : Nat → List Byte → List Nat → List CtrDecl
  | _, [], _ => []
  | i, f :: fs, idx =>
    if bitOf f.toNat 1 then ⟨die, i, b2n (bitOf f.toNat 0), some (idx.headD 0), bitOf f.toNat 2⟩ :: ctrDecls die (i + 1) fs (idx.drop 1)
    else ⟨die, i, b2n (bitOf f.toNat 0), none, bitOf f.toNat 2⟩ :: ctrDecls die (i + 1) fs idx

/-- Section 0x0005: one window per listed die; `fuel` bounds their number. -/
def parseCtrs : Nat → List Byte → Option (List CtrDecl)
  | 0, b => if b.isEmpty then some [] else none
  | fuel + 1, b =>
    if b.isEmpty then some []
    else
      let die := fld b 0 1
      let n := fld b 2 2
      let flags := (b.drop 4).take n
      let o1 := 4 + (n + 1) / 2 * 2
      let np := (flags.filter (fun f => bitOf f.toNat 1)).length
      let o2 := (o1 + 2 * np + 3) / 4 * 4
      if 16 ≤ die ∨ 16384 < n ∨ !zeros b 1 1 ∨ b.length < o2 ∨ flags.any (fun f => decide (8 ≤ f.toNat)) then none
      else
        match parseCtrs fuel (b.drop o2) with
        | some cs => some (ctrDecls die 0 flags ((List.range np).map (fun i => fld b (o1 + 2 * i) 2)) ++ cs)
        | none => none

/-- The barriers of section 0x0006 after their count. -/
def parseBars (m : Nat) : Nat → List Byte → Option (List BarDecl)
  | 0, b => if b.isEmpty then some [] else none
  | n + 1, b =>
    let k := fld b 1 1
    let ms := (List.range k).map (fun i => BarMember.mk (fld b (4 + 16 * i) 1) (fld b (8 + 16 * i) 4) (fld b (12 + 16 * i) 4) (fld b (16 + 16 * i) 4))
    if b.length < 4 + 16 * k ∨ !zeros b 2 2 ∨ !(List.range k).all (fun i => zeros b (5 + 16 * i) 3) ∨
        ms.any (fun x => decide (m ≤ x.member ∨ x.arrStep = 0 ∨ 2 ^ 18 ≤ x.arrCtr ∨ 2 ^ 18 ≤ x.relCtr)) then none
    else
      match parseBars m n (b.drop (4 + 16 * k)) with
      | some bs => some (⟨fld b 0 1, ms⟩ :: bs)
      | none => none

/-- Section 0x0007: the forward entries of each die; `fuel` bounds the number of dies. -/
def parseFwds (l : Nat) : Nat → List Byte → Option (List FwdDecl)
  | 0, b => if b.isEmpty then some [] else none
  | fuel + 1, b =>
    if b.isEmpty then some []
    else
      let die := fld b 0 1
      let n := fld b 2 2
      let es := (List.range n).map (fun i => FwdDecl.mk die i (fld b (4 + 8 * i) 2) (fld b (8 + 8 * i) 4))
      if 16 ≤ die ∨ b.length < 4 + 8 * n ∨ !zeros b 1 1 ∨ !(List.range n).all (fun i => zeros b (6 + 8 * i) 2) ∨
          es.any (fun e => decide (l ≤ e.shard ∨ 2 ^ 18 ≤ e.ctr)) then none
      else
        match parseFwds l fuel (b.drop (4 + 8 * n)) with
        | some fs => some (es ++ fs)
        | none => none

/-- The groups of section 0x0008 after their count. -/
def parseGroups (l : Nat) : Nat → List Byte → Option (List (Nat × List Nat))
  | 0, b => if b.isEmpty then some [] else none
  | n + 1, b =>
    let k := fld b 2 2
    let len := (4 + 2 * k + 3) / 4 * 4
    let ss := (List.range k).map (fun i => fld b (4 + 2 * i) 2)
    if b.length < len ∨ !zeros b 1 1 ∨ ss.any (fun x => decide (l ≤ x)) then none
    else
      match parseGroups l n (b.drop len) with
      | some gs => some ((fld b 0 1, ss) :: gs)
      | none => none

/-- A region record (64 bytes). -/
def parseRegion (l : Nat) (b : List Byte) : Option RegionDecl :=
  let fl := fld b 2 2
  let size := fld b 8 8
  let shared := bitOf fl 0
  if fld b 0 2 = 0xFFFF ∨ 64 ≤ fl ∨ !zeros b 6 2 ∨ !zeros b 48 16 ∨ size = 0 ∨ size % 65536 ≠ 0 ∨ 48 * 2 ^ 30 < size ∨
      (fld b 4 2 ≠ 0xFFFF ∧ l ≤ fld b 4 2) ∨ (!shared ∧ !zeros b 16 32) then none
  else some ⟨fld b 0 2, shared, bitOf fl 1, bitOf fl 2, bitOf fl 3, bitOf fl 4, b2n (bitOf fl 5), fld b 4 2, size, (b.drop 16).take 32⟩

/-- Read every piece of a list of optional results. -/
def allSome {α : Type} : List (Option α) → Option (List α)
  | [] => some []
  | none :: _ => none
  | some x :: xs => (allSome xs).map (x :: ·)

/-- The program binary (R401, R402, R404, R452); none where a layout, count or value is wrong (code 0x04). -/
def parseProg (b : List Byte) : Option Prog :=
  if b.length < 0x110 ∨ fld b 0 4 ≠ 0x314E5A54 ∨ fld b 4 2 ≠ 0x0100 ∨ !zeros b 0x1C 4 ∨ !zeros b 0x50 176 ∨ 16 ≤ fld b 0x14 4 ∨
      fld b 0xA 2 = 0 ∨ fld b 0xC 2 = 0 ∨ 128 < fld b 0xC 2 ∨ fld b 0xE 1 = 0 ∨ fld b 0xF 1 < fld b 0xE 1 ∨ fld b 0x48 8 % 65536 ≠ 0 then none
  else
    match directory b with
    | none => none
    | some d =>
      let l := fld b 0xA 2
      let m := fld b 0xC 2
      match getSection b d 1, getSection b d 2, getSection b d 3, getSection b d 4, getSection b d 5, getSection b d 9 with
      | some plan, some grid, some kern, some sch, some ctr, some reg =>
        let nReg := fld reg 0 4
        let nRep := fld reg 4 4
        if grid.length ≠ 4 * l ∨ sha256 plan ≠ (b.drop 0x20).take 32 ∨ sch.length < 8 ∨ !zeros sch 4 4 ∨ reg.length ≠ 32 + 64 * nReg + 8 * nRep ∨ !zeros reg 28 4 then none
        else
          let bars := match getSection b d 6 with | some x => if x.length < 4 then none else parseBars m (fld x 0 4) (x.drop 4) | none => some []
          let fwds := match getSection b d 7 with | some x => parseFwds l x.length x | none => some []
          let grps := match getSection b d 8 with | some x => if x.length < 4 then none else parseGroups l (fld x 0 4) (x.drop 4) | none => some []
          let regs := allSome ((List.range nReg).map (fun i => parseRegion l ((reg.drop (32 + 64 * i)).take 64)))
          let reps := (List.range nRep).map (fun i => (fld reg (32 + 64 * nReg + 8 * i) 1, fld reg (36 + 64 * nReg + 8 * i) 4))
          match parseKernels kern, parseScheds (fld sch 0 4) (sch.drop 8), parseCtrs ctr.length ctr, bars, fwds, grps, regs with
          | some ks, some ss, some cs, some bs, some fs, some gs, some rs =>
            if (ss.map (fun x => (x.h, x.fenced))).dedup.length ≠ ss.length ∨ (rs.map (·.id)).dedup.length ≠ rs.length ∨
                reps.any (fun x => decide (16 ≤ x.1)) ∨ (cs.map (·.die)).any (fun x => decide (16 ≤ x)) then none
            else some
              { profile := fld b 6 1, arrays := fld b 7 1, lanes := fld b 8 2, shards := l, members := m, h0 := fld b 0xE 1, hmax := fld b 0xF 1,
                maxLen := fld b 0x10 4, features := fld b 0x14 4, descVers := fld b 0x18 2, planDigest := (b.drop 0x20).take 32,
                imageDigest := sha256 b, shardBytes := fld b 0x48 8, streams := (List.range l).map (fun i => fld grid (4 * i) 4), windows := ks, scheds := ss,
                ctrs := cs, barriers := bs, forwards := fs, groups := gs, regions := rs, replay := reps, mirrorFrames := fld reg 8 4, spareFrames := fld reg 12 4,
                admCtr := fld reg 16 4, maxSeq := fld reg 20 4, admBytes := fld reg 24 4 }
          | _, _, _, _, _, _, _ => none
      | _, _, _, _, _, _ => none

/-- The load manifest after a binary of `n` bytes (R403); `me` is the loading device. None where it is not consistent. -/
def parseManifest (b : List Byte) (n l m me : Nat) : Option Manifest :=
  let x := b.drop n
  let ms := (List.range m).map (fun i => fld x (24 + i) 1)
  let hs := (List.range l).map (fun i => fld x (24 + m + i) 1)
  if x.length < 24 + m + l ∨ fld x 0 8 ≠ n ∨ ms.dedup.length ≠ m ∨ ms.any (fun d => decide (128 ≤ d)) ∨ hs.any (fun h => decide (m ≤ h)) ∨
      !(List.range m).all (fun i => hs.contains i) ∨ !ms.contains me then none
  else some ⟨(x.drop 8).take 16, ms, hs⟩

/-- Read the image area: the binary, whose length the area's size, L and M give (the manifest ends the image), and the manifest. -/
def parseImage (b : List Byte) (me : Nat) : Option (Prog × Manifest) :=
  let l := fld b 0xA 2
  let m := fld b 0xC 2
  let n := b.length - (24 + m + l)
  match parseProg (b.take n), parseManifest b n l m me with
  | some p, some k => some (p, k)
  | _, _ => none

end Sys2Proof.Machine
end

