-- ==== Sys2Proof/Machine/Place.lean ====
section
/-! DEFINITION. Checking a program against the device and placing it (R141, R147, R166, R177, R180, R277, R355, R403 to R406, R450, R451). -/

namespace Sys2Proof.Machine

/-! ### What the device has to give -/

/-- The cores that are fenced. -/
def State.fencedCores (s : State) : List Nat := (List.range 128).filter (fun c => s.fencedCore c)

/-- The schedule record for a count of hosted shards and a set of fenced cores (R404): none for two or more fenced cores. -/
def Prog.schedFor (p : Prog) (h : Nat) (fenced : List Nat) : Option Nat :=
  match fenced with
  | [] => p.scheds.findIdx? (fun d => decide (d.h = h ∧ d.fenced = 0xFF))
  | [c] => p.scheds.findIdx? (fun d => decide (d.h = h ∧ d.fenced = c))
  | _ => none

/-- The shards that a device hosts under a manifest. -/
def Manifest.shardsOf (m : Manifest) (dev : Nat) : List Nat :=
  (List.range m.hosts.length).filter (fun i => decide (m.members[(m.hosts.getD i 0)]? = some dev))

/-- The device that hosts a shard. -/
def Manifest.hostOf (m : Manifest) (shard : Nat) : Nat := m.members.getD (m.hosts.getD shard 0) 0

/-- The slots of all schedules of a program at a rotation (R147): die, channel and slot. -/
def Prog.slotSet (p : Prog) (rot : Nat) : List (Nat × Nat × Nat) :=
  ((p.scheds.flatMap (fun d => d.slots)).map (fun x => (x.die, x.channel, (x.slot + 64 * rot) % 256))).dedup

/-- The slots that the other loaded contexts own. -/
def State.takenSlots (s : State) (n : Nat) : List (Nat × Nat × Nat) :=
  (s.loadedCtxs.filter (fun k => decide (k ≠ n))).flatMap (fun k =>
    match (s.ctx k).job.prog with | some p => p.slotSet (s.ctx k).st.netRot | none => [])

/-- NET_CTRL.sched_max of a router. -/
def State.schedMax (s : State) (die : Nat) : Nat := s.regs.field (routerPage die) 0x80 7 0

/-- Whether the program's slots fit at a rotation. -/
def State.slotsFit (s : State) (n : Nat) (p : Prog) (rot : Nat) : Bool :=
  let mine := p.slotSet rot
  let taken := s.takenSlots n
  mine.all (fun x => !taken.contains x && decide (x.2.2 % 64 ≠ 63)) &&
  (mine.map (fun x => (x.1, x.2.1))).dedup.all (fun c =>
    decide (((mine ++ taken).filter (fun x => decide ((x.1, x.2.1) = c))).length ≤ s.schedMax c.1))

/-- The first rotation, in units of 64 slots, at which the slots fit (R147). -/
def State.rotation (s : State) (n : Nat) (p : Prog) : Option Nat := (List.range 4).find? (fun r => s.slotsFit n p r)

/-- A schedule names a core twice within one stage, or assigns one slot of one channel twice (R141). -/
def Sched.clash (d : Sched) : Bool :=
  let cores := d.stages.flatMap (fun g => ((List.range 8).filter (fun b => bitOf (g.getD 3 0) b)).map (fun b => (g.getD 0 0, g.getD 1 0, g.getD 2 0 * 8 + b)))
  decide (cores.dedup.length ≠ cores.length) || decide ((d.slots.map (fun x => (x.die, x.channel, x.slot))).dedup.length ≠ d.slots.length)

/-- The endpoints that a program's flows use: kind, core, endpoint. -/
def Prog.endpoints (p : Prog) : List (Nat × Nat × Nat) :=
  ((p.scheds.flatMap (fun d => d.flows)).filter (fun f => decide (f.kind = 1 ∨ f.kind = 2))).map (fun f => (f.kind, f.core, f.ep))

/-- Rings of a program on a die and their bytes: the most of any of its schedules. -/
def Prog.ringUse (p : Prog) (die : Nat) : Nat × Nat :=
  p.scheds.foldl (fun a d =>
    let r := d.rings.filter (fun g => decide (g.die = die))
    (max a.1 r.length, max a.2 ((r.map (fun g => 2 ^ g.lg)).foldl (· + ·) 0))) (0, 0)

/-- Whether endpoints, rings and stream partitions suffice beside the loaded contexts (R141, R153). -/
def State.streamsFit (s : State) (n : Nat) (p : Prog) : Bool :=
  let others := (s.loadedCtxs.filter (fun k => decide (k ≠ n))).filterMap (fun k => (s.ctx k).job.prog)
  p.endpoints.all (fun e => !others.any (fun q => q.endpoints.contains e)) &&
  (List.range 16).all (fun die =>
    let u : Nat × Nat := (p :: others).foldl (fun (a : Nat × Nat) q => (a.1 + (q.ringUse die).1, a.2 + (q.ringUse die).2)) (0, 0)
    decide (u.1 ≤ 64 ∧ u.2 ≤ 2 ^ 24))

/-- The lowest place of `size` in [0, total) beside taken intervals. -/
def lowestFit (total size : Nat) (taken : List (Nat × Nat)) : Option Nat :=
  (sortBy id (0 :: taken.map (fun x => x.1 + x.2))).find? (fun b => decide (b + size ≤ total) && taken.all (fun x => decide (x.1 + x.2 ≤ b ∨ b + size ≤ x.1 ∨ x.2 = 0)))

/-- Where the instruction window of a program goes on a core (R89): base in bytes. -/
def State.windowBase (s : State) (n core units : Nat) : Option Nat :=
  lowestFit 262144 (units * 4096) ((s.ctxs.filter (fun c => decide (c.1 ≠ n))).filterMap (fun c => tfind c.2.windows core))

/-- Counters that a program asks for on a die. -/
def Prog.ctrCount (p : Prog) (die : Nat) : Nat := (p.ctrs.filter (fun c => decide (c.die = die))).length

/-- Where the counter window of a program goes on a die (R166). -/
def State.ctrBase (s : State) (n die count : Nat) : Option Nat :=
  lowestFit 16384 count ((s.ctxs.filter (fun c => decide (c.1 ≠ n))).filterMap (fun c => tfind c.2.wins die))

/-- The home core of a declared queue: its declared core, or the lowest of its set (R277). -/
def QueueDecl.home (q : QueueDecl) : Nat := q.die * 8 + ((List.range 8).find? (fun b => bitOf q.mask b)).getD 0

/-- The queue IDs in use. -/
def State.usedIds (s : State) : List Nat := s.queues.map (·.1)

/-- The lowest free queue ID on a core. -/
def freeQid (used : List Nat) (core : Nat) : Option Nat := ((List.range 512).map (fun i => core * 512 + i)).find? (fun q => !used.contains q)

/-- IDs for the queues of a schedule, in order. -/
def assignQids : List QueueDecl → List Nat → Option (List Nat)
  | [], _ => some []
  | q :: qs, used =>
    match freeQid used q.home with
    | none => none
    | some i => (assignQids qs (i :: used)).map (i :: ·)

/-- The forward entries of a die that are free. -/
def State.freeFwds (s : State) (n die : Nat) : List Nat :=
  let used := (s.ctxs.filter (fun c => decide (c.1 ≠ n))).flatMap (fun c => tget [] c.2.fwds die)
  (List.range 1024).filter (fun i => !used.contains i)

/-- A counter of a program by its number. -/
def Prog.counter (p : Prog) (num : Nat) : Option CtrDecl := p.ctrs.find? (fun c => decide (c.die = num / 16384 ∧ c.index = num % 16384))

/-- The devices of a barrier. -/
def BarDecl.devices (b : BarDecl) (m : Manifest) : List Nat := b.members.map (fun x => m.members.getD x.member 0)
/-- The root of a barrier: the member with the lowest cabinet index (R181). -/
def BarDecl.root (b : BarDecl) (m : Manifest) : Nat := (b.devices m).foldl min 127

/-- The parent of a device toward the root of a barrier: the first device on its route to it that is a member of the job (assumption log 33). -/
def barParent (plan : Nat) (m : Manifest) (root d : Nat) : Option Nat :=
  if d = root then none
  else (((routeHops plan root 12 d).map (·.1)).drop 1 ++ [root]).find? (fun x => m.members.contains x)

/-- The devices that carry a node of a barrier: its members and the devices on their ways to the root. -/
def barNodes (plan : Nat) (m : Manifest) (b : BarDecl) : List Nat :=
  let go := fun (d : Nat) => (List.range 12).foldl (fun (l : List Nat) _ =>
    match l with
    | [] => []
    | x :: _ => match barParent plan m (b.root m) x with | some y => y :: l | none => l) [d]
  ((b.devices m).flatMap go).dedup

/-- Barrier nodes that a program needs on a device. -/
def Prog.nodesOn (p : Prog) (plan : Nat) (m : Manifest) (d : Nat) : List BarDecl := p.barriers.filter (fun b => (barNodes plan m b).contains d)

/-- Barriers whose own arrival counter is not ADD, or release counter not MAX, on this device (R180). -/
def Prog.barModes (p : Prog) (m : Manifest) (d : Nat) : Bool :=
  p.barriers.all (fun b => b.members.all (fun x => decide (m.members.getD x.member 0 ≠ d) ||
    ((match p.counter x.arrCtr with | some c => decide (c.mode = 0) | none => false) && (match p.counter x.relCtr with | some c => decide (c.mode = 1) | none => false))))

/-- A shared region with this ID and weights digest is current on the device (R221). -/
def State.sharedHere (s : State) (r : RegionDecl) : Bool :=
  match s.region r.id with
  | some g => g.shared && r.shared && decide (g.slot g.cur = 2 ∧ g.digests.getD g.cur [] = r.digest)
  | none => false

/-- Frames that a load allocates beside the image area (R195). -/
def Prog.frames (p : Prog) (hosted : List Nat) (d : Sched) (members : Nat) : Nat :=
  hosted.length * versionFrames 1 p.shardBytes +
  ((p.regions.filter (fun r => !r.shared)).map (fun r => versionFrames r.win r.size * (if r.commitPub then 2 else 1))).foldl (· + ·) 0 +
  d.queues.length + d.cqs.length + (p.replay.map (·.2)).foldl (· + ·) 0 + versionFrames 1 p.admBytes + (if 1 < members then p.mirrorFrames + p.spareFrames else 0)

/-- Checks 2 to 5 of Table 17.3: profile, lane geometry, strict mode, sequence length; 0 where they pass. -/
def State.checkProfile (s : State) (p : Prog) : Nat := if p.profile = 2 ∧ !s.root.b0 then 1 else if p.profile ≠ 1 ∧ p.profile ≠ 2 then 2 else 0
def Prog.checkLanes (p : Prog) : Nat := if p.arrays = 4 ∧ p.lanes = 128 then 0 else 3
def State.checkStrict (s : State) (p : Prog) : Nat := if s.regs.strictActive ∧ p.features ≠ 0 then 5 else 0
def Prog.checkLength (p : Prog) : Nat := if p.maxLen ≤ 262144 then 0 else 7

/-- Check 6 of Table 17.3: L, members present (R397), partition within quota. -/
def State.checkPlace (s : State) (n : Nat) (p : Prog) (m : Manifest) : Nat :=
  let hosted := m.shardsOf s.cab
  let d := (p.scheds.find? (fun d => decide (d.h = hosted.length))).getD ⟨0, 0, 0, [], [], [], [], [], [], []⟩
  if 4096 < p.shards ∨ m.members.any (fun x => decide (x ≠ s.cab) && !s.care.present.contains x) ∨
      s.quota n < (s.partition n).length + p.frames hosted d p.members then 6 else 0

/-- Check 7 of Table 17.3: the resources of R141. -/
def State.checkResources (s : State) (n : Nat) (p : Prog) (m : Manifest) : Nat :=
  let hosted := m.shardsOf s.cab
  match p.schedFor hosted.length s.fencedCores with
  | none => 9
  | some k =>
    let d := p.scheds.getD k ⟨0, 0, 0, [], [], [], [], [], [], []⟩
    let nodes := (p.nodesOn s.plan m s.cab).length
    let others := p.members - 1
    let ok :=
      p.scheds.all (fun d => !d.clash) && (s.rotation n p).isSome && s.streamsFit n p &&
      p.windows.all (fun w => (s.windowBase n w.1 w.2.1).isSome) &&
      (List.range 16).all (fun die => decide (p.ctrCount die = 0) || (s.ctrBase n die (p.ctrCount die)).isSome) &&
      (assignQids d.queues s.usedIds).isSome &&
      decide (s.bars.length + nodes ≤ 512 ∧ nodes ≤ 32) && p.barModes m s.cab &&
      (List.range 16).all (fun die => decide ((p.forwards.filter (fun f => decide (f.die = die))).length ≤ (s.freeFwds n die).length)) &&
      p.ctrs.all (fun c => match c.proxy with | some i => decide (i < (p.forwards.filter (fun f => decide (f.die = c.die))).length) | none => true) &&
      p.regions.all (fun r => (s.region r.id).isNone || s.sharedHere r) &&
      s.loadedCtxs.all (fun k => decide (k = n) || (match (s.ctx k).job.man with | some x => decide (x.jobId ≠ m.jobId) | none => true)) &&
      stackPages.all (fun g => decide (2 + 2 * others ≤ s.aclRoom g 0)) && dieCachePages.all (fun g => decide (others ≤ s.aclRoom g 0)) &&
      syncPages.all (fun g => decide (1 + others ≤ s.aclRoom g 0)) && (List.range 8).all (fun q => decide (others ≤ s.aclRoom 3 q)) && decide (1 ≤ s.aclRoom 1 0)
    if ok then 0 else 9

/-- Check 8 of Table 17.3: a common descriptor version (R279). -/
def Prog.checkDesc (p : Prog) : Nat := if bitOf p.descVers 1 then 0 else 0xA

/-- The first code that is not 0. -/
def firstCode (l : List Nat) : Nat := (l.find? (fun c => decide (c ≠ 0))).getD 0

/-- The checks of LOAD after the first, in the order of Table 17.3. -/
def State.loadChecks (s : State) (n : Nat) (p : Prog) (m : Manifest) : Nat :=
  firstCode [s.checkProfile p, p.checkLanes, s.checkStrict p, p.checkLength, s.checkPlace n p m, s.checkResources n p m, p.checkDesc]

/-! ### Placing -/

/-- Allocate a run of frames for a context: the first frame. -/
def State.allocRun (s : State) (owner : Nat) (shared : Bool) (mir : Option Nat) (k : Nat) : Option (State × Nat) :=
  (s.findRun k).map (fun f => (s.modFrames (framesFrom f k) (fun _ => frameEntry owner shared mir) |>.followPartition owner, f))

/-- Allocate the memory of each hosted shard (R401, R233). -/
def State.placeShards (s : State) (n : Nat) (p : Prog) : List Nat → Option State
  | [] => some s
  | i :: is =>
    match s.allocRun n false none (versionFrames 1 p.shardBytes) with
    | none => none
    | some (s', f) => State.placeShards (s'.modCtx n (fun c => { c with shards := tset c.shards i ⟨0, p.streams.getD i 0, runAddr 1 0 f⟩ })) n p is

/-- The entry of a region as its declaration gives it, with no version. -/
def Region.declare (r : RegionDecl) (owner stack : Nat) : Region :=
  { version := 0, bases := [0, 0, 0], size := r.size, owner := owner, cacheable := r.cacheable, commitPub := r.commitPub, shared := r.shared, win := r.win, stack := stack, pend := 3,
    cur := 0, states := [0, 0, 0], digests := [[], [], []], mapped := if r.shared then [owner] else [], mirrored := r.mirrored, modelState := r.modelState, shard := r.shard,
    publishing := false }

/-- A shared region under another ID whose current version has the declared digest, size and window (R221): its version is mapped and nothing is copied. -/
def State.sharedTwin (s : State) (r : RegionDecl) : Option Region :=
  if !r.shared then none
  else (s.regions.find? (fun g => g.2.shared && decide (g.1 ≠ r.id ∧ g.2.slot g.2.cur = 2 ∧ g.2.digests.getD g.2.cur [] = r.digest ∧ g.2.size = r.size ∧ g.2.win = r.win ∧ g.2.cacheable = r.cacheable))).map (·.2)

/-- The entry of a declared shared region over the current version of its twin. -/
def Region.onTwin (g t : Region) : Region :=
  { g with stack := t.stack, cur := 0, states := [2, 0, 0], bases := [t.base t.cur, 0, 0], digests := [t.digests.getD t.cur [], [], []] }

/-- Create the entries of the declared regions, of whichever shard (R450, R195, R221; assumption log 61): a private one with version 0 current in slot 0, over zeroed frames; a shared one is mapped where it is current, else it gets a
pending version to be fetched. -/
def State.placeRegions (s : State) (n : Nat) : List RegionDecl → Option State
  | [] => some s
  | r :: rs =>
    if s.sharedHere r then
      match s.region r.id with
      | some g => State.placeRegions ((s.setRegion r.id { g with mapped := g.mapped ++ [n] }).modCtx n (fun c => { c with job := { c.job with sources := tset c.job.sources r.id 0 } })) n rs
      | none => none
    else
      match s.sharedTwin r with
      | some t => State.placeRegions ((s.setRegion r.id ((Region.declare r n 0).onTwin t)).modCtx n (fun c => { c with job := { c.job with sources := tset c.job.sources r.id 0 } })) n rs
      | none =>
      let g := Region.declare r n (s.freeVal 16)
      let s := if r.win = 0 then s.drawn 1 else s
      match (s.setRegion r.id g).openVersion r.id with
      | none => none
      | some s =>
        if r.shared then
          State.placeRegions (s.modCtx n (fun c => { c with job := { c.job with awaited := c.job.awaited ++ [r.id], sources := tset c.job.sources r.id 1 } })) n rs
        else
          let s := s.publish r.id
          let s := match s.region r.id with | some g => s.setRegion r.id { g with version := 0 } | none => s
          State.placeRegions s n rs

/-- Give each declared queue its ID and its ring (R277, R278, R279). -/
def State.placeQueues (s : State) (n : Nat) : List (Nat × QueueDecl) → Option State
  | [] => some s
  | (i, q) :: qs =>
    match s.allocRun n false none 1 with
    | none => none
    | some (s', f) =>
      let e : Queue := { ctx := n, base := runAddr 1 0 f, lg := q.lg, head := 0, tail := 0, mask := q.mask, step := q.step, descVer := 1, paused := false, running := [], stall := 0,
                         stallLimit := 0, stepHead := 0 }
      let s' : State := { s' with queues := tset s'.queues i e }
      State.placeQueues (s'.modCtx n (fun c => { c with job := { c.job with qids := c.job.qids ++ [i] } })) n qs

/-- The collective engine of a link die for a queue index: index mod 4, or the next that is not fenced (R234, R306). -/
def State.ceOf (s : State) (ld i : Nat) : Nat :=
  ((List.range 4).map (fun k => ld * 4 + (i + k) % 4)).find? (fun e => !s.care.fencedCe.contains e) |>.getD (ld * 4 + i % 4)

/-- Give each declared collective queue its ring and engine (R234). -/
def State.placeCqs (s : State) (n : Nat) : List CqDecl → Option State
  | [] => some s
  | q :: qs =>
    match s.allocRun n false none 1 with
    | none => none
    | some (s', f) =>
      let e : Cq := { engine := s.ceOf q.linkDie q.index, linkDie := q.linkDie, base := runAddr 1 0 f, lg := q.lg, head := 0, tail := 0, run := none, again := false, early := [], notes := [], stall := 0, stallLimit := 0,
                      stepHead := 0 }
      State.placeCqs (s'.modCtx n (fun c => { c with cqs := tset c.cqs q.index e })) n qs

/-- Replay areas on the stacks of their dies (R310). -/
def State.placeReplay (s : State) (n : Nat) : List (Nat × Nat) → Option State
  | [] => some s
  | x :: xs =>
    match s.allocRun n false none x.2 with
    | none => none
    | some (s', f) => State.placeReplay (s'.modCtx n (fun c => { c with mem := { c.mem with replayArea := tset c.mem.replayArea x.1 (runAddr 0 x.1 f, x.2 * 65536) } })) n xs

/-- The admission buffer (R300), where one is declared. -/
def State.placeAdm (s : State) (n bytes : Nat) : Option State :=
  if bytes = 0 then some s
  else (s.allocRun n false none (versionFrames 1 bytes)).map (fun x => x.1.modCtx n (fun c => { c with mem := { c.mem with admBuf := runAddr 1 0 x.2 } }))

/-- The mirror frames that this device holds as a buddy (R329); `mirrorSrc` is the member that has it as buddy0, the one before it in manifest order (assumption log 34). -/
def State.placeMirror (s : State) (n : Nat) (p : Prog) (m : Manifest) : Option State :=
  let frames := p.mirrorFrames + p.spareFrames
  if p.members ≤ 1 ∨ frames = 0 then some s
  else (s.allocRun n false none frames).map (fun x => x.1.modCtx n (fun c => { c with job := { c.job with
    mirrorSrc := m.members.getD ((m.members.idxOf s.cab + p.members - 1) % p.members) 0, mirrorOf := framesFrom x.2 frames } }))

/-- Place the forward entries of a die: the lowest free ones, in the program's order. -/
def State.placeFwds (s : State) (n : Nat) (p : Prog) : State :=
  (List.range 16).foldl (fun s die =>
    let k := (p.forwards.filter (fun f => decide (f.die = die))).length
    if k = 0 then s else s.modCtx n (fun c => { c with fwds := tset c.fwds die ((s.freeFwds n die).take k) })) s

/-- Place the counter windows and set every counter to 0 with its mode and proxy flag (R166, R167). -/
def State.placeCtrs (s : State) (n : Nat) (p : Prog) : State :=
  (List.range 16).foldl (fun s die =>
    let k := p.ctrCount die
    if k = 0 then s
    else
      let b := (s.ctrBase n die k).getD 0
      let s := s.modCtx n (fun c => { c with wins := tset c.wins die (b, k) })
      (p.ctrs.filter (fun c => decide (c.die = die))).foldl (fun s c =>
        let fw := match c.proxy with | some i => (tget [] (s.ctx n).fwds die).getD i 0 | none => 0
        s.setCtr (die * 16384 + b + c.index) { Counter.zero with mode := c.mode, proxy := c.proxy.isSome, fwd := fw }) s) s

/-- Write the forward entries of a context whose target member is a given device with a known context (R177). -/
def State.writeFwds (s : State) (n dev ctx : Nat) : State :=
  match (s.ctx n).job.prog, (s.ctx n).job.man with
  | some p, some m =>
    p.forwards.foldl (fun s f =>
      if m.hostOf f.shard ≠ dev then s
      else match (tget [] (s.ctx n).fwds f.die)[f.index]? with
        | some i => { s with fwds := tset s.fwds (f.die * 1024 + i) ⟨f.ctr, ctx, dev⟩ }
        | none => s) s
  | _, _ => s

/-- The barrier nodes of a context on this device (R180, R181). -/
def State.placeBars (s : State) (n : Nat) (p : Prog) (m : Manifest) : State :=
  (p.nodesOn s.plan m s.cab).foldl (fun s b =>
    let me := b.members.find? (fun x => decide (m.members.getD x.member 0 = s.cab))
    let kids := (barNodes s.plan m b).filter (fun d => decide (barParent s.plan m (b.root m) d = some s.cab))
    let node : BarNode := { ctx := n, barrier := b.id, ld := n % 3, member := me.isSome, arrStep := (me.map (·.arrStep)).getD 0, arrCtr := (me.map (·.arrCtr)).getD 0,
                            relCtr := (me.map (·.relCtr)).getD 0, parent := barParent s.plan m (b.root m) s.cab, children := kids, childGen := [], reported := 0, released := 0 }
    { s with bars := tset s.bars (barKey n b.id) node }) s

/-- Place the instruction windows and copy their images; the rest of a window is zero (R89, R452). -/
def State.placeWindows (s : State) (n : Nat) (p : Prog) : State :=
  p.windows.foldl (fun s w =>
    let b := (s.windowBase n w.1 w.2.1).getD 0
    let k := s.core w.1
    let img := w.2.2 ++ List.replicate (w.2.1 * 4096 - w.2.2.length) 0
    (s.setCore w.1 { k with imem := tputBytes k.imem b img }).modCtx n (fun c => { c with windows := tset c.windows w.1 (b, w.2.1 * 4096) })) s

/-- The slots and rings of the schedule in effect (R146, R153). -/
def State.placeSched (s : State) (n : Nat) (d : Sched) : State :=
  let rot := (s.ctx n).st.netRot
  let s := d.slots.foldl (fun s x => s.setSlotEntry x.die x.channel ((x.slot + 64 * rot) % 256) (1 + n * 4 + x.flow * 256)) s
  let rings := d.rings.foldl (fun t r =>
    tset t (ringKey n r.ring) { ctx := n, die := r.die, cap := 2 ^ r.lg, base := 0, bytes := [], core := r.core, ep := r.ep
                                readers := ((List.range 8).filter (fun b => bitOf r.readers b)).map (fun b => (b, 0)) }) s.net.rings
  { s with net := { s.net with rings := rings } }

/-- step_pred of a schedule in local time units (R110). -/
def Sched.pred (d : Sched) : Nat := d.stepPred / 12

/-- Everything of a checked program takes its place; none where memory runs out. -/
def State.placeProg (s : State) (n : Nat) (p : Prog) (m : Manifest) (k rot : Nat) : Option State :=
  let hosted := m.shardsOf s.cab
  let d := p.scheds.getD k ⟨0, 0, 0, [], [], [], [], [], [], []⟩
  let s := s.modCtx n (fun c => { c with
    job := { CtxJob.reset with prog := some p, man := some m, sched := k, loadedFresh := true, gen := 0, committed := 2 ^ 64 - 1 }
    st := { CtxStep.reset with stepPred := d.pred, netRot := rot } })
  match s.placeShards n p hosted with
  | none => none
  | some s =>
    match s.placeRegions n p.regions with
    | none => none
    | some s =>
      match s.placeQueues n (List.zip ((assignQids d.queues s.usedIds).getD []) d.queues) with
      | none => none
      | some s =>
        match s.placeCqs n d.cqs with
        | none => none
        | some s =>
          match s.placeReplay n p.replay with
          | none => none
          | some s =>
            match s.placeAdm n p.admBytes with
            | none => none
            | some s =>
              (s.placeMirror n p m).map (fun s =>
                let s := ((((s.placeFwds n p).placeCtrs n p).placeBars n p m).placeWindows n p).placeSched n d
                ((s.writeFwds n s.cab n).grantLocal n))

end Sys2Proof.Machine
end

