-- ==== Sys2Proof/Machine/RestartOps.lean ====
section
/-! DEFINITION. Returning a context to its last committed step, and switching its schedule (R157, R184, R319, R323). -/

namespace Sys2Proof.Machine

/-- The flows, rings and endpoints of a context hold nothing (R157). -/
def State.streamsEmpty (s : State) (n : Nat) : Option Nat :=
  let d := (s.ctx n).schedule
  let flows := match d with | some d => d.flows | none => []
  let bad := flows.find? (fun f =>
    (decide (f.kind = 1) && !(tget [] (s.core f.core).outEps f.ep).isEmpty) || (decide (f.kind = 2) && !(tget [] (s.core f.core).inEps f.ep).isEmpty) ||
    !(tget [] s.net.txq (flowKey n f.flow)).isEmpty || !(tget [] s.net.rxq (flowKey n f.flow)).isEmpty || !(tget [] s.net.arrived (flowKey n f.flow)).isEmpty ||
    s.net.flits.any (fun x => decide (x.ctx = n ∧ x.flow = f.flow)))
  match s.net.rings.find? (fun g => decide (g.1 / 256 = n) && !g.2.bytes.isEmpty) with
  | some g => some (g.1 % 256)
  | none => bad.map (·.ring)

/-- Empty the streams of a context, for the re-run of a step (assumption log 35). -/
def State.clearStreams (s : State) (n : Nat) : State :=
  let flows := match (s.ctx n).schedule with | some d => d.flows | none => []
  let s := flows.foldl (fun s f =>
    let k := s.core f.core
    if f.kind = 1 then s.setCore f.core { k with outEps := tput [] k.outEps f.ep [] }
    else if f.kind = 2 then s.setCore f.core { k with inEps := tput [] k.inEps f.ep [] }
    else s) s
  let mine := fun (k : Nat) => decide (k / 4096 = n)
  let s := (s.ports.inq.filter (fun x => mine x.1)).foldl (fun s x => s.written n (x.1 % 4096) ((x.2.map (·.2.2)).foldl (· + ·) 0)) s
  let s : State := { s with ports := { s.ports with
    slots := s.ports.slots.filter (fun x => decide (x.2.ctx ≠ n)),
    away := s.ports.away.map (fun (x : Nat × List SlotOut) => if x.1 % 128 = n then (x.1, x.2.map (fun o => { o with flow := 4096, bytes := 0 })) else x) } }
  { s with net := { s.net with
      rings := s.net.rings.map (fun (g : Nat × RingSt) => if g.1 / 256 = n then (g.1, { g.2 with base := 0, bytes := [], readers := g.2.readers.map (fun r => (r.1, 0)) }) else g)
      flits := s.net.flits.filter (fun f => decide (f.ctx ≠ n)), txq := s.net.txq.filter (fun x => !mine x.1), rxq := s.net.rxq.filter (fun x => !mine x.1)
      arrived := s.net.arrived.filter (fun x => !mine x.1), used := s.net.used.filter (fun x => !mine x.1), owed := s.net.owed.filter (fun x => !mine x.1) } }

/-- Barrier nodes of a context take the generation of the restored counters. -/
def State.resetBars (s : State) (n : Nat) : State :=
  let fix := fun (b : BarNode) =>
    let v := fun num => match s.deviceCtr n num with | some k => (s.ctr k).value | none => 0
    if b.member then { b with childGen := [], reported := v b.arrCtr / b.arrStep, released := v b.relCtr } else { b with childGen := [], reported := 0, released := 0 }
  { s with bars := s.bars.map (fun (b : Nat × BarNode) => if b.2.ctx = n then (b.1, fix b.2) else b) }

/-- Each commit_pub region of a context opens its pending version (R219); false where one finds no free slot, no room or no quota. -/
def State.openCommitPub (s : State) (n : Nat) : State × Bool :=
  (s.ownRegions n).foldl (fun (a : State × Bool) r =>
    match a.1.region r with
    | none => a
    | some g =>
      if !g.commitPub ∨ g.pend < 3 then a
      else if a.1.quota n < (a.1.partition n).length + versionFrames g.win g.size then (a.1, false)
      else match a.1.openVersion r with
        | some s' => (s', a.2)
        | none => (a.1, false)) (s, true)

/-- The committed state comes back (R319, step 3): versions opened since the committed boundary are discarded, commit_pub regions open new ones, the counters take their snapshot, the flag
words clear, CTX_STEP is the committed step plus 1, and the queues stand where they stood at the boundary. Replays of the attempt that is given up are given up with it (R314). -/
def State.restoreState (s : State) (n : Nat) : State :=
  let s := ((s.ownRegions n).filter (fun r => !((s.ctx n).mem.pendAt.any (fun p => decide (p.1 = r) && (s.pendingNow n).contains p)))).foldl (fun s r => s.discardPending r) s
  let s := (s.openCommitPub n).1
  let mine := fun (k : Nat) => decide (s.ctrOwner k = some n)
  let s := { s with sigs := s.sigs.filter (fun g => !mine g.ctr), notices := s.notices.filter (fun x => !mine x.2.1), known := s.known.filter (fun x => !mine (x.1 % 2 ^ 18)) }
  let s : State := { s with care := { s.care with replays := s.care.replays.filter (fun r => decide (r.task.ctx ≠ n)) } }
  let s := (s.writeCounters (s.ctx n).mem.snapshot).clearStreams n
  let s := s.resetBars n
  let s := { s with queues := s.queues.map (fun (q : Nat × Queue) =>
    if q.2.ctx = n then (q.1, { q.2 with head := q.2.stepHead, paused := false, running := [], stall := 0 }) else q) }
  s.modCtx n (fun c => { c with
    shards := c.shards.map (fun h => (h.1, { h.2 with flags := 0 }))
    cqs := c.cqs.map (fun q => (q.1, { q.2 with head := q.2.stepHead, run := none, again := false, early := [], notes := [], stall := 0 }))
    mem := { c.mem with hashes := [] }
    st := { c.st with step := (c.job.committed + 1) % 2 ^ 64, firstAt := none, yieldedSum := 0, external := false, hold := 0 }
    job := { c.job with recWritten := false, reported := false, released := false, reports := [] } })

/-- The queues of a new schedule take the rings of the old one's, index by index (assumption log 36); a queue keeps its ID while its home core stays. -/
def State.switchQueues (s : State) (n : Nat) (new : Sched) : State :=
  let olds := (s.ctx n).job.qids.map (fun i => (i, s.queue i))
  let s0 : State := { s with queues := s.queues.filter (fun q => decide (q.2.ctx ≠ n)) }
  let r := (List.zip olds new.queues).foldl (fun (a : State × List Nat) x =>
    match x.1.2 with
    | none => a
    | some q =>
      let id := if x.1.1 / 512 = x.2.home then x.1.1 else (freeQid a.1.usedIds x.2.home).getD x.1.1
      ({ a.1 with queues := tset a.1.queues id { q with mask := x.2.mask, step := x.2.step } }, a.2 ++ [id])) (s0, [])
  r.1.modCtx n (fun c => { c with job := { c.job with qids := r.2 } })

/-- The schedule record in effect changes (R140, R323): slots, rings and queues of the new record, and its step_pred. -/
def State.loadSched (s : State) (n k : Nat) : State :=
  match (s.ctx n).job.prog, (s.ctx n).schedule with
  | some p, some _ =>
    match p.scheds[k]? with
    | none => s
    | some d =>
      let s := (s.releaseNet n).releaseSlots n
      let s := s.switchQueues n d
      let s := s.modCtx n (fun c => { c with job := { c.job with sched := k }, st := { c.st with stepPred := d.pred } })
      s.placeSched n d
  | _, _ => s

/-- The schedule that a context's present hardware requires (R323): for its hosted shards and the device's fenced cores. -/
def State.neededSched (s : State) (n : Nat) : Option Nat :=
  match (s.ctx n).job.prog with
  | some p => p.schedFor (s.ctx n).shards.length s.fencedCores
  | none => none

/-- The schedule of a context without one core as well. -/
def State.schedWithout (s : State) (n core : Nat) : Option Nat :=
  match (s.ctx n).job.prog with
  | some p => p.schedFor (s.ctx n).shards.length (core :: s.fencedCores)
  | none => none

/-- The schedule that a context is to use from its next boundary on: without the core of an in-field test while one is prepared or runs (R338), else that of the present hardware. -/
def State.wantedSched (s : State) (n : Nat) : Option Nat := if s.care.iftPhase = 0 then s.neededSched n else s.schedWithout n s.care.iftCand

end Sys2Proof.Machine
end

