-- ==== Sys2Proof/Machine/Load.lean ====
section
/-! DEFINITION. Loading and restoring contexts, shared regions and announcements (R195, R221, R297, R406, R407, R451). -/

namespace Sys2Proof.Machine

/-- LOAD_BEGIN (R195): zeroed frames for the image area. -/
def execLoadBegin (master ctx tag : Nat) (args : List Nat) (s : State) : Host.Outcome State Fault Refusal :=
  .next (s.command master ctx 0x01 tag args (fun s =>
    let s := s.sawFn master
    let size := s.arg ctx 0
    if (s.ctx ctx).state ≠ 0 then s.cmdDone ctx 0x41 none
    else if size = 0 then s.cmdDone ctx 0x43 none
    else
      let s := s.freeImage ctx
      let k := versionFrames 1 size
      if s.quota ctx < k then s.cmdDone ctx 0x06 none
      else match s.allocRun ctx false none k with
        | none => s.cmdDone ctx 0x06 none
        | some (s, f) =>
          (s.modCtx ctx (fun c => { c with mem := { c.mem with image := some (runAddr 1 0 f, size), imageDone := false } })).cmdDone ctx 0 (some (runAddr 1 0 f))))

/-- The load or restore of a context is refused: it returns its code, and nothing else changes (R28). -/
def State.refuseLoad (s : State) (n code : Nat) : State :=
  (s.modCtx n (fun c => { c with mem := { c.mem with imageDone := true } })).cmdDone n code none

/-- The load report (R407), in the model's own layout (assumption log 37): schedule and rotation, window bases, the cores that lack a record, shared regions and sources, shard bases, admission
buffer. -/
def State.loadReport (s : State) (n : Nat) : List Byte :=
  let c := s.ctx n
  match c.job.prog with
  | none => []
  | some p =>
    let lack := ((List.range 128).filter (fun k => (p.schedFor c.shards.length [k]).isNone)).foldl (fun a k => a + 2 ^ k) 0
    leBytes 2 c.job.sched ++ leBytes 2 c.st.netRot ++
    (List.range 16).flatMap (fun d => leBytes 2 (tget (0, 0) c.wins d).1 ++ leBytes 2 (tget (0, 0) c.wins d).2) ++ leBytes 16 lack ++
    leBytes 4 c.job.sources.length ++ c.job.sources.flatMap (fun x => leBytes 2 x.1 ++ leBytes 2 x.2) ++
    leBytes 4 c.shards.length ++ c.shards.flatMap (fun h => leBytes 4 h.1 ++ leBytes 8 h.2.base) ++ leBytes 8 c.mem.admBuf

/-- The announcement of this member to another (R451). -/
def State.announce (s : State) (n d : Nat) (answer : Bool) : State :=
  match (s.ctx n).job.man with
  | none => s
  | some m => s.send (.mgmt d msgAnnounce ([b2n answer, s.cab, n] ++ m.jobId.map (·.toNat)))

/-- A load or restore succeeds: the context is STOPPED, the report is written, the command completes, and the other members are told; an abort notice that waited is acted upon (R320, R406,
R407, R451). -/
def State.finishLoad (s : State) (n : Nat) : State :=
  let a := match (s.ctx n).mem.image with | some x => x.1 | none => 0
  let s := s.devWrite n a ((s.loadReport n).take 4096)
  let s := s.modCtx n (fun c => { c with state := 5, errStop := false, mem := { c.mem with imageDone := true } })
  let s := { s with arbs := s.arbs.map (fun (a : Nat × Arb) => (a.1, { a.2 with lastQ := tdel a.2.lastQ n })) }
  let s := s.cmdDone n 0 (some a)
  (s.peersOf n).foldl (fun s d => s.announce n d false) s

/-- A checked program takes its place; the load ends at once where every shared region is current, else it waits for them. -/
def State.startLoad (s : State) (n : Nat) (p : Prog) (m : Manifest) (after : State → State) : State :=
  match p.schedFor (m.shardsOf s.cab).length s.fencedCores, s.rotation n p with
  | some k, some rot =>
    match s.placeProg n p m k rot with
    | none => s.refuseLoad n 0x06
    | some s =>
      let s := after (s.modCtx n (fun c => { c with state := 1, errStop := false }))
      let aw := (s.ctx n).job.awaited
      if aw.isEmpty then s.finishLoad n
      else (p.regions.filter (fun r => aw.contains r.id)).foldl (fun s r => s.askHolders r.id r.digest) s
  | _, _ => s.refuseLoad n 0x09

/-- The program and manifest of the image area. -/
def State.image (s : State) (n : Nat) : Option (Prog × Manifest) :=
  match (s.ctx n).mem.image with
  | none => none
  | some (a, len) => if s.devBad a len then none else parseImage (s.devRead a len) s.cab

/-- LOAD (R406): the checks of Table 17.3, then placing. -/
def execLoad (master ctx tag : Nat) (args : List Nat) (s : State) : Host.Outcome State Fault Refusal :=
  .next (s.command master ctx 0x02 tag args (fun s =>
    if (s.ctx ctx).state ≠ 0 ∨ (s.ctx ctx).mem.image = none then s.cmdDone ctx 0x41 none
    else match s.image ctx with
      | none => s.refuseLoad ctx 0x04
      | some (p, m) =>
        let code := s.loadChecks ctx p m
        if code ≠ 0 then s.refuseLoad ctx code else s.startLoad ctx p m id))

/-! ### Restore (R297) -/

/-- What a save record holds of use to a restore. -/
structure SaveRec where
  lanes : Nat
  arrays : Nat
  plan : List Byte
  seed : List Byte
  committed : Nat
  gen : Nat
  wins : List (Nat × List (Nat × Nat))
  shards : List (Nat × Nat × List Nat)
  deriving DecidableEq, Repr

/-- The length of the save record of a program for hosted shards. -/
def Prog.saveLength (p : Prog) (hosted : Nat) : Nat :=
  128 + (((List.range 16).filter (fun d => decide (p.ctrCount d ≠ 0))).map (fun d => 4 + 9 * p.ctrCount d)).foldl (· + ·) 0 + hosted * (6 + 4 * p.regions.length) + 32

/-- The windows of a save record from an offset on. -/
def parseWins (b : List Byte) : Nat → Nat → List (Nat × List (Nat × Nat)) × Nat
  | 0, o => ([], o)
  | k + 1, o =>
    let c := fld b (o + 2) 2
    let r := parseWins b k (o + 4 + 9 * c)
    ((fld b o 2, (List.range c).map (fun i => (fld b (o + 4 + 9 * i) 8, fld b (o + 12 + 9 * i) 1))) :: r.1, r.2)

/-- Read a save record; none where its version or closing digest is wrong. -/
def parseSave (b : List Byte) (windows regions : Nat) : Option SaveRec :=
  let body := b.take (b.length - 32)
  if b.length < 160 ∨ fld b 0 4 ≠ 1 ∨ sha256 body ≠ b.drop (b.length - 32) then none
  else
    let w := parseWins b windows 128
    let h := fld b 114 2
    some { lanes := fld b 4 2, arrays := fld b 6 1, plan := (b.drop 8).take 32, seed := (b.drop 72).take 32, committed := fld b 104 8, gen := fld b 116 2, wins := w.1
           shards := (List.range h).map (fun i =>
             let o := w.2 + i * (6 + 4 * regions)
             (fld b o 2, fld b (o + 2) 4, (List.range regions).map (fun j => fld b (o + 6 + 4 * j) 4))) }

/-- The length of a save record with a number of windows and of declared regions, as its own fields give it. -/
def saveLengthOf (b : List Byte) (windows regions : Nat) : Nat := (parseWins b windows 128).2 + fld b 114 2 * (6 + 4 * regions) + 32

/-- Read the save record at an address (R297): of the program's own shape, or else of whatever shape its closing digest proves, so that a record of another program or part reaches the check that names it
(assumption log 149). -/
def State.readSave (s : State) (a : Nat) (p : Prog) (hosted : Nat) : Option SaveRec :=
  let wins := ((List.range 16).filter (fun d => decide (p.ctrCount d ≠ 0))).length
  (parseSave (s.devRead a (p.saveLength hosted)) wins p.regions.length).orElse (fun _ =>
    (List.range 17).findSome? (fun w => (List.range 4096).findSome? (fun r =>
      parseSave (s.devRead a (saveLengthOf (s.devRead a (2 ^ 22)) w r)) w r)))

/-- The values of a save record for the windows of a context. -/
def SaveRec.values (r : SaveRec) (c : Ctx) : Tab (Nat × Nat) :=
  r.wins.flatMap (fun w => (List.zip (List.range w.2.length) w.2).map (fun x => (w.1 * 16384 + (tget (0, 0) c.wins w.1).1 + x.1, x.2)))

/-- The committed state of a save record enters a freshly placed context (R297). -/
def State.applySave (s : State) (n : Nat) (r : SaveRec) : State :=
  let s := s.writeCounters (r.values (s.ctx n))
  let s := s.resetBars n
  let ds := (s.ctx n).declared
  let s := r.shards.foldl (fun s h =>
    (List.zip ds h.2.2).foldl (fun s x => match s.region x.1.id with
      | some g => if g.shared then s else s.setRegion x.1.id { g with version := x.2 }
      | none => s) (s.modCtx n (fun c => match tfind c.shards h.1 with | some k => { c with shards := tset c.shards h.1 { k with stream := h.2.1 } } | none => c))) s
  s.modCtx n (fun c => { c with
    job := { c.job with gen := (r.gen + 1) % 2 ^ 16, committed := r.committed, seedDigest := some r.seed }
    st := { c.st with step := (r.committed + 1) % 2 ^ 64 } })

/-- RESTORE (R297): the checks in its own order, then placing, and the state of the record. -/
def execRestore (master ctx tag : Nat) (args : List Nat) (s : State) : Host.Outcome State Fault Refusal :=
  .next (s.command master ctx 0x03 tag args (fun s =>
    if (s.ctx ctx).state ≠ 0 ∨ (s.ctx ctx).mem.image = none then s.cmdDone ctx 0x41 none
    else match s.image ctx with
      | none => s.refuseLoad ctx 0x04
      | some (p, m) =>
        match s.readSave (s.arg ctx 0) p (m.shardsOf s.cab).length with
        | none => s.refuseLoad ctx 0x04
        | some r =>
          let code := firstCode [s.checkProfile p, if r.lanes = 128 ∧ r.arrays = 4 then p.checkLanes else 3, if r.plan = p.planDigest then 0 else 8, s.checkStrict p, p.checkLength,
            s.checkPlace ctx p m, s.checkResources ctx p m, p.checkDesc]
          if code ≠ 0 then s.refuseLoad ctx code else s.startLoad ctx p m (fun s => s.applySave ctx r)))

/-! ### Shared regions (R221, R326) -/

/-- The declared digest of a shared region, by any context that maps it. -/
def State.declaredDigest (s : State) (r : Nat) : Option (List Byte) :=
  s.ctxs.findSome? (fun c => (c.2.declared.find? (fun d => d.id = r ∧ d.shared)).map (·.digest))

/-- A fetched region whose digest checks is published, and loads that waited for it go on. -/
def State.sharedCurrent (s : State) (r source : Nat) : State :=
  let s := s.publish r
  let waiting := (s.ctxs.filter (fun c => c.2.job.awaited.contains r)).map (·.1)
  waiting.foldl (fun s n =>
    let s := s.modCtx n (fun c => { c with job := { c.job with awaited := c.job.awaited.filter (fun x => decide (x ≠ r)), sources := tset c.job.sources r source } })
    if (s.ctx n).job.awaited.isEmpty ∧ (s.ctx n).state = 1 then s.finishLoad n else s) s

/-- The holders of an answer list, nearest on the torus first, lowest cabinet index on ties (R221). -/
def State.nearest (s : State) (holders : List (Nat × List Byte)) : List (Nat × List Byte) :=
  let far := fun (d : Nat) => (routeHops s.plan d 12 s.cab).length
  (List.range 13).flatMap (fun n => sortBy (·.1) (holders.filter (fun x => decide (far x.1 = n))))

/-- The version assembled from holders: equal parts, one from each. -/
def assembled (size : Nat) (holders : List (Nat × List Byte)) : List Byte :=
  let part := ceilDiv size holders.length
  (holders.zipIdx.flatMap (fun x => (x.1.2.drop (x.2 * part)).take part)).take size

/-- The fetch of a shared region from up to four holders at a time, until an assembled version has the declared digest; each mismatch is recorded (R221). -/
def State.fetchShared (s : State) (ctx r : Nat) (g : Region) (dig : List Byte) : Nat → List (Nat × List Byte) → State
  | 0, _ => s.askHolders r dig
  | fuel + 1, holders =>
    if holders.isEmpty then s.askHolders r dig
    else
      let bytes := assembled g.size (holders.take 4)
      if versionDigest g.size bytes = dig then (s.devWrite ctx (g.base g.pend) bytes).sharedCurrent r 1
      else (s.record { s.mkRec 0x3A 0 with syndrome := (holders.headD (0, [])).1 % 128 + r * 65536 }).fetchShared ctx r g dig fuel (holders.drop 4)

/-- SHARED_REGION_FETCH_COMPLETE (R221): the devices that answered that they hold a shared region, each with its version's bytes as remote reads return them; where no device answered, the host's bytes. The assembled bytes
stand in the pending version once their digest checks. -/
def execSharedRegionFetchComplete (ctx region : Nat) (holders : List (Nat × List Byte)) (host : List Byte) (s : State) : Host.Outcome State Fault Refusal :=
  .next (match s.region region, s.declaredDigest region with
    | some g, some dig =>
      let others := s.nearest (holders.filter (fun x => decide (x.1 < 128 ∧ x.1 ≠ s.cab ∧ x.2.length = g.size)))
      if !g.shared ∨ 3 ≤ g.pend ∨ !g.mapped.contains ctx then s
      else if !others.isEmpty then s.fetchShared ctx region g dig others.length others
      else if host.length ≠ g.size then s
      else if versionDigest g.size host = dig then (s.devWrite ctx (g.base g.pend) host).sharedCurrent region 2
      else s.askHolders region dig
    | _, _ => s)

/-- REGION_HOLDER_QUERY (R221): another device asks for a current version with a weights digest; the answer says whether and where this device holds one. -/
def execRegionHolderQuery (asker : Nat) (digest : List Byte) (s : State) : Host.Outcome State Fault Refusal :=
  let hit := s.regions.find? (fun g => g.2.shared && decide (g.2.slot g.2.cur = 2 ∧ g.2.digests.getD g.2.cur [] = digest))
  .next (if !s.root.ready then s
    else match hit with
      | some g => s.send (.mgmt (asker % 128) msgHolderAnswer [s.cab, 1, g.1, g.2.base g.2.cur, g.2.size])
      | none => s.send (.mgmt (asker % 128) msgHolderAnswer [s.cab, 0]))

/-! ### Announcements (R451) -/

/-- MEMBER_ANNOUNCEMENT (R451): a member of the job announces its context: the entries that target it are written, and it gets this member's announcement in answer. -/
def execMemberAnnouncement (ctx : Nat) (m : AnnMsg) (s : State) : Host.Outcome State Fault Refusal :=
  .next (match (s.ctx ctx).job.man with
    | none => s
    | some k =>
      if 64 ≤ ctx ∨ 64 ≤ m.ctx ∨ k.jobId ≠ m.job ∨ !k.members.contains m.dev ∨ m.dev = s.cab ∨ (s.ctx ctx).state = 0 then s
      else
        let known := (tfind (s.ctx ctx).job.peers m.dev).isSome
        let s := s.modCtx ctx (fun c => { c with job := { c.job with peers := tset c.job.peers m.dev m.ctx } })
        let s := s.writeFwds ctx m.dev m.ctx
        let s := if known then s else s.grantMember ctx m.dev
        if m.answer then s else s.announce ctx m.dev true)

end Sys2Proof.Machine
end

