-- ==== Sys2Proof/Machine/Copies.lean ====
section
/-! DEFINITION. Copies, atomics and prefetches (R207 to R217). -/

namespace Sys2Proof.Machine

/-- ATOM (R212): a batch of atomic operations starts under its tag. -/
def execAtom (core : Nat) (w : W32) (s : State) : Host.Outcome State Fault Refusal :=
  .next (s.issueOp core 2 (isMS 5) issueAtom w)

/-- Fill a die's cache with a line of a stable frame (R202). -/
def State.cacheFill (s : State) (die stack off : Nat) : State :=
  let l := memKey stack (off / 64 * 64)
  if !feStable (s.frame (frameOf off)) ∨ s.care.cache.contains (die, l) then s
  else { s with care := { s.care with cache := s.care.cache ++ [(die, l)] } }

/-- Run-ahead after a miss (R206): lines in ascending order, ended by a line that would be refused, is in error, is not stable, or lies in a next page whose frame is not pref and stable. -/
def State.runAhead (s : State) (die master ctx page : Nat) : Nat → Nat → State
  | 0, _ => s
  | n + 1, a =>
    match s.decodeAddr a with
    | none => s
    | some (d, k, o) =>
      let e := s.frame (frameOf o)
      if d ≠ s.cab ∨ s.memCheck .r master ctx k o 64 ≠ none ∨ s.devBad (memKey k o) 64 ∨ !feStable e ∨ (a / 65536 ≠ page ∧ !fePref e) then s
      else State.runAhead (s.cacheFill die k o) die master ctx page n (a + 64)

/-- Lines of a prefetch that are not dropped enter the die cache (R211, R206): local, admitted, stable, and not in error (assumption log 137). -/
def State.prefetch (s : State) (die master ctx a n : Nat) : State :=
  (List.range n).foldl (fun s i =>
    match s.decodeAddr (a + 64 * i) with
    | some (d, k, o) =>
      if d = s.cab ∧ s.memCheck .r master ctx k o 64 = none ∧ !s.devBad (memKey k o) 64 then s.cacheFill die k o else s
    | none => s) s

/-- PREF (R211): lines of a stable page enter the die cache; the task does not wait. -/
def execPref (core : Nat) (w : W32) (s : State) : Host.Outcome State Fault Refusal :=
  let s' := s.issueOp core 2 (isMS 6) issuePref w
  .next (if (s.core core).slotIssued 2 ∨ !(s'.core core).slotIssued 2 then s'
    else match (s'.core core).run, fetchRecord (s'.core core) (s.env core) (bitsOf w.toNat 16 4) with
      | some t, some r =>
        (match prefRange (s'.core core) w r with
        | some (a, n) => s'.prefetch (core / 8) (s.copyMaster core) t.ctx (a / 64 * 64) n
        | none => s')
      | _, _ => s')

/-- CWAIT (R209): once its tag is free, the tag's status word to a scalar register. -/
def execCwait (core : Nat) (w : W32) (s : State) : Host.Outcome State Fault Refusal :=
  .next (s.issueOp core 2 (isMS 7) issueCwait w)

/-! ### Completion of a COPY (R210, R214, R215) -/

/-- Where a row lies: a device address, or an address of the scratchpad; or outside its region, with the region offset. -/
inductive RowAt where
  | dev (a : Nat)
  | spad (a : Nat)
  | outside (off : Nat)
  deriving DecidableEq, Repr

/-- The place of a row of kind `kind` at `a`, for rows of `n` bytes; `base` and `size` are those of the version bound. -/
def rowAt (kind : Nat) (base size : Nat) (a : Int) (n : Nat) : RowAt :=
  match kind with
  | 0 => .dev (a % (2 ^ 48 : Int)).toNat
  | 1 => if a < 0 ∨ (size : Int) < a + n then .outside ((a % (2 ^ 48 : Int)).toNat) else .dev (base + a.toNat)
  | _ => .spad a.toNat

/-- The offsets of the source rows from `src`: multiples of the stride, or by the index list (R210). -/
def CopyF.rowOffsets (f : CopyF) (idx : List Nat) : List Int :=
  (List.range f.rows).map (fun r => if f.gather then signedOf 32 (idx.getD r 0) * f.srcStride else (r * f.srcStride : Nat))

/-- Bytes of a run of one stack as a copy sees them: a line that it has read keeps the contents it then had (R214). -/
def State.readGot (s : State) (got : Tab (List Byte)) (k o n : Nat) : List Byte :=
  if got.isEmpty then s.memRead k o n
  else (pieces 64 (n / 64 + 2) o n).flatMap (fun p =>
    match tfind got (memKey k (p.1 / 64 * 64)) with
    | some bs => (bs.drop (p.1 % 64)).take p.2
    | none => s.memRead k p.1 p.2)

/-- Bytes of a run of device addresses, local granules from memory and remote ones from what other devices returned. -/
def State.readMixed (s : State) (got : Tab (List Byte)) (remote : List Byte) (a n : Nat) : List Byte × List Byte :=
  (pieces 4096 (n / 4096 + 2) a n).foldl (fun acc p =>
    match s.decodeAddr p.1 with
    | some (d, k, o) =>
      if d = s.cab then (acc.1 ++ s.readGot got k o p.2, acc.2)
      else (acc.1 ++ (acc.2.take p.2 ++ List.replicate (p.2 - acc.2.length) 0), acc.2.drop p.2)
    | none => (acc.1 ++ List.replicate p.2 0, acc.2)) ([], remote)

/-- The source elements of a row, as encodings or as exact values of a B4 row. -/
def CopyF.rowVals (f : CopyF) (bs : List Byte) : List FVal :=
  if f.fmtS = 5 then
    let b := f.rowBytes / 17
    (List.range (32 * b)).map (fun i =>
      let e := (bs.getD (i / 2) 0).toNat
      decodeB4 (bs.getD (16 * b + i / 32) 0).toNat (if i % 2 = 0 then e % 16 else e / 16))
  else (elemsOf (codeBits f.fmtS / 8) bs).map (decodeCode f.fmtS)

/-- The elements of a row as they are delivered, with the flags of their conversion (R210, R48). -/
def CopyF.rowOut (f : CopyF) (bs : List Byte) : List Nat × FlagBits :=
  if f.conv then joinLanes ((f.rowVals bs).map (fun v => convertVal ((fmtOfCode f.fmtD).getD fmtB32) v 0 none))
  else if f.srcBits = 4 then (bs.flatMap (fun b => [b.toNat % 16, b.toNat / 16]), 0)
  else (elemsOf (f.srcBits / 8) bs, 0)

/-- Pack elements of `w` bits; 4-bit elements two per byte, the unused half of the last byte 0. -/
def packBits (w : Nat) (es : List Nat) : List Byte :=
  if w = 4 then (chunksOf 2 es.length es).map (fun p => BitVec.ofNat 8 (p.getD 0 0 % 16 + 16 * (p.getD 1 0 % 16)))
  else packElems (w / 8) es

/-- The destination rows that the source rows give, with the flags raised. -/
def CopyF.deliver (f : CopyF) (rows : List (List Byte)) : List (List Byte) × FlagBits :=
  if !f.conv && !f.transpose then (rows, 0)
  else
    let rs := rows.map f.rowOut
    let fl := rs.foldl (fun a r => a ||| r.2) 0
    let es := if f.transpose then (List.range f.rowElems).map (fun j => rs.map (fun r => r.1.getD j 0)) else rs.map (·.1)
    (es.map (packBits f.dstBits), fl)

/-- The lines of a byte string at an address as (line address, byte mask, bytes with unwritten ones 0), merged into a table by line. -/
def lineMerge (t : Tab (Nat × List Byte)) (a : Nat) (bs : List Byte) : Tab (Nat × List Byte) :=
  (pieces 64 (bs.length / 64 + 2) a bs.length).foldl (fun acc p =>
    let l := p.1 / 64 * 64
    let old := tget (0, zeroLine) acc.1 l
    let mask := (List.range p.2).foldl (fun m i => m ||| 2 ^ (p.1 % 64 + i)) old.1
    (tset acc.1 l (mask, overlay old.2 (p.1 % 64) (acc.2.take p.2)), acc.2.drop p.2)) (t, bs) |>.1

/-- The effect records of the memory lines that a COPY wrote (R312): addresses as offsets from the shard's base, or region and region offset. -/
def copyEffects (shardBase : Nat) (region : Option (Nat × Nat)) (t : Tab (Nat × List Byte)) : List (List Byte) :=
  t.map (fun e =>
    let a := match region with
      | some (r, base) => r * 2 ^ 48 + (e.1 - base) % 2 ^ 48
      | none => twosOf 64 ((e.1 : Int) - shardBase)
    [2] ++ leBytes 8 a ++ leBytes 8 e.2.1 ++ e.2.2)

/-- Write a row: local granules at their stacks with mirror writes, remote ones as messages of up to 256 bytes to their device (R188, R215, R354). -/
def State.writeMixed (s : State) (ctx a : Nat) (bs : List Byte) : State :=
  (pieces 4096 (bs.length / 4096 + 2) a bs.length).foldl (fun acc p =>
    let piece := acc.2.take p.2
    ((match acc.1.decodeAddr p.1 with
      | some (d, k, o) =>
        if d = acc.1.cab then acc.1.applyWrite ctx k o piece
        else acc.1.sendAll ((pieces 256 (p.2 / 256 + 2) o p.2).map (fun q =>
          .remote d 1 (k * 2 ^ 36 + q.1) (peerCtx (acc.1.ctx ctx) d) 0 q.2 ((piece.drop (q.1 - o)).take q.2)))
      | none => acc.1), acc.2.drop p.2)) (s, bs) |>.1

/-- Whether some granule of a run of device addresses lies on another device. -/
def State.goesFar (s : State) (a n : Nat) : Bool :=
  (pieces 4096 (n / 4096 + 2) a n).any (fun p => match s.decodeAddr p.1 with | some (d, _, _) => decide (d ≠ s.cab) | none => false)

/-- Count hashed bytes of a die in MiB (HASH_STAT). -/
def State.countHashed (s : State) (die n : Nat) : State :=
  let b := tget 0 s.care.hashRem die + n
  { s with care := { s.care with hashRem := tput 0 s.care.hashRem die (b % 2 ^ 20) } }.count (hashPage die) .mibHashed (b / 2 ^ 20)

/-- Write the destination rows that lie in memory, in order; the first refused ends the task (R203), those before it stand. -/
def State.copyWrites (core master ctx : Nat) : List (RowAt × List Byte) → State → State × Bool
  | [], s => (s, true)
  | (at_, bs) :: rest, s =>
    match at_ with
    | .outside o => (s.refuseTask core master 0x37 o copyOp, false)
    | .spad _ => State.copyWrites core master ctx rest s
    | .dev a =>
      match s.rangeCheck .w master ctx a bs.length with
      | some x => (s.refuseTask core master x.1 x.2 copyOp, false)
      | none => State.copyWrites core master ctx rest (s.writeMixed ctx a bs)

/-- The first line of a run of device addresses that a copy reads at its home and finds in error: neither read before nor held by the issuing die's cache (R202, R196). -/
def State.lineBad (s : State) (die : Nat) (got : Tab (List Byte)) (a n : Nat) : Option Nat :=
  ((linesOf a n).find? (fun l => match s.decodeAddr (64 * l) with
    | some (d, k, o) => decide (d = s.cab) && (tfind s.badLines (memKey k o)).isSome && (tfind got (memKey k o)).isNone && !s.care.cache.contains (die, memKey k o)
    | none => false)).map (64 * ·)

/-- A copy's read of a line that the die cache does not hold fills it, and run-ahead follows (R202, R206). -/
def State.missFill (s : State) (core master ctx l : Nat) : State :=
  match s.decodeAddr (64 * l) with
  | some (d, k, o) =>
    if d ≠ s.cab ∨ !feStable (s.frame (frameOf o)) ∨ s.care.cache.contains (core / 8, memKey k o) then s
    else (s.cacheFill (core / 8) k o).runAhead (core / 8) master ctx (64 * l / 65536) (s.regs.field (dieCachePage (core / 8)) 0x80 6 0) (64 * l + 64)
  | none => s

/-- Read the source rows in order: the rows, or the state after the task has ended. -/
def State.copyReads (core master ctx n : Nat) (got : Tab (List Byte)) : List RowAt → List Byte → List (List Byte) → State → State × Option (List (List Byte))
  | [], _, acc, s => (s, some acc)
  | r :: rest, remote, acc, s =>
    match r with
    | .outside o => (s.refuseTask core master 0x37 o copyOp, none)
    | .spad a =>
      match (s.core core).spadRead a n with
      | none => (s.endTaskBy core 0x11 copyOp, none)
      | some bs => State.copyReads core master ctx n got rest remote (acc ++ [bs]) s
    | .dev a =>
      match s.rangeCheck .r master ctx a n with
      | some x => (s.refuseTask core master x.1 x.2 copyOp, none)
      | none =>
        match s.lineBad (core / 8) got a n with
        | some b => (s.taskBad core b 64 copyOp, none)
        | none =>
          let x := s.readMixed got remote a n
          State.copyReads core master ctx n got rest x.2 (acc ++ [x.1]) ((linesOf a n).foldl (fun s l => s.missFill core master ctx l) s)

/-- The sizes of the version bound for region field `i`, 0 if none. -/
def CoreEnv.boundSize (e : CoreEnv) (i : Nat) : Nat := (e.regSize.getD i none).getD 0
/-- The size of the pending version for region field `i`, 0 if none. -/
def CoreEnv.pendSize (e : CoreEnv) (i : Nat) : Nat := (e.regPend.getD i none).getD 0

/-- The places of a copy's source rows, its index list being `ib`. -/
def State.copySrc (s : State) (core : Nat) (t : TaskRun) (f : CopyF) (ib : List Byte) : List RowAt :=
  (f.rowOffsets (elemsOf 4 ib)).map (fun o => rowAt f.srcKind ((s.boundBase t f.srcSel).getD 0) ((s.env core).boundSize f.srcSel) ((f.src : Int) + o) f.rowBytes)

/-- The index list of a copy, which a gather reads from valid lines (R210, R103). -/
def Core.copyIdx (c : Core) (f : CopyF) : Option (List Byte) := if f.gather then c.spadRead f.idxAddr (4 * f.rows) else some []

/-- Whether a row of `n` bytes touches the line at `off` of a stack of this device. -/
def State.rowTouches (s : State) (n k off : Nat) : RowAt → Bool
  | .dev a => (linesOf a n).any (fun l => decide (s.decodeAddr (64 * l) = some (s.cab, k, off)))
  | _ => false

/-- The read of a copy of core `c` reaches the holder of a line (R214): the oldest copy that reads the line and has not read it yet keeps its contents. -/
def State.copyGets (s : State) (core k off : Nat) : State :=
  let c := s.core core
  match c.run with
  | none => s
  | some t =>
    let wants := fun (x : CopyRun) =>
      let f := copyFields x.record x.add
      !x.atom && x.done.isNone && (tfind x.got (memKey k off)).isNone && (s.copySrc core t f ((c.copyIdx f).getD [])).any (s.rowTouches f.rowBytes k off)
    match c.copies.find? wants with
    | none => s
    | some x => s.setCore core { c with copies := c.copies.map (fun y => if y.tag = x.tag then { y with got := tset y.got (memKey k off) (s.memRead k off 64) } else y) }

/-- A COPY or ATOM completes (R215, R212): its tag is free and keeps its status word. -/
def State.copyFree (s : State) (core tag status : Nat) : State :=
  let c := s.core core
  s.setCore core { c with copies := c.copies.filter (fun x => decide (x.tag ≠ tag)), tagStatus := tput 0 c.tagStatus tag status }

/-- A COPY completes: it counts among its engine's. -/
def State.copyEnd (s : State) (core tag status : Nat) : State := (s.copyFree core tag status).count (cpePage (core / 8) (s.engineOf core % 4)) .copies 1

/-- The data of a COPY moves (R210, R215): rows read, converted, transposed and written; the digest of its bytes and its flags kept. Its lines in the scratchpad land in this cycle (R102). The copy is
complete, and its tag free, unless writes went to other devices: then it waits for their acknowledgement. -/
def State.copyDone (s : State) (core : Nat) (t : TaskRun) (k : CopyRun) (remote : List Byte) : State :=
  let f := copyFields k.record k.add
  let e := s.env core
  let m := s.copyMaster core
  match (s.core core).copyIdx f with
  | none => s.endTaskBy core 0x11 copyOp
  | some ib =>
    match State.copyReads core m t.ctx f.rowBytes k.got (s.copySrc core t f ib) remote [] s with
    | (s, none) => s
    | (s, some rows) =>
      let s := if f.srcKind = 2 then s else s.capture core (rows.flatMap id)
      let d := f.deliver rows
      let base := (s.pendBase t f.dstSel).getD 0
      let dst := d.1.mapIdx (fun i bs => (rowAt f.dstKind base (e.pendSize f.dstSel) ((f.dst + i * f.dstStride : Nat) : Int) bs.length, bs))
      match State.copyWrites core m t.ctx dst s with
      | (s, false) => s
      | (s, true) =>
        let c := s.core core
        let lines := dst.foldl (fun acc x => match x.1 with | .dev a => lineMerge acc a x.2 | _ => acc) []
        let shard := descShard t.desc
        let rg := if f.dstKind = 1 then some (descField t.desc (143 + 16 * f.dstSel) (128 + 16 * f.dstSel), base) else none
        let c := (copyEffects (tget (⟨0, 0, 0⟩ : Shard) (s.ctx t.ctx).shards shard).base rg lines).foldl Core.addEffect c
        let c := c.raise 5 d.2
        let bytes := d.1.flatMap id
        let c := if f.hash = 0 then c
          else { c with hashes := c.hashes ++ [⟨shard, f.hash, descTaskId t.desc, k.order, bytes.length, sha256 bytes⟩] }
        let local' := dst.filterMap (fun x => match x.1 with | .spad a => some (a, x.2) | _ => none)
        let c := if local'.isEmpty then c else { c with lands := c.lands ++ [⟨k.iss, c.icyc, .copy local'⟩] }
        let far := dst.any (fun x => match x.1 with | .dev a => s.goesFar a x.2.length | _ => false)
        let c := { c with copies := c.copies.map (fun x => if x.tag = k.tag then { x with done := some d.2.toNat, away := far } else x) }
        let s := s.setCore core c
        let s := if f.hash = 0 then s else s.countHashed (core / 8) bytes.length
        if far then s else s.copyEnd core k.tag d.2.toNat

/-- The remote reads that a copy makes of its source rows, as messages of up to 256 bytes to their devices (R188, R354). -/
def State.askRemote (s : State) (t : TaskRun) (core : Nat) (k : CopyRun) : State :=
  let f := copyFields k.record k.add
  if f.srcKind ≠ 0 then s
  else
    let idx := elemsOf 4 (if f.gather then ((s.core core).spadRead f.idxAddr (4 * f.rows)).getD [] else [])
    (f.rowOffsets idx).foldl (fun s o =>
      (pieces 256 (f.rowBytes / 256 + 2) (((f.src : Int) + o) % (2 ^ 48 : Int)).toNat f.rowBytes).foldl (fun s p =>
        match s.decodeAddr p.1 with
        | some (d, st, off) => if d ≠ s.cab ∧ s.planned d then s.send (.remote d 0 (st * 2 ^ 36 + off) (peerCtx (s.ctx t.ctx) d) 0 p.2 []) else s
        | none => s) s) s

/-- A copy or an atomic of a core has requests out at other devices. -/
def State.markAway (s : State) (core tag : Nat) (away : Bool) : State :=
  let c := s.core core
  if away then s.setCore core { c with copies := c.copies.map (fun x => if x.tag = tag then { x with away := true } else x) } else s

/-- COPY (R210): a row copy starts under its tag. -/
def execCopy (core : Nat) (w : W32) (s : State) : Host.Outcome State Fault Refusal :=
  let s' := s.issueOp core 2 (isMS 4) issueCopy w
  .next (if (s'.core core).copies.length ≤ (s.core core).copies.length then s'
    else match (s'.core core).run, (s'.core core).copies.getLast? with
      | some t, some k => (s'.askRemote t core k).markAway core k.tag (s'.out.length < (s'.askRemote t core k).out.length)
      | _, _ => s')

/-- The answers to the requests that a copy of an ended task had out have come; with the last of them the task's status is written (R101). -/
def State.lateHeard (s : State) (core tag : Nat) : State :=
  match s.care.late.find? (fun x => decide (x.core = core) && x.tags.contains tag) with
  | none => s
  | some x =>
    let x' := { x with tags := x.tags.filter (fun g => decide (g ≠ tag)) }
    if x'.tags.isEmpty then
      let s := { s with care := { s.care with late := s.care.late.erase x } }
      (s.writeCompletion core x.task x.status x.cyc).queueDone x.task.queue x.task.ring
    else { s with care := { s.care with late := s.care.late.map (fun y => if y = x then x' else y) } }

/-- COPY_COMPLETE (R215): the data of the copy under a tag moves and its local writes are acknowledged; where writes went to other devices, the next COPY_COMPLETE of the tag says that they too are
acknowledged (assumption log 139). An ATOM completes once every element is applied (R212). A lockstep mismatch of the copy's conversion (1) or hashing (2) fences the unit (R306). -/
def execCopyComplete (core tag : Nat) (remote : List Byte) (lockstep : Nat) (s : State) : Host.Outcome State Fault Refusal :=
  .next (match (s.core core).run, (s.core core).copies.find? (fun k => decide (k.tag = tag)) with
    | some t, some k =>
      if k.atom then
        if k.todo.isEmpty then s.copyFree core tag 0 else s
      else if lockstep = 0 then (match k.done with | some st => s.copyEnd core tag st | none => s.copyDone core t k remote)
      else s.copyFault (core / 8) (s.engineOf core) (decide (lockstep = 2))
    | _, _ => s.lateHeard core tag)

end Sys2Proof.Machine
end

