-- ==== Sys2Proof/Machine/Tasks.lean ====
section
/-! DEFINITION. The life of a tile-task: dispatch among contexts, dispatch, completion, watchdog, Footstool and cross-core replay (R99 to R108, R281, R282, R309 to R314, R336). -/

namespace Sys2Proof.Machine

/-! ### Dispatch among contexts (R282) -/

/-- Whether a head has been chosen by the arbiter of some core. -/
def State.chosen (s : State) (q i : Nat) : Bool := s.arbs.any (fun a => decide (a.2.chosen = some (q, i)))

/-- Whether queue `qid` is a candidate of a core: a RUNNING context whose boundary is not being held, a core set with the core, a ready head that no other core chose. -/
def State.candidate (s : State) (core qid : Nat) (q : Queue) : Bool :=
  decide ((s.ctx q.ctx).state = 2) && decide ((s.ctx q.ctx).st.hold = 0) && decide (qid / 512 / 8 = core / 8) && bitOf q.mask (core % 8) &&
  decide (q.head ≠ q.tail) && !q.paused && s.headReady qid q && !s.chosen qid q.head

/-- Priority class of a context (Table 12.8). -/
def State.ctxClass (s : State) (n : Nat) : Nat := s.regs.field (ctxPage n) 0x50 1 0

/-- Weight of a class on a die (Table 12.9). -/
def State.classWeight (s : State) (die c : Nat) : Nat := s.regs.field (dispatchPage die) 0x80 (4 * c + 3) (4 * c)

/-- The element that comes first after `last`, cyclically modulo `m`. -/
def firstAfter (m last : Nat) (l : List Nat) : Option Nat :=
  (sortBy (fun x => (x + m - last - 1) % m) l).head?

/-- The choice of a core's arbiter: the loop of R282 over at most five turns. -/
def arbChoose (weight : Nat → Nat) (cands : List (Nat × Nat × Nat)) : Nat → Arb → Arb × Option Nat
  | 0, a => (a, none)
  | k + 1, a =>
    let mine := cands.filter (fun c => decide (c.1 = a.cur))
    if 0 < a.credit ∧ !mine.isEmpty then
      let ctx := (firstAfter 64 (a.lastCtx.getD a.cur 63) (mine.map (·.2.1))).getD 0
      let q := (firstAfter 65536 ((tfind a.lastQ ctx).getD 65535) ((mine.filter (fun c => decide (c.2.1 = ctx))).map (·.2.2))).getD 0
      ({ a with credit := a.credit - 1, lastCtx := a.lastCtx.set a.cur ctx, lastQ := tset a.lastQ ctx q }, some q)
    else arbChoose weight cands k { a with cur := (a.cur + 1) % 4, credit := weight ((a.cur + 1) % 4) }

/-- Replay partners of a core in the schedule in effect (R311). -/
def Ctx.partners (c : Ctx) (core : Nat) : List Nat :=
  match c.schedule with
  | none => []
  | some d => match d.partners.find? (fun p => decide (p.getD 0 128 = core)) with | some p => p.drop 1 | none => []

/-- The core that the next replay of a task runs on: its first partner that is not fenced, or the second once the first has disagreed (R311, R313); none where no replay is to run. -/
def State.replayOn (s : State) (r : Replay) : Option Nat :=
  match r.results with
  | [] => (((s.ctx r.task.ctx).partners r.core).filter (fun p => !s.fencedCore p)).head?
  | [(p, d)] => if d = r.digest then none else (((s.ctx r.task.ctx).partners r.core).filter (fun q => !s.fencedCore q && decide (q ≠ p))).head?
  | _ => none

/-- Every step queue of a context has paused (R281). -/
def State.stepsPaused (s : State) (n : Nat) : Bool :=
  s.queues.any (fun q => decide (q.2.ctx = n) && q.2.step) && s.queues.all (fun q => !(decide (q.2.ctx = n) && q.2.step) || q.2.paused)

/-- A replay takes precedence over dispatch on a core: one of a context whose step queues have all paused is to run on it (R311). -/
def State.replayFirst (s : State) (core : Nat) : Bool :=
  s.care.replays.any (fun r => decide (s.replayOn r = some core) && s.stepsPaused r.task.ctx)

/-- Whether a core may take a tile-task: it runs none, is not fenced, not in test, not halted, no task of it waits for answers (R101), no replay goes first, and the arrays are clocked. -/
def State.coreFree (s : State) (core : Nat) : Bool :=
  decide (core < 128) && (s.core core).run.isNone && !s.fencedCore core && !(s.core core).test && !(s.core core).halted &&
  decide ((s.arb core).chosen = none) && s.root.mainUp && !s.root.offline && !s.care.late.any (fun x => decide (x.core = core)) && !s.replayFirst core

/-- DISPATCH_DECISION (R282): a free core's arbiter chooses among its candidates. -/
def execDispatchDecision (core : Nat) (s : State) : Host.Outcome State Fault Refusal :=
  .next (if !s.coreFree core then s
    else
      let cands := (s.queues.filter (fun e => s.candidate core e.1 e.2)).map (fun e => (s.ctxClass e.2.ctx, e.2.ctx, e.1))
      if cands.isEmpty then s
      else
        let r := arbChoose (s.classWeight (core / 8)) cands 6 (s.arb core)
        let ch := match r.2 with | some q => (s.queue q).map (fun k => (q, k.head)) | none => none
        { s with arbs := tput Arb.reset s.arbs core { r.1 with chosen := ch } })

/-! ### The descriptor (R99) -/

/-- Region fields of a descriptor. -/
def descRegions (d : BitVec 1024) : List Nat := (List.range 4).map (fun i => descField d (143 + 16 * i) (128 + 16 * i))

/-- Whether a context may name a region: its own, a shared one it maps, or one bound for evaluation (R99, R301). -/
def State.mayName (s : State) (n r : Nat) : Bool :=
  match s.region r with
  | none => false
  | some g => (decide (g.owner = n) && !g.shared) || (g.shared && g.mapped.contains n) || (tfind (evalSlots (s.ctx n).mem.evals) r).isSome

/-- The slot that a region binds at dispatch (R218, R301): the evaluation's version, in strict mode the version of the last boundary, else the current one. -/
def State.bindSlot (s : State) (n r : Nat) : Option Nat :=
  match s.region r with
  | none => none
  | some g =>
    match tfind (evalSlots (s.ctx n).mem.evals) r, tfind (s.ctx n).mem.view r with
    | some k, _ => some k
    | none, some k => if s.regs.strictActive then some k else some g.cur
    | none, none => some g.cur

/-- The checks of R99 and R279 on a descriptor. -/
def State.descLegal (s : State) (q : Queue) (d : BitVec 1024) : Bool :=
  let n := q.ctx
  decide (descField d 3 0 = q.descVer) && decide (descField d 7 4 = 1 ∨ descField d 7 4 = 2) &&
  [(15, 9), (31, 28), (63, 46), (127, 96), (223, 211), (255, 243), (415, 404), (447, 436), (863, 847), (1023, 960)].all (fun r => decide (descField d r.1 r.2 = 0)) &&
  decide (descField d 403 402 ≠ 3) && decide (descField d 435 434 ≠ 3) &&
  (tfind (s.ctx n).shards (descShard d)).isSome &&
  (List.range 2).all (fun w =>
    let x := descWait d w
    !x.1 || (match s.deviceCtr n x.2.1 with | some k => !(s.ctr k).proxy | none => false)) &&
  (decide (descField d 403 402 = 0) || (s.deviceCtr n (descField d 401 384)).isSome) &&
  (decide (descField d 435 434 = 0) || (s.deviceCtr n (descField d 433 416)).isSome) &&
  (descRegions d).all (fun r => decide (r = 0xFFFF) || s.mayName n r)

/-- Whether a task may be selected for replay (R309). -/
def State.replayable (s : State) (core : Nat) (n : Nat) (d : BitVec 1024) : Bool :=
  let ps := ((s.ctx n).partners core).filter (fun p => !s.fencedCore p)
  decide (s.regs.field 1 0x110 0 0 = 1) && decide (descField d 7 4 = 1) && !ps.isEmpty &&
  (s.regs.strictActive || (match (s.ctx n).job.prog with | some p => !bitOf p.features 3 | none => true))

/-- The state of a core at dispatch (R95, Table 5.4): parameters in s0–s7, everything else clear; streams, lane generators and instruction memory keep what they hold. -/
def Core.atDispatch (c : Core) (t : TaskRun) (tp2 : Bool) (wdLimit : Nat) : Core :=
  { Core.reset with
    run := some t
    pc := descField t.desc 45 32
    pen := dispatchLatency tp2
    ended := decide (descField t.desc 7 4 = 2)
    wdLimit := wdLimit
    sregs := (List.range 8).foldl (fun r i => tput 0 r i (BitVec.ofNat 32 (descField t.desc (607 + 32 * i) (576 + 32 * i)))) []
    imem := c.imem, outEps := c.outEps, inEps := c.inEps, lanes := c.lanes, test := c.test, halted := c.halted, haltNext := c.haltNext, fsBuf := c.fsBuf,
    fsDropped := c.fsDropped, fsPending := c.fsPending }

/-- The profile of a context's program is TP2 (Table 17.1). -/
def Ctx.tp2 (c : Ctx) : Bool := match c.job.prog with | some p => decide (p.profile = 2) | none => false

/-- The head of a queue leaves it: the queue pauses after its last_of_step task (R281). -/
def Queue.pop (q : Queue) (last step : Bool) : Queue :=
  { q with head := (q.head + 1) % 65536, running := q.running ++ [q.head], paused := last && step, stall := 0 }

/-- The first tile-task of the step dispatches (R109): the step's time runs from here, and no time before it counts as yielded. -/
def Ctx.firstTask (c : Ctx) (now : Nat) : Ctx :=
  if c.st.firstAt.isSome then c else { c with st := { c.st with firstAt := some now, yieldedSum := 0 } }

/-- The head of a queue leaves it and counts toward its context's step. -/
def State.takeHead (s : State) (qid : Nat) (q : Queue) (d : BitVec 1024) : State :=
  ({ s with queues := tset s.queues qid (q.pop (bitOf d.toNat 8) q.step) } : State).modCtx q.ctx (fun c => c.firstTask s.now)

/-- The task that a descriptor at the head of a queue starts: its bound regions, its step bit, and whether it is chosen for replay, which draws on lane 0 of the core's generator (R309). -/
def State.newTask (s : State) (core qid : Nat) (q : Queue) (d : BitVec 1024) : TaskRun :=
  ⟨q.ctx, qid, q.head, d, (descRegions d).map (fun r => if r = 0xFFFF then none else s.bindSlot q.ctx r), (s.ctx q.ctx).tp2,
    s.replayable core q.ctx d && decide ((s.core core).draw % 2 ^ s.regs.field 1 0x110 12 8 = 0)⟩

/-- A core begins a task (R100, R109); what the network still brings of an earlier task's fills is dropped. -/
def State.beginTask (s : State) (core : Nat) (t : TaskRun) : State :=
  let s : State := { s with net := { s.net with flits := s.net.flits.filter (fun f => !(s.ctx f.ctx).fillsCore core f.flow) } }
  s.setCore core ((s.core core).atDispatch t t.tp2 (s.regs.field (corePage core) 0x80 15 0))

/-- A chosen head dispatches on a core (R100, step 1). -/
def State.dispatchTask (s : State) (core qid : Nat) (q : Queue) : State :=
  let d := s.headDesc q
  let s := s.takeHead qid q d
  let t := s.newTask core qid q d
  let s := s.beginTask core t
  if !s.descLegal q d then s.endTask core 0x10
  else if s.devBad (q.entry q.head) 128 then s.taskBad core (q.entry q.head) 128 noOp
  else
    match (s.core core).fsPending with
    | none => s
    | some x =>
      let s := s.setCore core { s.core core with fsPending := none }
      (s.dropTask core 0x1A { (s.taskRec core t 0x1A 4).unit x.kind (core / 8) core x.unit with syndrome := x.syndrome }).fenceCore core 0x1A true

/-- An entry of the region table is found in error as a task names it (R307): the contexts that map the first region named use it. -/
def State.regionFault (s : State) (n : Nat) (rs : List Nat) : State :=
  let r := (rs.find? (fun r => (s.region r).isSome)).getD 0xFFFF
  s.tableFault 1 r (match s.region r with | some g => if g.shared then g.mapped else [g.owner] | none => [n])

/-- TILE_TASK_DISPATCH (R100, R282): the head that the core's arbiter chose dispatches; if its context has left RUNNING meanwhile, it stays at the head. With `upset` the entry of
a region that it names is found in error (R307). -/
def execTileTaskDispatch (core : Nat) (upset : Bool) (s : State) : Host.Outcome State Fault Refusal :=
  .next (match (s.arb core).chosen with
    | none => s
    | some (qid, i) =>
      let s := { s with arbs := tput Arb.reset s.arbs core { s.arb core with chosen := none } }
      match s.queue qid with
      | none => s
      | some q =>
        if (s.ctx q.ctx).state ≠ 2 ∨ (s.ctx q.ctx).st.hold ≠ 0 ∨ q.head ≠ i ∨ s.fencedCore core ∨ (s.core core).run.isSome then s
        else if upset then s.regionFault q.ctx (descRegions (s.headDesc q))
        else s.dispatchTask core qid q)

/-! ### Completion (R100, steps 3 to 7) -/

/-- Everything that the task of a core issued has landed and completed (R100, step 3; R156). -/
def State.taskSettled (s : State) (core : Nat) (t : TaskRun) : Bool :=
  let k := s.core core
  k.ended && k.lands.isEmpty && !k.streamBusy && k.convs.all (fun c => !c.2.reserved k.icyc) && k.copies.isEmpty && k.sigs.isEmpty &&
  k.outEps.all (fun ep => ep.2.isEmpty) && s.sentUpTo core t.ctx (2 ^ 64)

/-- Fold the task's flags into the flag word of its shard (R54). -/
def State.foldFlags (s : State) (n shard fl : Nat) : State :=
  s.modCtx n (fun c =>
    match tfind c.shards shard with
    | none => c
    | some h => { c with shards := tset c.shards shard { h with flags := h.flags ||| fl } })

/-- Append an entry to the digest log of a context (R336). -/
def State.digestLog (s : State) (core : Nat) (t : TaskRun) (digest : Nat) : State :=
  let p := ctxPage t.ctx
  if s.regs.field p 0x844 31 31 = 0 then s
  else
    let base := s.regs.word p 0x840 + s.regs.field p 0x844 15 0 * 2 ^ 32
    let lg := s.regs.field p 0x844 23 16
    s.devWrite t.ctx (base + 16 * ((s.ctx t.ctx).st.tasksDone % 2 ^ lg))
      (leBytes 4 (descTaskId t.desc) ++ leBytes 2 (descShard t.desc) ++ leBytes 1 core ++ leBytes 1 1 ++ leBytes 8 digest)

/-- The effect record of a descriptor signal. -/
def sigEffect (d : BitVec 1024) (w : Nat) : List Byte :=
  let o := if w = 0 then 0 else 32
  [4] ++ leBytes 4 (descField d (401 + o) (384 + o)) ++ leBytes 1 (descField d (403 + o) (402 + o)) ++ leBytes 8 (descField d (511 + 2 * o) (448 + 2 * o))

/-- The descriptor signals of a task: operation, counter and argument of signal `w`. -/
def State.descSignal (s : State) (core : Nat) (t : TaskRun) (w : Nat) : State :=
  let o := if w = 0 then 0 else 32
  let op := descField t.desc (403 + o) (402 + o)
  if op = 0 then s
  else s.sendSignal t.ctx (descField t.desc (401 + o) (384 + o)) op (descField t.desc (511 + 2 * o) (448 + 2 * o)) (coreMaster core)

/-- A tile-task completes: flags fold, the count rises, the descriptor is written, sig0 then sig1 are applied; a replay of a selected task becomes pending (R100, R309). -/
def State.completeTask (s : State) (core : Nat) (t : TaskRun) : State :=
  let k := s.core core
  let fl := k.foldedFlags
  let k := (List.range 2).foldl (fun k w =>
    let o := if w = 0 then 0 else 32
    if descField t.desc (403 + o) (402 + o) = 0 then k else k.addEffect (sigEffect t.desc w)) (k.addEffect ([5] ++ leBytes 1 (fl % 16)))
  let s := if descField t.desc 7 4 = 2 then s else s.foldFlags t.ctx (descShard t.desc) fl
  let s := s.digestLog core t k.digest
  let s := s.modCtx t.ctx (fun c =>
    { c with st := { c.st with tasksDone := (c.st.tasksDone + 1) % 2 ^ 64 }, mem := { c.mem with hashes := c.mem.hashes ++ k.hashes } })
  let s := s.writeCompletion core t 1 k.cyc
  let s := if t.replay ∧ !k.abandoned then { s with care := { s.care with replays := s.care.replays ++ [⟨core, t, k.digest, []⟩] } } else s
  let s := (s.setCore core k.idle).queueDone t.queue t.ring
  (s.descSignal core t 0).descSignal core t 1

/-- What is due in the present cycle has landed; where two results collide, the cycle itself ends the task (R92, R93). -/
def State.landedNow (s : State) (core : Nat) : State :=
  match (s.core core).landDue with
  | .ok k => s.setCore core k
  | .err _ _ => s

/-- TILE_TASK_COMPLETION (R100, step 3): the task completes in the cycle in which the last of its work lands. -/
def execTileTaskCompletion (core : Nat) (s : State) : Host.Outcome State Fault Refusal :=
  .next (match (s.core core).run with
    | none => s
    | some t => if (s.landedNow core).taskSettled core t then (s.landedNow core).completeTask core t else s)

/-- TASK_WATCHDOG_EXPIRY (R105): a task that has run for more than limit × 1,200 cycles ends with status 0x17. -/
def execTaskWatchdogExpiry (core : Nat) (s : State) : Host.Outcome State Fault Refusal :=
  .next (if (s.core core).run.isSome ∧ (s.core core).wdLimit * 1200 < (s.core core).wd then s.endTask core 0x17 else s)

/-! ### The Footstool (R106 to R108) -/

/-- What the Footstool recomputes (R66, R85, R48). -/
def recompute (x : FsSample) : Nat × FlagBits :=
  if x.conv then convertVal ((fmtOfCode x.fmtD).getD fmtB32) (fmtB32.decode x.value) x.scale x.word
  else if x.wide32 then chunkSum32 x.weights x.a0 x.a1 x.a2
  else chunkSum (List.zip x.a0 x.weights)

/-- The syndrome of class 0x1A (Table 13.6). -/
def fsSyndrome (x : FsSample) (r : Nat × FlagBits) : Nat :=
  x.delivered % 2 ^ 32 + r.1 % 2 ^ 32 * 2 ^ 32 + x.flags % 16 * 2 ^ 64 + r.2.toNat % 16 * 2 ^ 68 + x.firstK % 2 ^ 17 * 2 ^ 72 + b2n x.conv * 2 ^ 89 +
    x.column % 64 * 2 ^ 90

/-- A sample as the datapath delivered it: a fault inverts bits of the result (31:0) and of the flags (35:32); none for sound hardware (assumption log 18). -/
def FsSample.faulty (x : FsSample) (fault : Nat) : FsSample :=
  { x with delivered := x.delivered ^^^ bitsOf fault 31 0, flags := x.flags ^^^ bitsOf fault 35 32 }

/-- A captured sample leaves the buffer of a core. -/
def Core.fsPop (c : Core) (x : FsSample) : Core := { c with fsBuf := c.fsBuf.erase x }

/-- A sample that was recomputed and differs: it ends the running task, or the next one, with 0x1A and fences the core (R106, R321). -/
def State.fsMismatch (s : State) (core : Nat) (x : FsSample) (r : Nat × FlagBits) : State :=
  let s := s.count (corePage core) .fsMismatch 1
  let kind := if x.conv then 4 else 3
  match (s.core core).run with
  | some t => (s.dropTask core 0x1A { (s.taskRec core t 0x1A 4).unit kind (core / 8) core x.unit with syndrome := fsSyndrome x r }).fenceCore core 0x1A true
  | none => s.setCore core { s.core core with fsPending := some ⟨fsSyndrome x r, kind, x.unit⟩ }

/-- The oldest sample of exact mode is recomputed and compared bit for bit (R106, R107). A fault of bit 36 is a parity error of its entry in the buffer, and drops it (Table 13.2). -/
def State.exactCheck (s : State) (core fault : Nat) : State :=
  match (s.core core).fsBuf.find? (fun x => x.entry.isNone) with
  | none => s
  | some y =>
    let s := s.setCore core ((s.core core).fsPop y)
    if bitOf fault 36 then s.count (corePage core) .fsDropped 1
    else
      let x := y.faulty fault
      let r := recompute x
      let s := s.count (corePage core) .fsChecked 1
      if r.1 = x.delivered ∧ r.2.toNat = x.flags then s else s.fsMismatch core x r

/-- FOOTSTOOL_EXACT_CHECK (R106): a sampled chunk or conversion is recomputed and compared bit for bit. -/
def execFootstoolExactCheck (core fault : Nat) (s : State) : Host.Outcome State Fault Refusal :=
  .next (if 128 ≤ core then s else s.exactCheck core fault)

/-- The wide sum of R108: activations times master weights in ascending K order, one fused multiply-add per element. -/
def wideSum (acts : List FVal) (weights : List Nat) : Nat :=
  (List.zip acts weights).foldl (fun acc p => (fmaVal fmtB32 p.1 (fmtB32.decode p.2) (fmtB32.decode acc)).1) 0

/-- |x| of a binary32 encoding. -/
def absB32 (x : Nat) : Nat := x % 2 ^ 31

/-- The master weights of a sample: element i of the chunk is the binary32 value in row firstK + i and the sample's column of the entry's master copy (R108; assumption log 134). None where the core
may not read one of them, or its line is in error. -/
def State.masterWeights (s : State) (core n : Nat) (x : FsSample) : Option (List Nat) :=
  let p := corePage core
  let o := 0x100 + 0x20 * n
  let base := s.regs.field p o 31 16 + s.regs.word p (o + 4) * 2 ^ 16
  let stride := s.regs.word p (o + 8)
  let ads := (List.range x.a0.length).map (fun i => base + (x.firstK + i) * stride + 4 * x.column)
  if ads.all (fun a => (s.rangeCheck .r (coreMaster core) x.ctx a 4).isNone && !s.devBad a 4) then some (ads.map (fun a => leNat (s.devRead a 4))) else none

/-- The statistics of a watch entry take in a sample with chunk result `result` and wide sum `w`; one that is zero or not finite is omitted (R108). -/
def State.wideStats (s : State) (core n result w : Nat) : State :=
  let p := corePage core
  let o := 0x100 + 0x20 * n
  if absB32 w = 0 ∨ 0x7F800000 ≤ absB32 w then s
  else
    let d := (fDiv (absB32 (arithOp fmtB32 1 result w 0).1) (absB32 w)).1
    let r := s.regs
    let mx := r.word p (o + 0x10)
    let r := r.setWord p (o + 0xC) (satAdd 32 (r.word p (o + 0xC)) 1)
    let r := if mx < d ∧ d ≤ 0x7F800000 then r.setWord p (o + 0x10) d else r
    { s with regs := r.setWord p (o + 0x14) (addB32 (r.word p (o + 0x14)) d).1 }

/-- FOOTSTOOL_WIDE_SAMPLE (R108): the master weights of the oldest sample of wide mode arrive, and the statistics of its watch entry are updated. -/
def execFootstoolWideSample (core : Nat) (s : State) : Host.Outcome State Fault Refusal :=
  .next (if 128 ≤ core then s
    else match (s.core core).fsBuf.find? (fun x => x.entry.isSome) with
      | none => s
      | some x =>
        let t := s.setCore core ((s.core core).fsPop x)
        match x.entry, s.masterWeights core (x.entry.getD 0) x with
        | some n, some ws => t.wideStats core n x.delivered (wideSum x.a0 ws)
        | _, _ => t.count (corePage core) .fsDropped 1)

/-! ### Cross-core replay (R311, R313) -/

/-- Whether a core can run a replay: it is free, and has no candidate under R282 or the replay goes first (R311). -/
def State.mayReplay (s : State) (p : Nat) (r : Replay) : Bool :=
  (s.core p).run.isNone && decide ((s.arb p).chosen = none) && (s.stepsPaused r.task.ctx || !s.queues.any (fun e => s.candidate p e.1 e.2))

/-- CROSS_CORE_REPLAY (R311): the replay of the oldest pending task of a core has run on a partner. A sound partner that runs the task's bundles on its captured bytes forms the digest of a sound
original (R20, R312), so the replay's digest is the original's but for `fault`, the bits that a fault of either core inverts (assumption log 115). -/
def execCrossCoreReplay (core fault : Nat) (s : State) : Host.Outcome State Fault Refusal :=
  .next (match s.care.replays.find? (fun r => decide (r.core = core)) with
    | none => s
    | some r =>
      match s.replayOn r with
      | none => s
      | some p =>
        if !s.mayReplay p r then s
        else
          let r' := { r with results := r.results ++ [(p, r.digest ^^^ fault % 2 ^ 64)] }
          ({ s with care := { s.care with replays := s.care.replays.map (fun x => if x = r then r' else x) } }).count 1 .rplReplayed 1)

/-- The record of a replay mismatch, and the fence of the core at fault (R313). -/
def State.replayFault (s : State) (r : Replay) (bad other : Nat) : State :=
  let s := s.record { (s.ctxRec 0x1B 4 r.task.ctx).unit 2 (bad / 8) bad 0 with queue := r.task.queue, taskId := descTaskId r.task.desc, syndrome := r.digest + other * 2 ^ 64 }
  s.fenceCore bad 0x1B true

/-- Remove a replay. -/
def State.dropReplay (s : State) (r : Replay) : State := { s with care := { s.care with replays := s.care.replays.erase r } }

/-- Mark a core for in-field test at the next opportunity. -/
def State.markTest (s : State) (c : Nat) : State := { s with care := { s.care with wantTest := s.care.wantTest ++ [c] } }

/-- REPLAY_COMPARE (R313): the partner's digest is compared with the original; a difference leads to a second replay, and that to a fence. -/
def execReplayCompare (core : Nat) (s : State) : Host.Outcome State Fault Refusal :=
  .next (match s.care.replays.find? (fun r => decide (r.core = core) && !r.results.isEmpty) with
    | none => s
    | some r =>
      match r.results with
      | [] => s
      | [(p1, d1)] =>
        if d1 = r.digest then s.dropReplay r
        else
          let more := ((s.ctx r.task.ctx).partners core).filter (fun p => !s.fencedCore p && decide (p ≠ p1))
          if more.isEmpty then (((s.dropReplay r).count 1 .rplMismatch 1).replayFault r core d1).markTest p1
          else s
      | (p1, d1) :: (_, d2) :: _ =>
        if d1 = r.digest then s.dropReplay r else
        let s := (s.dropReplay r).count 1 .rplMismatch 1
        if d2 = r.digest then s.replayFault r p1 d1
        else if d2 = d1 then s.replayFault r core d1
        else (s.replayFault r core d1).markTest p1)

end Sys2Proof.Machine
end

