-- ==== Sys2Proof/Machine/Lifecycle.lean ====
section
/-! DEFINITION. Submission, yielding, resuming, evicting and unloading contexts, sequences, versions and evaluation bindings (R219, R280, R287 to R302, R361). -/

namespace Sys2Proof.Machine

/-! ### Submission (R280) -/

/-- Whether a new tail is accepted: the new occupancy is at most the ring and not less than the old. -/
def tailOk (head tail new lg : Nat) : Bool :=
  let o := (tail + 65536 - head) % 65536
  let w := (new + 65536 - head) % 65536
  decide (w ≤ 2 ^ lg ∧ o ≤ w)

/-- CTX_DOORBELL (R280): queue in bits [15:0], new tail in [31:16]; any doorbell that is not accepted is a range error. -/
def execCtxDoorbell (master ctx : Nat) (value : W64) (s : State) : Host.Outcome State Fault Refusal :=
  let id := bitsOf value.toNat 15 0
  let tail := bitsOf value.toNat 31 16
  .next (if 64 ≤ ctx then s
    else if !s.mayCommand ctx master then s.blkErr (ctxPage ctx) 5
    else match s.queue id with
      | none => s.blkErr (ctxPage ctx) 0
      | some q =>
        if q.ctx ≠ ctx ∨ !tailOk q.head q.tail tail q.lg then s.blkErr (ctxPage ctx) 0
        else { s with queues := tset s.queues id { q with tail := tail } })

/-- COLLECTIVE_QUEUE_TAIL (R234, R280): a write of CTX_CQn.tail. -/
def execCollectiveQueueTail (master ctx cq value : Nat) (s : State) : Host.Outcome State Fault Refusal :=
  .next (if 64 ≤ ctx then s
    else if !s.mayCommand ctx master then s.blkErr (ctxPage ctx) 5
    else match tfind (s.ctx ctx).cqs cq with
      | none => s.blkErr (ctxPage ctx) 0
      | some q =>
        if !tailOk q.head q.tail (value % 65536) q.lg then s.blkErr (ctxPage ctx) 0
        else s.modCtx ctx (fun c => { c with cqs := tset c.cqs cq { q with tail := value % 65536 } }))

/-- CTX_RCPT_READ_ADVANCE (R361): a write of rd, accepted while wr − rd does not exceed the ring. -/
def execCtxRcptReadAdvance (master ctx rd : Nat) (s : State) : Host.Outcome State Fault Refusal :=
  .next (if 64 ≤ ctx then s
    else if !s.mayCommand ctx master then s.blkErr (ctxPage ctx) 5
    else
      let lg := s.regs.field (ctxPage ctx) 0x884 23 16
      let rd := rd % 2 ^ 32
      if 2 ^ lg < ((s.ctx ctx).mem.rcptWr + 2 ^ 32 - rd) % 2 ^ 32 then s.blkErr (ctxPage ctx) 0
      else s.modCtx ctx (fun c => { c with mem := { c.mem with rcptRd := rd } }))

/-! ### Unload (R294) -/

/-- UNLOAD: the drain begins. -/
def execUnload (master ctx tag : Nat) (args : List Nat) (s : State) : Host.Outcome State Fault Refusal :=
  .next (s.command master ctx 0x04 tag args (fun s => if (s.ctx ctx).state = 0 then s.cmdDone ctx 0x41 none else s.startUnload ctx))

/-- UNLOAD_DRAIN_LIMIT (R294): 40 ms of local time after the issue, tasks still running end with 0x17 and everything is released. -/
def execUnloadDrainLimit (ctx : Nat) (s : State) : Host.Outcome State Fault Refusal :=
  .next (match (s.ctx ctx).st.unloadAt with
    | none => s
    | some t => if s.now < t + 4000000 then s else ((s.runningOn ctx).foldl (fun s c => s.endTask c 0x17) s).finishUnload ctx)

/-! ### Resume (R286, R287, R293) -/

/-- The initial step boundary (R286): snapshot, view of the current versions, the committed step before CTX_STEP, which is marked initial; it completes on the coordinator's release (hold 4). While a commit_pub
region finds no slot or room for its pending version it waits (hold 5, R219). -/
def State.initialBoundary (s : State) (n : Nat) : State :=
  let s := s.takeSnapshot n
  let pend := s.pendingNow n
  let o := s.openCommitPub n
  let s := o.1
  let named := (s.regions.filter (fun g => (decide (g.2.owner = n) && !g.2.shared) || (g.2.shared && g.2.mapped.contains n))).map (fun g => (g.1, g.2.cur))
  s.modCtx n (fun c => { c with
    mem := { c.mem with view := named, pendAt := pend }
    job := { c.job with committed := (c.st.step + 2 ^ 64 - 1) % 2 ^ 64, initial := true, recWritten := false, reported := false, released := false, reports := [] }
    st := { c.st with hold := if o.2 then 4 else 5 } })

/-- A yielded context runs again (R293): its state is RUNNING, the yielded time is excluded, and a RESUME in progress completes. -/
def State.resumeNow (s : State) (n : Nat) : State :=
  let s := s.modCtx n (fun c => { c with
    state := 2
    st := { c.st with yieldedSum := c.st.yieldedSum + (match c.st.yieldedAt with | some y => s.now - y | none => 0), yieldedAt := none, point := 0, deadlines := [] } })
  let s := s.notify n 19
  if (s.ctx n).cmd.busy ∧ (s.ctx n).cmd.op = 5 then s.cmdDone n 0 none else s

/-- When the last yield source of a YIELDED context has ended it resumes; with a restart pending, that restart begins (R292, R320). -/
def State.resumeIfFree (s : State) (n : Nat) : State :=
  if (s.ctx n).ysrc ≠ 0 ∨ (s.ctx n).state ≠ 4 ∨ (s.ctx n).job.held then s
  else if (s.ctx n).job.restartPend then
    let s := s.modCtx n (fun c => { c with state := 6, job := { c.job with restartPend := false } })
    s.beginRestart n (s.ctx n).job.stopCause true
  else s.resumeNow n

/-- RESUME (R286, R287, R293, R297): the host source ends; a context just loaded takes its initial boundary at its first RESUME, whatever sources remain. -/
def execResume (master ctx tag : Nat) (args : List Nat) (s : State) : Host.Outcome State Fault Refusal :=
  .next (s.command master ctx 0x05 tag args (fun s =>
    let c := s.ctx ctx
    if c.state ≠ 4 ∧ (c.state ≠ 5 ∨ c.errStop) then s.cmdDone ctx 0x41 none
    else
      let seedOk := match c.job.seedDigest with | none => true | some d => decide (c.seedMask = 0xFF ∧ sha256 c.seedBytes = d)
      if !seedOk then s.cmdDone ctx 0x0B none
      else
        let s := s.endSource ctx 0
        let s := if (s.ctx ctx).state = 5 ∧ (s.ctx ctx).st.hold < 4 ∧ !(s.ctx ctx).job.held then s.initialBoundary ctx else s
        if (s.ctx ctx).ysrc ≠ 0 then s.cmdDone ctx 0 none
        else if (s.ctx ctx).state = 5 then s
        else s.resumeIfFree ctx))

/-! ### Yield (R287 to R290) -/

/-- Units of local time in one millisecond. -/
def ms : Nat := 100000

/-- YIELD (R288): a host request with mode and hold. -/
def execYield (master ctx tag : Nat) (args : List Nat) (s : State) : Host.Outcome State Fault Refusal :=
  .next (s.command master ctx 0x06 tag args (fun s =>
    if (s.ctx ctx).state ≠ 2 then s.cmdDone ctx 0x41 none
    else if 1 < s.arg ctx 0 ∨ 50 < s.arg ctx 1 then s.cmdDone ctx 0x43 none
    else s.yieldRequest ctx 0 (s.arg ctx 0) (s.arg ctx 1 * ms)))

/-- YIELD_N_FALL (R287): the pin has been low past its filter; every loaded context with pin_en yields. -/
def execYieldNFall (s : State) : Host.Outcome State Fault Refusal :=
  .next (if !s.pins.yieldFiltered then s
    else
      let s := { s with pins := { s.pins with yieldFiltered := false } }
      (s.loadedCtxs.filter (fun n => decide (s.regs.field (ctxPage n) 0x48 0 0 = 1))).foldl
        (fun s n => s.yieldRequest n 1 (s.regs.field (ctxPage n) 0x48 1 1) (s.regs.field (ctxPage n) 0x48 15 8 * ms)) s)

/-- YIELD_N_RISE (R287): the pin source of every context ends. -/
def execYieldNRise (s : State) : Host.Outcome State Fault Refusal :=
  .next (
    let s := { s with pins := { s.pins with yieldFiltered := true } }
    (s.loadedCtxs.filter (fun n => bitOf (s.ctx n).ysrc 1)).foldl
      (fun s n => (s.endSource n 1).resumeIfFree n) s)

/-- YIELD_MESSAGE (R289, R16): another member gives a pull-in (mode 0; 2 where it relays a yield whose deadline has passed), or the boundary of a step with the hold remaining in µs (mode 1; 3 with no
deadline); another generation is discarded. No yield divides a commit (R16): at a boundary that is held it takes effect there. -/
def execYieldMessage (ctx member gen mode step hold : Nat) (s : State) : Host.Outcome State Fault Refusal :=
  .next (if 64 ≤ ctx ∨ !(s.peersOf ctx).contains member then s
    else if gen ≠ (s.ctx ctx).job.gen then s.discard ctx
    else
      let s := s.modCtx ctx (fun c => { c with ysrc := c.ysrc ||| 4 })
      if (s.ctx ctx).state ≠ 2 then s
      else if mode % 2 = 1 ∧ (s.ctx ctx).st.step ≤ step then s.setPoint ctx 2 step (2, if mode = 1 then some (s.now + hold * 100) else none)
      else s.setPoint ctx 2 (s.boundaryStep ctx) (if s.inCommit ctx then 2 else 1, none))

/-- RESUME_MESSAGE (R289): the link source ends. -/
def execResumeMessage (ctx member gen : Nat) (s : State) : Host.Outcome State Fault Refusal :=
  .next (if 64 ≤ ctx ∨ !(s.peersOf ctx).contains member then s
    else if gen ≠ (s.ctx ctx).job.gen then s.discard ctx
    else (s.endSource ctx 2).resumeIfFree ctx)

/-- YIELD_HOLD_DEADLINE (R288, R289): the deadline of a hold has passed before the boundary; the context pulls in, and tells the other members as one where the yield begins does. In its commit phase it waits for the
boundary (R16). -/
def execYieldHoldDeadline (ctx : Nat) (s : State) : Host.Outcome State Fault Refusal :=
  .next (if (s.ctx ctx).state ≠ 2 ∨ (s.ctx ctx).st.point ≠ 2 ∨ (s.ctx ctx).st.deadlines.all (fun d => decide (s.now ≤ d.2)) ∨ s.inCommit ctx then s
    else ((s.tellYield ctx 2 0).originate ctx).startDrain ctx)

/-! ### Evict (R296) -/

/-- Which of its two buddies device `b` is to member `a`: 0 the next member in manifest order, else 1 (R329). -/
def State.buddyNo (s : State) (n a b : Nat) : Nat :=
  match (s.ctx n).job.man with
  | none => 0
  | some m => if m.members.getD ((m.members.idxOf a + 1) % m.members.length) a = b then 0 else 1

/-- Where the save record of a context that has this device as buddy `i` stands in its Bureau area: the stack and the offset (assumption log 148). -/
def recordPlace (c i : Nat) : Nat × Nat := (1 + c / 16, userFrames * 65536 + c % 16 * 2 ^ 19 + i * 2 ^ 18)

/-- The same as a remote address. -/
def buddyRecordAddr (d c i : Nat) : Nat := 0x400000000000 + d * 2 ^ 40 + (recordPlace c i).1 * 2 ^ 36 + (recordPlace c i).2

/-- A YIELDED context is evicted (R296): its save record of the last committed step goes to each valid buddy, and it is unloaded; or into its partition, and it stays YIELDED. -/
def State.doEvict (s : State) (n target : Nat) : State :=
  let rec1 := s.saveRecord n (s.ctx n).job.committed (s.ctx n).mem.snapshot s.versionOf
  let s := s.modCtx n (fun c => { c with st := { c.st with evict := none } })
  if target = 0 then
    let bs := s.buddiesOf n
    let s := s.sendAll (bs.map (fun d => .mgmt d msgSaveRecord (peerCtx (s.ctx n) d :: rec1.map (·.toNat))))
    let s := s.modCtx n (fun c => { c with cmd := { c.cmd with phase := match bs with | d :: _ => buddyRecordAddr d (peerCtx (s.ctx n) d) (s.buddyNo n s.cab d) | [] => 0 } })
    s.startUnload n
  else
    match s.allocRun n false none (versionFrames 1 rec1.length) with
    | none => s.cmdDone n 0x06 none
    | some (s, f) => (s.devWrite n (runAddr 1 0 f) rec1).cmdDone n 0 (some (runAddr 1 0 f))

/-- EVICT (R296): the context yields by R288 and its record is written when it is YIELDED. -/
def execEvict (master ctx tag : Nat) (args : List Nat) (s : State) : Host.Outcome State Fault Refusal :=
  .next (s.command master ctx 0x08 tag args (fun s =>
    if (s.ctx ctx).state ≠ 2 ∧ (s.ctx ctx).state ≠ 4 then s.cmdDone ctx 0x41 none
    else if 1 < s.arg ctx 0 ∨ 50 < s.arg ctx 1 then s.cmdDone ctx 0x43 none
    else if (s.ctx ctx).state = 4 then (s.modCtx ctx (fun c => { c with ysrc := c.ysrc ||| 1 })).doEvict ctx (s.arg ctx 0)
    else (s.modCtx ctx (fun c => { c with st := { c.st with evict := some (s.arg ctx 0) } })).yieldRequest ctx 0 1 (s.arg ctx 1 * ms)))

/-- The drain of a context has ended (R290, step 5): it is YIELDED and its host notified; a YIELD completes, an EVICT goes on, an UNLOAD releases. It resumes at
once where its last source ended while it drained (R287). -/
def State.enterYielded (s : State) (n : Nat) : State :=
  if (s.ctx n).st.unloadAt.isSome then s.finishUnload n
  else
    let s := (s.modCtx n (fun c => { c with state := 4, st := { c.st with yieldedAt := some s.now, point := 0, deadlines := [] } })).notify n 19
    match (s.ctx n).st.evict with
    | some t => s.doEvict n t
    | none => (if (s.ctx n).cmd.busy ∧ (s.ctx n).cmd.op = 6 then s.cmdDone n 0 none else s).resumeIfFree n

/-- YIELD_DRAIN_COMPLETE (R290): no task of a DRAINING context is in flight, its pieces are delivered and its credits are back. -/
def execYieldDrainComplete (ctx : Nat) (s : State) : Host.Outcome State Fault Refusal :=
  .next (if 64 ≤ ctx ∨ (s.ctx ctx).state ≠ 3 ∨ !s.drained ctx then s else s.enterYielded ctx)

/-- RESTART (R319): an error-stopped context restarts from its last committed step; the allowances of the step stay as they are (R449). -/
def execRestart (master ctx tag : Nat) (args : List Nat) (s : State) : Host.Outcome State Fault Refusal :=
  .next (s.command master ctx 0x07 tag args (fun s =>
    if (s.ctx ctx).state ≠ 5 ∨ !(s.ctx ctx).errStop then s.cmdDone ctx 0x41 none
    else
      let s := s.modCtx ctx (fun c => { c with state := 6, errStop := false, job := { c.job with unsettled := false } })
      (s.beginRestart ctx (s.ctx ctx).job.stopCause false).cmdDone ctx 0 none))

/-! ### Sequences (R298) -/

/-- JOIN (R298): a sequence ID, its length in tokens and its frames enter the pending list. -/
def execJoin (master ctx tag : Nat) (args : List Nat) (s : State) : Host.Outcome State Fault Refusal :=
  .next (s.command master ctx 0x09 tag args (fun s =>
    let m := (s.ctx ctx).mem
    let id := s.arg ctx 0
    let len := s.arg ctx 1
    let frames := s.arg ctx 2
    if !(s.ctx ctx).loaded then s.cmdDone ctx 0x41 none
    else if 262144 < len then s.cmdDone ctx 0x07 none
    else if s.quota ctx < frames then s.cmdDone ctx 0x06 none
    else if 2 ^ 32 ≤ id ∨ m.joins.any (fun j => decide (j.id = id)) ∨ m.admitted.any (fun j => decide (j.id = id)) then s.cmdDone ctx 0x43 none
    else if 1024 ≤ m.joins.length + m.leaves.length then s.cmdDone ctx 0x40 none
    else (s.modCtx ctx (fun c => { c with mem := { c.mem with joins := c.mem.joins ++ [⟨id, len, frames, 0⟩] } })).cmdDone ctx 0 none))

/-- LEAVE (R298): an admitted sequence's leave enters the pending list; a leave of an ID that is only pending cancels that join; any other ID is out of range (assumption log 38). -/
def execLeave (master ctx tag : Nat) (args : List Nat) (s : State) : Host.Outcome State Fault Refusal :=
  .next (s.command master ctx 0x0A tag args (fun s =>
    let m := (s.ctx ctx).mem
    let id := s.arg ctx 0
    if !(s.ctx ctx).loaded then s.cmdDone ctx 0x41 none
    else if m.joins.any (fun j => decide (j.id = id)) then
      (s.modCtx ctx (fun c => { c with mem := { c.mem with joins := c.mem.joins.filter (fun j => decide (j.id ≠ id)) } })).cmdDone ctx 0 none
    else if !m.admitted.any (fun j => decide (j.id = id)) ∨ m.leaves.contains id then s.cmdDone ctx 0x43 none
    else if 1024 ≤ m.joins.length + m.leaves.length then s.cmdDone ctx 0x40 none
    else (s.modCtx ctx (fun c => { c with mem := { c.mem with leaves := c.mem.leaves ++ [id] } })).cmdDone ctx 0 none))

/-! ### Versions (R219, R450) -/

/-- VER_OPEN (R219, R450): a pending version in a free slot. -/
def execVerOpen (master ctx tag : Nat) (args : List Nat) (s : State) : Host.Outcome State Fault Refusal :=
  .next (s.command master ctx 0x0B tag args (fun s =>
    let r := s.arg ctx 0
    if !(s.ctx ctx).loaded then s.cmdDone ctx 0x41 none
    else if !s.mayName ctx r then s.cmdDone ctx 0x43 none
    else match s.region r with
      | none => s.cmdDone ctx 0x43 none
      | some g =>
        if g.pend < 3 then s.cmdDone ctx 0x40 none
        else if !g.shared ∧ s.quota ctx < (s.partition ctx).length + versionFrames g.win g.size then s.cmdDone ctx 0x06 none
        else match s.openVersion r with
          | none => s.cmdDone ctx 0x40 none
          | some s => s.cmdDone ctx 0 (some (match s.region r with | some g => g.base g.pend | none => 0))))

/-- VER_PUBLISH (R219, R450): the publication of a pending version is asked for. -/
def execVerPublish (master ctx tag : Nat) (args : List Nat) (s : State) : Host.Outcome State Fault Refusal :=
  .next (s.command master ctx 0x0C tag args (fun s =>
    let r := s.arg ctx 0
    if !(s.ctx ctx).loaded then s.cmdDone ctx 0x41 none
    else if !s.mayName ctx r then s.cmdDone ctx 0x43 none
    else match s.region r with
      | none => s.cmdDone ctx 0x43 none
      | some g => if 3 ≤ g.pend then s.cmdDone ctx 0x41 none else s.setRegion r { g with publishing := true }))

/-- Every write to the pending slot of a region has been acknowledged: no copy is on its way on a core of a context that may write it, and its owner's mirror writes are acknowledged. -/
def State.writesDone (s : State) (r : Nat) (g : Region) : Bool :=
  s.cores.all (fun c => c.2.copies.isEmpty || (match c.2.run with | some t => !s.mayName t.ctx r | none => true)) && (g.shared || decide ((s.ctx g.owner).mem.unackedSum = 0))

/-- PUBLISH_COMPLETE (R219, R357): the frames become read-only, the digest is formed, the version is current; the commands that asked for it complete with its number. A lockstep
mismatch of the hash unit fences it and aborts the region's context (R306). -/
def execPublishComplete (region : Nat) (lockstep : Bool) (s : State) : Host.Outcome State Fault Refusal :=
  .next (match s.region region with
    | none => s
    | some g =>
      if !g.publishing ∨ !s.writesDone region g then s
      else if lockstep then (s.copyFault 16 64 true).abortCtx g.owner 0x05 false
      else
        let s := s.publish region
        let v := s.versionOf region
        let asked := (s.ctxs.filter (fun c => c.2.cmd.busy && decide (c.2.cmd.op = 0x0C ∧ c.2.cmd.args.getD 0 0 = region))).map (·.1)
        asked.foldl (fun s n => s.cmdDone n 0 (some v)) s)

/-- VERSION_RELEASE (R218): a draining slot that nothing holds bound is released. -/
def execVersionRelease (region slot : Nat) (s : State) : Host.Outcome State Fault Refusal :=
  .next (match s.region region with
    | none => s
    | some g => if g.slot slot ≠ 3 ∨ s.slotHeld region slot then s else s.releaseSlot region slot)

/-! ### Evaluation (R301, R302) -/

/-- EVAL_BIND (R301): a training context, four region IDs and hold_train; the binding is made at the training context's next step boundary, beside those made before it, which stand until EVAL_RELEASE. -/
def execEvalBind (master ctx tag : Nat) (args : List Nat) (s : State) : Host.Outcome State Fault Refusal :=
  .next (s.command master ctx 0x0D tag args (fun s =>
    let t := s.arg ctx 0
    let rs := ((List.range 4).map (fun i => s.arg ctx (1 + i))).filter (fun r => decide (r ≠ 0xFFFF))
    if !(s.ctx ctx).loaded then s.cmdDone ctx 0x41 none
    else if 64 ≤ t ∨ t = ctx ∨ 1 < s.arg ctx 5 then s.cmdDone ctx 0x43 none
    else if master ≠ 0x8000 ∧ master ≠ 0xF000 ∧ s.ownerFn t ≠ s.ownerFn ctx then s.cmdDone ctx 0x42 none
    else if !(s.ctx t).loaded then s.cmdDone ctx 0x41 none
    else if rs.any (fun r => !s.mayName t r) then s.cmdDone ctx 0x43 none
    else s.modCtx ctx (fun c => { c with mem := { c.mem with evals := ⟨t, rs, decide (s.arg ctx 5 = 1), false, []⟩ :: c.mem.evals.filter (·.made) } })))

/-- The bindings that wait for a training context's boundary are made (R301): each named region's current version, with read access for the evaluation context; its EVAL_BIND completes. True
where one of them holds the training context. -/
def State.makeBindings (s : State) (t : Nat) : State × Bool :=
  let es := (s.ctxs.filter (fun c => c.2.mem.evals.any (fun b => decide (b.train = t) && !b.made) && c.2.cmd.busy && decide (c.2.cmd.op = 0x0D))).map (·.1)
  es.foldl (fun (a : State × Bool) e =>
    let new := (a.1.ctx e).mem.evals.filter (fun b => !b.made)
    let rs := new.flatMap (·.regions)
    let bound := rs.filterMap (fun r => (a.1.region r).map (fun g => (r, g.cur)))
    let s := a.1.modCtx e (fun c => { c with mem := { c.mem with evals := c.mem.evals.map (fun b => if b.made then b else { b with made := true, bound := bound }) } })
    let s := bound.foldl (fun s x =>
      match s.region x.1 with
      | none => s
      | some g =>
        let f := addrFrame g.win (g.base x.2)
        s.grantAll stackPages (aclEntry 0 0x2FFF (some e) f (f + versionFrames g.win g.size - 1) [.r] true)) s
    (s.cmdDone e 0 none, a.2 || new.any (·.hold))) (s, false)

/-- Some evaluation context holds a training context at its boundary. -/
def State.evalHolds (s : State) (t : Nat) : Bool :=
  s.ctxs.any (fun c => c.2.mem.evals.any (fun b => decide (b.train = t) && b.hold && b.made))

/-- EVAL_RELEASE (R302): the access and the bindings end, draining slots are released, and a held training context may go on. -/
def execEvalRelease (master ctx tag : Nat) (args : List Nat) (s : State) : Host.Outcome State Fault Refusal :=
  .next (s.command master ctx 0x0E tag args (fun s =>
    match (s.ctx ctx).mem.evals with
    | [] => s.cmdDone ctx 0x41 none
    | _ :: _ =>
      let bound := evalSlots (s.ctx ctx).mem.evals
      let s := s.revoke (fun _ e => aclOf ctx e && bitOf e 44)
      let s := s.modCtx ctx (fun c => { c with mem := { c.mem with evals := [] } })
      let s := bound.foldl (fun s x =>
        match s.region x.1 with
        | some g => if g.slot x.2 = 3 ∧ !s.slotHeld x.1 x.2 then s.releaseSlot x.1 x.2 else s
        | none => s) s
      s.cmdDone ctx 0 none))

end Sys2Proof.Machine
end

