-- ==== Sys2Proof/Machine/Steps.lean ====
section
/-! DEFINITION. Commit, step boundary and receipts (R15, R285, R286, R299, R300, R318, R329, R356 to R362). -/

namespace Sys2Proof.Machine

/-! ### Commit (R318, R329) -/

/-- The step that a context is committing: CTX_STEP, or at the initial boundary the step before it. -/
def State.stepToCommit (s : State) (n : Nat) : Nat := if (s.ctx n).st.hold = 4 then (s.ctx n).job.committed else (s.ctx n).st.step

/-- The context waits to commit: its step work is done, or it takes its initial boundary. A context that has no step queue reaches no boundary (assumption log 39). -/
def State.commitDue (s : State) (n : Nat) : Bool :=
  decide ((s.ctx n).st.hold = 4) || (decide ((s.ctx n).state = 6) && (s.ctx n).job.reported && (!(s.ctx n).job.drained || (s.ctx n).job.unsettled) && !(s.ctx n).job.released) ||
    (decide ((s.ctx n).state = 2 ∧ (s.ctx n).st.hold = 0) && s.stepDone n && (s.queuesOf n).any (fun q => q.2.step) && !(s.ctx n).job.released)

/-- The commit record of this member (R329): a save record of the step being committed. -/
def State.commitRecord (s : State) (n : Nat) : List Byte := s.saveRecord n (s.stepToCommit n) (s.counterValues n) s.commitVersion

/-- A member's record is kept in its buddy's Bureau area, and beside it the one before it, which stays the record of the committed step until the next commit (R296, R329). -/
def State.keepRecord (s : State) (d n : Nat) (bs : List Byte) : State :=
  let k := d * 64 + n
  let old := tget [] s.care.records k
  let recs := if old = [] ∨ fld old 104 8 = fld bs 104 8 then s.care.records else tset s.care.records (8192 + k) old
  let x := recordPlace n (s.buddyNo n d s.cab)
  State.memWrite { s with care := { s.care with records := tset recs k bs } } x.1 x.2 bs

/-- COMMIT_RECORD_WRITE (R296, R329): this member's commit record is written to every valid buddy, whose acknowledgement counts with those of the mirror writes; or a member whose frames this device mirrors has
written its record here, of a commit or an eviction, which is acknowledged. -/
def execCommitRecordWrite (ctx : Nat) (src : Option (Nat × List Byte)) (s : State) : Host.Outcome State Fault Refusal :=
  .next (if 64 ≤ ctx then s
    else match src with
      | some (d, bs) =>
        if (s.peersOf ctx).contains d ∨ (s.ctx ctx).state = 0 then (s.keepRecord d ctx bs).send (.response d 0 []) else s
      | none =>
        if !s.commitDue ctx ∨ (s.ctx ctx).job.recWritten then s
        else
          let bs := (s.commitRecord ctx).map (·.toNat)
          let s := s.sendAll ((s.buddiesOf ctx).map (fun d => .mgmt d msgCommitRecord (peerCtx (s.ctx ctx) d :: bs)))
          let owed := (s.buddiesOf ctx).foldl (fun t d => tput 0 t d (tget 0 t d + 1)) (s.ctx ctx).mem.unacked
          s.modCtx ctx (fun c => { c with job := { c.job with recWritten := true }, mem := { c.mem with unacked := owed } }))

/-- An atomic line buffer holds a line of a mirrored frame of the context, which its mirrors do not have yet (R15, R204). -/
def State.linesHeld (s : State) (n : Nat) : Bool :=
  s.care.linebufs.any (fun l => decide (feOwner (s.frame (frameOf l.2)) = n) && feMirror (s.frame (frameOf l.2)))

/-- COMMIT_REPORT (R318): this member reports when its record and its mirror writes are acknowledged and no repair is pending (R327); the coordinator notes each member's report. -/
def execCommitReport (ctx member step : Nat) (s : State) : Host.Outcome State Fault Refusal :=
  let c := s.ctx ctx
  let note := fun (s : State) => s.modCtx ctx (fun c => { c with job := { c.job with reports := if c.job.reports.contains member then c.job.reports else c.job.reports ++ [member] } })
  .next (if 64 ≤ ctx ∨ !c.loaded then s
    else if member = s.cab then
      if !s.commitDue ctx ∨ !c.job.recWritten ∨ c.job.reported ∨ c.mem.unackedSum ≠ 0 ∨ s.linesHeld ctx ∨ step ≠ s.stepToCommit ctx then s
      else
        let k := s.coordinatorOf ctx
        let s := s.modCtx ctx (fun c => { c with job := { c.job with reported := true } })
        if k = s.cab then note s else s.send (.sync k msgCommitReport [peerCtx (s.ctx ctx) k, (s.ctx ctx).job.gen, s.cab, step])
    else if s.coordinatorOf ctx = s.cab ∧ (s.peersOf ctx).contains member ∧ step = s.stepToCommit ctx then note s
    else s)

/-- The step is committed (R15, R318): it may pass its boundary; commit_pub versions are to be published; the allowance of restarts renews (R449). At the initial boundary the context runs and
its RESUME completes. -/
def State.commitStep (s : State) (n : Nat) : State :=
  if (s.ctx n).st.hold = 4 then
    let s := s.modCtx n (fun c => { c with
      state := if c.ysrc = 0 then 2 else 4
      job := { c.job with loadedFresh := false, recWritten := false, reported := false, released := false, reports := [] }
      st := { c.st with hold := 0, firstAt := none, yieldedSum := 0, yieldedAt := if c.ysrc = 0 then none else some s.now } })
    let s := s.notify n 19
    if (s.ctx n).cmd.busy ∧ (s.ctx n).cmd.op = 5 then s.cmdDone n 0 none else s
  else
    let s := (s.ownRegions n).foldl (fun s r =>
      match s.region r with
      | some g => if g.commitPub ∧ g.pend < 3 then s.setRegion r { g with publishing := true } else s
      | none => s) s
    (s.modCtx n (fun c =>
      let old := c.job.commits.filter (fun x => decide (s.now ≤ x.2 + c.detection))
      { c with job := { c.job with released := true, committed := c.st.step, initial := false, progAbort := false, hwRestarts := 0, commits := old ++ [(c.st.step, s.now)] } })).count
        1 .commitCount 1

/-! ### Receipts (R356 to R361) -/

/-- A digest record of 46 bytes (R358) with its key. -/
def digestRecord (task index len : Nat) (dig : List Byte) : Nat × List Byte :=
  (task * 65536 + index, leBytes 4 task ++ leBytes 2 index ++ leBytes 8 len ++ dig)

/-- The digest of a list of records, sorted by key. -/
def listDigest (l : List (Nat × List Byte)) : List Byte := sha256 ((sortBy (·.1) l).flatMap (·.2))

/-- The hashed copies of a shard with a kind. -/
def Ctx.hashRecs (c : Ctx) (shard kind : Nat) : List (Nat × List Byte) :=
  (c.mem.hashes.filter (fun h => decide (h.shard = shard ∧ h.kind = kind))).map (fun h => digestRecord h.task h.order h.len h.digest)

/-- The declared regions assigned to a shard or to every shard. -/
def Ctx.shardRegions (c : Ctx) (shard : Nat) : List RegionDecl := c.declared.filter (fun r => decide (r.shard = 0xFFFF ∨ r.shard = shard))

/-- The weights, inputs and outputs digests of a shard's step (Table 14.14). -/
def State.stepDigests (s : State) (n shard : Nat) : List Byte × List Byte × List Byte :=
  let c := s.ctx n
  let weights := ((c.shardRegions shard).filter (·.modelState)).filterMap (fun r =>
    (s.region r.id).map (fun g => digestRecord 0xFFFFFFFD r.id g.size (g.digests.getD ((tfind c.mem.view r.id).getD g.cur) [])))
  let outs := ((c.shardRegions shard).filter (·.commitPub)).filterMap (fun r =>
    (s.region r.id).bind (fun g => if g.owner = n ∧ tfind c.mem.view r.id ≠ some g.cur then some (digestRecord 0xFFFFFFFE r.id g.size (g.digests.getD g.cur [])) else none))
  let adm := if c.mem.admBuf = 0 ∨ c.mem.admRec.isEmpty then [] else [digestRecord 0xFFFFFFFF 0 c.mem.admRec.length (sha256 c.mem.admRec)]
  (listDigest (weights ++ c.hashRecs shard 2), listDigest (c.hashRecs shard 1 ++ adm), listDigest (outs ++ c.hashRecs shard 3))

/-- The status bits of a receipt (Table 14.13). -/
def State.receiptBits (s : State) (n : Nat) : Nat :=
  let c := s.ctx n
  let strict := s.regs.strictActive
  let padded := match c.job.prog with | some p => decide (p.profile = 1) && s.root.b0 | none => false
  b2n strict + 2 * b2n (strict && !c.st.external) + 4 * b2n c.st.external + 8 * b2n c.job.recovered + 16 * b2n padded

/-- The receipt of a hosted shard for the step (Table 14.12). -/
def State.receipt (s : State) (n shard : Nat) : List Byte :=
  let c := s.ctx n
  match c.job.prog with
  | none => []
  | some p =>
    let d := s.stepDigests n shard
    p.planDigest ++ d.1 ++ d.2.1 ++ d.2.2 ++ sha256 c.seedBytes ++ leBytes 8 c.st.step ++ leBytes 2 p.shards ++ leBytes 2 shard ++
    leBytes 4 (tget (⟨0, 0, 0⟩ : Shard) c.shards shard).flags ++ p.imageDigest ++ leBytes 1 p.profile ++ leBytes 1 s.stepping ++ leBytes 2 (s.receiptBits n) ++ leBytes 16 s.root.devid ++
    leBytes 8 ((c.job.commits.getLast?).map (·.2) |>.getD s.now) ++ leBytes 2 1 ++ List.replicate 18 0

/-- Write one receipt into the ring (R361, Table 14.16) and queue it for signing where sign_every chooses its step (R362). -/
def State.storeReceipt (s : State) (n lg : Nat) (r : List Byte) : State :=
  let p := ctxPage n
  let base := s.regs.word p 0x880 + s.regs.field p 0x884 15 0 * 2 ^ 32
  let every := s.regs.field p 0x890 15 0
  let a := base + 1024 * ((s.ctx n).mem.rcptWr % 2 ^ lg)
  let chosen := decide (every ≠ 0) && decide ((s.ctx n).st.step % every = 0)
  let full := decide (1024 ≤ s.mgmt.signQ.length)
  let state := if !chosen then 0 else if full then 2 else 4
  let s := s.devWrite n a (r ++ List.replicate 384 0 ++ leBytes 8 state ++ List.replicate 376 0)
  let s := if chosen ∧ !full then { s with mgmt := { s.mgmt with signQ := s.mgmt.signQ ++ [(n, a)] } } else if chosen then s.count 4 .skipped 1 else s
  s.modCtx n (fun c => { c with mem := { c.mem with rcptWr := (c.mem.rcptWr + 1) % 2 ^ 32 } })

/-- Store waiting receipts while the ring has room; a context without a ring stores none. -/
def State.drainReceipts (n : Nat) : Nat → State → State
  | 0, s => s
  | k + 1, s =>
    match (s.ctx n).mem.rcptWait with
    | [] => s
    | r :: rest =>
      let lg := s.regs.field (ctxPage n) 0x884 23 16
      let pop := fun (s : State) => s.modCtx n (fun c => { c with mem := { c.mem with rcptWait := rest } })
      if lg = 0 then State.drainReceipts n k (pop s)
      else if 2 ^ lg ≤ ((s.ctx n).mem.rcptWr + 2 ^ 32 - (s.ctx n).mem.rcptRd) % 2 ^ 32 then s
      else State.drainReceipts n k ((pop s).storeReceipt n lg r)

/-- RECEIPT_SIGNED (R362): the oldest queued receipt is signed with the attestation key; an entry whose frame the context no longer owns is dropped. -/
def execReceiptSigned (s : State) : Host.Outcome State Fault Refusal :=
  .next (match s.mgmt.signQ with
    | [] => s
    | (n, a) :: rest =>
      let s := { s with mgmt := { s.mgmt with signQ := rest } }
      match s.decodeAddr a with
      | none => s
      | some (_, _, o) =>
        if feOwner (s.frame (frameOf o)) ≠ n ∨ !feAlloc (s.frame (frameOf o)) then s
        else
          let sig := beBytes 384 (Config.signature 1 (beNat (sha256 (s.devRead a 256))))
          ((s.devWrite n (a + 256) sig).devWrite n (a + 0x280) (leBytes 8 1)).count 4 .signed 1)

/-! ### The step boundary (R285) -/

/-- The pending leaves are processed (R299): their frames are free at once, zeroed before any queue resumes. -/
def State.doLeaves (s : State) (n : Nat) : State :=
  (sortBy id (s.ctx n).mem.leaves).foldl (fun s id =>
    match (s.ctx n).mem.admitted.find? (fun j => decide (j.id = id)) with
    | none => s
    | some j =>
      let fs := framesFrom (addrFrame 1 j.base) j.frames
      let s := fs.foldl (fun s f => (s.zeroFrame f).setFrame f 0) (s.invalidate fs)
      s.modCtx n (fun c => { c with mem := { c.mem with admitted := c.mem.admitted.filter (fun x => decide (x.id ≠ id)) } })) s

/-- The pending joins are processed in ascending ID (R299): the first that finds no run, no quota or no place blocks every later one. -/
def State.doJoins (s : State) (n : Nat) : State × List SeqRec :=
  let max := match (s.ctx n).job.prog with | some p => p.maxSeq | none => 0
  let r := (sortBy (·.id) (s.ctx n).mem.joins).foldl (fun (a : State × List SeqRec × Bool) j =>
    let s := a.1
    if a.2.2 ∨ s.quota n < (s.partition n).length + j.frames ∨ max ≤ (s.ctx n).mem.admitted.length then (s, a.2.1, true)
    else match s.allocRun n false none j.frames with
      | none => (s, a.2.1, true)
      | some (s, f) =>
        let j' := { j with base := runAddr 1 0 f }
        (s.modCtx n (fun c => { c with mem := { c.mem with admitted := c.mem.admitted ++ [j'], joins := c.mem.joins.filter (fun x => decide (x.id ≠ j.id)) } }), a.2.1 ++ [j'], false)) (s, [], false)
  (r.1, r.2.1)

/-- The admission record (R300) is written and the admission counter raised to the step. Its layout is the model's own (assumption log 40). -/
def State.admitSeqs (s : State) (n : Nat) : State :=
  let left := sortBy id (s.ctx n).mem.leaves
  let s := s.doLeaves n
  let r := s.doJoins n
  let s := r.1.modCtx n (fun c => { c with mem := { c.mem with leaves := [] } })
  match (s.ctx n).job.prog with
  | none => s
  | some p =>
    let bytes := leBytes 8 (s.ctx n).st.step ++ leBytes 4 r.2.length ++ leBytes 4 left.length ++ r.2.flatMap (fun j => leBytes 4 j.id ++ leBytes 4 j.len ++ leBytes 8 j.base) ++
      left.flatMap (leBytes 4 ·)
    let s := if p.admBytes = 0 then s else (s.devWrite n (s.ctx n).mem.admBuf (bytes.take p.admBytes)).modCtx n (fun c => { c with mem := { c.mem with admRec := bytes.take p.admBytes } })
    if p.admCtr = 0xFFFFFFFF then s else s.sendSignal n p.admCtr 2 (s.ctx n).st.step 0xF000

/-- Actions 2 and 3: flags clear, CTX_STEP, step_time and slip, the snapshot and the pointers of the committed boundary; then leaves and joins. -/
def State.passStep (s : State) (n : Nat) : State :=
  let s := s.modCtx n (fun c =>
    let t := c.st.reached
    { c with
      shards := c.shards.map (fun h => (h.1, { h.2 with flags := 0 }))
      cqs := c.cqs.map (fun q => (q.1, { q.2 with stepHead := q.2.head }))
      mem := { c.mem with hashes := [], pendAt := s.pendingNow n }
      job := { c.job with recWritten := false, reported := false, released := false, reports := [], recovered := false }
      st := { c.st with step := (c.st.step + 1) % 2 ^ 64, stepTime := t, slip := (t + 2 ^ 64 - c.st.stepPred) % 2 ^ 64, firstAt := none, yieldedSum := 0, external := false } })
  let s := { s with queues := s.queues.map (fun (q : Nat × Queue) => if q.2.ctx = n then (q.1, { q.2 with stepHead := q.2.head }) else q) }
  (s.takeSnapshot n).admitSeqs n

/-- The view of region versions at the boundary (R22, R218): the current slot of every region that the context may name. -/
def State.updateView (s : State) (n : Nat) : State :=
  let named := (s.regions.filter (fun g => (decide (g.2.owner = n) && !g.2.shared) || (g.2.shared && g.2.mapped.contains n))).map (fun g => (g.1, g.2.cur))
  s.modCtx n (fun c => { c with mem := { c.mem with view := named } })

/-- Action 5: a waiting yield or eviction takes effect; otherwise the step queues resume and notify[16] is set. -/
def State.leaveBoundary (s : State) (n : Nat) : State :=
  let s := s.modCtx n (fun c => { c with st := { c.st with hold := 0 } })
  let s := { s with queues := s.queues.map (fun (q : Nat × Queue) => if q.2.ctx = n then (q.1, { q.2 with paused := false }) else q) }
  if ((s.ctx n).st.point = 2 ∧ (s.ctx n).st.pointAt < (s.ctx n).st.step) ∨ (s.ctx n).st.evict.isSome then
    let s := s.startDrain n
    if s.drained n then s.enterYielded n else s
  else s.notify n 16

/-- A schedule switch that is due (R140, R157, R338): it takes place if every ring and endpoint is empty, else the context stops with a record of class 0x31. True where it stopped. -/
def State.switchAtBoundary (s : State) (n : Nat) : State × Bool :=
  match s.wantedSched n with
  | none => (s, false)
  | some k =>
    if k = (s.ctx n).job.sched then (s, false)
    else match s.streamsEmpty n with
      | some ring => ((s.record { s.ctxRec 0x31 2 n with syndrome := ring }).stopCtx n 0x31, true)
      | none => (s.loadSched n k, false)

/-- The rest of action 4 from the commit_pub openings on: an opening that finds no slot, or an evaluation that holds the training context, holds the boundary. -/
def State.boundaryFrom4 (s : State) (n : Nat) : State :=
  let o := s.openCommitPub n
  if !o.2 then o.1.modCtx n (fun c => { c with st := { c.st with hold := 1 } })
  else
    let b := o.1.makeBindings n
    let w := b.1.switchAtBoundary n
    if w.2 then w.1
    else if b.2 then w.1.modCtx n (fun c => { c with st := { c.st with hold := 2 } })
    else w.1.leaveBoundary n

/-- Actions 2 to 5, after the receipts. -/
def State.boundaryFrom2 (s : State) (n : Nat) : State := ((s.passStep n).updateView n).boundaryFrom4 n

/-- Receipts that wait are stored; while the ring is full the boundary waits at action 1. -/
def State.boundaryFrom1 (s : State) (n : Nat) : State :=
  let s := State.drainReceipts n ((s.ctx n).mem.rcptWait.length) s
  if (s.ctx n).mem.rcptWait.isEmpty then s.boundaryFrom2 n else s.modCtx n (fun c => { c with st := { c.st with hold := 3 } })

/-- STEP_BOUNDARY (R281, R285, R286): the step is committed and its versions are published: the actions run in order; a boundary that was held goes on where it waited. -/
def execStepBoundary (ctx : Nat) (s : State) : Host.Outcome State Fault Refusal :=
  let c := s.ctx ctx
  .next (if 64 ≤ ctx then s
    else if c.st.hold = 5 ∧ c.state = 5 then
      let o := s.openCommitPub ctx
      if o.2 then o.1.modCtx ctx (fun c => { c with st := { c.st with hold := 4 } }) else o.1
    else if c.state ≠ 2 then s
    else if c.st.hold = 3 then s.boundaryFrom1 ctx
    else if c.st.hold = 1 then s.boundaryFrom4 ctx
    else if c.st.hold = 2 then (if s.evalHolds ctx then s else s.leaveBoundary ctx)
    else if c.st.hold = 4 ∨ !c.job.released ∨ (s.ownRegions ctx).any (fun r => match s.region r with | some g => g.publishing && g.commitPub | none => false) then s
    else
      let s := s.modCtx ctx (fun c => { c with st := { c.st with reached := s.elapsed ctx } })
      let s := s.modCtx ctx (fun c => { c with mem := { c.mem with rcptWait := c.mem.rcptWait ++ c.hosted.map (fun i => s.receipt ctx i) } })
      s.boundaryFrom1 ctx)

end Sys2Proof.Machine
end

