-- ==== Sys2Proof/Machine/Recovery.lean ====
section
/-! DEFINITION. Aborts and restarts of a job, lost members and adoption, fencing requests, in-field tests (R319 to R324, R330, R333, R334, R338 to R340). -/

namespace Sys2Proof.Machine

/-! ### Messages of a job -/

/-- A message of a kind to the coordinator of a context's job. -/
def State.tellCoordinator (s : State) (n kind : Nat) (fields : List Nat) : State :=
  let k := s.coordinatorOf n
  if k = s.cab then s else s.send (s.memberMsg n k kind fields)

/-- This member stops with the job (R319): its record of class 0x47 names the member and class that led to it. -/
def State.stopHere (s : State) (n member cls : Nat) : State :=
  (s.record { s.ctxRec 0x47 2 n with syndrome := member % 128 + cls * 256 }).stopCtx n cls

/-! ### Lost members (R323, R330, R332, R333) -/

/-- The buddy that adopts the shards of member `d` (R333): buddy0, the next member in manifest order (assumption log 34), or if it is not live buddy1, the one after it. -/
def Ctx.adopterOf (c : Ctx) (d : Nat) : Option Nat :=
  match c.job.man with
  | none => none
  | some m =>
    let buddy := fun k => m.members.getD ((m.members.idxOf d + k) % m.members.length) d
    [buddy 1, buddy 2].find? (fun a => decide (a ≠ d) && !c.job.lost.contains a)

/-- The program holds an adoption schedule for a member that takes over the shards of another. -/
def Ctx.canAdopt (c : Ctx) (a d : Nat) : Bool :=
  match c.job.prog, c.job.man with
  | some p, some m => (p.schedFor ((m.shardsOf a).length + (m.shardsOf d).length) []).isSome
  | _, _ => false

/-- Member `d` is noted as lost in a context's job (R333). The next live member takes over from a lost coordinator and asks every member for its state (R319); the others report to it again. -/
def State.noteLost (s : State) (n d : Nat) : State :=
  let old := s.coordinatorOf n
  let s := s.modCtx n (fun c => { c with job := { c.job with lost := c.job.lost ++ [d], ready := c.job.ready.filter (fun x => decide (x ≠ d)) } })
  let new := s.coordinatorOf n
  let s := if old ≠ new ∧ new = s.cab then s.sendAll ((s.peersOf n).map (fun x => s.memberMsg n x msgStateRequest [s.cab])) else s
  if old ≠ new then s.modCtx n (fun c => { c with job := { c.job with readySent := false } }) else s

/-- Member `d` of a context's job is lost (R333), or relinquishes its shards: its buddy is to adopt them, and the context aborts; where there is no adopter the coordinator stops the job.
The limit of hardware restarts holds here too (R319); a context that is stopped or unloading answers as R320 has it. -/
def State.memberLost (s : State) (n d cls : Nat) : State :=
  match (s.ctx n).job.man with
  | none => s
  | some m =>
    if !m.members.contains d ∨ (s.ctx n).job.lost.contains d ∨ d = s.cab then s
    else
      let s := s.noteLost n d
      let new := s.coordinatorOf n
      let ok := match (s.ctx n).adopterOf d with | some a => (s.ctx n).canAdopt a d | none => false
      if (s.ctx n).st.unloadAt.isSome then s.tellCoordinator n msgRelinquish [s.cab]
      else if !ok then (if new = s.cab ∧ (s.ctx n).state ≠ 0 then s.stopJob n d cls true else s)
      else if (s.ctx n).state = 5 ∧ (s.ctx n).errStop then
        (if new = s.cab then s.stopJob n s.cab (s.ctx n).job.stopCause false else s.tellCoordinator n msgStateAnswer [s.cab, 5, (s.ctx n).job.stopCause])
      else if new = s.cab ∧ (s.ctx n).abortAction false = 2 then s.stopJob n d cls false
      else
        let s := if (s.ctx n).adopterOf d = some s.cab then s.modCtx n (fun c => { c with job := { c.job with adopt := c.job.adopt ++ [d] } }) else s
        s.abortWith n cls false false

/-- This device can no longer run its part of a job (R323, R332): it tells the members, and unloads its context. -/
def State.relinquish (s : State) (n : Nat) : State :=
  (s.sendAll ((s.peersOf n).map (fun d => s.memberMsg n d msgRelinquish [s.cab]))).startUnload n

/-- Every mirror map entry that names a lost buddy loses its valid bit (R330); the record says whether this device now runs unmirrored. The writes that the buddy owed an acknowledgement for are
no longer waited for. -/
def State.buddyLost (s : State) (d : Nat) : State :=
  let words := (List.range 16).flatMap (fun k => (List.range 256).map (fun m => (stackPage k, 0x800 + 8 * m)))
  let hit := words.filter (fun w => let v := s.regs.word w.1 w.2; (bitOf v 7 && decide (v % 128 = d)) || (bitOf v 15 && decide (bitsOf v 14 8 = d)))
  if hit.isEmpty then s
  else
    let regs := hit.foldl (fun (r : Regs) w =>
      let v := r.word w.1 w.2
      let v := if bitOf v 7 ∧ v % 128 = d then v - 2 ^ 7 else v
      r.setWord w.1 w.2 (if bitOf v 15 ∧ bitsOf v 14 8 = d then v - 2 ^ 15 else v)) s.regs
    let s : State := { s with regs := regs }
    let bare := hit.any (fun w => let v := s.regs.word w.1 w.2; !bitOf v 7 && !bitOf v 15)
    let s := s.record { s.mkRec 0x44 0 with syndrome := d + b2n bare * 128 }
    { s with ctxs := s.ctxs.map (fun (c : Nat × Ctx) => (c.1, { c.2 with mem := { c.2.mem with unacked := tdel c.2.mem.unacked d } })) }

/-- A job whose live members this device cannot all reach stops on every member (R334). -/
def State.splitJobs (s : State) (lost cls : Nat) : State :=
  s.loadedCtxs.foldl (fun s n => if (s.peersOf n).any (fun d => !bitOf (s.routeEntry d) 3) then s.stopJob n lost cls false else s) s

/-- A device of the Cabinet is lost (R331, R333): routes avoid it, it is no buddy any more, and every job it is a member of goes on without it. The first notice decides. A device that learns that it
has been declared lost goes offline. -/
def State.deviceLost (s : State) (d : Nat) : State :=
  if d = s.cab then s.goOffline
  else if s.care.lostDevs.contains d then s
  else
    let s : State := { s with care := { s.care with
      lostDevs := s.care.lostDevs ++ [d], protos := tdel s.care.protos d, present := s.care.present.filter (fun x => decide (x ≠ d)), heard := tdel s.care.heard d } }
    let s := s.fillRoutes.buddyLost d
    let s := s.loadedCtxs.foldl (fun s n => s.memberLost n d 0x43) s
    (s.splitJobs d 0x43).evalCab

/-! ### Abort notices (R319, R320) -/

/-- A member's abort notice is acted on (R319, R320): a context stopped by an error answers so, or stops its job as the coordinator; one in a restart restarts it; any other aborts. -/
def State.abortFrom (s : State) (n : Nat) (m : AbortMsg) : State :=
  let c := s.ctx n
  if c.state = 5 ∧ c.errStop then
    (if s.coordinatorOf n = s.cab then s.stopJob n s.cab c.job.stopCause false else s.tellCoordinator n msgStateAnswer [s.cab, 5, c.job.stopCause])
  else if c.restarting then
    s.modCtx n (fun c => { c with job := { c.job with progAbort := c.job.progAbort || m.program, ready := c.job.ready.filter (fun d => decide (d ≠ m.dev)) } })
  else s.abortWith n m.cls m.program false

/-- ABORT_NOTICE (R319, R320, R333): a notice of a member. An abort acts by the state of the context; a stop stops it; a relinquishment or a stopped state goes to what the job does about it. -/
def execAbortNotice (ctx : Nat) (m : AbortMsg) (s : State) : Host.Outcome State Fault Refusal :=
  let c := s.ctx ctx
  .next (if 64 ≤ ctx then s
    else if c.state = 0 ∨ c.st.unloadAt.isSome then (if m.kind = 0 then s.send (.sync m.dev msgRelinquish [peerCtx c m.dev, m.gen, s.cab]) else s)
    else if !(s.peersOf ctx).contains m.dev then s
    else if m.gen ≠ c.job.gen then s.discard ctx
    else if m.kind = 1 then s.stopHere ctx m.member m.cls
    else if m.kind = 2 then s.memberLost ctx m.dev m.cls
    else if m.kind = 3 then (if s.coordinatorOf ctx = s.cab then s.stopJob ctx m.dev m.cls false else s)
    else s.abortFrom ctx m)

/-! ### The restart (R319, steps 3 to 5; R333) -/

/-- A step that is committed but has not passed its boundary passes it (R15): its versions are published, its receipts stored, the snapshot taken. -/
def State.passCommitted (s : State) (n : Nat) : State :=
  if !(s.ctx n).job.released then s
  else
    let s := (s.ownRegions n).foldl (fun s r => match s.region r with | some g => if g.publishing ∧ g.commitPub then s.publish r else s | none => s) s
    let s := if (s.ctx n).mem.rcptWait.isEmpty then s.modCtx n (fun c => { c with mem := { c.mem with rcptWait := c.hosted.map (fun i => s.receipt n i) } }) else s
    ((State.drainReceipts n (s.ctx n).mem.rcptWait.length s).passStep n).updateView n

/-- The commit record of a member for the committed step, kept here and whole (R333, step 1). -/
def State.adoptedRecord (s : State) (n d : Nat) : Option SaveRec :=
  match (s.ctx n).job.prog with
  | none => none
  | some p =>
    let wins := ((List.range 16).filter (fun k => decide (p.ctrCount k ≠ 0))).length
    let at' := fun (k : Nat) => (tfind s.care.records k).bind (fun b => parseSave b wins p.regions.length)
    [at' (d * 64 + n), at' (8192 + d * 64 + n)].findSome? (fun r => r.bind (fun r => if r.committed = (s.ctx n).job.committed then some r else none))

/-- The mirrored regions of adopted shards become regions of this device (R333, step 2): their mirror frames are the current slot, read-only, under the record's version. Where in the mirror frames
a region's committed version lies is a free value (assumption log 41). -/
def State.adoptRegions (s : State) (n : Nat) (r : SaveRec) (rs : List (Nat × RegionDecl)) : State :=
  rs.foldl (fun s x =>
    let d := x.2
    let k := versionFrames d.win d.size
    let pool := (s.ctx n).job.mirrorOf
    let f := pool.getD (s.freeVal (pool.length - k + 1)) 0
    let st := Config.free (s.freeIx + 1) % 16
    let s := s.drawn 2
    let ver := ((r.shards.find? (fun h => decide (h.1 = d.shard))).map (fun h => h.2.2.getD x.1 0)).getD 0
    let g := Region.declare d n st
    let g := { g with version := ver, bases := [runAddr d.win st f, 0, 0], states := [2, 0, 0], cur := 0 }
    let s := s.modFrames (g.frames 0) (setProt true d.cacheable)
    let g := { g with digests := [versionDigest d.size (s.versionBytes g 0), [], []] }
    (s.setRegion d.id g).modCtx n (fun c => { c with job := { c.job with mirrorOf := c.job.mirrorOf.filter (fun y => !(g.frames 0).contains y) } })) s

/-- The adoption of a lost member's shards (R333, steps 1 to 6): what their regions held here is released, and they are set up anew; none where its record fails or memory runs out. A counter takes the larger of its own committed value and the record's (assumption
log 42). -/
def State.adoptFrom (s : State) (n d : Nat) : Option State :=
  match (s.ctx n).job.prog, (s.ctx n).job.man, s.adoptedRecord n d with
  | some p, some m, some r =>
    let shards := m.shardsOf d
    let rs := (p.regions.mapIdx (fun i x => (i, x))).filter (fun x => shards.contains x.2.shard && !x.2.shared)
    let need := ((rs.filter (·.2.mirrored)).map (fun x => versionFrames x.2.win x.2.size)).foldl (· + ·) 0
    if !(s.mirrorSources n).contains d ∨ (s.ctx n).job.mirrorOf.length < need then none
    else
      let s := (rs.map (·.2.id)).foldl (fun s i => (s.usedSlots i).foldl (fun s k => s.releaseSlot i k) s) s
      let s := s.adoptRegions n r (rs.filter (·.2.mirrored))
      match s.placeRegions n ((rs.filter (fun x => !x.2.mirrored)).map (·.2)) with
      | none => none
      | some s =>
        match s.placeShards n p shards with
        | none => none
        | some s =>
          if s.quota n < (s.partition n).length then none else
          let vals := (r.values (s.ctx n)).map (fun x => (x.1, (max x.2.1 (s.ctr x.1).value, x.2.2)))
          let s := (s.writeCounters vals).takeSnapshot n
          some (shards.foldl (fun s i => s.record { s.ctxRec 0x45 0xA n with syndrome := i + d * 4096 }) s)
  | _, _, _ => none

/-- A restart that cannot find what an adoption needs: the coordinator stops the job (R333). -/
def State.adoptFailed (s : State) (n d : Nat) : State :=
  if s.coordinatorOf n = s.cab then s.stopJob n d 0x43 true else s.tellCoordinator n msgStateAnswer [s.cab, 5, 0x43]

/-- The schedule of the present hardware is loaded (R319, step 4; R323), and this member is ready; with none it relinquishes its shards. -/
def State.restartSched (s : State) (n : Nat) : State :=
  match s.neededSched n with
  | none => s.relinquish n
  | some k =>
    let s := if k = (s.ctx n).job.sched then s else s.loadSched n k
    let s := s.modCtx n (fun c => { c with job := { c.job with drained := true, adopt := [] } })
    if s.care.iftPhase ≠ 0 ∧ (s.ctx n).usesCore s.care.iftCand then s.endTest else s

/-- Every shared region that a context declares is current. -/
def State.sharedReady (s : State) (n : Nat) : Bool :=
  ((s.ctx n).declared.filter (·.shared)).all (fun r => match s.region r.id with | some g => decide (g.slot g.cur = 2) | none => true)

/-- The regions that a partition reset restores have their bytes. -/
def State.fillsReady (s : State) (n : Nat) (fills : List (Nat × List Byte)) : Bool :=
  !(s.ctx n).job.resetPend || (s.ownRegions n).all (fun r =>
    match s.region r with
    | some g => !s.versionMirrored g || fills.any (fun x => decide (x.1 = r ∧ x.2.length = g.size))
    | none => true)

/-- Adopt the shards of lost members in turn (R333): the member whose shards cannot be adopted, if any, and the state. -/
def State.adoptAll (n : Nat) : List Nat → State → Option Nat × State
  | [], s => (none, s)
  | d :: ds, s =>
    match s.adoptFrom n d with
    | some s => State.adoptAll n ds s
    | none => (some d, s)

/-- The committed state comes back, with the partition reset if one is due and the shards of lost members adopted, and the schedule is loaded (R319, steps 3 and 4). While a commit_pub region finds no slot or room
for its pending version, the member waits and tries again (R219). -/
def State.comeBack (s : State) (n : Nat) (fills : List (Nat × List Byte)) : State :=
  let c := s.ctx n
  let s := s.passCommitted n
  let s := if c.job.resetPend then (s.resetPartition n fills).modCtx n (fun c => { c with job := { c.job with resetPend := false } }) else s
  let s := if c.state = 5 ∧ c.job.loadedFresh then (s.ownRegions n).foldl (fun s r => s.discardPending r) s else s.restoreState n
  match State.adoptAll n c.job.adopt s with
  | (some d, _) => s.adoptFailed n d
  | (none, s) =>
    let s := s.modCtx n (fun c => { c with job := { c.job with adopt := [], drained := false, unsettled := false } })
    let o := s.openCommitPub n
    if o.2 then o.1.restartSched n else o.1

/-- A member that has reported its commit cannot tell whether it came to pass: it has not had the release, and is not the coordinator that gathered the reports. Its step's work is kept until the outcome is known
(R318, assumption log 147). -/
def State.outcomeOpen (s : State) (n : Nat) : Bool :=
  let c := s.ctx n
  c.job.reported && !c.job.released && !c.job.resetPend && decide (c.state = 6) && !c.job.reports.contains s.cab

/-- The step is committed at a member (R318); one that has drained in an abort passes its boundary. -/
def State.takeRelease (s : State) (n : Nat) : State :=
  let open' := (s.ctx n).job.unsettled
  let s := s.commitStep n
  if open' then (s.comeBack n []).modCtx n (fun c => { c with job := { c.job with readySent := false } }) else s

/-- The coordinator sends the commit release to every member, and takes it (R318). -/
def State.passRelease (s : State) (n step : Nat) : State :=
  (s.sendAll ((s.peersOf n).map (fun d => .sync d msgCommitRelease [peerCtx (s.ctx n) d, (s.ctx n).job.gen, step]))).takeRelease n

/-- ABORT_DRAIN_COMPLETE (R319, steps 3 and 4; R325, R326, R333): the tasks in flight have completed and the pieces drained; the committed state comes back, with the partition reset if one is due
(`fills` are the mirrored versions as the buddy sends them) and the shards of lost members adopted; the schedule is loaded. -/
def execAbortDrainComplete (ctx : Nat) (fills : List (Nat × List Byte)) (s : State) : Host.Outcome State Fault Refusal :=
  let c := s.ctx ctx
  .next (if 64 ≤ ctx ∨ !c.restarting ∨ c.state = 1 ∨ c.job.drained ∨ !s.abortDrained ctx ∨ !s.sharedReady ctx ∨ !s.fillsReady ctx fills then s
    else if s.outcomeOpen ctx then s.modCtx ctx (fun c => { c with job := { c.job with drained := true, unsettled := true } })
    else s.comeBack ctx fills)

/-- COMMIT_RELEASE (R318): when every live member has reported, the coordinator sends the release; a member commits on it. One that has drained in an abort meanwhile passes its boundary now, and reports ready
again. -/
def execCommitRelease (ctx step : Nat) (s : State) : Host.Outcome State Fault Refusal :=
  let c := s.ctx ctx
  .next (if 64 ≤ ctx ∨ !c.loaded ∨ !s.commitDue ctx ∨ !c.job.reported ∨ step ≠ s.stepToCommit ctx then s
    else if s.coordinatorOf ctx = s.cab then
      if (s.liveMembers ctx).all (fun d => c.job.reports.contains d) then s.passRelease ctx step else s
    else s.takeRelease ctx)

/-! ### Ready reports and the release (R319, step 5) -/

/-- A shard of the job is still placed on a lost member. -/
def Ctx.unplaced (c : Ctx) : Bool :=
  match c.job.man with
  | some m => m.hosts.any (fun h => c.job.lost.contains (m.members.getD h 0))
  | none => false

/-- The placement after the adoptions: a lost member's shards are on its adopter. -/
def Ctx.newHosts (c : Ctx) : List Nat :=
  match c.job.man with
  | some m => m.hosts.map (fun h =>
      let d := m.members.getD h 0
      if c.job.lost.contains d then (match c.adopterOf d with | some a => m.members.idxOf a | none => h) else h)
  | none => []

/-- A new placement takes effect (R333): hosts, contexts of the members, forward entries and collective groups (which are read by it); the member reports ready again. -/
def State.applyPlacement (s : State) (n : Nat) (hosts : List Nat) (ctxs : List (Nat × Nat)) : State :=
  let s := s.modCtx n (fun c => { c with job := { c.job with
    man := c.job.man.map (fun m => { m with hosts := hosts })
    peers := ctxs.foldl (fun t x => if x.1 = s.cab then t else tset t x.1 x.2) c.job.peers
    readySent := false } })
  let s := s.writeFwds n s.cab n
  (s.ctx n).job.peers.foldl (fun s x => s.writeFwds n x.1 x.2) s

/-- The coordinator sends the new placement once every adopter has reported ready (R333). -/
def State.sendPlacement (s : State) (n : Nat) : State :=
  let c := s.ctx n
  let as := c.job.lost.filterMap c.adopterOf
  if !c.unplaced ∨ as.any (fun a => !c.job.ready.contains a) then s
  else
    match c.job.man with
    | none => s
    | some m =>
      let cs := m.members.map (fun d => if d = s.cab then n else peerCtx c d)
      let s := s.sendAll ((s.peersOf n).map (fun d => .mgmt d msgPlacement (peerCtx c d :: c.newHosts ++ cs)))
      (s.applyPlacement n c.newHosts []).modCtx n (fun c => { c with job := { c.job with ready := [] } })

/-- MEMBER_READY_REPORT (R319): this member reports when it has its committed state and schedule; the coordinator notes each member's report. A report for a later step than the coordinator's own shows
that the step was committed: the coordinator passes the release on, and the members report again (R318). -/
def execMemberReadyReport (ctx member step : Nat) (s : State) : Host.Outcome State Fault Refusal :=
  let c := s.ctx ctx
  let note := fun (s : State) => (s.modCtx ctx (fun c => { c with job := { c.job with ready := if c.job.ready.contains member then c.job.ready else c.job.ready ++ [member] } })).sendPlacement ctx
  .next (if 64 ≤ ctx ∨ !c.loaded then s
    else if member = s.cab then
      if !c.restarting ∨ !c.job.drained ∨ c.job.readySent ∨ step ≠ c.st.step then s
      else
        let s := s.modCtx ctx (fun c => { c with job := { c.job with readySent := true } })
        if s.coordinatorOf ctx = s.cab then note s else s.tellCoordinator ctx msgReady [s.cab, step]
    else if s.coordinatorOf ctx ≠ s.cab ∨ !(s.peersOf ctx).contains member then s
    else if step = (c.st.step + 1) % 2 ^ 64 ∧ s.commitDue ctx ∧ c.state = 6 then
      note ((s.passRelease ctx c.st.step).modCtx ctx (fun c => { c with job := { c.job with ready := [] } }))
    else note s)

/-- The release of a restart at this member (R319, R320): the new generation, and the queues run; a context with yield sources is YIELDED before any queue runs, one that was YIELDED or STOPPED stays so. -/
def State.runAgain (s : State) (n gen : Nat) : State :=
  let c := s.ctx n
  let s := s.modCtx n (fun c => { c with job := { c.job with
    gen := gen, ready := [], drained := false, readySent := false, held := false, recovered := decide (c.state ≠ 5 ∨ !c.job.loadedFresh) } })
  let busy := fun (op : Nat) => c.cmd.busy && decide (c.cmd.op = op)
  if c.state = 6 then
    if c.ysrc ≠ 0 ∨ c.st.evict.isSome then s.enterYielded n
    else
      let s := s.modCtx n (fun c => { c with state := 2, st := { c.st with yieldedAt := none } })
      if busy 5 then s.cmdDone n 0 none else s
  else if c.state = 4 then (if c.ysrc = 0 then s.resumeNow n else s)
  else if c.state = 5 ∧ busy 5 then s.initialBoundary n
  else s

/-- Every live member is ready and none has had the commit release: a member that kept its step's work gives it up now (R318), and the queues run. -/
def State.settleRun (s : State) (n gen : Nat) : State :=
  let s := if (s.ctx n).job.unsettled then (s.modCtx n (fun c => { c with job := { c.job with reported := false } })).comeBack n [] else s
  if (s.ctx n).restarting ∧ (s.ctx n).job.drained then s.runAgain n gen else s

/-- RESTART_RELEASE (R319, step 5): the coordinator releases when every live member is ready and the placement stands; a member takes the release with the next generation. -/
def execRestartRelease (ctx gen : Nat) (s : State) : Host.Outcome State Fault Refusal :=
  let c := s.ctx ctx
  .next (if 64 ≤ ctx ∨ !c.restarting ∨ !c.job.readySent ∨ gen ≠ (c.job.gen + 1) % 2 ^ 16 then s
    else if s.coordinatorOf ctx = s.cab then
      if c.unplaced ∨ !(s.liveMembers ctx).all (fun d => c.job.ready.contains d) then s
      else (s.sendAll ((s.peersOf ctx).map (fun d => s.memberMsg ctx d msgRestartRelease [gen]))).settleRun ctx gen
    else s.settleRun ctx gen)

/-- COORDINATOR_STATE_REQUEST (R319): the new coordinator asks this member for its state; a ready report goes to it again. -/
def execCoordinatorStateRequest (ctx coordinator : Nat) (s : State) : Host.Outcome State Fault Refusal :=
  let c := s.ctx ctx
  .next (if 64 ≤ ctx then s
    else if c.state = 0 ∨ c.st.unloadAt.isSome then s.send (.sync (coordinator % 128) msgRelinquish [0, c.job.gen, s.cab])
    else if !(s.peersOf ctx).contains coordinator then s
    else (s.send (s.memberMsg ctx coordinator msgStateAnswer [s.cab, c.state, c.job.stopCause, c.st.step, c.job.committed, b2n c.errStop])).modCtx ctx
      (fun c => { c with job := { c.job with readySent := false } }))

/-- PLACEMENT_MESSAGE (R333): the coordinator's new placement reaches this member. -/
def execPlacementMessage (m : PlaceMsg) (s : State) : Host.Outcome State Fault Refusal :=
  .next (match s.ctxs.find? (fun c => c.2.loaded && (match c.2.job.man with | some k => decide (k.jobId = m.job) | none => false)) with
    | none => s
    | some (n, c) =>
      if (match c.job.man with | some k => decide (k.hosts.length ≠ m.hosts.length) | none => true) then s
      else s.applyPlacement n m.hosts (List.zip m.members (m.ctxs.map (· % 64))))

/-! ### Fencing (R321 to R324) -/

/-- A write of BU_FENCE_CTRL: core [6:0], fence [8], persist [9]. -/
def State.writeFenceCtrl (s : State) (master v : Nat) : State :=
  if !pfOrBureau master then s.blkErr 1 5
  else if bitOf v 8 then s.fenceCore (v % 128) 0 (bitOf v 9)
  else { s with root := { s.root with flashFence := if bitOf s.root.flashFence (v % 128) then s.root.flashFence - 2 ^ (v % 128) else s.root.flashFence } }

/-- FENCE_REQUEST (R321, R324): BU_FENCE_CTRL is written with fence 1. -/
def execFenceRequest (master : Nat) (value : W32) (s : State) : Host.Outcome State Fault Refusal := .next (s.writeFenceCtrl master value.toNat)

/-- UNFENCE_REQUEST (R324): BU_FENCE_CTRL is written with fence 0; the core leaves the fence list, which acts at the next module reset. -/
def execUnfenceRequest (master : Nat) (value : W32) (s : State) : Host.Outcome State Fault Refusal := .next (s.writeFenceCtrl master value.toNat)

/-! ### In-field test (R338, R339) -/

/-- The time of one core's turn: the round of period_h hours over 128 cores. -/
def State.iftTurn (s : State) : Nat := s.regs.field 1 0x140 15 0 * 360000000000 / 128

/-- IN_FIELD_TEST_PERIOD (R338, step 1): the turn of the next core, or of one that a replay has put in doubt (R313); every context that uses it is to switch to its fallback at its next boundary. A core is
skipped if it is fenced, if a context holds no fallback for it, or if a context that uses it already runs without another core. -/
def execInFieldTestPeriod (s : State) : Host.Outcome State Fault Refusal :=
  .next (if s.regs.field 1 0x140 24 24 = 0 ∨ !s.root.ready ∨ s.care.iftPhase ≠ 0 ∨ s.now < s.care.iftPeriodAt + s.iftTurn then s
    else
      let cand := s.care.wantTest.headD s.care.iftNext
      let s : State := { s with care := { s.care with
        iftPeriodAt := s.now, iftCand := cand, wantTest := s.care.wantTest.drop 1
        iftNext := if s.care.wantTest.isEmpty then (s.care.iftNext + 1) % 128 else s.care.iftNext } }
      let users := s.loadedCtxs.filter (fun n => (s.ctx n).usesCore cand)
      if s.fencedCore cand ∨ users.any (fun n => (s.schedWithout n cand).isNone ∨ !s.fencedCores.isEmpty) then s
      else { s with care := { s.care with iftPhase := 1 } })

/-- The lanes of a core in test mode (R135). -/
def Core.testLanes (k : Core) (core seed : Nat) : Core :=
  { k with test := true, lanes := (List.range 128).map (fun i => (i, BitVec.ofNat 128 (seed % 2 ^ 64 + (core * 128 + i) * 2 ^ 64 + 0x5A5A5A5A * 2 ^ 96))) }

/-- VU_FRLG_SEED in effect of a core. -/
def State.frlgSeed (s : State) (core : Nat) : Nat := s.regs.word (corePage core) 0x348 + s.regs.word (corePage core) 0x34C * 2 ^ 32

/-- IN_FIELD_TEST_START (R338, step 2): no context uses the core any more, and the Bureau sets its VU_FRLG_CTRL.test: it enters test mode (R135). -/
def execInFieldTestStart (s : State) : Host.Outcome State Fault Refusal :=
  let c := s.care.iftCand
  .next (if s.care.iftPhase ≠ 1 ∨ s.loadedCtxs.any (fun n => (s.ctx n).usesCore c) ∨ (s.core c).run.isSome ∨ s.fencedCore c then s
    else
      let s := s.setCore c ((s.core c).testLanes c (s.frlgSeed c))
      { s with
        regs := s.regs.setWord (corePage c) 0x340 1
        care := { s.care with iftPhase := 2, iftCore := c, iftStart := s.now } })

/-- IN_FIELD_TEST_END (R338, step 3; R339): after dur the digests are compared, and the Footstool must have reported the injected disagreement; a core that fails is recorded and fenced for good. -/
def execInFieldTestEnd (expected measured : Nat) (footstool : Bool) (s : State) : Host.Outcome State Fault Refusal :=
  let c := s.care.iftCore
  .next (if s.care.iftPhase ≠ 2 ∨ s.now < s.care.iftStart + s.regs.field 1 0x140 23 16 * 10000000 then s
    else
      let s := s.endTest
      if expected % 2 ^ 64 = measured % 2 ^ 64 ∧ footstool then s.count 1 .iftPassed 1
      else
        let s := (s.count 1 .iftFailed 1).record { (s.mkRec 0x1C 4).unit 2 (c / 8) c 0 with syndrome := expected % 2 ^ 64 + measured % 2 ^ 64 * 2 ^ 64 }
        s.fenceCore c 0x1C true)

end Sys2Proof.Machine
end

