-- ==== Sys2Proof/Machine/Collectives.lean ====
section
/-! DEFINITION. Aligned reduction and the collective engines (R222 to R241, R291). A message carries one pass of one contribution of one block; its layout is the
model's (assumption log 16). -/

namespace Sys2Proof.Machine

/-! ### Aligned reduction of one block (R223 to R228) -/

/-- The largest leading exponent of a finite nonzero value, subnormals counting as −126. -/
def leadExp32 (n : Nat) : Int := max (-126) (((bitsOf n 30 23 : Nat) : Int) - 127)

/-- An element that is ±0. -/
def isZero32 (n : Nat) : Bool := decide (n % 2 ^ 31 = 0)
/-- An element that is a NaN or an infinity. -/
def isSpecial32 (n : Nat) : Bool := decide (bitsOf n 30 23 = 255)

/-- The exponent code of the finite elements of a block of one contribution (Table 10.1, R228). -/
def finiteCode (es : List Nat) : Nat :=
  ((es.filter (fun e => !isZero32 e && !isSpecial32 e)).map (fun e => (leadExp32 e + 127).toNat)).foldl max 0

/-- The exponent code of a block of one contribution (Table 10.1). -/
def blockCode (es : List Nat) : Nat := if es.any isSpecial32 then 255 else finiteCode es

/-- ⌊x × 2^(−q)⌋ of a finite binary32 encoding, and whether bits were dropped; a special element counts as 0. -/
def truncAt (n : Nat) (q : Int) : Int × Bool :=
  match fmtB32.decode n with
  | .fin neg sig ex =>
    let m : Int := if neg then -(sig : Int) else sig
    if q ≤ ex then (m * 2 ^ (ex - q).toNat, false)
    else
      let d : Int := 2 ^ (q - ex).toNat
      (m / d, decide (m % d ≠ 0))
  | _ => (0, false)

/-- Whether |S × 2^q| < 2^−126. -/
def belowNormal (m q : Int) : Bool :=
  if q + 126 < 0 then decide (m.natAbs < 2 ^ (-(q + 126)).toNat) else decide (m = 0)

/-- One element of the integer pass (R224) on the grid of exponent code `cb`, from each contribution's integer and whether its truncation dropped bits. -/
def alignedElem (cb : Nat) (ts : List (Int × Bool)) : Nat × FlagBits :=
  let q : Int := (cb : Int) - 127 - 30
  let sum := (ts.map (·.1)).foldl (· + ·) 0
  let r := roundInt fmtB32 sum q false
  let f := if ts.any (·.2) then r.2 ||| flInexact else r.2
  let f := if f &&& flInexact ≠ 0 && belowNormal sum q then f ||| flUnderflow else f
  (r.1, f)

/-- One element of a special block by the classes of its contributions (Table 10.4); `e` is its integer pass, whose flags stay with the block (R228). -/
def specialElem (cls : List Nat) (e : Nat × FlagBits) : Nat × FlagBits :=
  if cls.contains 3 ∨ (cls.contains 1 ∧ cls.contains 2) then (fmtB32.nan, e.2 ||| flInvalid)
  else if cls.contains 1 then (fmtB32.infinity false, e.2)
  else if cls.contains 2 then (fmtB32.infinity true, e.2)
  else e

/-- The class of an element (R228): 0 finite, 1 +∞, 2 −∞, 3 NaN. -/
def classOf32 (n : Nat) : Nat :=
  match fmtB32.decode n with
  | .nan => 3
  | .inf neg => if neg then 2 else 1
  | .fin .. => 0

/-! The words that one contribution of a block sends in each pass: 0 its elements (all-gather and eager), 1 its code (Table 10.1), 2 its finite code and classes (R228), 3 its integers on the block's grid and a mask of
the elements whose truncation dropped bits (R224). -/

/-- The words of pass `p` of a contribution; `grid` is the block's exponent code, or its largest finite code. -/
def passWords (p grid : Nat) (ws : List Nat) : List Nat :=
  if p = 1 then [blockCode ws]
  else if p = 2 then finiteCode ws :: ws.map classOf32
  else if p = 3 then
    let ts := ws.map (fun w => truncAt w ((grid : Int) - 157))
    ts.map (fun t => (t.1 % 2 ^ 32).toNat) ++ [(ts.zipIdx.map (fun t => if t.1.2 then 2 ^ t.2 else 0)).foldl (· + ·) 0]
  else ws

/-- The number of words of a pass. -/
def passLen (p : Nat) : Nat := if p = 0 then 64 else if p = 1 then 1 else 65

/-- Element `i` of a contribution's pass 3: its integer, and whether bits were dropped. -/
def intElem (i : Nat) (ws : List Nat) : Int × Bool := ((BitVec.ofNat 32 (ws.getD i 0)).toInt, (ws.getD 64 0).testBit i)

/-- The reduction of one block from the words of passes 2 and 3 of its contributions, with the largest code `cb` and the largest finite code `cf` (R224, R228). -/
def blockResult (cb cf : Nat) (cls ints : List (List Nat)) : List Nat × FlagBits :=
  let grid := if cb = 255 then cf else cb
  let rs := (List.range 64).map (fun i =>
    let e := if grid = 0 then ((0 : Nat), (0 : FlagBits)) else alignedElem grid (ints.map (intElem i))
    if cb = 255 then specialElem (cls.map (fun c => c.getD (i + 1) 0)) e else e)
  (rs.map (·.1), (rs.map (·.2)).foldl (· ||| ·) 0)

/-- The aligned reduction of one block over its contributions: the 64 result elements and the flags (R224, R228). -/
def alignedBlock (cs : List (List Nat)) : List Nat × FlagBits :=
  let cb := (cs.map blockCode).foldl max 0
  let cf := (cs.map finiteCode).foldl max 0
  blockResult cb cf (cs.map (passWords 2 0)) (cs.map (passWords 3 (if cb = 255 then cf else cb)))

/-- An element as a reduction delivers it: every NaN is canonical and invalid (R19, R41). -/
def canonElem (n : Nat) : Nat × FlagBits := if isNanVal (fmtB32.decode n) then (fmtB32.nan, flInvalid) else (n, 0)

/-- The eager combination of one block: binary32 additions in the order of arrival (R231). -/
def eagerBlock (cs : List (List Nat)) : List Nat × FlagBits :=
  match cs with
  | [] => (List.replicate 64 0, 0)
  | [c] =>
    let rs := (List.range 64).map (fun i => canonElem (c.getD i 0))
    (rs.map (·.1), (rs.map (·.2)).foldl (· ||| ·) 0)
  | c :: rest =>
    rest.foldl (fun (a : List Nat × FlagBits) d =>
      let rs := (List.range 64).map (fun i => addB32 (a.1.getD i 0) (d.getD i 0))
      (rs.map (·.1), (rs.map (·.2)).foldl (· ||| ·) a.2)) (c, 0)

/-! ### Descriptors and groups (R230, R231) -/

/-- The shards of a group, ascending. -/
def Ctx.groupOf (c : Ctx) (g : Nat) : Option (List Nat) :=
  match c.job.prog with
  | none => none
  | some p => (p.groups.find? (fun x => decide (x.1 = g))).map (fun x => sortBy id x.2)

/-- The group's shards, or none. -/
def Ctx.groupShards (c : Ctx) (g : Nat) : List Nat := (c.groupOf g).getD []

/-- Whether a descriptor is legal (Table 10.5); a wait on a proxy is an illegal encoding (R174). -/
def State.collLegal (s : State) (n : Nat) (d : Nat) : Bool :=
  let op := bitsOf d 7 4
  let parts := bitsOf d 21 16 + 1
  let count := bitsOf d 87 64
  let ctrOk := fun (k : Nat) => (s.deviceCtr n k).isSome
  let waitCtr := fun (k : Nat) => match s.deviceCtr n k with | some x => !(s.ctr x).proxy | none => false
  match (s.ctx n).groupOf (bitsOf d 15 8) with
  | none => false
  | some g =>
    decide (d % 16 = 1 ∧ 1 ≤ op ∧ op ≤ 4 ∧ g.length * parts ≤ 4096 ∧ (op = 3 → parts = 1) ∧ 1 ≤ count ∧ (op = 1 → count % g.length = 0)) &&
    decide (bitsOf d 31 22 = 0 ∧ bitsOf d 95 88 = 0 ∧ bitsOf d 127 115 = 0 ∧ bitsOf d 223 212 = 0 ∧ bitsOf d 447 440 = 0) &&
    decide (bitsOf d 211 210 ≠ 3 ∧ bitsOf d 335 288 % 256 = 0 ∧ bitsOf d 383 336 % 256 = 0 ∧ bitsOf d 431 384 % 256 = 0) &&
    (!bitOf d 114 || waitCtr (bitsOf d 113 96)) && (decide (bitsOf d 211 210 = 0) || ctrOk (bitsOf d 209 192))

/-- The collective of a descriptor, about to start. -/
def collOf (d limit : Nat) : CollRun :=
  { op := bitsOf d 7 4, group := bitsOf d 15 8, count := bitsOf d 87 64, parts := bitsOf d 21 16 + 1, seq := bitsOf d 63 32, src := bitsOf d 335 288, dst := bitsOf d 383 336,
    stride := bitsOf d 431 384, sigCtr := bitsOf d 209 192, sigOp := bitsOf d 211 210, sigArg := bitsOf d 287 224, limit := limit, waited := 0, held := [], order := [], flags := [],
    retries := [], done := false, again := false }

/-- Key of a contribution. -/
def contribKey (shard part block : Nat) : Nat := (shard * 64 + part) * 2 ^ 24 + block

/-- Key of a contribution's words of one pass. -/
def heldKey (pass shard part block : Nat) : Nat := pass * 2 ^ 44 + contribKey shard part block

/-- The device that hosts a shard. -/
def State.shardHost (s : State) (n shard : Nat) : Nat :=
  match (s.ctx n).job.man with | some m => m.hostOf shard | none => s.cab

/-- The blocks that a device needs of a collective: its own ranges under reduce-scatter, else all (R231). -/
def State.blocksFor (s : State) (n : Nat) (r : CollRun) (dev : Nat) : List Nat :=
  let g := (s.ctx n).groupShards r.group
  if r.op ≠ 1 then List.range r.count
  else
    let k := r.count / g.length
    ((g.zipIdx).filter (fun x => decide (s.shardHost n x.1 = dev))).flatMap (fun x => (List.range k).map (· + x.2 * k))

/-- The other devices that host a shard of the group. -/
def State.groupDevs (s : State) (n g : Nat) : List Nat :=
  (((s.ctx n).groupShards g).map (fun i => s.shardHost n i)).dedup.filter (fun d => decide (d ≠ s.cab))

/-- The shards of a group hosted here. -/
def State.groupHere (s : State) (n g : Nat) : List Nat := ((s.ctx n).groupShards g).filter (fun i => (tfind (s.ctx n).shards i).isSome)

/-- The base of a hosted shard's memory. -/
def State.shardBase (s : State) (n shard : Nat) : Nat := (tget (⟨0, 0, 0⟩ : Shard) (s.ctx n).shards shard).base

/-- Master ID of a collective engine. -/
def ceMaster (e : Nat) : Nat := 0x2000 + e

/-! ### Ends (R235, R238, R240, R241) -/

/-- Change collective queue `q` of a context. -/
def State.modCq (s : State) (n q : Nat) (f : Cq → Cq) : State :=
  s.modCtx n (fun c => match tfind c.cqs q with | some k => { c with cqs := tset c.cqs q (f k) } | none => c)

/-- Write status and done_time of the descriptor at a queue's head, and pass it. -/
def State.collPop (s : State) (n qi status : Nat) : State :=
  match tfind (s.ctx n).cqs qi with
  | none => s
  | some q =>
    let a := q.base + 64 * (q.head % 2 ^ q.lg)
    let s := s.devWrite n (a + 54) [BitVec.ofNat 8 status, 0]
    let s := s.devWrite n (a + 56) (leBytes 8 s.now)
    s.modCq n qi (fun q => { q with head := (q.head + 1) % 65536, run := none, again := false, stall := 0 })

/-- The engines of the group are told in the SYNC class that a collective failed (R235, R238, R240). -/
def State.collNotify (s : State) (n : Nat) (r : CollRun) (status : Nat) : State :=
  s.sendAll ((s.groupDevs n r.group).map (fun d => s.memberMsg n d 29 [r.group, (s.ctx n).st.step, r.seq, status]))

/-- The engine that serves a collective queue (Table 10.6). -/
def State.engineFor (s : State) (n qi : Nat) : Nat := match tfind (s.ctx n).cqs qi with | some q => q.engine | none => 0

/-- The record of a failed collective, which names its engine. -/
def State.collRec (s : State) (n qi cls action syn : Nat) : State :=
  let e := s.engineFor n qi
  s.record { (s.ctxRec cls action n).unit 9 (16 + e / 4) 0 e with queue := qi, cq := true, syndrome := syn }

/-- A collective ends with a status whose action is to stop the queues (0x10, 0x16, 0x23). -/
def State.collStop (s : State) (n qi status : Nat) : State := (s.collPop n qi status).stopCtx n status

/-- A collective ends with a status that aborts the context as a program cause (0x20 to 0x22). -/
def State.collAbort (s : State) (n qi status : Nat) : State := (s.collPop n qi status).abortCtx n status true

/-- A read or write of the collective is refused (R235): status 0x10, a record of the refusal's class, and the group is told. -/
def State.collRefused (s : State) (n qi : Nat) (r : CollRun) (cls addr : Nat) : State :=
  let e := s.engineFor n qi
  let s := s.record { (s.refusalRec cls 2 (ceMaster e) n addr).unit 9 (16 + e / 4) 0 e with queue := qi, cq := true }
  ((s.collNotify n r 0x10).collPop n qi 0x10).stopCtx n cls

/-- A collective completes on this device: flags fold into the word of each shard, status 0x01, the signal (R229, R235). -/
def State.collDone (s : State) (n qi : Nat) (r : CollRun) (e : Nat) : State :=
  let s := r.flags.foldl (fun s x => s.foldFlags n x.1 x.2) s
  let s := s.collPop n qi 1
  if r.sigOp = 0 then s else s.sendSignal n r.sigCtr r.sigOp r.sigArg (ceMaster e)

/-! ### Results (R231) -/

/-- The words of a pass of a block, in the order in which they came. -/
def CollRun.ofBlock (r : CollRun) (p b : Nat) : List (List Nat) :=
  (r.order.filter (fun k => decide (k % 2 ^ 24 = b ∧ k / 2 ^ 44 = p))).map (fun k => tget [] r.held k)

/-- The largest code of a block, and its largest finite code, of the contributions held (R224, R228). -/
def CollRun.code (r : CollRun) (p b : Nat) : Nat := ((r.ofBlock p b).map (fun w => w.getD 0 0)).foldl max 0

/-- The exponent code of the grid of a block's integer pass. -/
def CollRun.grid (r : CollRun) (b : Nat) : Nat := if r.code 1 b = 255 then r.code 2 b else r.code 1 b

/-- Whether every contribution's words of a pass of a block are held; `g` is the group. -/
def CollRun.hasPass (r : CollRun) (g : List Nat) (p b : Nat) : Bool :=
  g.all (fun i => (List.range r.parts).all (fun x => (tfind r.held (heldKey p i x b)).isSome))

/-- The first pass of a collective. -/
def CollRun.firstPass (r : CollRun) : Nat := if r.op ≤ 2 then 1 else 0

/-- The pass that follows pass `p` of a block, once it is complete (R224, R228). -/
def CollRun.nextPass (r : CollRun) (p b : Nat) : Option Nat :=
  if p = 1 then (if r.code 1 b = 255 then some 2 else if r.code 1 b = 0 then none else some 3)
  else if p = 2 then (if r.code 2 b = 0 then none else some 3)
  else none

/-- The passes of a block that this device must hold, as far as it knows them; `own`: it delivers the block. -/
def CollRun.needs (r : CollRun) (g : List Nat) (own : Bool) (b : Nat) : List Nat :=
  if 2 < r.op then (if own then [0] else [])
  else if !r.hasPass g 1 b then [1]
  else match r.nextPass 1 b with
    | none => []
    | some 2 => if !r.hasPass g 2 b then [2] else if own ∧ r.code 2 b ≠ 0 then [3] else []
    | some _ => if own then [3] else []

/-- The 256 bytes of 64 words. -/
def wordBytes (ws : List Nat) : List Byte := ws.flatMap (leBytes 4 ·)

/-- What a collective delivers to the shard of rank `k`: its bytes and flags. -/
def CollRun.deliver (r : CollRun) (g : List Nat) (k : Nat) : List Byte × FlagBits :=
  if r.op = 3 then (g.flatMap (fun i => (List.range r.count).flatMap (fun j => wordBytes (tget [] r.held (heldKey 0 i 0 j)))), 0)
  else
    let m := r.count / g.length
    let bs := if r.op = 1 then (List.range m).map (· + k * m) else List.range r.count
    let rs := bs.map (fun b => if r.op = 4 then eagerBlock (r.ofBlock 0 b) else blockResult (r.code 1 b) (r.code 2 b) (r.ofBlock 2 b) (r.ofBlock 3 b))
    (rs.flatMap (fun x => wordBytes x.1), (rs.map (·.2)).foldl (· ||| ·) 0)

/-- Shards of which a device still lacks words. -/
def State.collMissing (s : State) (n : Nat) (r : CollRun) : List Nat :=
  let g := (s.ctx n).groupShards r.group
  let own := s.blocksFor n r s.cab
  let need := (List.range r.count).map (fun b => (b, r.needs g (own.contains b) b))
  g.filter (fun i => (List.range r.parts).any (fun x => need.any (fun y => y.2.any (fun p => (tfind r.held (heldKey p i x y.1)).isNone))))

/-- With every contribution held, the results are formed and written for each hosted shard. -/
def State.collResults (s : State) (n qi : Nat) : State :=
  match tfind (s.ctx n).cqs qi with
  | none => s
  | some q =>
    match q.run with
    | none => s
    | some r =>
      if r.done ∨ !(s.collMissing n r).isEmpty then s
      else
        let g := (s.ctx n).groupShards r.group
        let out := (s.groupHere n r.group).map (fun i => (i, r.deliver g (g.idxOf i)))
        let bad := out.findSome? (fun x => s.rangeCheck .w (ceMaster q.engine) n (s.shardBase n x.1 + r.dst) x.2.1.length)
        match bad with
        | some b => s.collRefused n qi r b.1 b.2
        | none =>
          let s := out.foldl (fun s x => s.devWrite n (s.shardBase n x.1 + r.dst) x.2.1) s
          s.modCq n qi (fun q => { q with run := some { r with done := true, flags := out.foldl (fun t x => tset t x.1 x.2.2.toNat) [] } })

/-! ### Contributions -/

/-- A contribution of this device read from its source: shard, part, block. -/
def State.ownBlock (s : State) (n : Nat) (r : CollRun) (shard part block : Nat) : List Nat :=
  elemsOf 4 (s.devRead (s.shardBase n shard + r.src + part * r.stride + 256 * block) 256)

/-- The CRC-32 of a collective message over its header and payload, each word as eight bytes (R238; the layout is the model's, assumption log 16). -/
def collCrc (kind : Nat) (hdr ws : List Nat) : Nat := crc32 ((kind :: hdr ++ ws).flatMap (leBytes 8 ·))

/-- The header words that a message's CRC covers: sender and engine, and the fields of R236 and R239. -/
def collHeader (m : CollMsg) : List Nat := [m.dev, m.engine, m.gen, m.group, m.step, m.seq, m.op, m.count, m.parts, m.shard, m.part, m.block, m.pass]

/-- Whether a message's CRC-32 verifies; kinds: 0 words of a contribution, 1 a request for one message, 2 a request for every contribution. -/
def collCrcOk (kind : Nat) (m : CollMsg) : Bool := decide (m.crc = collCrc kind (collHeader m) m.payload)

/-- A message of an engine to its peer on device `d`. -/
def State.collOut (s : State) (n : Nat) (q : Cq) (r : CollRun) (d kind shard part block pass : Nat) (ws : List Nat) : Out :=
  let hdr := [s.cab, q.engine, (s.ctx n).job.gen, r.group, (s.ctx n).st.step, r.seq, r.op, r.count, r.parts - 1, shard, part, block, pass]
  .coll d kind (peerCtx (s.ctx n) d :: hdr ++ [collCrc kind hdr ws]) ws

/-- Whether a device takes the words of a pass of a block: the codes and classes of every block, the words and integers of the blocks that it delivers. -/
def State.takesPass (s : State) (n : Nat) (r : CollRun) (d p b : Nat) : Bool := p = 1 || p = 2 || (s.blocksFor n r d).contains b

/-- The messages of a pass of a block, of every contribution of this device, to a device. -/
def State.collMsgs (s : State) (n : Nat) (q : Cq) (r : CollRun) (d p grid b : Nat) : List Out :=
  (s.groupHere n r.group).flatMap (fun i => (List.range r.parts).map (fun x => s.collOut n q r d 0 i x b p (passWords p grid (s.ownBlock n r i x b))))

/-- The first refusal on the source parts of this device. -/
def State.collSrcCheck (s : State) (n : Nat) (q : Cq) (r : CollRun) : Option (Nat × Nat) :=
  (s.groupHere n r.group).findSome? (fun i => (List.range r.parts).findSome? (fun p =>
    s.rangeCheck .r (ceMaster q.engine) n (s.shardBase n i + r.src + p * r.stride) (r.count * 256)))

/-- The first uncorrectable line of the source parts. -/
def State.collBadLine (s : State) (n : Nat) (r : CollRun) : Option (Nat × Nat) :=
  (s.groupHere n r.group).findSome? (fun i => (List.range r.parts).findSome? (fun p =>
    (pieces 4096 (r.count / 16 + 2) (s.shardBase n i + r.src + p * r.stride) (r.count * 256)).findSome? (fun x =>
      match s.decodeAddr x.1 with
      | some (_, k, o) => (s.badLines.find? (fun b => decide (b.1 + 64 > memKey k o ∧ b.1 < memKey k o + x.2))).map (fun b => (b.1 / 2 ^ 36, b.1 % 2 ^ 36))
      | none => none)))

/-- Words of a contribution are held. -/
def CollRun.hold (r : CollRun) (k : Nat) (ws : List Nat) : CollRun := { r with held := tset r.held k ws, order := r.order ++ [k] }

/-- This device's own words of a pass of a block enter its engine. -/
def State.holdOwn (s : State) (n : Nat) (r : CollRun) (p grid b : Nat) : CollRun :=
  (s.groupHere n r.group).foldl (fun r i => (List.range r.parts).foldl (fun r x => r.hold (heldKey p i x b) (passWords p grid (s.ownBlock n r i x b))) r) r

/-- Requests of a collective that runs again for the words of a pass of a block that it lacks (R291). -/
def State.collAsk (s : State) (n : Nat) (q : Cq) (r : CollRun) (p grid b : Nat) : List Out :=
  ((s.ctx n).groupShards r.group).flatMap (fun i => ((List.range r.parts).filter (fun x => (tfind r.held (heldKey p i x b)).isNone)).map (fun x =>
    s.collOut n q r (s.shardHost n i) 1 i x b p [grid]))

/-- This device's part in a pass of a block (R235 step 2): its own words are held where it needs them and sent to every device that takes them. -/
def State.collPass (s : State) (n qi p b : Nat) : State :=
  match tfind (s.ctx n).cqs qi with
  | none => s
  | some q =>
    match q.run with
    | none => s
    | some r =>
      let grid := r.grid b
      let own := s.takesPass n r s.cab p b
      let r' := if own then s.holdOwn n r p grid b else r
      let s := s.modCq n qi (fun q => { q with run := some r' })
      let s := s.sendAll (((s.groupDevs n r.group).filter (fun d => s.takesPass n r d p b)).flatMap (fun d => s.collMsgs n q r d p grid b))
      if r.again ∧ own ∧ 2 ≤ p then s.sendAll (s.collAsk n q r' p grid b) else s

/-- While a pass of a block is complete here, the next one follows. -/
def State.collFollow (s : State) (n qi b : Nat) : Nat → Nat → State
  | 0, _ => s
  | fuel + 1, p =>
    match (tfind (s.ctx n).cqs qi).bind (·.run) with
    | none => s
    | some r =>
      if !r.hasPass ((s.ctx n).groupShards r.group) p b then s
      else match r.nextPass p b with
        | none => s
        | some p' => (s.collPass n qi p' b).collFollow n qi b fuel p'

/-! ### A message at an engine (R236, R238, R239) -/

/-- Whether a message belongs to a collective of this step. -/
def State.collMatches (s : State) (n : Nat) (r : CollRun) (m : CollMsg) : Bool :=
  decide (m.group = r.group ∧ m.step = (s.ctx n).st.step ∧ m.seq = r.seq)

/-- A request to resend one message: kind 1 in the model's numbering; it names the grid of the block. -/
def State.askAgain (s : State) (n : Nat) (q : Cq) (r : CollRun) (m : CollMsg) : State :=
  s.send (s.collOut n q r m.dev 1 m.shard m.part m.block m.pass [r.grid m.block])

/-- A message of a collective in progress here whose op, count or parts_m1 differ (R236). -/
def CollRun.differs (r : CollRun) (m : CollMsg) : Bool := decide (m.op ≠ r.op ∨ m.count ≠ r.count ∨ m.parts + 1 ≠ r.parts)

/-- The collective in progress ends with status 0x23 (R236). -/
def State.collMismatch (s : State) (n qi : Nat) (m : CollMsg) : State :=
  (s.collRec n qi 0x23 2 (m.dev % 128 + m.op % 16 * 2 ^ 7 + m.count % 2 ^ 24 * 2 ^ 11 + m.parts % 64 * 2 ^ 35)).collStop n qi 0x23

/-- The collective in progress is ended by a peer's notice (R238). -/
def State.collNotified (s : State) (n qi : Nat) (m : CollMsg) : State :=
  (s.collRec n qi 0x22 ((s.ctx n).abortAction true) (m.dev % 128 + m.status % 256 * 2 ^ 8)).collAbort n qi 0x22

/-- A difference between the copies of an engine (R306): it is fenced, its queues go to the other engines of the die, and every context with work on it is aborted. -/
def State.ceFault (s : State) (e : Nat) : State :=
  let s := s.lockstepRec (16 + e / 4) e
  let s : State := { s with care := { s.care with fencedCe := s.care.fencedCe ++ [e] } }
  let users := s.loadedCtxs.filter (fun n => (s.ctx n).cqs.any (fun q => decide (q.2.engine = e) && q.2.run.isSome))
  let s : State := { s with ctxs := s.ctxs.map (fun (c : Nat × Ctx) => (c.1, { c.2 with cqs := c.2.cqs.map (fun (q : Nat × Cq) => (q.1, if q.2.engine = e then { q.2 with engine := s.ceOf q.2.linkDie e } else q.2)) })) }
  users.foldl (fun s n => s.abortCtx n 0x05 false) s

/-- A message whose collective is in progress here. -/
def State.collTake (s : State) (n qi : Nat) (q : Cq) (r : CollRun) (m : CollMsg) : State :=
  let k := heldKey m.pass m.shard m.part m.block
  let g := (s.ctx n).groupShards r.group
  if m.lockstep then s.ceFault q.engine
  else if !collCrcOk 0 m then
    let tries := tget 0 r.retries k
    if tries < 2 then
      ((s.modCq n qi (fun q => { q with run := some { r with retries := tset r.retries k (tries + 1) } })).askAgain n q r m).count (cePage (q.engine / 4)) .ceRetransmits 1
    else
      let s := s.collRec n qi 0x21 ((s.ctx n).abortAction true) (m.dev % 128 + m.engine % 16 * 2 ^ 8 + m.shard % 4096 * 2 ^ 12 + m.part % 64 * 2 ^ 24 + m.block % 2 ^ 24 * 2 ^ 30)
      (s.collNotify n r 0x21).collAbort n qi 0x21
  else if r.differs m then s.collMismatch n qi m
  else if (tfind r.held k).isSome then s.count (cePage (q.engine / 4)) .ceDuplicates 1
  else if !g.contains m.shard ∨ r.parts ≤ m.part ∨ r.count ≤ m.block ∨ 4 ≤ m.pass ∨ m.payload.length ≠ passLen m.pass then s
  else ((s.modCq n qi (fun q => { q with run := some (r.hold k (m.payload.map (· % 2 ^ 64))) })).collFollow n qi m.block 2 m.pass).collResults n qi

/-- A message at a queue's engine: one of another generation is discarded (R239); one of a collective not yet started waits for it. -/
def State.collMessage (s : State) (n qi : Nat) (m : CollMsg) : State :=
  match tfind (s.ctx n).cqs qi with
  | none => s
  | some q =>
    if m.gen ≠ (s.ctx n).job.gen then s.discard n
    else match q.run with
      | some r => if s.collMatches n r m then s.collTake n qi q r m else s.modCq n qi (fun q => { q with early := q.early ++ [m] })
      | none => s.modCq n qi (fun q => { q with early := q.early ++ [m] })

/-! ### The commands -/

/-- The head of a queue of a context that may start collectives: its queues run, and the step it would belong to is not already being committed. -/
def State.collHead (s : State) (n qi : Nat) : Option (Cq × Nat) :=
  if 64 ≤ n ∨ (s.ctx n).state ≠ 2 ∨ (s.ctx n).st.hold ≠ 0 ∨ (s.ctx n).job.recWritten then none
  else match tfind (s.ctx n).cqs qi with
    | none => none
    | some q => if q.head = q.tail ∨ q.run.isSome then none else some (q, s.cqDesc q)

/-- The checks at the head: an illegal descriptor ends with 0x10, an eager collective in strict mode with 0x16 (R230, R232). -/
def State.collCheck (s : State) (n qi d : Nat) : Option State :=
  if !s.collLegal n d then some ((s.collRec n qi 0x10 2 0).collStop n qi 0x10)
  else if bitsOf d 7 4 = 4 ∧ s.regs.strictActive then some (((s.count 1 .strictFaults 1).collRec n qi 0x16 2 0).collStop n qi 0x16)
  else none

/-- COLLECTIVE_HEAD_CHECK (R230, R232): a descriptor that reaches its queue's head is checked; a legal one waits there for its counter. -/
def execCollectiveHeadCheck (ctx cq : Nat) (s : State) : Host.Outcome State Fault Refusal :=
  .next (match s.collHead ctx cq with
    | none => s
    | some (_, d) => (s.collCheck ctx cq d).getD s)

/-- The first passes of a collective's blocks: its own words are held and sent, and where they complete a pass the next follows. -/
def State.collOpen (s : State) (n qi : Nat) (r : CollRun) : State :=
  (List.range r.count).foldl (fun s b => (s.collPass n qi r.firstPass b).collFollow n qi b 2 r.firstPass) s

/-- The collective of a queue starts (R235): its sources are read and its contributions sent; messages that came before are taken. One that a peer's notice has already ended, ends (R238). -/
def State.collBegin (s : State) (n qi : Nat) (q : Cq) (d : Nat) : State :=
  let r := { collOf d (s.regs.field (cePage (q.engine / 4)) 0x80 15 0 * ms) with again := q.again }
  let mine := fun (m : CollMsg) => s.collMatches n r m
  let keep := fun (m : CollMsg) => !mine m && decide ((s.ctx n).st.step ≤ m.step)
  if (s.groupHere n r.group).isEmpty then s.collDone n qi r q.engine
  else match q.notes.find? mine with
    | some m => (s.modCq n qi (fun q => { q with early := q.early.filter keep, notes := q.notes.filter keep })).collNotified n qi m
    | none =>
      match s.collSrcCheck n q r with
      | some b => s.collRefused n qi r b.1 b.2
      | none =>
        match s.collBadLine n r with
        | some b => (s.collPop n qi 0x18).containLine b.1 b.2 0x18
        | none =>
          let s := s.modCq n qi (fun q => { q with run := some r, early := q.early.filter keep, notes := q.notes.filter keep, again := false })
          let s := s.collOpen n qi r
          let s := if q.again then s.sendAll ((s.groupDevs n r.group).map (fun d => s.collOut n q r d 2 0 0 0 r.firstPass [])) else s
          let s := s.collResults n qi
          (q.early.filter mine).foldl (fun s m => s.collMessage n qi m) s

/-- COLLECTIVE_START (R235): with its wait satisfied the collective at a queue's head starts. -/
def execCollectiveStart (ctx cq : Nat) (s : State) : Host.Outcome State Fault Refusal :=
  .next (match s.collHead ctx cq with
    | none => s
    | some (q, d) =>
      match s.collCheck ctx cq d with
      | some s' => s'
      | none => if s.cqReady ctx q then s.collBegin ctx cq q d else s)

/-- COLLECTIVE_MESSAGE_RECEIVE (R236, R238, R239): a contribution reaches an engine. -/
def execCollectiveMessageReceive (ctx cq : Nat) (m : CollMsg) (s : State) : Host.Outcome State Fault Refusal :=
  .next (if 64 ≤ ctx then s else s.collMessage ctx cq m)

/-- Whether the descriptor at a queue's head has started: it runs, or it was cancelled and is to run again (R291). -/
def Cq.headStarted (q : Cq) : Bool := q.run.isSome || q.again

/-- The collective of this context's present step that a message names, from the descriptors of a queue that have started in it. -/
def State.findColl (s : State) (q : Cq) (m : CollMsg) : Option CollRun :=
  let count := (q.head + 65536 - q.stepHead) % 65536 + if q.headStarted then 1 else 0
  ((List.range count).map (fun i => leNat (s.devRead (q.base + 64 * ((q.stepHead + i) % 2 ^ q.lg)) 64))).findSome? (fun d =>
    if d % 16 = 1 ∧ bitsOf d 15 8 = m.group ∧ bitsOf d 63 32 = m.seq then some (collOf d 0) else none)

/-- A read of a source for an answer was refused after the collective completed here (R235): the record is written and the group told. -/
def State.answerRefused (s : State) (n : Nat) (q : Cq) (qi : Nat) (r : CollRun) (b : Nat × Nat) : State :=
  (s.record { (s.refusalRec b.1 2 (ceMaster q.engine) n b.2).unit 9 (16 + q.engine / 4) 0 q.engine with queue := qi, cq := true }).collNotify n r 0x10

/-- The answer of this device to a request for its contributions (R238, R291): from its sources, whether or not it has completed the collective; `one` asks for one message only. A collective that has not
started here sends its contributions when it starts. -/
def State.answerColl (s : State) (n qi : Nat) (m : CollMsg) (one : Bool) : State :=
  match tfind (s.ctx n).cqs qi with
  | none => s
  | some q =>
    if !collCrcOk (if one then 1 else 2) m then s
    else if m.gen ≠ (s.ctx n).job.gen then s.discard n
    else if m.step ≠ (s.ctx n).st.step ∨ !(s.ctx n).loaded then s
    else match s.findColl q m with
      | none => s
      | some r =>
        let current := q.run.any (fun r => s.collMatches n r m)
        if r.differs m then (if current then s.collMismatch n qi m else s)
        else match s.collSrcCheck n q r with
          | some b => if current then s.collRefused n qi r b.1 b.2 else s.answerRefused n q qi r b
          | none =>
            match s.collBadLine n r with
            | some b => (if current then s.collPop n qi 0x18 else s).containLine b.1 b.2 0x18
            | none =>
              if one then
                (if (s.groupHere n r.group).contains m.shard ∧ m.part < r.parts ∧ m.block < r.count ∧ m.pass < 4 then
                  s.send (s.collOut n q r m.dev 0 m.shard m.part m.block m.pass (passWords m.pass (m.payload.getD 0 0) (s.ownBlock n r m.shard m.part m.block)))
                else s)
              else s.sendAll (((List.range r.count).filter (fun b => s.takesPass n r m.dev r.firstPass b)).flatMap (fun b => s.collMsgs n q r m.dev r.firstPass 0 b))

/-- COLLECTIVE_RETRANSMIT_REQUEST (R238): a receiver asks for one message again; the source is read again. -/
def execCollectiveRetransmitRequest (ctx cq : Nat) (m : CollMsg) (s : State) : Host.Outcome State Fault Refusal :=
  .next (if 64 ≤ ctx then s else s.answerColl ctx cq m true)

/-- COLLECTIVE_CONTRIBUTION_REQUEST (R291): a peer that runs a cancelled collective again asks for every contribution of this device. -/
def execCollectiveContributionRequest (ctx cq : Nat) (m : CollMsg) (s : State) : Host.Outcome State Fault Refusal :=
  .next (if 64 ≤ ctx then s else s.answerColl ctx cq m false)

/-- Whether a message names a collective that this queue has passed in the present step. -/
def State.collPassed (s : State) (n : Nat) (q : Cq) (m : CollMsg) : Bool := decide (m.step < (s.ctx n).st.step) || (m.step = (s.ctx n).st.step && (s.findColl { q with run := none, again := false } m).isSome)

/-- COLLECTIVE_FAILURE_NOTICE (R238, R239): an engine of the group has ended the collective; it ends here with 0x22, when it starts where it has not started yet. -/
def execCollectiveFailureNotice (ctx cq : Nat) (m : CollMsg) (s : State) : Host.Outcome State Fault Refusal :=
  .next (if 64 ≤ ctx then s
    else match tfind (s.ctx ctx).cqs cq with
      | none => s
      | some q =>
        if m.gen ≠ (s.ctx ctx).job.gen then s.discard ctx
        else if q.run.any (fun r => s.collMatches ctx r m) then s.collNotified ctx cq m
        else if s.collPassed ctx q m then s
        else s.modCq ctx cq (fun q => { q with notes := q.notes ++ [m] }))

/-- COLLECTIVE_TIMEOUT (R240): contributions are missing when the time exceeds the timeout under which the collective started. -/
def execCollectiveTimeout (ctx cq : Nat) (s : State) : Host.Outcome State Fault Refusal :=
  .next (if 64 ≤ ctx then s
    else match (tfind (s.ctx ctx).cqs cq).bind (·.run) with
      | none => s
      | some r =>
        let miss := s.collMissing ctx r
        if r.waited ≤ r.limit ∨ miss.isEmpty then s
        else
          let syn := ((List.range 8).map (fun k => (miss.getD k 0xFFF) * 2 ^ (12 * k))).foldl (· + ·) 0 + miss.length * 2 ^ 96
          (((s.collRec ctx cq 0x20 ((s.ctx ctx).abortAction true) syn).collNotify ctx r 0x20)).collAbort ctx cq 0x20)

/-- COLLECTIVE_COMPLETION (R235): every result write of this device is acknowledged. -/
def execCollectiveCompletion (ctx cq : Nat) (s : State) : Host.Outcome State Fault Refusal :=
  .next (if 64 ≤ ctx then s
    else match tfind (s.ctx ctx).cqs cq with
      | none => s
      | some q =>
        match q.run with
        | some r => if r.done then s.collDone ctx cq r q.engine else s
        | none => s)

end Sys2Proof.Machine
end

