-- ==== Sys2Proof/Machine/Links.lean ====
section
/-! DEFINITION. Dravbo links: training (R252 to R257, R261), packets, acknowledgement and replay (R244 to R247), ports that lose and regain links (R246, R266, R332). -/

namespace Sys2Proof.Machine

/-! ### States of a link (R252 to R254) -/

/-- A link enters a state. -/
def State.linkTo (s : State) (l st : Nat) : State := s.setLink l { s.link l with state := st, enteredAt := s.now }

/-- The far end sends training messages of its own: this end's identity when it enters IDENT, its highest version when it enters NEGOTIATE (kinds 2 and 3 in the model's numbering). -/
def State.enterIdent (s : State) (l : Nat) : State :=
  (s.linkTo l 4).emit (.link l 2 [s.cab, l, s.plan, b2n s.hostMode, s.stepping, s.protoMax] (leBytes 16 s.root.devid))
def State.enterNegotiate (s : State) (l : Nat) : State := (s.linkTo l 5).emit (.link l 3 [s.protoMax] [])

/-- The unacknowledged packets of a link that leaves service go again, in sequence, on the other live links of its port (R246); with none they stay in its replay buffer. -/
def State.resend (s : State) (l p : Nat) : State :=
  let live := s.liveLinks p
  if live.isEmpty then s
  else
    let ps := (s.link l).unacked
    let s := s.setLink l { s.link l with unacked := [], replays := [] }
    (List.zip (List.range ps.length) ps).foldl (fun s x => s.sendPiece (live.getD (x.1 % live.length) 0) x.2.2.1 x.2.2.2) s

/-- Contexts that own a scheduled slot of a port. -/
def State.portUsers (s : State) (p : Nat) : List Nat :=
  let die := 16 + s.portHome p
  ((s.schedSlots die (8 + p)).map (fun i => bitsOf (s.slotEntry die (8 + p) i) 7 2)).dedup

/-- Tell the Bureaus of the Cabinet that a port of a device has lost its last link or has one again, which the spec has them know (R265, assumption log 146). -/
def State.floodPort (s : State) (dev port : Nat) (lost : Bool) : State :=
  (List.range 8).foldl (fun s p =>
    match s.portFar p with
    | some d => s.sendSync p (.sync d msgPort [dev, port, b2n lost])
    | none => s) s

/-- A port has lost its last link (R266, R332): its record, and the routes avoid it. Where contexts own slots of it, the end with the higher index is the one to give up its shards. -/
def State.portLost (s : State) (p : Nat) : State :=
  let far := (s.portFar p).getD 0
  let act := if !(s.portUsers p).isEmpty ∧ far < s.cab then 8 else 7
  let s := s.record { (s.mkRec 0x42 act).unit 8 0 0 far with syndrome := p + far * 8 }
  let s : State := { s with ports := { s.ports with lost := s.ports.lost ++ [p] } }
  let s := s.floodPort s.cab p true
  if s.root.ready then s.fillRoutes.splitJobs far 0x42 else s

/-- A link leaves ACTIVE for a state (R246, R266). -/
def State.leaveService (s : State) (l st : Nat) : State :=
  let was := (s.link l).state
  let s := s.linkTo l st
  if was ≠ 6 then s
  else match s.portOf l with
    | none => s
    | some p =>
      let s := s.resend l p
      (if (s.liveLinks p).isEmpty ∧ !s.ports.lost.contains p then s.portLost p else s).evalCab

/-- A link goes to FAULT with a reason; its record names the state in which it failed (R254). -/
def State.linkFault (s : State) (l reason : Nat) : State :=
  let st := (s.link l).state
  let s := s.leaveService l 7
  let s := s.setLink l { s.link l with reason := reason }
  s.record { (s.mkRec 0x40 7).unit 6 (16 + l / 11) 0 l with syndrome := st + reason * 256 }

/-- A link in service retrains from ALIGN; the fourth retrain within 60 s is a fault (R253, R254). -/
def State.retrain (s : State) (l : Nat) : State :=
  let k := s.link l
  if k.state ≠ 6 then s
  else
    let recent := k.retrainAt.filter (fun t => decide (s.now ≤ t + 6000000000))
    if 3 ≤ recent.length then s.linkFault l 6
    else
      let s := s.leaveService l 3
      s.setLink l { s.link l with retrains := min 255 (k.retrains + 1), retrainAt := recent ++ [s.now], again := true, short := true }

/-- Whether a link may train: it has a planned far end, it is enabled, and the main domain is up. -/
def State.mayTrain (s : State) (l : Nat) : Bool :=
  decide (l < 32) && s.linkPlanned l && s.root.mainUp && decide (s.regs.field (linkPage l) 0x80 0 0 = 1)

/-- A link begins fresh training from DETECT. -/
def State.trainLink (s : State) (l : Nat) : State :=
  if !s.mayTrain l then s.leaveService l 0
  else
    let s := s.leaveService l 1
    s.setLink l { s.link l with retrains := 0, retrainAt := [], again := false, short := false, farValid := false, version := 0 }

/-! ### Training commands -/

/-- LINK_SIGNAL_DETECT (R252): signal on all four lanes. -/
def execLinkSignalDetect (link : Nat) (s : State) : Host.Outcome State Fault Refusal := .next (if (s.link link).state = 1 then s.linkTo link 2 else s)

/-- LINK_EQUALIZE_DONE (R252): equalisation is complete. -/
def execLinkEqualizeDone (link : Nat) (s : State) : Host.Outcome State Fault Refusal := .next (if (s.link link).state = 2 then s.linkTo link 3 else s)

/-- LINK_ALIGN_DONE (R252): codeword lock, lane order and deskew are found, and the link enters IDENT. -/
def execLinkAlignDone (link : Nat) (s : State) : Host.Outcome State Fault Refusal := .next (if (s.link link).state = 3 then s.enterIdent link else s)

/-- IDENT_MESSAGE (R255, R261): the far identity is recorded and checked: after a retrain against the far end of the last IDENT, and against the plan and the port map. -/
def execIdentMessage (link : Nat) (m : IdentMsg) (s : State) : Host.Outcome State Fault Refusal :=
  let k := s.link link
  .next (if k.state ≠ 4 then s
    else
      let changed := decide (k.again ∧ k.farValid ∧ (k.farIndex ≠ m.index % 128 ∨ k.farLink ≠ m.link % 32 ∨ k.farDevid ≠ m.devid ∨ k.farPlan ≠ m.plan % 8))
      let s := s.setLink link { k with farValid := true, farIndex := m.index % 128, farLink := m.link % 32, farPlan := m.plan % 8, farStepping := m.stepping % 256, farMax := m.version % 256,
                                       farDevid := m.devid }
      let far := (s.portOf link).bind s.portFar
      if changed then s.linkFault link 7
      else if far ≠ some (m.index % 128) ∨ farLink link ≠ some (m.link % 32) then s.linkFault link 3
      else if m.plan % 8 ≠ s.plan then s.linkFault link 4
      else s.enterNegotiate link)

/-- A link enters service: its port has it from the next frame, a lost port is lost no more, and a ready device sends its assembly message again (R266, R393). Sequence numbers begin at 0 on
both ends, and packets that it kept go again (assumption log 43). -/
def State.linkActive (s : State) (l ver : Nat) : State :=
  let k := s.link l
  let s := s.setLink l { k with state := 6, enteredAt := s.now, version := ver, again := false, short := false, nakOut := false, rxCount := 0,
                                txSeq := 0, rxSeq := 0, replays := [], unacked := [] }
  let s := k.unacked.foldl (fun s x => s.sendPiece l x.2.1 x.2.2) s
  match s.portOf l with
  | none => s
  | some p =>
    let s := if s.ports.lost.contains p then s.floodPort s.cab p false else s
    let s : State := { s with ports := { s.ports with lost := s.ports.lost.filter (fun x => decide (x ≠ p)) } }
    if s.root.ready then s.fillRoutes.retryNotices.evalCab.sendAsm else s

/-- NEGOTIATE_MESSAGE (R256, R257): the link runs the lower of the two highest versions and becomes ACTIVE; majors that differ are a fault. -/
def execNegotiateMessage (link version : Nat) (s : State) : Host.Outcome State Fault Refusal :=
  .next (if (s.link link).state ≠ 5 then s
    else
      let v := version % 256
      let s := s.setLink link { s.link link with farMax := v }
      if v / 16 ≠ s.protoMax / 16 then s.linkFault link 5 else s.linkActive link (min v s.protoMax))

/-- The limit of a training state in local time (Table 11.6). -/
def trainLimit (st : Nat) : Nat :=
  match st with
  | 1 => 20 * ms | 2 => 2000 * ms | 3 => 50 * ms | _ => 10 * ms

/-- LINK_TRAINING_TIMEOUT (R252, R253): a training state has lasted its limit. DETECT is tried again; a retrain whose ALIGN fails goes back to EQUALIZE; the rest are faults. Which of its three reasons an IDENT
that hears nothing gives is a free value. -/
def execLinkTrainingTimeout (link : Nat) (s : State) : Host.Outcome State Fault Refusal :=
  let k := s.link link
  .next (if k.state = 0 ∨ 6 ≤ k.state ∨ s.now < k.enteredAt + trainLimit k.state then s
    else if k.state = 1 then s.linkTo link 1
    else if k.state = 2 then s.linkFault link 1
    else if k.state = 3 then (if k.short then (s.setLink link { k with short := false }).linkTo link 2 else s.linkFault link 2)
    else if k.state = 4 then (s.drawn 1).linkFault link ([3, 4, 7].getD (s.freeVal 3) 3)
    else s.linkFault link 5)

/-- CODEWORD_LOCK_LOSS (R253): an active link that loses codeword lock retrains. -/
def execCodewordLockLoss (link : Nat) (s : State) : Host.Outcome State Fault Refusal := .next (s.retrain link)

/-- UNCORRECTABLE_CODEWORD_LIMIT (R253, Table 11.9): the codewords of one millisecond are counted; more than 16 uncorrectable ones make the link retrain. -/
def execUncorrectableCodewordLimit (link corrected uncorrectable : Nat) (s : State) : Host.Outcome State Fault Refusal :=
  .next (if 32 ≤ link then s
    else
      let s := (s.count (linkPage link) .fecCorrected corrected).count (linkPage link) .fecUncorrectable uncorrectable
      if 16 < uncorrectable then s.retrain link else s)

/-- LNK_CTRL_RETRAIN (R254): a write of LNK_CTRL.retrain trains the link afresh; only the Bureau's takes a link out of FAULT, any other sets BLK_ERR[5]. -/
def execLnkCtrlRetrain (master link : Nat) (s : State) : Host.Outcome State Fault Refusal :=
  .next (if 32 ≤ link ∨ (master = 0xF001 ∧ !s.mgmt.lecOpen) then s
    else if (s.link link).state = 7 ∧ master ≠ 0xF000 then s.blkErr (linkPage link) 5
    else s.trainLink link)

/-! ### Acknowledgement and replay (R245) -/

/-- How far sequence number `b` lies after `a`. -/
def seqDist (a b : Nat) : Nat := (b % 4096 + 4096 - a % 4096) % 4096

/-- Packets up to a number are acknowledged: those before or at it leave the replay buffer. -/
def Link.ack (k : Link) (seq : Nat) : Link :=
  if k.unacked.any (fun x => decide (x.1 = seq % 4096)) then
    let gone := fun (q : Nat) => decide (seqDist q seq < 2048)
    { k with unacked := k.unacked.filter (fun x => !gone x.1), replays := k.replays.filter (fun x => !gone x.1) }
  else k

/-- A NAK (R245): every packet before the number is acknowledged, and the rest are sent again; a packet that would need a fifth replay makes the link retrain. -/
def State.nak (s : State) (l seq : Nat) : State :=
  if 32 ≤ l ∨ (s.link l).state ≠ 6 then s
  else
    let k := (s.link l).ack (seq + 4095)
    let s := s.setLink l k
    if k.unacked.any (fun x => decide (4 ≤ tget 0 k.replays x.1)) then s.retrain l
    else
      let s := s.setLink l { k with replays := k.unacked.foldl (fun t x => tput 0 t x.1 (tget 0 t x.1 + 1)) k.replays }
      k.unacked.foldl (fun s x => s.emit (.packet l (piecePacket x.2.1 x.1 x.2.2))) s

/-- ACK_RECEIVE (R245): a cumulative acknowledgement. -/
def execAckReceive (link seq : Nat) (s : State) : Host.Outcome State Fault Refusal :=
  .next (if 32 ≤ link ∨ (s.link link).state ≠ 6 then s else s.setLink link ((s.link link).ack seq))

/-- NAK_RECEIVE (R245). -/
def execNakReceive (link seq : Nat) (s : State) : Host.Outcome State Fault Refusal := .next (s.nak link seq)

/-- Send an acknowledgement of everything received (contents 0). -/
def State.sendAck (s : State) (l : Nat) : State :=
  (s.setLink l { s.link l with rxCount := 0 }).emit (.packet l (controlPacket 0 (leBytes 2 (((s.link l).rxSeq + 4095) % 4096))))

/-- A NAK of the first missing number (contents 1). -/
def State.emitNak (s : State) (l : Nat) : State := (s.emit (.packet l (controlPacket 1 (leBytes 2 (s.link l).rxSeq)))).count (linkPage l) .fecReplays 1

/-- A NAK for a gap, one until that packet arrives; the timer repeats it. -/
def State.sendNak (s : State) (l : Nat) : State :=
  if (s.link l).nakOut then s else (s.setLink l { s.link l with nakOut := true }).emitNak l

/-- ACK_TIMER (R245): packets received since the last acknowledgement are acknowledged; a NAK that has brought no packet is repeated. -/
def execAckTimer (link : Nat) (s : State) : Host.Outcome State Fault Refusal :=
  .next (if 32 ≤ link ∨ (s.link link).state ≠ 6 then s
    else
      let s := if (s.link link).rxCount = 0 then s else s.sendAck link
      if (s.link link).nakOut then s.emitNak link else s)

/-! ### Packets (R244 to R247) -/

/-- Position of a received slot in its port's stream of frames, relative to another: whether `a` comes before `b`. -/
def slotBefore (a b : Nat) : Bool := decide (0 < (b + 2 ^ 24 - a % 2 ^ 24) % 2 ^ 24 ∧ (b + 2 ^ 24 - a % 2 ^ 24) % 2 ^ 24 < 2 ^ 23)

/-- A delivered slot is remembered while a second copy of its pieces could come: replay buffers reach back less than 2^16 slots. -/
def slotRecent (a b : Nat) : Bool := decide (a / 2 ^ 24 ≠ b / 2 ^ 24 ∨ (a + 2 ^ 24 - b % 2 ^ 24) % 2 ^ 24 < 2 ^ 16 ∨ (b + 2 ^ 24 - a % 2 ^ 24) % 2 ^ 24 < 2 ^ 16)

/-- A slot whose pieces have all arrived is delivered (R246): its bytes wait at the receive side of the port for the flow's slots of this device (R163). -/
def State.deliverSlot (s : State) (p key : Nat) (x : SlotIn) : State :=
  let bytes := (sortBy (·.1) x.ps).flatMap (·.2)
  let k := flowKey x.ctx x.flow
  let s : State := { s with ports := { s.ports with slots := tdel s.ports.slots key, done := key :: s.ports.done.filter (fun d => slotRecent d key) } }
  if (s.ctx x.ctx).loaded ∧ !bytes.isEmpty then
    { s with
      net := { s.net with rxq := tput [] s.net.rxq k (tget [] s.net.rxq k ++ [(s.now, bytes)]) }
      ports := { s.ports with inq := tput [] s.ports.inq k (tget [] s.ports.inq k ++ [(p, x.ps.length, bytes.length)]) } }
  else s.returnCredits p x.ctx x.ps.length

/-- Deliver the whole slots of a flow of a port, oldest first, up to the first that still lacks a piece; `fuel` bounds them. -/
def State.deliverFlow (s : State) (p ctx flow : Nat) : Nat → State
  | 0 => s
  | fuel + 1 =>
    let mine := s.ports.slots.filter (fun x => decide (x.1 / 2 ^ 24 = p ∧ x.2.ctx = ctx ∧ x.2.flow = flow))
    match mine.find? (fun x => mine.all (fun y => !slotBefore y.1 x.1)) with
    | none => s
    | some x => if x.2.ps.length < (s.portLinks p).length then s else (s.deliverSlot p x.1 x.2).deliverFlow p ctx flow fuel

/-- The fields of a received piece packet (Table 11.2) and its payload. -/
def pieceFields (bytes : List Byte) : List Nat × List Byte :=
  let h := leNat (bytes.take 8)
  ([bitsOf h 63 61, bitsOf h 60 55, bitsOf h 54 43, bitsOf h 42 35, bitsOf h 34 31, bitsOf h 30 15, bitsOf h 11 0], ((bytes.drop 8).take 256).take (256 - 64 * min 4 (bitsOf h 14 12)))

/-- A scheduled piece takes its place by frame, slot and piece, whatever link carried it (R246); a slot delivered before is not filled again. -/
def State.placePiece (s : State) (p : Nat) (h : List Nat) (data : List Byte) : State :=
  let key := (p * 65536 + h.getD 5 0) * 256 + h.getD 3 0
  if s.ports.done.contains key then s
  else
    let x := tget ⟨h.getD 1 0, h.getD 2 0, []⟩ s.ports.slots key
    let ps := if x.ps.any (fun y => decide (y.1 = h.getD 4 0)) then x.ps else x.ps ++ [(h.getD 4 0, data)]
    ({ s with ports := { s.ports with slots := tset s.ports.slots key { x with ps := ps } } } : State).deliverFlow p x.ctx x.flow 256

/-- A piece of class OPEN or MAINT is received (R263, R264): an open packet goes on or is delivered, one without a route is discarded; a maintenance flit ends here. -/
def State.openArrive (s : State) (p : Nat) (h : List Nat) (data : List Byte) : State :=
  let die := 16 + s.portHome p
  if h.getD 0 0 = 2 then (s.emit (.openFlit die 63 4 0)).returnCredits p maintUnit 1
  else
    let vc := h.getD 2 0 % 4
    let sub := h.getD 2 0 / 4 % 2
    let f : OpenFlit := ⟨vc, 8 + p, leNat (data.take 4), leNat ((data.drop 4).take 4), sub, portDim p, 1 + creditKey p (64 + vc * 2 + sub)⟩
    if s.openHere f.dest ∨ (s.openDie f.dest).isSome then s.enqueueOpen die f else (s.leaveBuffer f).discardOpen die f

/-- A piece received in order, at port `p`, by its class (R244). -/
def State.pieceAt (s : State) (p : Nat) (h : List Nat) (data : List Byte) : State :=
  if h.getD 0 0 = 0 then s.placePiece p h data else if h.getD 0 0 < 3 then s.openArrive p h data else s

/-- A link takes a piece in order: its count moves on, the piece goes to its port, and every 64th is acknowledged (R245). -/
def State.takePiece (s : State) (link : Nat) (h : List Nat) (data : List Byte) : State :=
  let k := s.link link
  let s := s.setLink link { k with rxSeq := (k.rxSeq + 1) % 4096, nakOut := false, rxCount := k.rxCount + 1 }
  let s := match s.portOf link with
    | none => s
    | some p => s.pieceAt p h data
  if 64 ≤ (s.link link).rxCount then s.sendAck link else s

/-- PIECE_PACKET_RECEIVE (R244 to R246, R307): a packet of 268 bytes with its CRC-32. One with a failed CRC, a reserved class or a gap before it gives a NAK and is discarded; one received before is discarded;
the expected one is taken. An uncorrectable line of the buffer makes the link retrain. -/
def execPiecePacketReceive (link : Nat) (bytes : List Byte) (upset : Bool) (s : State) : Host.Outcome State Fault Refusal :=
  let k := s.link link
  let h := (pieceFields bytes).1
  let seq := h.getD 6 0
  .next (if 32 ≤ link ∨ k.state ≠ 6 then s
    else if upset then s.retrain link
    else if bytes.length ≠ 268 ∨ crc32 (bytes.take 264) ≠ leNat (bytes.drop 264) ∨ 4 ≤ h.getD 0 0 then s.sendNak link
    else if seq ≠ k.rxSeq then (if seqDist k.rxSeq seq < 2048 then s.sendNak link else s)
    else s.takePiece link h (pieceFields bytes).2)

/-- The slots sent whose pieces `n` returned credits cover, and the rest. -/
def popAway : List SlotOut → Nat → List SlotOut × List SlotOut
  | [], _ => ([], [])
  | x :: xs, n =>
    if x.pieces ≤ n then
      let r := popAway xs (n - x.pieces)
      (x :: r.1, r.2)
    else ([], { x with pieces := x.pieces - n } :: xs)

/-- Credits of a unit come back at a port as a running total (R247). A context's SCHED credits say that its bytes are in their ring (R156); room for more comes back to the flow's sender (R154), and the credits
of the pieces by which the bytes had come here go back in turn. SYNC messages that waited for a credit leave. -/
def State.creditBack (s : State) (p u total : Nat) : State :=
  let k := creditKey p u
  let old := tget 0 s.ports.back k
  let new := max old (min total (tget 0 s.ports.sent k))
  let s : State := { s with ports := { s.ports with back := tput 0 s.ports.back k new } }
  if u < 64 then
    let r := popAway (tget [] s.ports.away k) (new - old)
    r.1.foldl (fun s x =>
      let f := flowKey u x.flow
      ({ s with net := { s.net with owed := tput 0 s.net.owed f (tget 0 s.net.owed f + x.bytes) } } : State).written u x.flow x.bytes)
      { s with ports := { s.ports with away := tput [] s.ports.away k r.2 } }
  else if u = syncUnit then
    (tget [] s.ports.syncq p).foldl (fun s o => s.sendSync p o) { s with ports := { s.ports with syncq := tput [] s.ports.syncq p [] } }
  else s

/-- Entries of a credit return: one byte of unit and four of total. -/
def State.creditsReturn (s : State) (p : Nat) (unit : Nat → Nat) : Nat → List Byte → State
  | 0, _ => s
  | n + 1, bs => (s.creditBack p (unit (leNat (bs.take 1))) (leNat ((bs.drop 1).take 4))).creditsReturn p unit n (bs.drop 5)

/-- The protocol version of a port: the lowest among its live links (R256). -/
def State.portVersion (s : State) (p : Nat) : Nat := ((s.liveLinks p).map (fun l => (s.link l).version)).foldl min 0xFF

/-- CONTROL_PACKET_RECEIVE (R244, R245, R247, R263, Table 11.10): 28 bytes and their CRC-32; one that fails it is discarded. The first byte names the contents, in the model's numbering: 0 acknowledgement, 1 NAK,
2 SCHED credits of one context, or where the port runs version 1.1 of up to four, 3 a sync message with its destination in the second byte, which is forwarded where it is not this device, and whose own credit
goes back, 4 credits of another unit. What a sync message for this device or a training message does is a command of its own. -/
def execControlPacketReceive (link : Nat) (bytes : List Byte) (s : State) : Host.Outcome State Fault Refusal :=
  .next (if 32 ≤ link ∨ (s.link link).state ≠ 6 ∨ bytes.length ≠ 32 ∨ crc32 (bytes.take 28) ≠ leNat (bytes.drop 28) then s
    else
      let body := (bytes.take 28).drop 1
      match leNat (bytes.take 1), s.portOf link with
      | 0, _ => s.setLink link ((s.link link).ack (leNat (body.take 2)))
      | 1, _ => s.nak link (leNat (body.take 2))
      | 2, some p => s.creditsReturn p (· % 64) (min (leNat (body.take 1)) (if s.portVersion p = 0x11 then 4 else 1)) (body.drop 1)
      | 3, some p =>
        let d := leNat (body.take 1) % 128
        let s := s.returnCredits p syncUnit 1
        if d = s.cab then s else s.send (.sync d 0 ((body.drop 1).map (·.toNat)))
      | 4, some p => s.creditsReturn p (fun u => 64 + u % 16) (min (leNat (body.take 1)) 1) (body.drop 1)
      | _, _ => s)

end Sys2Proof.Machine
end

