-- ==== Sys2Proof/Machine/Cabinet.lean ====
section
/-! DEFINITION. The assembly of the Cabinet (R392 to R396), heartbeats and lost devices (R331 to R333). -/

namespace Sys2Proof.Machine

/-! ### Heartbeats (R331, R332) -/

/-- The ports whose far device is present. -/
def State.presentPorts (s : State) : List Nat :=
  (List.range 8).filter (fun p => match s.portFar p with | some d => decide (d ≠ s.cab) && s.care.present.contains d | none => false)

/-- A device is the far device of a port. -/
def State.neighbour (s : State) (d : Nat) : Bool := (List.range 8).any (fun p => decide (s.portFar p = some d))

/-- HEARTBEAT_SEND (R331): every hb_ms a heartbeat goes to the far device of each port that is marked present, by the route table; it names the sender and the far port. -/
def execHeartbeatSend (s : State) : Host.Outcome State Fault Refusal :=
  .next (if !s.root.ready ∨ s.now < s.care.hbAt + s.regs.field 1 0x138 23 16 * ms then s
    else
      let s := { s with care := { s.care with hbAt := s.now } }
      s.presentPorts.foldl (fun s p => s.send (.sync ((s.portFar p).getD 0) msgHeartbeat [s.cab, farPortOf p])) s)

/-- Contexts whose job has a member on a device. -/
def State.jobsWith (s : State) (d : Nat) : List Nat := s.loadedCtxs.filter (fun n => (s.peersOf n).contains d)

/-- HEARTBEAT_RECEIVE (R331, R332): the loss timer of a present neighbour starts again. A heartbeat of the far device of a lost port shows that both ends live: the end with the higher index then
relinquishes its shards of the jobs that the two share and that own scheduled slots of the port. -/
def execHeartbeatReceive (port device : Nat) (s : State) : Host.Outcome State Fault Refusal :=
  .next (if !s.root.ready ∨ !s.care.present.contains device then s
    else
      let s : State := { s with care := { s.care with heard := tset s.care.heard device s.now } }
      if s.ports.lost.contains port ∧ s.portFar port = some device ∧ device < s.cab then
        ((s.portUsers port).filter (fun n => (s.jobsWith device).contains n)).foldl (fun s n => s.relinquish n) s
      else s)

/-! ### Lost devices (R331, R333, R396) -/

/-- LOSS_TIMEOUT (R331): no heartbeat from a present neighbour within timeout: it is declared lost, with a record, and the notice is flooded. -/
def execLossTimeout (port : Nat) (s : State) : Host.Outcome State Fault Refusal :=
  .next (match s.portFar port with
    | none => s
    | some d =>
      if !s.root.ready ∨ d = s.cab ∨ !s.care.present.contains d ∨ s.now < tget 0 s.care.heard d + s.regs.field 1 0x138 15 0 * ms then s
      else
        let s := s.record { (s.mkRec 0x43 8).unit 8 0 0 d with syndrome := d }
        (s.floodLost d s.cab (s.nonceOf d)).deviceLost d)

/-- A notice that a port of another device has lost its last link, or has one again (R265): it goes on and the routes are rewritten, once. -/
def State.portNotice (s : State) (device port : Nat) (lost : Bool) : State :=
  if device = s.cab ∨ s.care.lostPorts.contains (device, port) = lost then s
  else
    let ports := if lost then (device, port) :: s.care.lostPorts else s.care.lostPorts.filter (fun x => decide (x ≠ (device, port)))
    (({ s with care := { s.care with lostPorts := ports } } : State).floodPort device port lost).fillRoutes.retryNotices

/-- DEVICE_LOST_NOTICE (R265, R331, R333, R396): the first notice about a device is flooded on and acted on; one about an earlier boot of a device that has been marked present since is not. `about` 0 is the
device itself, 1 to 8 its port 0 to 7 that has lost its last link, 9 to 16 one that has a link again (assumption log 146). -/
def execDeviceLostNotice (device origin nonce about : Nat) (s : State) : Host.Outcome State Fault Refusal :=
  .next (if about ≠ 0 then (if s.root.ready ∧ about ≤ 16 then s.portNotice device ((about - 1) % 8) (about ≤ 8) else s)
    else if !s.root.bureauUp ∨ s.root.offline ∨ s.care.lostDevs.contains device ∨ planModules s.plan ≤ device then s
    else if s.nonceOf device ≠ nonce ∧ (device = s.cab ∨ s.care.seen.contains (device, nonce)) then s
    else (s.floodLost device origin nonce).deviceLost device)

/-! ### Assembly (R392 to R396) -/

/-- The start of assembly (R392, R393): link-port entries for every planned device, every route invalid, every other device missing; the first message is sent. -/
def State.startAssembly (s : State) : State :=
  let s := (List.range 8).foldl (fun s p => s.grant 3 p (aclEntry 0x4000 0x437F none 0 0 [.r, .s] false)) s
  let regs := (List.range 128).foldl (fun (r : Regs) d => r.setWord 3 (0x400 + 4 * d) 0) s.regs
  let s : State := { s with regs := regs, care := { s.care with
    present := [s.cab], lostDevs := [], lostPorts := [], seen := [], heard := [], protos := tset [] s.cab s.protoMax, cabState := 1, asmAt := s.now } }
  s.evalCab.sendAsm

/-- A device is marked present by the first message of a boot (R394). -/
def State.markPresent (s : State) (m : AsmMsg) : State :=
  let d := m.origin
  let care := { s.care with
    seen := s.care.seen ++ [(d, m.nonce)], lostDevs := s.care.lostDevs.filter (fun x => decide (x ≠ d))
    present := if s.care.present.contains d then s.care.present else s.care.present ++ [d]
    protos := tset s.care.protos d (m.proto % 256)
    heard := if s.neighbour d then tset s.care.heard d s.now else s.care.heard }
  ({ s with care := care }).fillRoutes.retryNotices.evalCab

/-- ASSEMBLY_MESSAGE (R393, R394, R396): a message of another plan is counted and discarded; a message not yet forwarded goes on over every other ACTIVE link. The first message of an index and nonce
marks its sender present and is answered with this device's own. -/
def execAssemblyMessage (m : AsmMsg) (s : State) : Host.Outcome State Fault Refusal :=
  .next (if 32 ≤ m.link ∨ (s.link m.link).state ≠ 6 ∨ !s.root.bureauUp ∨ m.origin = s.cab then s
    else if m.plan ≠ s.plan then s.count 1 .planMismatch 1
    else
      let s := if s.care.forwarded.contains (m.origin, m.nonce) then s
        else
          let s : State := { s with care := { s.care with forwarded := s.care.forwarded ++ [(m.origin, m.nonce)] } }
          s.floodAsm (some m.link) [m.origin, m.nonce, m.plan, m.stepping, m.proto] m.devid
      if !s.root.ready ∨ planModules s.plan ≤ m.origin ∨ s.care.seen.contains (m.origin, m.nonce) then s
      else (s.markPresent m).sendAsm)

/-- ASSEMBLY_TIMEOUT (R395): the view is evaluated; one that is incomplete when the timeout has passed since ready is degraded. -/
def execAssemblyTimeout (s : State) : Host.Outcome State Fault Refusal := .next s.evalCab

/-- BU_CAB_STAT.cab_proto (R395): the lowest highest version over the present devices. -/
def State.cabProtoMin (s : State) : Nat :=
  if s.care.cabState = 0 then 0 else (s.care.present.map (fun d => tget 0 s.care.protos d)).foldl min s.protoMax

end Sys2Proof.Machine
end

