-- ==== Sys2Proof/Machine/Bringup.lean ====
section
/-! DEFINITION. Power-up, boot, start-up tests, ready and the entropy source (R258, R259, R324, R342 to R347, R383 to R391), module reset and loss of power (R398, R399, R424). -/

namespace Sys2Proof.Machine

/-! ### Main domain (R386, R399) -/

/-- An output pin of the module changes to a level: MAIN_PG is pin 2, THERMTRIP_N pin 1. -/
def State.setMainPg (s : State) (v : Bool) : State :=
  if s.pins.mainPg = v then s else ({ s with pins := { s.pins with mainPg := v } }).emit (.pin 2 v)
def State.setThermtrip (s : State) (v : Bool) : State :=
  if s.pins.thermtripN = v then s else ({ s with pins := { s.pins with thermtripN := v } }).emit (.pin 1 v)

/-- Every context is unloaded at once, without draining; a command in progress ends. -/
def State.unloadAll (s : State) : State := s.loadedCtxs.foldl (fun s n => (s.startUnload n).finishUnload n) s

/-- The main domain turns off (R399): MAIN_PG falls; cores, dies, stacks and links hold nothing any more, and every context is unloaded. -/
def State.mainOff (s : State) : State :=
  let s := s.unloadAll.setMainPg false
  let links := s.links.map (fun (l : Nat × Link) => (l.1, { Link.reset with enteredAt := s.now }))
  { s with
    root := { s.root with mainEn := false, mainUp := false, crossings := false, stackUp := [], ready := false }
    cores := [], mem := [], badLines := [], frames := [], regions := [], net := Net.reset, ctrs := [], sigs := [], known := [], notices := [], fwds := [], bars := [],
    dbg := [], queues := [], arbs := [], links := links, ports := Ports.reset
    care := { s.care with log := [], records := [], cache := [], replays := [], linebufs := [], hashRem := [] } }

/-- The device goes offline for a cause in the start-up sequence: it is recorded in BU_READY.fail (R383). -/
def State.failStart (s : State) (code unit : Nat) : State := ({ s with root := { s.root with fail := code, failUnit := unit % 16 } }).goOffline

/-! ### Power-on reset and boot (R258, R259, R345, R347, R383 to R385) -/

/-- STANDBY_VALID (R383): the standby rail reaches 3.0 V. -/
def execStandbyValid (s : State) : Host.Outcome State Fault Refusal := .next { s with root := { s.root with standby := true } }

/-- RT_STRAPS of the strap pins (R258, R259): the cabinet index is POS_SHELF × 8 + POS_SLOT; plan_err where PLAN is reserved, the Shelf lies beyond the plan, or a host module is not in slot 0. -/
def sampleStraps (p : Nat) : Nat :=
  let slot := bitsOf p 2 0
  let shelf := bitsOf p 6 3
  let plan := bitsOf p 9 7
  let err := decide (4 < plan) || decide (planShelves plan ≤ shelf) || (bitOf p 10 && decide (slot ≠ 0))
  p % 2048 + (shelf * 8 + slot) * 2 ^ 11 + b2n err * 2 ^ 18

/-- A host link that settles below 16 GT/s is recorded (R268, Table 15.10). -/
def State.hostDegraded (s : State) : State :=
  if s.pcie.rate < 4 then s.record { s.mkRec 0x56 0 with syndrome := s.pcie.rate + s.pcie.width * 16 } else s

/-- The endpoint of a host module trains once PERST_N is high after power-on reset (R267, R385), and its link settles at a rate (Table 18.8), width and mode. -/
def State.startPcie (s : State) (rate width : Nat) (flit : Bool) : State :=
  if s.bridge ∧ s.root.por ∧ s.pins.perstN ∧ !s.pcie.linkUp then
    ({ s with pcie := { s.pcie with linkUp := true, rate := rate, width := width, flit := flit } }).hostDegraded
  else s

/-- POWER_ON_RESET_END (R258, R367, R384, R385): the straps are sampled, local time counts from 0, and the PCI Express path is live; a host link that trains now settles as the operands give. -/
def execPowerOnResetEnd (rate width : Nat) (flit : Bool) (s : State) : Host.Outcome State Fault Refusal :=
  .next (if !s.root.standby ∨ s.root.por then s
    else ({ s with now := 0, root := { s.root with por := true, straps := sampleStraps s.pins.straps } }).startPcie rate width flit)

/-- Population count of 64 bits. -/
def popcount64 (n : Nat) : Nat := ((List.range 64).filter (fun i => bitOf n i)).length

/-- The image area `x` of the flash, 0 for A and 1 for B: its base; both hold 28 MiB. -/
def imageBase (x : Nat) : Nat := x * 0x1C00000
def imageRoom : Nat := 0x1C00000

/-- An image as its bytes, found by its header's body length; none where that exceeds the area. -/
def imageBytes (flash : Tab Byte) (base : Nat) : List Byte := tbytes flash base (0x708 + leNat (tbytes flash (base + 0x14) 4))

/-- An RSA-3072 signature under a key given as 384 bytes of modulus and 4 of exponent, both big-endian. -/
def rsaKeyVerify (key msg sig : List Byte) : Bool := rsaVerify 384 (beNat (key.take 384)) (beNat (key.drop 384)) (sha256 msg) sig

/-- A root public key that a fused hash names and that is not revoked. -/
def Fuses.rootOk (f : Fuses) (index : Nat) (key : List Byte) : Bool := decide (index < 4 ∧ sha256 key = f.rootHash.getD index []) && !bitOf f.revoke index

/-- The first check of R345 that an image of at least a header's bytes fails, in the order of the rule; 0 if it is valid. -/
def imageFault (f : Fuses) (b : List Byte) : Nat :=
  let root := (b.drop 0x100).take 388
  let key := (b.drop 0x284).take 388
  let idx := leNat ((b.drop 0x18).take 1)
  if leNat (b.take 4) ≠ 0x58543230 then 1
  else if bitOf f.revoke idx ∨ 4 ≤ idx then 2
  else if sha256 root ≠ f.rootHash.getD idx [] then 3
  else if !rsaKeyVerify root key ((b.drop 0x408).take 384) then 4
  else if imageRoom < 0x708 + leNat ((b.drop 0x14).take 4) ∨ b.length < 0x708 + leNat ((b.drop 0x14).take 4) then 5
  else if !rsaKeyVerify key (b.take 0x100 ++ (b.drop 0x708).take (leNat ((b.drop 0x14).take 4))) ((b.drop 0x588).take 384) then 5
  else if leNat ((b.drop 0x10).take 2) < popcount64 f.svn then 6
  else 0

/-- The first check that the image of an area fails; an image whose body would leave its area is not read past it. -/
def State.areaFault (s : State) (x : Nat) : Nat :=
  if imageRoom < 0x708 + leNat (tbytes s.root.flash (imageBase x + 0x14) 4) then imageFault s.root.fuses (tbytes s.root.flash (imageBase x) 0x708)
  else imageFault s.root.fuses (imageBytes s.root.flash (imageBase x))

/-- What the boot ROM records of the image that it boots, with the first failed check of the other if that was to be chosen first. -/
def State.bootRec (s : State) (x firstFail : Nat) : BootRec :=
  let b := imageBytes s.root.flash (imageBase x)
  { image := x, measurement := sha256 b, version := leNat ((b.drop 8).take 8), commitSvn := bitOf (leNat ((b.drop 0x12).take 2)) 0, svn := leNat ((b.drop 0x10).take 2),
    firstFail := firstFail }

/-- The port map that the Bureau writes before training (R251, R389): the bundling of the flash or the default one, and the far indices of the plan; port 7 of a host module is absent. -/
def State.writePorts (s : State) : State :=
  let regs := (List.range 8).foldl (fun (r : Regs) p =>
    let links := if s.hostMode ∧ p = 7 then 0 else s.root.flashBundle.getD p (resetWord .linkCfg (0x100 + 8 * p))
    (r.setWord 3 (0x100 + 8 * p) links).setWord 3 (0x104 + 8 * p) ((farDevice s.plan s.hostMode s.cab p).getD 0)) s.regs
  { s with regs := regs }

/-- A record of the class plan error takes the device offline (R259, Table 13.6). -/
def State.planFault (s : State) : State :=
  let s := s.record { s.mkRec 0x41 9 with syndrome := s.root.straps % 2 ^ 19 }
  ({ s with root := { s.root with offline := true, fail := 2 } }).alert

/-- The Bureau starts (R324, R345, R386, R389): the fence list is applied, the port map written, and it waits for the main input. An engineering part has the Lectern open (R378). -/
def State.startBureau (s : State) (x firstFail : Nat) : State :=
  let s := { s with
    root := { s.root with boot := s.bootRec x firstFail, bureauUp := true, fail := 3 }
    care := { s.care with fenced := s.root.flashFence }
    mgmt := if s.root.fuses.debugPolicy = 3 then { s.mgmt with lecOpen := true, lecScope := 7, lecOpened := true } else s.mgmt }
  let s := if firstFail = 0 then s else s.record { s.mkRec 0x50 0 with syndrome := (1 - x) + firstFail * 16 }
  let s := s.writePorts
  if s.planErr then s.planFault else s

/-- BOOT_IMAGE_VERIFIED (R345, R347): the ROM boots the valid image with the highest version, A on a tie; with none it enters recovery. -/
def execBootImageVerified (s : State) : Host.Outcome State Fault Refusal :=
  .next (if !s.root.por ∨ s.root.bureauUp ∨ s.root.recovery then s
    else
      let fa := s.areaFault 0
      let fb := s.areaFault 1
      let first := if leNat (tbytes s.root.flash (imageBase 0 + 8) 8) < leNat (tbytes s.root.flash (imageBase 1 + 8) 8) then 1 else 0
      if fa ≠ 0 ∧ fb ≠ 0 then ({ s with root := { s.root with recovery := true } }).alert
      else if fa = 0 ∧ (fb ≠ 0 ∨ first = 0) then s.startBureau 0 (if first = 1 then fb else 0)
      else s.startBureau 1 (if first = 0 then fa else 0))

/-! ### Main domain, crossings, stacks (R386, R387, R142) -/

/-- MAIN_INPUT_IN_RANGE (R386): the 48 V input has stayed in range for 10 ms, and the regulators are enabled. -/
def execMainInputInRange (s : State) : Host.Outcome State Fault Refusal :=
  .next (if !s.root.bureauUp ∨ s.root.mainEn ∨ s.root.offline then s
    else { s with root := { s.root with mainEn := true, mainSince := s.now, fail := if s.root.boot.image = 1 ∧ s.root.boot.firstFail ≠ 0 then 6 else 0 } })

/-- MAIN_DOMAIN_UP (R383, R386, R389): every regulator reports in range within 50 ms, MAIN_PG rises, and the planned links begin DETECT. -/
def execMainDomainUp (s : State) : Host.Outcome State Fault Refusal :=
  .next (if !s.root.mainEn ∨ s.root.mainUp ∨ s.root.mainSince + 50 * ms < s.now then s
    else
      let s := ({ s with root := { s.root with mainUp := true, mainSince := s.now } }).setMainPg true
      (List.range 32).foldl (fun s l => if s.linkPlanned l then s.trainLink l else s) s)

/-- MAIN_DOMAIN_POWER_UP_LIMIT (R383): power-up has lasted 50 ms; `unit` is the die whose regulator failed. -/
def execMainDomainPowerUpLimit (unit : Nat) (s : State) : Host.Outcome State Fault Refusal :=
  .next (if !s.root.mainEn ∨ s.root.mainUp ∨ s.now < s.root.mainSince + 50 * ms then s else s.failStart 5 unit)

/-- CROSSINGS_TRAINED (R142, R383): the die-to-die crossings have their fixed latency, and the frame counters start; past the limit of 20 ms the device goes offline, `unit` naming the die. -/
def execCrossingsTrained (latency unit : Nat) (s : State) : Host.Outcome State Fault Refusal :=
  .next (if !s.root.mainUp ∨ s.root.crossings ∨ s.root.offline then s
    else if s.root.mainSince + 20 * ms < s.now then s.failStart 5 unit
    else { s with root := { s.root with crossings := true }, net := { s.net with latency := latency } })

/-- STACK_TRAINING_COMPLETE (R387): a stack trains, or fails a step and is trained once more. Frames with an uncorrectable line are withheld, each with its record, whose symbol mask is a free value; a
second failure or more than 1,024 withheld frames take the device offline. A trained stack reads zero. -/
def execStackTrainingComplete (stack : Nat) (ok : Bool) (bad : List Nat) (s : State) : Host.Outcome State Fault Refusal :=
  .next (if 16 ≤ stack ∨ !s.root.crossings ∨ s.root.offline ∨ s.root.stackUp.contains stack then s
    else if !ok then
      (if s.root.stackFail.contains stack then s.failStart 4 stack
       else { s with root := { s.root with stackFail := s.root.stackFail ++ [stack] } })
    else
      let new := (bad.dedup).filter (fun f => decide (f < 786432) && !s.root.withheld.contains f)
      let s := new.foldl (fun s f => (s.drawn 1).record { (s.mkRec 0x02 0).unit 7 stack 0 stack with syndrome := s.freeVal 65536 + f * 65536 + stack * 2 ^ 36 }) s
      let s : State := { s with root := { s.root with withheld := s.root.withheld ++ new } }
      if 1024 < s.root.withheld.length then s.failStart 4 stack
      else { s with root := { s.root with stackUp := s.root.stackUp ++ [stack] } })

/-! ### Self test and seeding (R388, R134, R391) -/

/-- The lane generators of several cores are loaded in turn (R134). -/
def State.seedCores (s : State) (l : List Nat) : State := l.foldl State.seedLanes s

/-- Every lane generator is seeded from the healthy source (R134). -/
def State.seedAll (s : State) : State :=
  let s := s.seedCores (List.range 128)
  { s with root := { s.root with seeded := true } }

/-- CORE_SELF_TEST_END (R388): a core that fails is fenced persistently, with its digests in a record of class 0x1C; collective engines, copy engines and dies with a hash unit that fails are fenced. The
lane generators are seeded once the source is healthy. -/
def execCoreSelfTestEnd (failed : List (Nat × Nat × Nat)) (ces cpes hashes : List Nat) (s : State) : Host.Outcome State Fault Refusal :=
  .next (if !s.root.crossings ∨ s.root.testDone ∨ s.root.offline then s
    else
      let s := failed.foldl (fun s x =>
        if 128 ≤ x.1 ∨ s.fencedCore x.1 then s
        else (s.record { (s.mkRec 0x1C 4).unit 2 (x.1 / 8) x.1 0 with syndrome := x.2.1 % 2 ^ 64 + x.2.2 % 2 ^ 64 * 2 ^ 64 }).fenceCore x.1 0x1C true) s
      let s := ces.foldl (fun s e => if e < 12 ∧ !s.care.fencedCe.contains e then s.ceFault e else s) s
      let s := cpes.foldl (fun s e => if e < 64 ∧ !s.care.fencedCpe.contains e then s.copyFault (e / 4) e false else s) s
      let s := hashes.foldl (fun s d => if d < 16 then s.copyFault d 0 true else s) s
      let s : State := { s with root := { s.root with testDone := true, testDoneAt := s.now } }
      if s.root.healthy then s.seedAll else s)

/-- The record of class 0x5B (R391). -/
def State.entropyRec (s : State) (early : Bool) : State :=
  s.record { s.mkRec 0x5B 0 with syndrome := s.stat 4 .healthFail + b2n early * 65536 }

/-- ENTROPY_HEALTH_CHANGE (R391): each failure is counted; a source that first fails after ready is recorded. A source that passes lets a device that waits for it seed its lanes. -/
def execEntropyHealthChange (healthy : Bool) (s : State) : Host.Outcome State Fault Refusal :=
  .next (if !s.root.standby ∨ s.root.healthy = healthy then s
    else
      let s : State := { s with root := { s.root with healthy := healthy } }
      if healthy then (if s.root.testDone ∧ !s.root.seeded ∧ s.root.fail ≠ 7 then s.seedAll else s)
      else
        let s := s.count 4 .healthFail 1
        if s.root.ready then ({ s with root := { s.root with entropyRecAt := s.now } }).entropyRec false else s)

/-- ENTROPY_WAIT_TIMEOUT (R391): 1 s after the self test the source is still unhealthy; the device does not become ready until a module reset. -/
def execEntropyWaitTimeout (s : State) : Host.Outcome State Fault Refusal :=
  .next (if s.root.ready ∨ !s.root.testDone ∨ s.root.seeded ∨ s.root.healthy ∨ s.root.fail = 7 ∨ s.root.offline ∨ s.now < s.root.testDoneAt + 1000 * ms then s
    else ({ s with root := { s.root with fail := 7, failUnit := 0 } }).entropyRec true)

/-- ENTROPY_RECORD_REPEAT (R391): every 60 s while the source fails after ready. -/
def execEntropyRecordRepeat (s : State) : Host.Outcome State Fault Refusal :=
  .next (if !s.root.ready ∨ s.root.healthy ∨ s.now < s.root.entropyRecAt + 60000 * ms then s
    else ({ s with root := { s.root with entropyRecAt := s.now } }).entropyRec false)

/-! ### Link training and ready (R346, R389, R390) -/

/-- LINK_TRAINING_CONCLUDED (R389): every planned link is ACTIVE or FAULT, or 3.0 s have passed and every planned link is in one of these or in DETECT. -/
def execLinkTrainingConcluded (s : State) : Host.Outcome State Fault Refusal :=
  let sts := ((List.range 32).filter (fun l => s.linkPlanned l)).map (fun l => (s.link l).state)
  .next (if !s.root.mainUp ∨ s.root.linksDone ∨ s.root.offline then s
    else if sts.all (fun t => decide (t = 6 ∨ t = 7)) || (decide (s.root.mainSince + 3000 * ms ≤ s.now) && sts.all (fun t => decide (t = 6 ∨ t = 7 ∨ t = 1))) then
      { s with root := { s.root with linksDone := true } }
    else s)

/-- The svn fuses blown, from bit 0 on, until `n` are blown (R346). -/
def blowSvn (svn n : Nat) : Nat :=
  (List.range 64).foldl (fun v i => if popcount64 v < n ∧ !bitOf v i then v ||| 2 ^ i else v) svn

/-- The conditions of R390. -/
def State.mayBeReady (s : State) : Bool :=
  s.root.bureauUp && !s.planErr && s.root.mainUp && decide (s.root.stackUp.length = 16) && s.root.testDone && s.root.linksDone && s.root.healthy && s.root.seeded &&
  decide (s.root.fail ≠ 7) && !s.root.offline && !s.root.ready

/-- DEVICE_READY (R346, R390 to R393): ready is set with its time, the security version is committed, the boot nonce is drawn, and assembly starts. -/
def execDeviceReady (s : State) : Host.Outcome State Fault Refusal :=
  .next (if !s.mayBeReady then s
    else
      let d := s.drawBytes 8
      let s : State := d.2
      let f := s.root.fuses
      let root := { s.root with
        ready := true, readyMs := min 0xFFFF (s.now / ms), nonce := d.1, fencedAtReady := ((List.range 128).filter (fun c => s.fencedCore c)).length
        fuses := if s.root.boot.commitSvn then { f with svn := blowSvn f.svn s.root.boot.svn } else f }
      ({ s with root := root }).startAssembly)

/-! ### Module reset and loss of power (R398, R399, R424) -/

/-- The functions of the endpoint reset as at PERST_N: configuration, virtual functions, interrupt masks and error logs. -/
def State.resetFunctions (s : State) : State :=
  { s with pcie := { s.pcie with vfs := 0, config := [], aer := [], msixOpen := [], msixPending := [] } }

/-- What a module reset leaves (R398, R424): the straps, local time and fuses, the flash, the PCI Express link, the input pins, and records still on their way; all else is at its reset value, and the
boot ROM runs again. -/
def State.afterReset (s : State) : State :=
  let root := { Root.reset with
    b0 := s.root.b0, fuses := s.root.fuses, flash := s.root.flash, flashFence := s.root.flashFence, flashRecs := s.root.flashRecs, flashBundle := s.root.flashBundle, flashChain := s.root.flashChain
    devid := s.root.devid, straps := s.root.straps, standby := s.root.standby, por := s.root.por, healthy := s.root.healthy }
  { State.reset with
    pending := s.pending, out := s.out, freeIx := s.freeIx, now := s.now, root := root, pins := s.pins
    pcie := s.pcie, care := { Care.reset with transit := s.care.transit } }

/-- A module reset (R398): the notice about itself goes out, every context is unloaded, the main domain turns off, and the sequence starts again at the boot ROM. THERMTRIP_N and ALERT_N are released. -/
def State.moduleReset (s : State) : State :=
  if !s.root.bureauUp ∧ !s.root.recovery then s
  else
    let s := s.floodLost s.cab s.cab s.root.nonce
    (s.mainOff.afterReset.setThermtrip true).resetFunctions.alert

/-- BU_RESET (R398): the key starts a module reset; any other value is a range error. -/
def execBuReset (master : Nat) (value : W32) (s : State) : Host.Outcome State Fault Refusal :=
  .next (if !s.root.bureauUp then s
    else if !pfOrBureau master then s.blkErr 1 5
    else if value.toNat % 65536 ≠ 0xC1D0 then s.blkErr 1 0
    else s.moduleReset)

/-- MCTP_RESET_MESSAGE (R398): the vendor-defined message with the key. -/
def execMctpResetMessage (value : W32) (s : State) : Host.Outcome State Fault Refusal :=
  .next (if value.toNat % 65536 ≠ 0xC1D0 then s else s.moduleReset)

/-- STANDBY_POWER_LOSS (R399): every domain ends at once; fuses, flash and the board's pins remain. -/
def execStandbyPowerLoss (s : State) : Host.Outcome State Fault Refusal :=
  .next (if !s.root.standby then s
    else
      let root := { Root.reset with
        b0 := s.root.b0, fuses := s.root.fuses, flash := s.root.flash, flashFence := s.root.flashFence, flashRecs := s.root.flashRecs, flashBundle := s.root.flashBundle, flashChain := s.root.flashChain
        devid := s.root.devid }
      let s := s.setMainPg false
      { State.reset with
        pending := s.pending, out := s.out, freeIx := s.freeIx, root := root
        pins := { Pins.reset with straps := s.pins.straps, yieldFiltered := s.pins.yieldFiltered, perstN := s.pins.perstN } })

/-- BUREAU_FAULT (R363): the two Bureau cores disagree; the device goes offline, with the mismatch address in its record. -/
def execBureauFault (addr : Nat) (s : State) : Host.Outcome State Fault Refusal :=
  .next (if !s.root.bureauUp ∨ s.root.offline then s else (s.record { s.mkRec 0x5A 9 with syndrome := addr % 2 ^ 32 }).goOffline)

end Sys2Proof.Machine
end

