-- ==== Sys2Proof/Machine/Memory.lean ====
section
/-! DEFINITION. Requests at the stacks, mirrors, die caches, atomic units, scrub and the frame table (R192 to R206, R213, R327). -/

namespace Sys2Proof.Machine

/-- Kind of a master ID (Table 14.7). -/
def masterKind (m : Nat) : Nat := m / 2 ^ 12 % 16
/-- Cabinet index and path of a remote master. -/
def masterDev (m : Nat) : Nat := m % 128
def masterPath (m : Nat) : Nat := bitsOf m 9 8

/-- A refused request (R353): its record, and what follows by its source. -/
def State.refuseReq (s : State) (r : MemReq) (cls : Nat) : State :=
  match masterKind r.master, r.core with
  | 0, some c => s.refuseTask c r.master cls r.addr wfillOp
  | 1, some c => s.refuseTask c r.master cls r.addr copyOp
  | 4, _ => (s.record (s.refusalRec cls 0xB r.master r.ctx r.addr)).send (.response (masterDev r.master) cls [])
  | 8, _ => (s.record (s.refusalRec cls 0xB r.master r.ctx r.addr)).hostRefused (r.master % 64) cls r.data.isNone
  | _, _ => s.record (s.refusalRec cls 0xB r.master r.ctx r.addr)

/-- Whether a request of another device passes the access table of the port it entered by (R353). -/
def State.portAdmits (s : State) (port master ctx : Nat) (right : Right) : Bool := s.admits 3 port master ctx 0 0 right

/-- The frames of a run of `n` bytes from a device address on. -/
def runFrames (a n : Nat) : List Nat :=
  if 0x200000000000 ≤ a ∧ a < 0x20C000000000 then framesFrom (addrFrame 1 a) (ceilDiv (a % 2 ^ 20 + n) (2 ^ 20)) else framesFrom (addrFrame 0 a) (ceilDiv (a % 65536 + n) 65536)

/-- Whether a host or Bureau write to a frame of a context comes through what the program declares (R24): its queue and collective rings and admission buffer, a pending version, or, where the program
declares host-input counters, its inputs (assumption log 136). -/
def State.declaredFrame (s : State) (n f : Nat) : Bool :=
  let c := s.ctx n
  s.queues.any (fun q => decide (q.2.ctx = n) && (runFrames q.2.base (128 * 2 ^ q.2.lg)).contains f) ||
  c.cqs.any (fun q => (runFrames q.2.base (64 * 2 ^ q.2.lg)).contains f) ||
  s.regions.any (fun g => decide (g.2.owner = n) && decide (g.2.pend < 3) && (g.2.frames g.2.pend).contains f) ||
  (match c.job.prog with | some p => p.ctrs.any (fun d => d.hostInput) | none => false)

/-- A host or Bureau write that was applied to the memory of a context in a step is an external write unless it came through what the program declares (R24). -/
def State.hostWrote (s : State) (master off : Nat) : State :=
  let e := s.frame (frameOf off)
  if (masterKind master = 8 ∨ master = 0xF000) ∧ feAlloc e ∧ !feShared e ∧ !s.declaredFrame (feOwner e) (frameOf off) then s.external (feOwner e) else s

/-- A write that reached a line with symbols in error (R305): one is corrected, more leave the line uncorrectable, and it is contained. -/
def State.eccWrite (s : State) (stack off bad : Nat) : State :=
  let s := s.eccRead stack off bad
  if 2 ≤ symbols bad then s.containLine stack (off / 64 * 64) 0x18 else s

/-- The line of a read request reached its holder for a copy of the core that asked (R214). -/
def State.readFor (s : State) (r : MemReq) (k o : Nat) : State :=
  match r.core with
  | some c => if masterKind r.master = 1 then s.copyGets c k (o / 64 * 64) else s
  | none => s

/-- A read or write request at a base die (R213, R353, R196, R198, R201, R305): checked once and applied to its lines, which lie in one granule of 4 KiB (R188). A request of more than
one line is one message of another device (assumption log 127). `bad` gives the symbols in error of the line, and in bit 16 a parity error of the frame's table entry (R307). -/
def State.stackReq (s : State) (r : MemReq) : State :=
  match s.decodeAddr r.addr with
  | none => s.refuseReq r 0x37
  | some (d, k, o) =>
    let right : Right := if r.data.isSome then .w else .r
    if d ≠ s.cab ∨ r.len = 0 ∨ 4096 < o % 4096 + r.len then s
    else if bitOf r.bad 16 then s.tableFault (stackPage k) (frameOf o) (if feAlloc (s.frame (frameOf o)) then [feOwner (s.frame (frameOf o))] else [])
    else if masterKind r.master = 4 ∧ !s.portAdmits r.port r.master r.ctx .r then s.refuseReq r 0x38
    else
      match s.memCheck right r.master r.ctx k o r.len with
      | some cls => s.refuseReq r cls
      | none =>
        match r.data with
        | some bs =>
          let s := ((s.applyWrite r.ctx k o (bs.take r.len)).eccWrite k o r.bad).hostWrote r.master o
          if masterKind r.master = 4 then s.send (.response (masterDev r.master) 0 []) else s
        | none =>
          let s := s.eccRead k o r.bad
          if s.devBad (k * 2 ^ 36 + o) r.len then
            match masterKind r.master, r.core with
            | 0, some c => s.taskBad c (k * 2 ^ 36 + o) r.len wfillOp
            | 1, some c => s.taskBad c (k * 2 ^ 36 + o) r.len copyOp
            | 4, _ => (s.containLine k o 0x18).send (.response (masterDev r.master) 0x18 [])
            | 8, _ => (s.containLine k o 0x18).hostAnswer (r.master % 64) 4 (s.memRead k o r.len)
            | _, _ => s.containLine k o 0x18
          else if masterKind r.master = 4 then s.send (.response (masterDev r.master) 0 (s.memRead k o r.len))
          else if masterKind r.master = 8 then s.hostAnswer (r.master % 64) 0 (s.memRead k o r.len)
          else s.readFor r k o

/-- STACK_REQUEST (R213): a read or write request reaches a base die and is checked and applied to one line. -/
def execStackRequest (r : MemReq) (s : State) : Host.Outcome State Fault Refusal := .next (if s.hostShut r.master then s else s.stackReq r)

/-- MIRROR_WRITE_ACK (R201): one unacknowledged mirror write of a buddy fewer. -/
def execMirrorWriteAck (buddy ctx : Nat) (s : State) : Host.Outcome State Fault Refusal :=
  .next (if 64 ≤ ctx then s else s.modCtx ctx (fun c => { c with mem := { c.mem with unacked := tput 0 c.mem.unacked buddy (tget 0 c.mem.unacked buddy - 1) } }))

/-- MIRROR_REPAIR_REQUEST (R327): the line of this device that a buddy's mirror line at `off` copies is read and written to the buddy again; the commits of its context wait for the
acknowledgement. -/
def execMirrorRepairRequest (buddy stack off : Nat) (s : State) : Host.Outcome State Fault Refusal :=
  .next (match ((List.range 256).map (s.mirrorEntry stack)).find? (fun e => (mirrorBuddies e).contains buddy && decide (bitsOf e 55 36 ≤ frameOf off)) with
    | none => s
    | some e =>
      let o := off - bitsOf e 55 36 * 65536 + bitsOf e 35 16 * 65536
      let ctx := feOwner (s.frame (frameOf o))
      (s.send (.remote buddy 1 (stack * 2 ^ 36 + off) (peerCtx (s.ctx ctx) buddy) 1 64 (s.memRead stack o 64))).modCtx ctx
        (fun c => { c with mem := { c.mem with unacked := tput 0 c.mem.unacked buddy (tget 0 c.mem.unacked buddy + 1) } }))

/-- REMOTE_ERROR_RESPONSE (R353, R203, R270, R330): a refused remote request of a task ends the task, and is recorded where the task has already ended (R101); one of a host function completes at the bridge; a refused mirror write stops its context, and so does a refused signal, with a record of class 0x38
of this device (assumption log 125). -/
def execRemoteErrorResponse (dev ctx : Nat) (src : ErrSrc) (cls addr : Nat) (s : State) : Host.Outcome State Fault Refusal :=
  .next (match src with
    | .task c =>
      (match (s.core c).run, s.care.late.find? (fun x => decide (x.core = c)) with
      | some _, _ => if cls = 0x18 then s.endTaskBy c 0x18 copyOp else s.refuseTask c (s.copyMaster c) cls addr copyOp
      | none, some x => s.record { (s.refusalRec cls 0 (s.copyMaster c) x.task.ctx addr).unit 2 (c / 8) c 0 with queue := x.task.queue, taskId := descTaskId x.task.desc, opcode := copyOp.1, opSlot := copyOp.2 }
      | none, none => s)
    | .host fn read => if s.bridge then (if cls = 0x18 then s.hostAnswer (fn % 64) 4 [] else s.hostRefused (fn % 64) cls read) else s
    | .mirror =>
      if 64 ≤ ctx then s
      else (s.record { s.ctxRec 0x44 2 ctx with addr := addr, syndrome := dev % 128 }).stopCtx ctx 0x44
    | .signal => if 64 ≤ ctx then s else s.refuseSignal ctx addr)

/-- A line held by a die cache is found with symbols in error as a copy of core `c` reads it (Table 9.4): one is corrected; more drop the line, and the task ends with 0x18 (assumption log 137). -/
def State.cacheHit (s : State) (c k o bad : Nat) : State :=
  if symbols bad < 2 then s.copyGets c k (o / 64 * 64)
  else ({ s with care := { s.care with cache := s.care.cache.filter (fun x => decide (x ≠ (c / 8, memKey k (o / 64 * 64)))) } } : State).endTaskBy c 0x18 copyOp

/-- DIE_CACHE_READ (R202, R206): a read of a stable line for the task of a core; on a miss the line is read from its home stack and filled, and run-ahead follows. A copy that reads the line has it
then (R214). -/
def execDieCacheRead (core addr bad : Nat) (s : State) : Host.Outcome State Fault Refusal :=
  .next (match (s.core core).run, s.decodeAddr addr with
    | some t, some (d, k, o) =>
      let m := s.copyMaster core
      if d ≠ s.cab then s
      else match s.memCheck .r m t.ctx k (o / 64 * 64) 64 with
        | some cls => s.refuseTask core m cls addr copyOp
        | none =>
          if !feStable (s.frame (frameOf o)) then s
          else if s.care.cache.contains (core / 8, memKey k (o / 64 * 64)) then s.cacheHit core k o bad
          else
            let s := s.eccRead k o bad
            if s.devBad (k * 2 ^ 36 + o / 64 * 64) 64 then s.taskBad core (k * 2 ^ 36 + o / 64 * 64) 64 copyOp
            else
              (s.missFill core m t.ctx (addr / 64)).copyGets core k (o / 64 * 64)
    | _, _ => s)

/-! ### Atomic units (R204, R205, R212) -/

/-- One atomic operation on an element (Table 9.11). The flags of the binary32 addition go nowhere (DESIGN CHOICE, assumption log 133). -/
def atomApply (aop old v : Nat) : Nat :=
  let lt := fun (a b : Nat) => decide (signedOf 32 a < signedOf 32 b)
  match aop with
  | 1 => (old + v) % 2 ^ 32
  | 2 => (old + v) % 2 ^ 64
  | 3 => min old v
  | 4 => max old v
  | 5 => if lt v old then v else old
  | 6 => if lt old v then v else old
  | 7 => old &&& v
  | 8 => old ||| v
  | 9 => old ^^^ v
  | _ => (addB32 old v).1

/-- Element size of an atomic operation. -/
def atomWidth (aop : Nat) : Nat := if aop = 2 then 8 else 4

/-- The atomic unit of the home die takes a line into a buffer; none if its 256 buffers are in use. -/
def State.takeLine (s : State) (stack line : Nat) : Option State :=
  if s.care.linebufs.contains (stack, line) then some s
  else if 256 ≤ (s.care.linebufs.filter (fun l => decide (l.1 = stack))).length then none
  else some { s with care := { s.care with linebufs := s.care.linebufs ++ [(stack, line)] } }

/-- An operation applied in its line buffer; every read of the line sees it (R204). -/
def State.atomAt (s : State) (stack off aop v : Nat) : State :=
  let w := atomWidth aop
  s.memWrite stack off (leBytes w (atomApply aop (leNat (s.memRead stack off w)) v))

/-- An element of a task's ATOM is done: its effect counts in the task's digest (R312). -/
def State.atomTaken (s : State) (core tag i : Nat) (eff : List Byte) : State :=
  let c := (s.core core).addEffect eff
  s.setCore core { c with copies := c.copies.map (fun x => if x.tag = tag then { x with todo := x.todo.eraseIdx i } else x) }

/-- An element of a task's ATOM reaches its unit. -/
def State.atomElement (s : State) (core tag i bad : Nat) : State :=
  match (s.core core).run, (s.core core).copies.find? (fun k => decide (k.tag = tag) && k.atom) with
  | some t, some k =>
    match k.todo[i]?, (atomFields k.record k.add).aop with
    | some (a, v), aop =>
      let m := s.copyMaster core
      let base := (tget (⟨0, 0, 0⟩ : Shard) (s.ctx t.ctx).shards (descShard t.desc)).base
      let eff := [3] ++ leBytes 1 aop ++ leBytes 8 (twosOf 64 ((a : Int) - base)) ++ leBytes 8 v
      match s.decodeAddr a with
      | none => s.refuseTask core m 0x37 a atomOp
      | some (d, st, o) =>
        if d ≠ s.cab then
          if s.planned d then (s.send (.remote d (16 + aop) (st * 2 ^ 36 + o) (peerCtx (s.ctx t.ctx) d) 0 (atomWidth aop) (leBytes 8 v))).atomTaken core tag i eff |>.markAway core tag true
          else s.refuseTask core m 0x37 a atomOp
        else
          match s.memCheckAt (dieCachePage st) .a m t.ctx o (atomWidth aop) with
          | some cls => s.refuseTask core m cls a atomOp
          | none =>
            let s := if s.care.linebufs.contains (st, o / 64 * 64) then s else s.eccRead st o bad
            if s.devBad (st * 2 ^ 36 + o / 64 * 64) 64 then s.taskBad core (st * 2 ^ 36 + o / 64 * 64) 64 atomOp
            else match s.takeLine st (o / 64 * 64) with
              | none => s
              | some s => (s.atomAt st o aop v).atomTaken core tag i eff
    | none, _ => s
  | _, _ => s

/-- An atomic operation of another device reaches its unit. -/
def State.atomRemote (s : State) (dev ctx a aop v bad : Nat) : State :=
  let m := 0x4000 + dev % 128
  let refuse := fun cls => (s.record (s.refusalRec cls 0xB m ctx a)).send (.response (dev % 128) cls [])
  match s.decodeAddr a with
  | none => refuse 0x37
  | some (d, st, o) =>
    if d ≠ s.cab ∨ aop = 0 ∨ 10 < aop ∨ o % atomWidth aop ≠ 0 then s
    else match s.memCheckAt (dieCachePage st) .a m ctx o (atomWidth aop) with
      | some cls => refuse cls
      | none =>
        let s := if s.care.linebufs.contains (st, o / 64 * 64) then s else s.eccRead st o bad
        if s.devBad (st * 2 ^ 36 + o / 64 * 64) 64 then (s.containLine st o 0x18).send (.response (dev % 128) 0x18 [])
        else match s.takeLine st (o / 64 * 64) with
          | none => s
          | some s => (s.atomAt st o aop v).send (.response (dev % 128) 0 [])

/-- ATOM_LINE_OPERATION (R204): an atomic operation reaches the atomic unit of the home die and is applied in a line buffer. -/
def execAtomLineOperation (a : AtomSrc) (bad : Nat) (s : State) : Host.Outcome State Fault Refusal :=
  .next (match a with
    | .core c tag i => s.atomElement c tag i bad
    | .remote d n addr aop arg => s.atomRemote d n addr aop arg bad)

/-- ATOM_LINE_WRITEBACK (R204): a line buffer with no operation pending writes its line back, with mirror writes, and is free. -/
def execAtomLineWriteback (die line : Nat) (s : State) : Host.Outcome State Fault Refusal :=
  .next (if s.care.linebufs.contains (die, line) then
      ({ s with care := { s.care with linebufs := s.care.linebufs.filter (fun l => decide (l ≠ (die, line))) } }).applyWrite
        (feOwner (s.frame (frameOf line))) die line (s.memRead die line 64)
    else s)

/-! ### Scrub and the frame table (R193, R194, R197, R199) -/

/-- SCRUB_PASS (R197): every line of a stack is read; `bad` lists the lines in error with their symbols. One symbol is corrected; more write a record and are contained; a frame with more than
ce_thresh corrected lines writes a record. -/
def execScrubPass (stack : Nat) (bad : List (Nat × Nat)) (s : State) : Host.Outcome State Fault Refusal :=
  .next (if 16 ≤ stack then s
    else
      let lines := bad.filter (fun b => decide (symbols b.2 ≠ 0 ∧ b.1 < stackBytes))
      let s := lines.foldl (fun s b => s.eccRead stack b.1 b.2) s
      let s := (lines.filter (fun b => decide (2 ≤ symbols b.2))).foldl (fun s b => s.containLine stack (b.1 / 64 * 64) 0x02) s
      let ones := lines.filter (fun b => decide (symbols b.2 = 1))
      let frames := (ones.map (fun b => frameOf b.1)).dedup
      frames.foldl (fun s f =>
        let n := (ones.filter (fun b => decide (frameOf b.1 = f))).length
        if s.regs.field (stackPage stack) 0x80 15 8 < n then
          s.record { (s.mkRec 0x01 1).unit 7 stack 0 stack with syndrome := n + f * 2 ^ 16 + stack * 2 ^ 36, addr := stack * 2 ^ 36 + f * 65536 }
        else s) s)

/-- The entry that a Bureau write leaves: reserved bits 0, zeroing kept (Table 9.2). -/
def entryWritten (old new : Nat) : Nat := (new &&& 0xFF1F7F) ||| (old &&& 2 ^ 13)

/-- Whether an entry is in range: a mirrored frame lies at or above src_frame of its mirror entry (Table 9.7). -/
def State.entryOk (s : State) (f e : Nat) : Bool :=
  !feMirror e || (List.range 16).all (fun k => decide (bitsOf (s.mirrorEntry k (feMap e)) 35 16 ≤ f))

/-- FRAME_TABLE_COMMIT (R193, R199): the Bureau's changes take effect in all sixteen base dies; a cleared stable bit first invalidates the frame's lines in the die caches. -/
def execFrameTableCommit (changes : List (Nat × Nat)) (s : State) : Host.Outcome State Fault Refusal :=
  .next (changes.foldl (fun s c =>
    if 786432 ≤ c.1 then s
    else if !s.entryOk c.1 c.2 then s.blkErr (stackPage 0) 0
    else
      let e := entryWritten (s.frame c.1) c.2
      let s := if feStable (s.frame c.1) ∧ !feStable e then s.invalidate [c.1] else s
      s.setFrame c.1 e) s)

/-- FRAME_ZEROING_COMPLETE (R194): the frame reads zero in every stack; a freed frame becomes available. -/
def execFrameZeroingComplete (frame : Nat) (s : State) : Host.Outcome State Fault Refusal :=
  .next (if feZeroing (s.frame frame) then (s.zeroFrame frame).setFrame frame (if feAlloc (s.frame frame) then s.frame frame - 2 ^ 13 else 0) else s)

end Sys2Proof.Machine
end

