-- ==== Sys2Proof/Machine/RegOps.lean ====
section
/-! DEFINITION. Writes of stored register fields, shadows and commits with their effect points, locks and frozen statistics (R6, R7, R30, R31, R135, R251, R354, R416 to R423). -/

namespace Sys2Proof.Machine

/-! ### Who may write (R416) -/

/-- Whether a master may write a field of a page; the Lectern is held to it like every other master (assumption log 138). -/
def State.mayWrite (s : State) (k : PageKind) (w : Writers) (master : Nat) : Bool :=
  match w with
  | .any => true
  | .bureau => decide (master = 0xF000)
  | .pf => pfOrBureau master
  | .owner => match k with | .ctx n => s.mayCommand n master | _ => pfOrBureau master

/-- Every queue of a context is stopped: it is UNLOADED, LOADING, YIELDED or STOPPED (R126). -/
def State.queuesStopped (s : State) (n : Nat) : Bool := decide ((s.ctx n).state ≠ 2 ∧ (s.ctx n).state ≠ 3 ∧ (s.ctx n).state ≠ 6)

/-- A lock group of a page is locked. -/
def State.lockedGroup (s : State) (page g : Nat) : Bool := bitOf (s.blk (ownerPage page)).locked g

/-- Population count of 32 bits. -/
def popcount32 (n : Nat) : Nat := ((List.range 32).filter (fun i => bitOf n i)).length

/-- Range checks beyond a field's limits: f_max in steps of 25 MHz; the 64-byte alignment of master_addr (Table 5.10); a port map that keeps R251. -/
def State.fieldOk (s : State) (page : Nat) (f : RegField) (v : Nat) : Bool :=
  match pageKind page with
  | .diePower _ => decide (v % 25 = 0)
  | .core _ => decide (¬ (0x100 ≤ f.off ∧ f.off < 0x300 ∧ f.lo = 16) ∨ v % 64 = 0)
  | .linkCfg =>
    if 0x100 ≤ f.off ∧ f.off < 0x140 ∧ f.off % 8 = 0 then
      decide (popcount32 v ≤ 16) && !(s.hostMode && decide (2 ^ 28 ≤ v)) &&
        (List.range 8).all (fun p => decide (0x100 + 8 * p = f.off) || decide (v &&& s.regs.shadowWord 3 (0x100 + 8 * p) = 0))
    else true
  | _ => true

/-- A lock group is locked. -/
def Blk.locks (b : Blk) : Option Nat → Bool
  | some g => bitOf b.locked g
  | none => false

/-- The page of a context whose queues run. -/
def State.pageRuns (s : State) : PageKind → Bool
  | .ctx n => !s.queuesStopped n
  | _ => false

/-- A write of one stored field (R6, R7, R416, R418, R420, R422): ignored with its BLK_ERR bit where it is not permitted, else to the shadow of a WC field or to the value in effect of a live one. -/
def State.writeField (s : State) (master page : Nat) (f : RegField) (word : Nat) : State :=
  let k := pageKind page
  let b := s.blk (ownerPage page)
  let v := bitsOf word f.hi f.lo
  if !s.mayWrite k f.who master then s.blkErr page 5
  else if b.locks f.grp then s.blkErr page 1
  else if f.stopped && s.pageRuns k then s.blkErr page 1
  else if f.wc ∧ b.hold ∧ master ≠ 0xF000 then s.blkErr page 4
  else if f.wc ∧ b.pending then s.blkErr page 2
  else if v < f.rmin ∨ f.rmax < v ∨ !s.fieldOk page f v then s.blkErr page 0
  else
    let key := wordKey page f.off
    if f.wc then { s with regs := { s.regs with shadow := tset s.regs.shadow key (BitVec.ofNat 32 (setBits (s.regs.shadowWord page f.off) f.hi f.lo v)) } }
    else { s with regs := s.regs.setWord page f.off (setBits (s.regs.word page f.off) f.hi f.lo v) }

/-- A write of the stored fields of one 32-bit word of a page. -/
def State.writeStored (s : State) (master page off word : Nat) : State :=
  (fieldsAt (pageKind page) off).foldl (fun s f => s.writeField master page f word) s

/-! ### Commit (R417 to R419) -/

/-- The shadows written in a block since its last commit. -/
def State.pendingWords (s : State) (page : Nat) : Tab W32 := s.regs.shadow.filter (fun x => decide (ownerPage (x.1 / 4096) = page))

/-- The shadows of a block are the values in effect again. -/
def State.dropShadows (s : State) (page : Nat) : State :=
  { s with regs := { s.regs with shadow := s.regs.shadow.filter (fun x => decide (ownerPage (x.1 / 4096) ≠ page)) } }

/-- The access-table entries of a page written since the last commit take effect (R354). -/
def State.commitAcl (s : State) (page : Nat) : State :=
  { s with regs := { s.regs with acl := (s.regs.aclShadow.filter (fun x => decide (x.1 / 2048 = page))).foldl (fun t x => tset t x.1 x.2) s.regs.acl } }

/-- The most scheduled slots that a channel of a router holds. -/
def State.mostSlots (s : State) (die : Nat) : Nat := ((List.range 34).map (fun c => (s.schedSlots die c).length)).foldl max 0

/-- The check of an effect point that rejects the whole pending part: the BLK_ERR bit that it sets (R30, R251, rule after Table 7.9). -/
def State.commitFault (s : State) (page : Nat) : Option Nat :=
  match pageKind page with
  | .bureau => if decide (s.regs.shadowWord 1 0x100 % 2 = 1) ≠ s.regs.strictActive ∧ !s.loadedCtxs.isEmpty then some 8 else none
  | .linkCfg =>
    let changed := (List.range 8).filter (fun p => decide (s.regs.shadowWord 3 (0x100 + 8 * p) ≠ s.regs.word 3 (0x100 + 8 * p) ∨ s.regs.shadowWord 3 (0x104 + 8 * p) ≠ s.regs.word 3 (0x104 + 8 * p)))
    let busy := changed.any (fun p =>
      let ls := s.regs.shadowWord 3 (0x100 + 8 * p) ||| s.regs.word 3 (0x100 + 8 * p)
      (List.range 32).any (fun l => bitOf ls l && decide ((s.link l).state ≠ 0 ∧ (s.link l).state ≠ 7)) || (s.portUsers p).any (fun n => (s.ctx n).loaded))
    if busy then some 9 else none
  | .router d =>
    let new := s.regs.shadowWord page 0x80 % 256
    if new < s.regs.field page 0x80 7 0 ∧ new < s.mostSlots d then some 0 else none
  | _ => none

/-- The field that keeps 1 while strict mode is active: FS_CTRL.exact_en and BU_RPL_CTRL.en (R419). -/
def keptWord (k : PageKind) : Option Nat :=
  match k with
  | .bureau => some 0x110
  | .core _ => some 0xC0
  | _ => none

/-- The kept field would be cleared by a commit. -/
def State.keepsOne (s : State) (page : Nat) : Bool :=
  match keptWord (pageKind page) with
  | some o => s.regs.strictActive && decide (s.regs.shadowWord page o % 2 = 0 ∧ s.regs.word page o % 2 = 1)
  | none => false

/-- What follows when the pending part of a page takes effect, `old` being the state before: strict mode (R30), test mode (R135), a link's enable (R254, R266), a port map that takes a link out of its port (R250), YIELD_N held low (R434). -/
def State.committed (s old : State) (page : Nat) : State :=
  match pageKind page with
  | .bureau =>
    let v := decide (s.regs.word 1 0x100 % 2 = 1)
    { s with regs := { s.regs with strictActive := v, clearSinceReset := s.regs.clearSinceReset || !v } }
  | .core c =>
    let was := old.regs.word page 0x340 % 2
    let now := s.regs.word page 0x340 % 2
    if was = 0 ∧ now = 1 then s.setCore c ((s.core c).testLanes c (s.frlgSeed c))
    else if was = 1 ∧ now = 0 then s.seedLanes c
    else s
  | .link l =>
    let was := old.regs.word page 0x80 % 2
    let now := s.regs.word page 0x80 % 2
    if (s.link l).state = 7 ∨ was = now then s else if now = 0 then s.leaveService l 0 else s.trainLink l
  | .linkCfg =>
    -- a link that has left its port, or changed it, is out of FAULT: outside a port it is DOWN (R250), in its new one it trains
    (List.range 32).foldl (fun s l => if s.portOf l = old.portOf l then s else if (s.portOf l).isNone then s.leaveService l 0 else s) s
  | .ctx n =>
    if (tfind old.regs.shadow (wordKey page 0x48)).isSome ∧ s.regs.field page 0x48 0 0 = 1 ∧ !s.pins.yieldFiltered ∧ (s.ctx n).loaded then
      s.yieldRequest n 1 (s.regs.field page 0x48 1 1) (s.regs.field page 0x48 15 8 * ms)
    else s
  | _ => s

/-- The pending part of a block takes effect or is rejected (R417, R419). -/
def State.takeEffect (s : State) (page : Nat) : State :=
  match s.commitFault page with
  | some bit => (((s.dropShadows page).blkErr page bit).modBlk page (fun b => { b with pending := false, rejected := true })).count page .commitCount 1
  | none =>
    let keep := s.keepsOne page
    let live := (s.pendingWords page).foldl (fun (t : Tab W32) x =>
      tset t x.1 (if keep ∧ some (x.1 % 4096) = keptWord (pageKind page) then x.2 ||| 1 else x.2)) s.regs.live
    let s1 := { s.dropShadows page with regs := { (s.dropShadows page).regs with live := live } }
    let s1 := if keep then s1.blkErr page 0 else s1
    ((s1.committed s page).modBlk page (fun b => { b with pending := false, rejected := false })).count page .commitCount 1

/-- BLK_COMMIT.go of a block is written (R417, R418, R420). -/
def State.commitWrite (s : State) (master page : Nat) : State :=
  if (s.blk page).hold ∧ master ≠ 0xF000 then s.blkErr page 4
  else (s.commitAcl page).modBlk page (fun b => { b with pending := true })

/-- The effect point of a block, as far as the state shows it: a core with no tile-task; a stack page with no mirror write outstanding (assumption log 44). -/
def State.atEffectPoint (s : State) (page : Nat) : Bool :=
  match pageKind page with
  | .core c => (s.core c).run.isNone
  | .stack _ => s.loadedCtxs.all (fun n => decide ((s.ctx n).mem.unackedSum = 0))
  | _ => true

/-- A page carries a block header. -/
def hasHeader (page : Nat) : Bool :=
  match pageKind page with
  | .empty | .slots .. | .portSlots .. | .imem .. => false
  | .sync _ p => decide (p = 0)
  | _ => true

/-- BLK_COMMIT (R417): a write of go. -/
def execBlkCommit (master page : Nat) (s : State) : Host.Outcome State Fault Refusal := .next (if hasHeader page then s.commitWrite master page else s)

/-- COMMIT_EFFECT_POINT (R417, R419): the block reaches its effect point. -/
def execCommitEffectPoint (page : Nat) (s : State) : Host.Outcome State Fault Refusal :=
  .next (if hasHeader page ∧ (s.blk page).pending ∧ s.atEffectPoint page then s.takeEffect page else s)

/-! ### Locks (R422, R423) -/

/-- The shadows of the fields of some lock groups are reloaded from the values in effect. -/
def State.reloadGroups (s : State) (page groups : Nat) : State :=
  let shadow := s.regs.shadow.filterMap (fun (x : Nat × W32) =>
    let p := x.1 / 4096
    let off := x.1 % 4096
    if ownerPage p ≠ page then some x
    else
      let fs := (fieldsAt (pageKind p) off).filter (fun f => match f.grp with | some g => bitOf groups g | none => false)
      let v := fs.foldl (fun v f => setBits v f.hi f.lo (bitsOf (s.regs.word p off) f.hi f.lo)) x.2.toNat
      if v = s.regs.word p off then none else some (x.1, BitVec.ofNat 32 v))
  let aclShadow := if bitOf groups (aclGroup (pageKind page)) then s.regs.aclShadow.filter (fun x => decide (x.1 / 2048 ≠ page)) else s.regs.aclShadow
  { s with regs := { s.regs with shadow := shadow, aclShadow := aclShadow } }

/-- A write of BLK_LOCK.set: the Bureau locks any group of the page, the host physical function those of Table 18.4 marked host. -/
def State.lockWrite (s : State) (master page bits : Nat) : State :=
  if !pfOrBureau master then s.blkErr page 5
  else
    let all := bits % 2 ^ lockGroups (pageKind page)
    let set := if master = 0x8000 then all &&& hostLockable (pageKind page) else all
    let s := if set = all then s else s.blkErr page 5
    let s := s.reloadGroups page set
    s.modBlk page (fun b => { b with locked := b.locked ||| set })

/-- BLK_LOCK (R422). -/
def execBlkLock (master page : Nat) (value : W32) (s : State) : Host.Outcome State Fault Refusal :=
  .next (if hasHeader page then s.lockWrite master page (value.toNat % 65536) else s)

/-! ### Frozen statistics (R421) -/

/-- Every kind of statistic. -/
def allStats : List Stat :=
  [.fsMismatch, .fsDropped, .fsChecked, .eccCorrected, .eccUncorrectable, .ceRetransmits, .ceDuplicates, .fecCorrected, .fecUncorrectable, .fecReplays, .rplMismatch, .rplAbandoned,
   .rplReplayed, .commitCount, .regFaults, .protErr 0, .protErr 1, .protErr 2, .protErr 3, .copies, .mibHashed, .forwarded, .signed, .skipped, .healthFail]

/-- The accumulated counts of a page are added. -/
def State.thaw (s : State) (page : Nat) : State :=
  let regs := allStats.foldl (fun (r : Regs) k =>
    let n := tget 0 r.frozen (statKey page k)
    if n = 0 then r
    else { r with stats := tput 0 r.stats (statKey page k) (statAdd k (tget 0 r.stats (statKey page k)) n), frozen := tput 0 r.frozen (statKey page k) 0 }) s.regs
  { s with regs := regs }

/-- A write of BLK_CTRL: stat_freeze is live; bureau_hold is the Bureau's, and a write by another master that would change it is ignored with BLK_ERR[5]. -/
def State.ctrlWrite (s : State) (master page v : Nat) : State :=
  let b := s.blk page
  let s := if bitOf v 1 = b.hold then s
    else if master = 0xF000 then s.modBlk page (fun b => { b with hold := bitOf v 1 })
    else s.blkErr page 5
  let s := s.modBlk page (fun b => { b with freeze := bitOf v 0 })
  if b.freeze ∧ !bitOf v 0 then s.thaw page else s

/-- STAT_FREEZE (R421): a write of BLK_CTRL. -/
def execStatFreeze (master page : Nat) (value : W32) (s : State) : Host.Outcome State Fault Refusal :=
  .next (if hasHeader page then s.ctrlWrite master page value.toNat else s)

end Sys2Proof.Machine
end

