-- ==== Sys2Proof/Machine/PowerTherm.lean ====
section
/-! DEFINITION. Input power and the limiter, arithmetic clocks, input voltage, temperature (R366, R369 to R375, R382). -/

namespace Sys2Proof.Machine

/-! ### The limiter (R369, R370) -/

/-- PWR_CTRL.cap. -/
def State.cap (s : State) : Nat := s.regs.field 2 0x80 11 0
/-- The limiter's threshold: 2,100 W, or the cap. -/
def State.limiter (s : State) : Nat := if s.power.atCap then s.cap else 2100
/-- The average input power of the last 1 ms. -/
def Power.average (p : Power) : Nat := if p.hist.isEmpty then 0 else ((p.hist.map (·.1)).foldl (· + ·) 0) / p.hist.length

/-- The times since when input power has been above the cap, or at or below it. -/
def State.watchCap (s : State) : State :=
  if s.cap < s.power.watts then { s with power := { s.power with aboveAt := some (s.power.aboveAt.getD s.now), belowAt := none } }
  else { s with power := { s.power with belowAt := some (s.power.belowAt.getD s.now), aboveAt := none } }

/-- POWER_MEASUREMENT (R369, R370): one measurement of each 1 µs; above the threshold the limiter withholds issue cycles. -/
def execPowerMeasurement (watts mv : Nat) (s : State) : Host.Outcome State Fault Refusal :=
  let w := watts % 65536
  let held := decide (s.limiter < w)
  let hist := s.power.hist ++ [(w, held)]
  .next ({ s with power := { s.power with
    watts := w, mv := mv % 65536, hist := hist.drop (hist.length - 1000)
    withheldAt := if held then some (s.power.withheldAt.getD s.now) else none, sustained := s.power.sustained && held } }).watchCap

/-- LIMITER_THRESHOLD_TIMER (R370): after 10 ms above the cap without a break the threshold is the cap; after 10 ms at or below it, 2,100 W. -/
def execLimiterThresholdTimer (s : State) : Host.Outcome State Fault Refusal :=
  let past := fun (t : Option Nat) => match t with | some t => decide (t + 10 * ms ≤ s.now) | none => false
  .next (if past s.power.aboveAt then { s with power := { s.power with atCap := true } }
    else if past s.power.belowAt then { s with power := { s.power with atCap := false } }
    else s)

/-- LIMITER_SUSTAINED (R382): cycles have been withheld for more than 1 s; one record for each such time. -/
def execLimiterSustained (s : State) : Host.Outcome State Fault Refusal :=
  .next (match s.power.withheldAt with
    | none => s
    | some t =>
      if s.power.sustained ∨ s.now ≤ t + 1000 * ms then s
      else ({ s with power := { s.power with sustained := true } }).record { s.mkRec 0x55 0 with syndrome := s.power.watts })

/-- A write of PWR_CTRL.cap (R370, Table 15.5): live; a lowered cap becomes the threshold at once. -/
def State.writeCap (s : State) (master word : Nat) : State :=
  let old := s.cap
  let s := s.writeStored master 2 0x80 word
  (if s.cap < old then { s with power := { s.power with atCap := true } } else s).watchCap

/-- PWR_CTRL (R370). -/
def execPwrCtrl (master : Nat) (value : W32) (s : State) : Host.Outcome State Fault Refusal := .next (s.writeCap master value.toNat)

/-! ### Clocks (R366, R371) -/

/-- The highest clock that thermal control allows a compute die. -/
def State.thermalLimit (s : State) (d : Nat) : Nat := tget 1200 s.power.limits d
/-- The arithmetic clock of a compute die (DIE_CLK.f_now). -/
def State.fNow (s : State) (d : Nat) : Nat := tget 1200 s.power.clocks d
/-- Set the clock of a compute die. -/
def State.setClock (s : State) (d f : Nat) : State := { s with power := { s.power with clocks := tput 1200 s.power.clocks d f } }

/-- CLOCK_CONTROLLER_ADJUST (R371, R427): all compute dies run at the highest step that the cap allows, a free value of 400 to 1,200 MHz in steps of 25; a die stays at or below its f_max and what thermal
control allows. -/
def execClockControllerAdjust (s : State) : Host.Outcome State Fault Refusal :=
  .next (if !s.root.mainUp then s
    else
      let f := 400 + 25 * s.freeVal 33
      (List.range 16).foldl (fun s d => s.setClock d (min f (min (s.regs.field (diePowerPage d) 0x80 26 16) (s.thermalLimit d)))) (s.drawn 1))

/-! ### Input voltage (R372) -/

/-- INPUT_VOLTAGE_FAULT (R372): the input has been outside 40 to 60 V for more than 100 µs; the device goes offline and its main domain off, with a record. -/
def execInputVoltageFault (s : State) : Host.Outcome State Fault Refusal :=
  .next (if !s.root.mainEn then s
    else (s.goOffline.mainOff).record { s.mkRec 0x54 9 with syndrome := s.power.mv })

/-! ### Temperature (R373 to R375) -/

/-- The die that a sensor governs: 0–15 compute dies (and their stacks), 16–18 link dies, 19 the root die. -/
def sensorDie (k : Nat) : Nat := if k < 64 then k / 4 else if k < 70 then 16 + (k - 64) / 2 else if k = 70 then 19 else k - 71
/-- The rail unit of a sensor: the die itself, or the base die of a stack. -/
def sensorUnit (k : Nat) : Nat := if k < 71 then sensorDie k else 20 + (k - 71)
/-- The sensors of the same silicon as a sensor. -/
def sensorMates (k : Nat) : List Nat := (List.range 87).filter (fun i => decide (i ≠ k ∧ sensorUnit i = sensorUnit k))
/-- The last reading of a sensor, in 0.25 °C. -/
def State.reading (s : State) (k : Nat) : Int := signedOf 16 (tget 0 s.power.temps k)
/-- The valid sensors that govern a die. -/
def State.dieSensors (s : State) (d : Nat) : List Nat := (List.range 87).filter (fun i => decide (sensorDie i = d) && !s.power.excluded.contains i)

/-- A sensor differs by more than 15 °C from every other valid sensor of its die that has been read. -/
def State.disagrees (s : State) (k : Nat) : Bool :=
  let others := (sensorMates k).filter (fun i => !s.power.excluded.contains i && (tfind s.power.temps i).isSome)
  !others.isEmpty && others.all (fun i => decide (60 < (s.reading k - s.reading i).natAbs))

/-- A tenth disagreeing reading in a row excludes a sensor (R373); a compute die left without a valid sensor of its own is held at 600 MHz. -/
def State.judgeSensor (s : State) (k : Nat) : State :=
  if s.power.excluded.contains k then s
  else
    let n := if s.disagrees k then tget 0 s.power.disagree k + 1 else 0
    let s : State := { s with power := { s.power with disagree := tput 0 s.power.disagree k n } }
    if n < 10 then s
    else
      let s : State := { s with power := { s.power with excluded := s.power.excluded ++ [k], throttled := s.power.throttled.filter (fun i => decide (i ≠ k)) } }
      let s := s.record { s.mkRec 0x59 0 with syndrome := k }
      if k < 64 ∧ (sensorMates k).all (fun i => s.power.excluded.contains i) then
        ({ s with power := { s.power with limits := tput 1200 s.power.limits (k / 4) 600 } }).setClock (k / 4) (min 600 (s.fNow (k / 4)))
      else s

/-- A record of the class thermal throttle (R374). -/
def State.throttleRec (s : State) (k : Nat) : State :=
  let d := sensorDie k
  let s : State := { s with power := { s.power with throttleAt := tset s.power.throttleAt d s.now } }
  s.record { s.mkRec 0x52 0 with syndrome := k + (if d < 16 then s.fNow d else 0) * 65536 }

/-- The thermal controller on a sensor at or above 105 °C (R374): a compute die's clock falls by at least one step, how many being a free value; a die that begins to throttle is recorded. -/
def State.throttle (s : State) (k : Nat) : State :=
  let d := sensorDie k
  let first := !(s.power.throttled.any (fun i => decide (sensorDie i = d)))
  let s : State := if s.power.throttled.contains k then s else { s with power := { s.power with throttled := s.power.throttled ++ [k] } }
  let s : State := if d < 16 then
      let f := max 400 (min (s.fNow d) (s.thermalLimit d) - 25 * (1 + s.freeVal 32))
      ({ s.drawn 1 with power := { s.power with limits := tput 1200 s.power.limits d f, raiseAt := tset s.power.raiseAt d s.now } }).setClock d f
    else s
  if first then s.throttleRec k else s

/-- A die is no longer throttled. -/
def State.cooled (s : State) (d : Nat) : State := { s with power := { s.power with throttled := s.power.throttled.filter (fun i => decide (sensorDie i ≠ d)) } }

/-- The thermal controller on a cool sensor (R374): a compute die whose sensors all read 102 °C or less rises by one step per 10 ms; a link die or the root die throttles no more below 105 °C. -/
def State.unthrottle (s : State) (k : Nat) : State :=
  let d := sensorDie k
  if 16 ≤ d then (if (s.dieSensors d).all (fun i => decide (s.reading i < 420)) then s.cooled d else s)
  else if 1200 ≤ s.thermalLimit d ∨ !((s.dieSensors d).any (fun i => decide (i < 64))) ∨ !((s.dieSensors d).all (fun i => decide (s.reading i ≤ 408))) ∨
    s.now < tget 0 s.power.raiseAt d + 10 * ms then s
  else
    let f := min 1200 (s.thermalLimit d + 25)
    let s : State := { s with power := { s.power with limits := tput 1200 s.power.limits d f, raiseAt := tset s.power.raiseAt d s.now } }
    if f = 1200 then s.cooled d else s

/-- SENSOR_READING (R373, R374): a sensor is read, with the rails of its die (logic, SRAM, I/O) and the standby rail; a sensor of an unpowered die is not read. -/
def execSensorReading (sensor temp : Nat) (rails : List Nat) (s : State) : Host.Outcome State Fault Refusal :=
  .next (if 87 ≤ sensor ∨ !s.root.standby ∨ (sensor ≠ 70 ∧ !s.root.mainUp) then s
    else
      let u := sensorUnit sensor * 4
      let r := (List.range 3).foldl (fun t i => tput 0 t (u + i) (rails.getD i 0 % 65536)) s.power.rails
      let s : State := { s with power := { s.power with temps := tset s.power.temps sensor (temp % 65536), rails := tput 0 r 144 (rails.getD 3 0 % 65536) } }
      let s := s.judgeSensor sensor
      if s.power.excluded.contains sensor then s
      else if 420 ≤ s.reading sensor then s.throttle sensor else s.unthrottle sensor)

/-- THROTTLE_RECORD_REPEAT (R374): every 60 s while a die remains throttled. -/
def execThrottleRecordRepeat (sensor : Nat) (s : State) : Host.Outcome State Fault Refusal :=
  .next (if !s.power.throttled.contains sensor ∨ s.now < tget 0 s.power.throttleAt (sensorDie sensor) + 60000 * ms then s else s.throttleRec sensor)

/-- THERMAL_TRIP (R375, R436, R437): a sensor at 115 °C or more: THERMTRIP_N falls, then the main domain goes off and ALERT_N falls; the device is offline with its record. -/
def execThermalTrip (sensor : Nat) (s : State) : Host.Outcome State Fault Refusal :=
  .next (if 87 ≤ sensor ∨ s.power.tripped ∨ !s.root.standby ∨ s.reading sensor < 460 then s
    else
      let s := ({ s with power := { s.power with tripped := true } }).setThermtrip false
      let s := s.mainOff.alert
      (s.record { s.mkRec 0x53 9 with syndrome := sensor + tget 0 s.power.temps sensor * 65536 }).goOffline)

end Sys2Proof.Machine
end

