-- ==== Sys2Proof/Machine/RegRead.lean ====
section
/-! DEFINITION. The registers of every page, their widths and what they read (R411 to R416, R424 to R427 and the register tables of every chapter), with the read latch (R412). -/

namespace Sys2Proof.Machine

/-! ### Which registers a page holds -/

/-- An array of registers: base offset, stride, count, bytes each. -/
def regArray (base stride n size : Nat) : List (Nat × Nat) := (List.range n).map (fun i => (base + stride * i, size))

/-- The common header (Table 18.1): offset and bytes. Its two Reserved rows hold no register (assumption log 123). -/
def headerRegs : List (Nat × Nat) :=
  [(0, 4), (4, 4), (8, 8), (0x10, 4), (0x14, 4), (0x18, 4), (0x1C, 4), (0x20, 4), (0x24, 4), (0x30, 8)]

/-- The registers of a block page beyond the header. -/
def blockRegs (k : PageKind) : List (Nat × Nat) :=
  match k with
  | .rootId => [(0x40, 4), (0x48, 4), (0x50, 16), (0x60, 8), (0x68, 8), (0x70, 8)]
  | .bureau =>
    [(0x100, 4), (0x104, 4), (0x110, 4), (0x118, 8), (0x120, 16), (0x130, 4), (0x138, 4), (0x140, 4), (0x148, 8), (0x180, 8), (0x200, 8), (0x208, 4), (0x240, 64),
     (0x300, 8), (0x308, 8), (0x310, 16), (0x320, 4), (0x328, 4)]
  | .power => [(0x80, 4), (0xC0, 8)] ++ regArray 0x400 4 87 4
  | .linkCfg => regArray 0x100 8 8 8 ++ regArray 0x400 4 128 4
  | .security => [(0x80, 8), (0x88, 4)]
  | .diePower _ => [(0x80, 4), (0x88, 8)]
  | .router _ => [(0x80, 4), (0xC0, 8)]
  | .sync _ p => if p = 0 then [(0x100, 4), (0x108, 8), (0x110, 4), (0x118, 8), (0x120, 4)] ++ regArray 0x140 16 16 16 else []
  | .dieCache _ => [(0x80, 4)]
  | .dispatch _ => [(0x80, 4)]
  | .stack _ => [(0x80, 4), (0xC0, 8)] ++ regArray 0x800 8 256 8
  | .core _ => [(0x80, 4), (0xC0, 4), (0xC8, 8), (0x340, 4), (0x348, 8)] ++ regArray 0x100 0x20 16 32
  | .cpe .. => [(0x80, 8)]
  | .hash _ => [(0x80, 8)]
  | .d2d _ => regArray 0x80 8 4 8
  | .collEng _ => [(0x80, 4), (0xC0, 8)]
  | .barrier _ => [(0x80, 8)]
  | .link _ => [(0x80, 4), (0xC0, 8), (0xC8, 8)]
  | .pcie => [(0x80, 4)]
  | .ctx _ =>
    [(0x40, 4), (0x48, 4), (0x50, 4), (0x80, 8), (0x88, 4), (0x90, 16), (0x100, 64), (0x140, 4), (0x300, 8), (0x308, 8), (0x310, 8), (0x318, 8), (0x320, 8), (0x328, 4),
     (0x330, 4), (0x338, 8), (0x3C0, 4), (0x3D0, 8), (0x700, 4), (0x708, 4), (0x70C, 4), (0x710, 8), (0x800, 64), (0x840, 8), (0x880, 16), (0x890, 4)] ++
      regArray 0x380 4 16 4 ++ regArray 0x400 4 8 4 ++ regArray 0x600 16 16 16
  | _ => []

/-- The access-table registers (Table 14.10). -/
def aclRegs : List (Nat × Nat) := [(0x40, 4), (0x50, 16), (0x60, 16)]

/-- The register that covers the word at an offset of a page: its first offset and its bytes. Port slot tables lie on the page of the port's home die only (R425). -/
def State.regAt (s : State) (page off : Nat) : Option (Nat × Nat) :=
  let k := pageKind page
  match k with
  | .empty => none
  | .imem .. => some (off / 4 * 4, 4)
  | .slots _ p => if p * 4 + off / 0x400 < 34 then some (off / 4 * 4, 4) else none
  | .portSlots j p => if s.portHome (p * 4 + off / 0x400) = j then some (off / 4 * 4, 4) else none
  | .sync _ 1 => some (off / 8 * 8, 8)
  | .sync _ 2 => if off < 0x800 then some (off / 8 * 8, 8) else none
  | _ =>
    if (match k with | .sync _ _ => decide (0x800 ≤ off) | _ => false) then some (off / 8 * 8, 8)
    else
      let rs := (if hasHeader page then headerRegs else []) ++ (if pageAcl k then aclRegs else []) ++ blockRegs k
      rs.find? (fun r => decide (r.1 ≤ off ∧ off < r.1 + r.2))

/-! ### What they read -/

/-- A value placed at a bit. -/
def atBit (v lo : Nat) : Nat := v * 2 ^ lo

/-- A word of stored fields as read: the shadow of WC fields, the value in effect of live ones (Table 0.5). -/
def State.storedRead (s : State) (page off : Nat) : Nat := s.regs.shadowWord page off
/-- Two words. -/
def State.storedRead2 (s : State) (page off : Nat) : Nat := s.storedRead page off + atBit (s.storedRead page (off + 4)) 32

/-- The header registers of a block page. -/
def State.headerValue (s : State) (page off : Nat) : Nat :=
  let k := pageKind page
  let b := s.blk page
  let id := blkId k
  match off with
  | 0 => id.1 + atBit id.2.1 16 + atBit id.2.2 24
  | 4 => 0x0100
  | 8 => b2n (pageShadow k) + atBit (b2n (pageAcl k)) 1 + atBit (lockGroups k) 2
  | 0x10 => b2n b.freeze + atBit (b2n b.hold) 1
  | 0x14 =>
    b2n b.pending + atBit (b2n b.rejected) 1 + atBit (b2n (decide (b.err &&& (65535 - b.mask) ≠ 0))) 2 + atBit (b2n (decide (b.locked ≠ 0))) 3 +
      atBit (s.stat page .commitCount) 16
  | 0x18 => b.err
  | 0x1C => b.mask
  | 0x24 => atBit b.locked 16
  | 0x30 => b.scratch
  | _ => 0

/-- The selected port and entry of a page's access table. -/
def State.aclSelected (s : State) (page : Nat) : Nat := aclKey page (if page = 3 then bitsOf (s.blk page).aclSel 10 8 else 0) ((s.blk page).aclSel % 256)
/-- The shadow of an access-table entry. -/
def State.aclShadowAt (s : State) (key : Nat) : Nat :=
  match tfind s.regs.aclShadow key with
  | some v => v
  | none => s.aclAt (key / 2048) (key / 256 % 8) (key % 256)

/-- The access-table registers of a page. -/
def State.aclValue (s : State) (page off : Nat) : Nat :=
  let key := s.aclSelected page
  match off with
  | 0x40 => (s.blk page).aclSel
  | 0x50 => s.aclShadowAt key
  | _ => s.aclAt page (key / 256 % 8) (key % 256)

/-- RT_IDENT (Table 0.2). -/
def State.rtIdent (s : State) : Nat := s.stepping + atBit (if s.root.b0 then 2 else 1) 8 + atBit s.protoMax 16

/-- The registers of the root die identity page. -/
def State.rootValue (s : State) (off : Nat) : Nat :=
  match off with
  | 0x40 => s.rtIdent
  | 0x48 => s.root.straps
  | 0x50 => s.root.devid
  | 0x60 => s.root.fuses.svn
  | 0x68 => s.root.fuses.serial
  | _ => s.now

/-- BU_READY (Table 16.3). -/
def State.buReady (s : State) : Nat :=
  atBit (b2n s.root.bureauUp) 1 + atBit (s.root.boot.image % 2) 2 + atBit (b2n s.root.mainUp) 3 + atBit (b2n (decide (s.root.stackUp.length = 16))) 4 +
    atBit (b2n s.root.testDone) 5 + atBit (b2n s.root.linksDone) 6 + atBit (b2n s.root.ready) 7 + atBit (s.root.fencedAtReady % 256) 8 +
    atBit (s.root.withheld.length % 2 ^ 20) 16 + atBit (s.root.failUnit % 16) 36 + atBit (s.root.fail % 256) 40 + atBit s.root.readyMs 48

/-- BU_CAB_STAT (Table 16.4). -/
def State.cabStat (s : State) : Nat :=
  if !s.root.bureauUp then 0
  else
    s.care.cabState + atBit (if s.care.cabState = 0 then 1 else s.care.present.length % 256) 16 + atBit (planModules s.plan) 24 + atBit s.portsShort 32 +
      atBit s.cabProtoMin 40 + atBit (s.stat 1 .planMismatch) 48

/-- BU_CAB_MISSING (Table 16.4). -/
def State.cabMissing (s : State) : Nat :=
  if s.care.cabState = 0 then 0 else (((List.range (planModules s.plan)).filter s.missing).map (2 ^ ·)).foldl (· + ·) 0

/-- Whole seconds until the Lectern closes; an engineering part's stays open, and the count saturates. -/
def State.lecternLeft (s : State) : Nat :=
  if !s.mgmt.lecOpen then 0 else if s.mgmt.lecUntil = 0 then 2 ^ 32 - 1 else min (2 ^ 32 - 1) (ceilDiv (s.mgmt.lecUntil - s.now) 100000000)

/-- BU_LECTERN (Table 15.9). -/
def State.buLectern (s : State) : Nat :=
  b2n s.mgmt.lecOpen + atBit (b2n s.mgmt.lecOpened) 1 + atBit (min 63 (s.cores.filter (fun c => c.2.halted)).length) 2 + atBit (if s.mgmt.lecOpen then s.mgmt.lecScope % 8 else 0) 8 +
    atBit s.lecternLeft 32

/-- The record of a sequence number that is retained, in the log or in the flash. -/
def State.retained (s : State) (seq : Nat) : Nat :=
  match (s.care.log ++ s.root.flashRecs).find? (fun r => decide (r.seq = seq)) with
  | some r => r.encode
  | none => 0

/-- The registers of the Bureau control page. -/
def State.bureauValue (s : State) (off : Nat) : Nat :=
  match off with
  | 0x104 => b2n s.regs.strictActive + atBit (b2n s.regs.clearSinceReset) 1 + atBit (s.stat 1 .strictFaults) 16
  | 0x118 => s.stat 1 .rplReplayed + atBit (s.stat 1 .rplAbandoned) 24 + atBit (s.stat 1 .rplMismatch) 48
  | 0x120 => s.care.fenced
  | 0x130 => 0
  | 0x148 => s.care.iftCore % 128 + atBit (b2n (decide (s.care.iftPhase = 2))) 15 + atBit (s.stat 1 .iftFailed) 16 + atBit (s.stat 1 .iftPassed) 32
  | 0x180 => s.buLectern
  | 0x200 => s.care.nextSeq + atBit (match s.care.log.head? with | some r => r.seq | none => s.care.nextSeq) 32
  | 0x240 => s.retained (s.regs.word 1 0x208)
  | 0x300 => s.buReady
  | 0x308 => s.cabStat
  | 0x310 => s.cabMissing
  | 0x328 => 0
  | o => s.storedRead 1 o

/-- PWR_STAT (Table 15.6a): cycles withheld read 0 unless the limiter withheld some in the last 1 ms, and are else a free value. -/
def State.pwrStat (s : State) : Nat :=
  ((List.range 16).map s.fNow).foldl min 1200 + atBit (if s.power.hist.any (·.2) then s.freeVal 65536 else 0) 16 + atBit s.power.mv 32 + atBit (s.power.average % 65536) 48

/-- TEL_TEMPn (Table 15.7). -/
def State.telTemp (s : State) (n : Nat) : Nat :=
  tget 0 s.power.temps n + atBit (b2n (s.power.throttled.contains n)) 16 + atBit (b2n (s.power.excluded.contains n)) 17

/-- The registers of the power page. -/
def State.powerValue (s : State) (off : Nat) : Nat :=
  if off = 0x80 then s.storedRead 2 off else if off = 0xC0 then s.pwrStat else s.telTemp ((off - 0x400) / 4)

/-- The registers of the security page. -/
def State.securityValue (s : State) (off : Nat) : Nat :=
  if off = 0x80 then s.stat 4 .skipped + atBit (s.stat 4 .signed) 16 + atBit (min 1024 s.mgmt.signQ.length) 48
  else b2n s.root.healthy + atBit (s.stat 4 .healthFail) 16

/-- DIE_CLK and DIE_RAIL (Table 18.8). -/
def State.diePowerValue (s : State) (d off : Nat) : Nat :=
  if off = 0x80 then (if d < 16 then s.fNow d + s.storedRead (diePowerPage d) 0x80 else 0)
  else tget 0 s.power.rails (d * 4) + atBit (tget 0 s.power.rails (d * 4 + 1)) 16 + atBit (tget 0 s.power.rails (d * 4 + 2)) 32 + atBit (s.stat (diePowerPage d) .regFaults) 48

/-- The debug registers of a SYNC page (Table 8.10) as a master reads them: the physical function sees only value and mode of a context that is not its own (R185), and other functions nothing. -/
def State.syncValue (s : State) (d master off : Nat) : Nat :=
  match tfind s.dbg d with
  | none => 0
  | some x =>
    let mayRead := decide (master = 0x8000 ∨ master = 0xF000) || (decide (master = 0xF001) && s.mgmt.lecOpen)
    let full := decide (master ≠ 0x8000 ∨ s.ownerFn x.owner = 0)
    if !mayRead then 0
    else match off with
      | 0x108 => x.value
      | 0x110 => if full then x.lastMaster else 0
      | 0x118 => if full then x.lastTime else 0
      | 0x120 =>
        x.mode + atBit (b2n x.ready) 31 + (if full then atBit (b2n x.proxy) 1 + atBit x.owner 2 + atBit (if x.ready then min 31 x.waiters.length else 0) 8 else 0)
      | o =>
        if o < 0x140 ∨ !full ∨ !x.ready then 0
        else match x.waiters[(o - 0x140) / 16]? with
          | some w => w.1 + atBit 1 16 + atBit w.2.1 17 + atBit w.2.2 64
          | none => 0

/-- SYNC_FWDn (Table 8.5). -/
def State.fwdValue (s : State) (d n : Nat) : Nat :=
  match tfind s.fwds (d * 1024 + n) with
  | some f => f.tgtDev + atBit f.tgtCtx 7 + atBit f.tgtCtr 13 + atBit 1 31
  | none => 0

/-- CPE_STAT; the number of requests in flight is a free value while a copy is. -/
def State.cpeValue (s : State) (d e : Nat) : Nat :=
  let busy := s.cores.any (fun c => decide (c.1 / 8 = d) && !c.2.copies.isEmpty && decide (s.engineOf c.1 = d * 4 + e))
  b2n (s.care.fencedCpe.contains (d * 4 + e)) + atBit (if busy then s.freeVal 65536 else 0) 16 + atBit (s.stat (cpePage d e) .copies) 32

/-- HASH_STAT. -/
def State.hashValue (s : State) (d : Nat) : Nat :=
  (((s.care.fencedHash.filter (fun u => decide (u / 16 = d))).dedup.map (fun u => 2 ^ (u % 16))).foldl (· + ·) 0) + atBit (min 16 (s.hashBusyUnits d)) 16 +
    atBit (s.stat (hashPage d) .mibHashed) 32

/-- FS_WATCHn (Table 5.10), from the words that hold it. -/
def State.watchValue (s : State) (page off : Nat) : Nat := ((List.range 6).map (fun i => atBit (s.regs.word page (off + 4 * i)) (32 * i))).foldl (· + ·) 0

/-- LNK_STAT (Table 11.8). -/
def Link.status (k : Link) : Nat :=
  k.state + atBit k.reason 8 + atBit k.retrains 16 + atBit (b2n k.farValid) 24 + atBit k.farPlan 25 + atBit k.farIndex 28 + atBit k.farLink 35 + atBit k.farMax 40 + atBit k.version 48 +
    atBit k.farStepping 56

/-- PCIE_STAT. -/
def Pcie.status (p : Pcie) : Nat := p.rate + atBit p.width 4 + atBit (b2n p.flit) 9 + atBit (b2n p.linkUp) 10 + atBit p.vfs 16

/-- CTX_QINFO (Table 12.6) of the queue that CTX_QSEL names. -/
def State.qinfo (s : State) (n : Nat) : Nat :=
  let id := s.regs.field (ctxPage n) 0x88 15 0
  match s.queue id with
  | none => 0
  | some q =>
    if q.ctx ≠ n then 0
    else
      let st := if (s.ctx n).state ≠ 2 then 4 else if q.hasPaused then 3 else if q.head = q.tail ∧ q.running.isEmpty then 0 else if s.stalled id q then 2 else 1
      q.base + atBit st 60 + atBit (b2n q.step) 63 + atBit q.lg 64 + atBit q.descVer 68 + atBit q.mask 72 + atBit q.head 80 + atBit q.tail 96

/-- CTX_CQn (Table 10.6). -/
def Cq.value (q : Cq) : Nat := q.base + atBit q.lg 48 + atBit q.head 64 + atBit q.tail 80 + atBit q.engine 96

/-- The registers of a context page. -/
def State.ctxValue (s : State) (n off : Nat) : Nat :=
  let c := s.ctx n
  let p := ctxPage n
  let shard := s.regs.field p 0x700 11 0
  let h := tfind c.shards shard
  if 0x380 ≤ off ∧ off < 0x3C0 then (let w := tget (0, 0) c.wins ((off - 0x380) / 4); if w.2 = 0 then 0 else w.1 + atBit w.2 16)
  else if 0x400 ≤ off ∧ off < 0x420 then 0
  else if 0x600 ≤ off ∧ off < 0x700 then (match tfind c.cqs ((off - 0x600) / 16) with | some q => q.value | none => 0)
  else match off with
    | 0x40 => c.state + atBit (c.ysrc % 8) 4 + atBit (b2n c.errStop) 7 + atBit (c.notify % 16) 16
    | 0x80 => 0
    | 0x90 => s.qinfo n
    | 0x100 => (c.cmd.args.mapIdx (fun i v => atBit (v % 2 ^ 64) (64 * (i + 1)))).foldl (· + ·) 0
    | 0x140 => 0x10 + atBit c.cmd.rtag 8 + atBit c.cmd.result 16 + atBit (b2n c.cmd.busy) 31
    | 0x300 => c.st.stepTime % 2 ^ 64
    | 0x308 => c.st.stepPred % 2 ^ 64
    | 0x310 => c.st.slip % 2 ^ 64
    | 0x318 => c.st.tasksDone % 2 ^ 64
    | 0x320 => c.st.step
    | 0x328 => c.st.netRot % 4
    | 0x338 => 0
    | 0x3C0 => c.job.gen + atBit (min 65535 c.st.discarded) 16
    | 0x3D0 => (s.partition n).length + atBit (s.storedRead p 0x3D4) 32
    | 0x700 => shard + atBit (b2n h.isSome) 12
    | 0x708 => match h with | some x => x.flags | none => 0
    | 0x70C => match h with | some x => x.stream | none => 0
    | 0x710 => match h with | some x => x.base | none => 0
    | 0x800 => c.lastErr
    | 0x840 => s.storedRead2 p 0x840
    | 0x880 => s.storedRead2 p 0x880 + atBit c.mem.rcptWr 64 + atBit c.mem.rcptRd 96
    | o => s.storedRead p o

/-- The value of the register that begins at an offset of a page, as a master reads it. -/
def State.regValue (s : State) (master page off : Nat) : Nat :=
  let k := pageKind page
  if hasHeader page ∧ off < 0x40 then s.headerValue page off
  else if pageAcl k ∧ off < 0x70 then s.aclValue page off
  else match k with
    | .rootId => s.rootValue off
    | .bureau => s.bureauValue off
    | .power => s.powerValue off
    | .linkCfg => if off < 0x140 then s.storedRead2 page off else s.storedRead page off
    | .security => s.securityValue off
    | .diePower d => s.diePowerValue d off
    | .router d => if off = 0x80 then s.storedRead page off else tget 0 s.net.conflict d
    | .slots .. | .portSlots .. => s.storedRead page off
    | .sync d p => if p = 0 ∧ off < 0x800 then s.syncValue d master off else s.fwdValue d ((p * 4096 + off - 0x800) / 8)
    | .dieCache _ | .dispatch _ => s.storedRead page off
    | .stack _ =>
      if off = 0x80 then s.storedRead page off
      else if off = 0xC0 then s.stat page .eccUncorrectable + atBit (s.stat page .eccCorrected) 32
      else s.storedRead2 page off
    | .core _ =>
      if off = 0xC8 then s.stat page .fsChecked + atBit (s.stat page .fsDropped) 24 + atBit (s.stat page .fsMismatch) 48
      else if 0x100 ≤ off ∧ off < 0x300 then s.watchValue page off
      else if off = 0x348 then s.storedRead2 page off
      else s.storedRead page off
    | .cpe d e => s.cpeValue d e
    | .hash d => s.hashValue d
    | .d2d d =>
      let p := (off - 0x80) / 8
      b2n s.root.crossings + atBit (s.net.latency % 256) 8 + atBit (s.stat (d2dPage d) (.protErr p)) 32
    | .collEng _ => if off = 0x80 then s.storedRead page off else s.stat page .ceDuplicates + atBit (s.stat page .ceRetransmits) 32
    | .barrier j => (s.bars.filter (fun b => decide (b.2.ld = j))).length + atBit (s.stat page .forwarded) 32
    | .link l =>
      if off = 0x80 then s.storedRead page off
      else if off = 0xC0 then (s.link l).status
      else s.stat page .fecReplays + atBit (s.stat page .fecUncorrectable) 16 + atBit (s.stat page .fecCorrected) 32
    | .pcie => s.pcie.status
    | .ctx n => s.ctxValue n off
    | .imem c u => leNat (tbytes (s.core c).imem (u * 4096 + off) 4)
    | .empty => 0

/-! ### Reads (R411 to R414, R353) -/

/-- The context tag of a master's register requests: a host function tags with its number (R350). -/
def masterTag (master : Nat) : Nat := if 0x8000 ≤ master ∧ master < 0x8040 then master - 0x8000 else 0

/-- Whether the Bureau window admits a request to a page, and for a core page or its instruction memory also the core's mailbox table (Table 14.8). -/
def State.pageAdmits (s : State) (master page : Nat) (right : Right) : Bool :=
  let t := masterTag master
  s.admits 1 0 master t page page right &&
    (match pageKind page with
    | .core _ => s.admits page 0 master t 64 64 right
    | .imem c u => s.admits (corePage c) 0 master t u u right
    | _ => true)

/-- A register access that is refused before it reaches its page: class 0x37 for a page that is not populated, 0x38 for one that no entry admits. -/
def State.pageRefuses (s : State) (master page : Nat) (right : Right) : Option Nat :=
  if pageKind page = .empty then some 0x37 else if s.pageAdmits master page right then none else some 0x38

/-- The base address of the register space. -/
def regBase : Nat := 0x300000000000

/-- The record of a refused register access. -/
def State.pageRefused (s : State) (master page off cls : Nat) : State :=
  s.record { s.mkRec cls 0xB with addr := regBase + page * 4096 + off, syndrome := master }

/-- The word of a register as a master reads it with one access that covers the words at `offs`: reading the lowest word of a register wider than 4 bytes latches it; other words come from the master's latch if it
holds one (R412). -/
def State.readWord (s : State) (master page off : Nat) (lowest : Bool) : Nat × State :=
  match s.regAt page off with
  | none => (0, s.blkErr page 3)
  | some (base, size) =>
    let v := s.regValue master page base
    let key := wordKey page base
    let old := s.regs.latches.find? (fun l => decide (l.master = master ∧ l.addr = key))
    if size ≤ 4 then (v % 2 ^ 32, s)
    else if off = base ∨ lowest then
      (v / 2 ^ (8 * (off - base)) % 2 ^ 32, { s with regs := { s.regs with
        latches := s.regs.latches.filter (fun l => decide (l.master ≠ master ∨ l.addr ≠ key)) ++ [⟨master, key, v⟩] } })
    else ((match old with | some l => l.value | none => v) / 2 ^ (8 * (off - base)) % 2 ^ 32, s)

/-- A read of `len` bytes of the register space, admitted: the bytes and the state after it. An access of another size or alignment reads 0 and sets BLK_ERR[3]. -/
def State.readRegs (s : State) (master page off len : Nat) : List Byte × State :=
  match pageKind page with
  | .imem c u => (if (len = 4 ∨ len = 8) ∧ off % len = 0 then tbytes (s.core c).imem (u * 4096 + off) len else List.replicate len 0,
      if (len = 4 ∨ len = 8) ∧ off % len = 0 then s else s.blkErr page 3)
  | _ =>
    if len = 4 ∧ off % 4 = 0 then (let r := s.readWord master page off false; (leBytes 4 r.1, r.2))
    else if len = 8 ∧ off % 8 = 0 then
      let a := s.readWord master page off false
      let same := decide (((s.regAt page off).map (·.1)) = ((s.regAt page (off + 4)).map (·.1)) ∧ (s.regAt page off).map (·.1) = some off)
      let b := a.2.readWord master page (off + 4) same
      (leBytes 4 a.1 ++ leBytes 4 b.1, b.2)
    else (List.replicate len 0, s.blkErr page 3)

/-- The free values that a read may show are drawn once it is made. -/
def State.readDrawn (s : State) (page off : Nat) : State :=
  match pageKind page with
  | .power => if 0xC0 ≤ off ∧ off < 0xC8 then s.drawn 1 else s
  | .cpe .. => if 0x80 ≤ off ∧ off < 0x88 then s.drawn 1 else s
  | _ => s

/-- A read of the register space with its checks: none where it is refused, with the class. -/
def State.regRead (s : State) (master addr len : Nat) : Except Nat (List Byte) × State :=
  let page := addr / 4096 % 16384
  let off := addr % 4096
  match s.pageRefuses master page .r with
  | some cls => (.error cls, s.pageRefused master page off cls)
  | none => let r := s.readRegs master page off len; (.ok r.1, r.2.readDrawn page off)

end Sys2Proof.Machine
end

