-- ==== Sys2Proof/Machine/Registers.lean ====
section
/-! DEFINITION. Writes to the register space: every register by its access code and restrictions, WO registers that collect their words, context commands (R7, R126, R172, R284, R341, R354, R361, R411 to R416). -/

namespace Sys2Proof.Machine

/-- The state that a meaning answers with. -/
def nextOf (o : Host.Outcome State Fault Refusal) (s : State) : State := match o with | .next t => t | _ => s

/-! ### Registers written as a whole -/

/-- The words that a write brings to a register: pairs of an offset from its base, in bytes, and a value. -/
abbrev Words := List (Nat × Nat)

/-- A value with some of its 32-bit words replaced. -/
def mergeWords (old : Nat) (ws : Words) : Nat := ws.foldl (fun v w => setBits v (8 * w.1 + 31) (8 * w.1) w.2) old
/-- Whether a write covers the word at an offset. -/
def covers (ws : Words) (o : Nat) : Bool := ws.any (fun w => decide (w.1 = o))
/-- The word written at an offset, 0 if the write does not cover it. -/
def wordOf (ws : Words) (o : Nat) : Nat := match ws.find? (fun w => decide (w.1 = o)) with | some w => w.2 | none => 0

/-- A write to a WO register wider than a word that acts: words but the lowest are collected for the master; a write that covers the lowest acts with the words collected since the master's last one (R412). -/
def State.collectWO (s : State) (master page base : Nat) (ws : Words) (act : Nat → State → State) : State :=
  let k := wordKey page base
  let keep := fun (x : Nat × Nat × Nat) => !(decide (x.1 = master) && ws.any (fun w => decide (w.1 ≠ 0 ∧ k + w.1 = x.2.1)))
  let new := (ws.filter (fun w => decide (w.1 ≠ 0))).map (fun w => (master, k + w.1, w.2))
  let s : State := { s with regs := { s.regs with collect := s.regs.collect.filter keep ++ new } }
  if !covers ws 0 then s
  else
    let mine := s.regs.collect.filter (fun x => decide (x.1 = master ∧ k ≤ x.2.1 ∧ x.2.1 < k + 64))
    let v := mergeWords (wordOf ws 0) (mine.map (fun x => (x.2.1 - k, x.2.2)))
    act v { s with regs := { s.regs with collect := s.regs.collect.filter (fun x => !(decide (x.1 = master ∧ k ≤ x.2.1 ∧ x.2.1 < k + 64))) } }

/-! ### Header and access tables -/

/-- A write to a header register (Table 18.2). -/
def State.writeHeader (s : State) (master page base : Nat) (ws : Words) : State :=
  match base with
  | 0x10 => s.ctrlWrite master page (wordOf ws 0)
  | 0x18 => s.modBlk page (fun b => { b with err := b.err - (b.err &&& wordOf ws 0) })
  | 0x1C => s.modBlk page (fun b => { b with mask := wordOf ws 0 % 65536 })
  | 0x20 => if bitOf (wordOf ws 0) 0 then s.commitWrite master page else s
  | 0x24 => s.lockWrite master page (wordOf ws 0 % 65536)
  | 0x30 => s.modBlk page (fun b => { b with scratch := mergeWords b.scratch ws })
  | _ => s

/-- The bits of an access-table entry that Table 14.9 defines. -/
def aclMask : Nat := 2 ^ 45 - 1 + (2 ^ 64 - 1) * 2 ^ 48

/-- A write to an access-table register (R354): ACL_SEL is live; ACL_ENTRY is the Bureau's alone and goes to the shadow of the selected entry. -/
def State.writeAcl (s : State) (master page base : Nat) (ws : Words) : State :=
  match base with
  | 0x40 => s.modBlk page (fun b => { b with aclSel := wordOf ws 0 % (if page = 3 then 2048 else 256) })
  | 0x50 =>
    if master ≠ 0xF000 then s.blkErr page 5
    else if s.lockedGroup page (aclGroup (pageKind page)) then s.blkErr page 1
    else
      let key := s.aclSelected page
      { s with regs := { s.regs with aclShadow := tset s.regs.aclShadow key (mergeWords (s.aclShadowAt key) ws &&& aclMask) } }
  | _ => s

/-! ### Context registers -/

/-- A command written to CTX_CMD (R284, Table 12.11): its opcode, tag and seven arguments; an opcode that the image does not implement completes with 0x43 (R364). -/
def State.runCommand (s : State) (master n v : Nat) : State :=
  let tag := bitsOf v 15 8
  let args := (List.range 7).map (fun i => bitsOf v (64 * i + 127) (64 * i + 64))
  match v % 256 with
  | 0x01 => nextOf (execLoadBegin master n tag args s) s
  | 0x02 => nextOf (execLoad master n tag args s) s
  | 0x03 => nextOf (execRestore master n tag args s) s
  | 0x04 => nextOf (execUnload master n tag args s) s
  | 0x05 => nextOf (execResume master n tag args s) s
  | 0x06 => nextOf (execYield master n tag args s) s
  | 0x07 => nextOf (execRestart master n tag args s) s
  | 0x08 => nextOf (execEvict master n tag args s) s
  | 0x09 => nextOf (execJoin master n tag args s) s
  | 0x0A => nextOf (execLeave master n tag args s) s
  | 0x0B => nextOf (execVerOpen master n tag args s) s
  | 0x0C => nextOf (execVerPublish master n tag args s) s
  | 0x0D => nextOf (execEvalBind master n tag args s) s
  | 0x0E => nextOf (execEvalRelease master n tag args s) s
  | op => s.command master n op tag args (fun s => s.cmdDone n 0x43 none)

/-- A write that only the functions of CTX_STEP may make, while every queue of the context is stopped (R126, R341). -/
def State.stoppedWrite (s : State) (master n : Nat) (f : State → State) : State :=
  if !s.mayCommand n master then s.blkErr (ctxPage n) 5
  else if !s.queuesStopped n then s.blkErr (ctxPage n) 1
  else f s

/-- A local device address lies in a frame of a context's partition. -/
def State.inPartition (s : State) (n a : Nat) : Bool :=
  match s.decodeAddr a with
  | some (d, _, o) => decide (d = s.cab) && (s.partition n).contains (frameOf o)
  | none => false

/-- CTX_DIGLOG (Table 13.10): lg_entries of 10 to 24, and a 64-byte aligned base in the partition; a field outside its range keeps its value. -/
def State.writeDiglog (s : State) (n : Nat) (ws : Words) : State :=
  let p := ctxPage n
  let old := s.regs.word p 0x840 + atBit (s.regs.word p 0x844) 32
  let new := mergeWords old ws
  let lgOk := !covers ws 4 || decide (10 ≤ bitsOf new 55 48 ∧ bitsOf new 55 48 ≤ 24)
  let baseOk := decide (bitsOf new 47 0 = bitsOf old 47 0) || (decide (new % 64 = 0) && s.inPartition n (bitsOf new 47 0))
  let v := atBit (b2n (bitOf new 63)) 63 + atBit (bitsOf (if lgOk then new else old) 55 48) 48 + bitsOf (if baseOk then new else old) 47 0
  let s : State := { s with regs := (s.regs.setWord p 0x840 (v % 2 ^ 32)).setWord p 0x844 (v / 2 ^ 32) }
  if lgOk ∧ baseOk then s else s.blkErr p 0

/-- A ring of 2^lg KiB from a base lies wholly in allocated frames of the partition that belong to no version slot (R361). -/
def State.ringOk (s : State) (n base lg : Nat) : Bool :=
  let taken := s.regions.flatMap (fun r => (List.range 3).flatMap (fun k => if r.2.slot k = 0 then [] else r.2.frames k))
  (List.range (ceilDiv (2 ^ lg) 4)).all (fun i =>
    match s.decodeAddr (base + 4096 * i) with
    | some (d, _, o) => decide (d = s.cab) && (s.partition n).contains (frameOf o) && !taken.contains (frameOf o)
    | none => false)

/-- CTX_RCPT base and lg_entries (R361): 4 KiB aligned, lg_entries 0 or 4 to 16, and a ring that R361 admits; else the fields keep their values. -/
def State.writeRcpt (s : State) (n : Nat) (ws : Words) : State :=
  let p := ctxPage n
  let new := mergeWords (s.regs.word p 0x880 + atBit (s.regs.word p 0x884) 32) ws
  let base := bitsOf new 47 0
  let lg := bitsOf new 55 48
  if base % 4096 = 0 ∧ (lg = 0 ∨ (4 ≤ lg ∧ lg ≤ 16 ∧ s.ringOk n base lg)) then
    { s with regs := (s.regs.setWord p 0x880 (base % 2 ^ 32)).setWord p 0x884 (base / 2 ^ 32 + atBit lg 16) }
  else s.blkErr p 0

/-- A write to a register of a context page. -/
def State.writeCtx (s : State) (master n base : Nat) (ws : Words) : State :=
  let p := ctxPage n
  if 0x400 ≤ base ∧ base < 0x420 then
    s.stoppedWrite master n (fun s => s.modCtx n (fun c =>
      let i := (base - 0x400) / 4
      { c with seed := setBits c.seed (32 * i + 31) (32 * i) (wordOf ws 0), seedMask := c.seedMask ||| 2 ^ i }))
  else if 0x600 ≤ base ∧ base < 0x700 then
    (if covers ws 8 then nextOf (execCollectiveQueueTail master n ((base - 0x600) / 16) (wordOf ws 8 / 65536) s) s else s)
  else match base with
    | 0x40 => s.modCtx n (fun c => { c with notify := c.notify - (c.notify &&& bitsOf (wordOf ws 0) 19 16) })
    | 0x80 => s.collectWO master p base ws (fun v s => nextOf (execCtxDoorbell master n (BitVec.ofNat 64 v) s) s)
    | 0x100 => s.collectWO master p base ws (fun v s => s.runCommand master n v)
    | 0x320 => s.stoppedWrite master n (fun s => s.modCtx n (fun c => { c with st := { c.st with step := mergeWords c.st.step ws } }))
    | 0x338 => s.collectWO master p base ws (fun v s => nextOf (execCtxSig master n (BitVec.ofNat 64 v) s) s)
    | 0x3C0 => if master = 0xF000 then s.modCtx n (fun c => { c with job := { c.job with gen := wordOf ws 0 % 65536 } }) else s
    | 0x3D0 => if covers ws 4 then s.writeStored master p 0x3D4 (wordOf ws 4) else s
    | 0x708 =>
      if s.lecternWrites master then
        (s.modCtx n (fun c =>
          let i := s.regs.field p 0x700 11 0
          match tfind c.shards i with
          | some h => { c with shards := tset c.shards i { h with flags := wordOf ws 0 % 32 } }
          | none => c)).external n
      else s
    | 0x710 =>
      if master = 0xF000 then s.modCtx n (fun c =>
        let i := s.regs.field p 0x700 11 0
        match tfind c.shards i with
        | some h => { c with shards := tset c.shards i { h with base := mergeWords h.base ws } }
        | none => c)
      else s
    | 0x840 => s.stoppedWrite master n (fun s => s.writeDiglog n ws)
    | 0x880 =>
      let s := if covers ws 0 ∨ covers ws 4 then s.stoppedWrite master n (fun s => s.writeRcpt n (ws.filter (fun w => decide (w.1 < 8)))) else s
      if covers ws 12 then nextOf (execCtxRcptReadAdvance master n (wordOf ws 12) s) s else s
    | _ => ws.foldl (fun s w => s.writeStored master p (base + w.1) w.2) s

/-! ### Other registers that act -/

/-- A forward entry is written by the Bureau (Table 8.5). -/
def State.writeFwd (s : State) (master d n : Nat) (ws : Words) : State :=
  if master ≠ 0xF000 then s
  else
    let v := mergeWords (s.fwdValue d n) ws
    if bitOf v 31 then { s with fwds := tset s.fwds (d * 1024 + n) { tgtCtr := bitsOf v 30 13, tgtCtx := bitsOf v 12 7, tgtDev := v % 128 } }
    else { s with fwds := tdel s.fwds (d * 1024 + n) }

/-- A write to a watch entry (Table 5.10): its live fields, and the W1C bit that clears its statistics. -/
def State.writeWatch (s : State) (master page base : Nat) (ws : Words) : State :=
  let s := (ws.filter (fun w => decide (w.1 < 12))).foldl (fun s w => s.writeStored master page (base + w.1) w.2) s
  if !covers ws 12 ∨ !bitOf (wordOf ws 12) 0 then s
  else if s.lockedGroup page 1 then s.blkErr page 1
  else { s with regs := ((s.regs.setWord page (base + 12) 0).setWord page (base + 16) 0).setWord page (base + 20) 0 }

/-- LNK_CTRL (Table 11.7): enable goes to the shadow; retrain acts. -/
def State.writeLnkCtrl (s : State) (master l v : Nat) : State :=
  let s := s.writeStored master (linkPage l) 0x80 v
  if bitOf v 1 then nextOf (execLnkCtrlRetrain master l s) s else s

/-- NET_CONFLICT.valid (Table 7.10): writing 1 clears valid and count. -/
def State.clearConflict (s : State) (d : Nat) (ws : Words) : State :=
  if bitOf (wordOf ws 4) 31 then { s with net := { s.net with conflict := tput 0 s.net.conflict d (tget 0 s.net.conflict d % 2 ^ 52) } } else s

/-- A write, admitted, of some words of the register that begins at an offset of a page. A write to an RO field is ignored. -/
def State.writeReg (s : State) (master page base : Nat) (ws : Words) : State :=
  let k := pageKind page
  if hasHeader page ∧ base < 0x40 then s.writeHeader master page base ws
  else if pageAcl k ∧ base < 0x70 then s.writeAcl master page base ws
  else match k with
    | .ctx n => s.writeCtx master n base ws
    | .bureau =>
      if base = 0x130 then s.writeFenceCtrl master (wordOf ws 0)
      else if base = 0x328 then nextOf (execBuReset master (BitVec.ofNat 32 (wordOf ws 0)) s) s
      else ws.foldl (fun s w => s.writeStored master page (base + w.1) w.2) s
    | .power => if base = 0x80 then s.writeCap master (wordOf ws 0) else s
    | .router d => if base = 0xC0 then s.clearConflict d ws else ws.foldl (fun s w => s.writeStored master page (base + w.1) w.2) s
    | .sync d p =>
      if p = 0 ∧ base = 0x100 then nextOf (execSyncDbgSel master d (wordOf ws 0 % 16384) s) s
      else if p = 0 ∧ base < 0x800 then s
      else s.writeFwd master d ((p * 4096 + base - 0x800) / 8) ws
    | .core _ => if 0x100 ≤ base ∧ base < 0x300 then s.writeWatch master page base ws else ws.foldl (fun s w => s.writeStored master page (base + w.1) w.2) s
    | .link l => if base = 0x80 then s.writeLnkCtrl master l (wordOf ws 0) else s
    | _ => ws.foldl (fun s w => s.writeStored master page (base + w.1) w.2) s

/-- A write to instruction memory (R414): plain bytes, ignored with BLK_ERR[1] in the window of a loaded context whose queues run. -/
def State.writeImem (s : State) (c u off : Nat) (bytes : List Byte) : State :=
  let a := u * 4096 + off
  let busy := s.loadedCtxs.any (fun n =>
    let w := tget (0, 0) (s.ctx n).windows c
    !s.queuesStopped n && decide (w.1 < a + bytes.length ∧ a < w.1 + w.2))
  if busy then s.blkErr (corePage c) 1
  else s.setCore c { s.core c with imem := tputBytes (s.core c).imem a bytes }

/-- A write of one word of a page: to the register that holds it, or an access error where there is none. -/
def State.writeOne (s : State) (master page off w : Nat) : State :=
  match s.regAt page off with
  | none => s.blkErr page 3
  | some (b, _) => s.writeReg master page b [(off - b, w)]

/-- A write, admitted, of bytes at an offset of a populated page (R412, R413). -/
def State.writeRegs (s : State) (master page off : Nat) (bytes : List Byte) : State :=
  let n := bytes.length
  let v := leNat bytes
  if ¬ ((n = 4 ∨ n = 8) ∧ off % n = 0) then s.blkErr page 3
  else match pageKind page with
    | .imem c u => s.writeImem c u off bytes
    | _ =>
      if n = 4 then s.writeOne master page off v
      else match s.regAt page off, s.regAt page (off + 4) with
        | some (b, z), some (b', _) =>
          if b = b' ∧ z > 4 then s.writeReg master page b [(off - b, v % 2 ^ 32), (off + 4 - b, v / 2 ^ 32)]
          else (s.writeOne master page off (v % 2 ^ 32)).writeOne master page (off + 4) (v / 2 ^ 32)
        | _, _ => (s.writeOne master page off (v % 2 ^ 32)).writeOne master page (off + 4) (v / 2 ^ 32)

/-- A write to the register space with its checks: none where it is carried out, else the class of the refusal. -/
def State.regWrite (s : State) (master addr : Nat) (bytes : List Byte) : Option Nat × State :=
  let page := addr / 4096 % 16384
  let off := addr % 4096
  match s.pageRefuses master page .w with
  | some cls => (some cls, s.pageRefused master page off cls)
  | none => (none, s.writeRegs master page off bytes)

/-- An address lies in the register space. -/
def inRegs (addr : Nat) : Bool := decide (regBase ≤ addr ∧ addr < regBase + 16384 * 4096)

/-- REGISTER_WRITE (R7): a write by a master; the Bureau is needed to serve it. -/
def execRegisterWrite (master addr : Nat) (bytes : List Byte) (s : State) : Host.Outcome State Fault Refusal :=
  .next (if !s.root.bureauUp ∨ !inRegs addr ∨ s.hostShut master then s else (s.regWrite master addr bytes).2)

/-- REGISTER_READ_LATCH (R412): a read by a master; a host function gets its data in a completion. -/
def execRegisterReadLatch (master addr len : Nat) (s : State) : Host.Outcome State Fault Refusal :=
  .next (if !s.root.bureauUp ∨ !inRegs addr ∨ s.hostShut master then s
    else
      let r := s.regRead master addr len
      if 0x8000 ≤ master ∧ master < 0x8040 then
        match r.1 with
        | .ok bs => r.2.hostAnswer (master - 0x8000) 0 bs
        | .error c => r.2.hostRefused (master - 0x8000) c true
      else r.2)

end Sys2Proof.Machine
end

