-- ==== Sys2Proof/Machine/Mgmt.lean ====
section
/-! DEFINITION. Firmware update and recovery (R347, R364), management over MCTP (R365), attestation (R349), the Lectern (R378 to R381) and the JTAG port (R439). The bodies of the DMTF messages
are those of the DMTF specifications that the manual names (PRESUMED, assumption log 20). -/

namespace Sys2Proof.Machine

/-! ### Firmware update (R347, R364) -/

/-- The area of the image that is not running. -/
def State.idleArea (s : State) : Nat := 1 - s.root.boot.image % 2
/-- Image version of an image's header, in the 56 bits of a record's syndrome. -/
def imageVersion (b : List Byte) : Nat := leNat ((b.drop 8).take 8)

/-- The result of a firmware update: a completion code and the image's version, in a record of class 0x51 and in the answer. -/
def State.updateResult (s : State) (code : Nat) (b : List Byte) : State :=
  (s.record { s.mkRec 0x51 0 with syndrome := code + imageVersion b % 2 ^ 56 * 256 }).emit (.mctp 0x15 0x17 [BitVec.ofNat 8 code])

/-- A firmware update that failed. The code of the failure is a free value other than 0. -/
def State.updateFailed (s : State) (b : List Byte) : State := (s.updateResult (1 + s.freeVal 255) b).drawn 1

/-- FIRMWARE_UPDATE (R347, R364): the image that is not running is written and verified under R345 before success is reported; it runs from the next module reset. An image of another host interface major version
(this one's is 1) is refused without the major-change flag. -/
def execFirmwareUpdate (bytes : List Byte) (hifMajor : Nat) (majorChange : Bool) (s : State) : Host.Outcome State Fault Refusal :=
  .next (if !s.root.bureauUp then s
    else
      if (hifMajor ≠ 1 ∧ !majorChange) ∨ imageRoom < bytes.length then s.updateFailed bytes
      else
        let s : State := { s with root := { s.root with flash := tputBytes s.root.flash (imageBase s.idleArea) bytes } }
        if s.areaFault s.idleArea = 0 then s.updateResult 0 bytes else s.updateFailed bytes)

/-- RECOVERY_IMAGE_RECEIVE (R347): the ROM verifies an image before it writes it, to area A, and then resets. -/
def execRecoveryImageReceive (bytes : List Byte) (s : State) : Host.Outcome State Fault Refusal :=
  .next (if !s.root.recovery ∨ imageRoom < bytes.length ∨ imageFault s.root.fuses bytes ≠ 0 then s
    else (({ s with root := { s.root with flash := tputBytes s.root.flash (imageBase 0) bytes } } : State)).moduleReset)

/-! ### MCTP control and PLDM (R365) -/

/-- Bytes of numbers. -/
def bytesOf (l : List Nat) : List Byte := l.map (BitVec.ofNat 8)
/-- Byte `i` of a message. -/
def byteAt (d : List Byte) (i : Nat) : Nat := (d.getD i 0).toNat

/-- MCTP_CONTROL (R365, DSP0236): endpoint ID assignment and discovery. The module has no static endpoint ID; a command that it does not support answers 0x05. -/
def execMctpControl (cmd : Nat) (data : List Byte) (s : State) : Host.Outcome State Fault Refusal :=
  let answer := fun (s : State) (l : List Nat) => s.emit (.mctp 0 cmd (bytesOf l))
  .next (if !s.root.standby then s
    else match cmd with
    | 0x01 =>
      let op := byteAt data 0 % 4
      let eid := byteAt data 1
      if op = 3 then answer { s with mgmt := { s.mgmt with discovered := true } } [0, 0, s.mgmt.eid, 0]
      else if op = 2 ∨ eid < 8 ∨ eid = 255 then answer s [2]
      else answer { s with mgmt := { s.mgmt with eid := eid, discovered := true } } [0, 0, eid, 0]
    | 0x02 => answer s [0, s.mgmt.eid, 0, 0]
    | 0x05 => answer s [0, 3, 1, 5, 0x7E]
    | 0x0B => answer { s with mgmt := { s.mgmt with discovered := false } } [0]
    | 0x0C => if s.mgmt.discovered then s else answer s [0]
    | _ => answer s [5])

/-- The PLDM types that the Bureau supports (Table 15.2). -/
def pldmTypes : Nat := 0x35
/-- The PLDM commands of a type that the Bureau answers, as a mask. -/
def pldmCommands : Nat → Nat
  | 0 => 0x3E
  | 2 => 2 ^ 4 + 2 ^ 5 + 2 ^ 0x11 + 2 ^ 0x21
  | 4 => 0x06
  | _ => 0

/-- PLDM_BASE (R365, DSP0240): terminus ID, versions (free values: the manual names none), types and commands. -/
def execPldmBase (cmd : Nat) (data : List Byte) (s : State) : Host.Outcome State Fault Refusal :=
  let answer := fun (s : State) (l : List Byte) => s.emit (.mctp 0x10 cmd l)
  .next (if !s.root.bureauUp then s
    else match cmd with
    | 0x01 => answer { s with mgmt := { s.mgmt with tid := byteAt data 0 } } [0]
    | 0x02 => answer s (bytesOf [0, s.mgmt.tid])
    | 0x03 =>
      if !bitOf pldmTypes (byteAt data 5) then answer s (bytesOf [0x83])
      else
        let v := leBytes 4 (s.freeVal (2 ^ 32))
        (answer s (bytesOf [0, 0, 0, 0, 0, 5] ++ v ++ leBytes 4 (crc32 v))).drawn 1
    | 0x04 => answer s (0 :: leBytes 8 pldmTypes)
    | 0x05 => if !bitOf pldmTypes (byteAt data 0) then answer s (bytesOf [0x83]) else answer s (0 :: leBytes 32 (pldmCommands (byteAt data 0)))
    | _ => answer s (bytesOf [5]))

/-- The thermal state sensor: 1 normal, 2 throttled, 3 tripped. -/
def State.thermalState (s : State) : Nat := if s.power.tripped then 3 else if s.power.throttled.isEmpty then 1 else 2

/-- PLDM_MONITORING (R365, DSP0248): numeric sensors 0 to 86 are the temperature sensors of Table 15.6b, 87 the input power and 88 the input voltage; state sensors 0x100 to 0x102 are device ready, thermal
state and Lectern open. -/
def execPldmMonitoring (cmd : Nat) (data : List Byte) (s : State) : Host.Outcome State Fault Refusal :=
  let answer := fun (s : State) (l : List Byte) => s.emit (.mctp 0x12 cmd l)
  let id := byteAt data 0 + 256 * byteAt data 1
  let number := fun (v : Nat) => bytesOf [0, 3, if id < 87 ∧ s.power.excluded.contains id then 5 else 0, 0, 1, 1, 1] ++ leBytes 2 v
  let states := fun (v : Nat) => bytesOf [0, 1, 0, v, v, v]
  .next (if !s.root.bureauUp then s
    else match cmd with
    | 0x04 => answer { s with mgmt := { s.mgmt with evtEid := byteAt data 2 } } [0]
    | 0x05 => answer s (bytesOf [0, 0, s.mgmt.evtEid])
    | 0x11 =>
      if id < 87 then answer s (number (tget 0 s.power.temps id))
      else if id = 87 then answer s (number (s.power.watts % 65536))
      else if id = 88 then answer s (number (s.power.mv % 65536))
      else answer s (bytesOf [0x80])
    | 0x21 =>
      if id = 0x100 then answer s (states (1 + b2n s.root.ready))
      else if id = 0x101 then answer s (states s.thermalState)
      else if id = 0x102 then answer s (states (1 + b2n s.mgmt.lecOpen))
      else answer s (bytesOf [0x80])
    | _ => answer s (bytesOf [5]))

/-- The ordering code CX-T20-M in ASCII. -/
def orderingCode : List Byte := bytesOf [0x43, 0x58, 0x2D, 0x54, 0x32, 0x30, 0x2D, 0x4D]
/-- The FRU record: ordering code, serial, stepping and device identity. -/
def State.fruRecord (s : State) : List Byte :=
  bytesOf [1, 0, 1, 4, 1, 3, 8] ++ orderingCode ++ bytesOf [4, 8] ++ leBytes 8 s.root.fuses.serial ++ bytesOf [10, 1, s.stepping, 0xFE, 16] ++ leBytes 16 s.root.devid

/-- PLDM_FRU_DATA (R365, DSP0257). -/
def execPldmFruData (cmd : Nat) (_data : List Byte) (s : State) : Host.Outcome State Fault Refusal :=
  let answer := fun (l : List Byte) => s.emit (.mctp 0x14 cmd l)
  .next (if !s.root.bureauUp then s
    else match cmd with
    | 0x01 => answer (bytesOf [0, 1, 0] ++ leBytes 4 s.fruRecord.length ++ leBytes 4 s.fruRecord.length ++ bytesOf [1, 0, 1, 0] ++ leBytes 4 (crc32 s.fruRecord))
    | 0x02 => answer (bytesOf [0, 0, 0, 0, 0, 5] ++ s.fruRecord)
    | _ => answer (bytesOf [5]))

/-! ### Attestation (R348, R349, Tables 14.5 and 14.6; DSP0274) -/

/-- An SPDM message: version, code, two parameters, payload. -/
def spdmMsg (ver code p1 p2 : Nat) (l : List Byte) : List Byte := bytesOf [ver, code, p1, p2] ++ l
/-- Answer an SPDM request. -/
def State.spdm (s : State) (m : List Byte) : State := s.emit (.mctp 5 (byteAt m 1) m)
/-- The ERROR answer with a code: 0x01 invalid request, 0x04 unexpected request, 0x41 version mismatch. -/
def State.spdmError (s : State) (code : Nat) : State := s.spdm (spdmMsg (if s.mgmt.spdmVersion = 0 then 0x10 else s.mgmt.spdmVersion) 0x7F code 0 [])

/-- GET_VERSION (R349): versions 1.1 and 1.2; the connection begins again. -/
def execGetVersion (s : State) : Host.Outcome State Fault Refusal :=
  let a := spdmMsg 0x10 0x04 0 0 (bytesOf [0, 2, 0, 0x11, 0, 0x12])
  .next (if !s.root.bureauUp then s
    else ({ s with mgmt := { s.mgmt with
      spdmVersion := 0x10, spdmCaps := false, spdmAlgs := false, spdmVca := spdmMsg 0x10 0x84 0 0 [] ++ a, spdmB := [], spdmL := [] } }).spdm a)

/-- GET_CAPABILITIES (R349): certificates, challenge, and fresh measurements with signature (Table 14.5). -/
def execGetCapabilities (version : Nat) (data : List Byte) (s : State) : Host.Outcome State Fault Refusal :=
  .next (if !s.root.bureauUp then s
    else if s.mgmt.spdmVersion = 0 ∨ s.mgmt.spdmAlgs then s.spdmError 0x04
    else if version ≠ 0x11 ∧ version ≠ 0x12 then s.spdmError 0x41
    else
      let a := spdmMsg version 0x61 0 0 (bytesOf [0, 0, 0, 0] ++ leBytes 4 0x36 ++ (if version = 0x12 then leBytes 4 0x1000 ++ leBytes 4 0x1000 else []))
      ({ s with mgmt := { s.mgmt with spdmVersion := version, spdmCaps := true, spdmVca := s.mgmt.spdmVca ++ spdmMsg version 0xE1 0 0 data ++ a } }).spdm a)

/-- NEGOTIATE_ALGORITHMS (R349): TPM_ALG_RSASSA_3072 and TPM_ALG_SHA_256, each selected where the requester offers it. -/
def execNegotiateAlgorithms (data : List Byte) (s : State) : Host.Outcome State Fault Refusal :=
  .next (if !s.root.bureauUp then s
    else if !s.mgmt.spdmCaps ∨ s.mgmt.spdmAlgs then s.spdmError 0x04
    else
      let asym := leNat ((data.drop 4).take 4)
      let hash := leNat ((data.drop 8).take 4)
      if !bitOf asym 2 ∨ !bitOf hash 0 then s.spdmError 0x01
      else
        let a := spdmMsg s.mgmt.spdmVersion 0x63 0 0 (leBytes 2 36 ++ bytesOf [1, 0] ++ leBytes 4 2 ++ leBytes 4 4 ++ leBytes 4 1 ++ List.replicate 12 0 ++ bytesOf [0, 0, 0, 0])
        ({ s with mgmt := { s.mgmt with spdmAlgs := true, spdmVca := s.mgmt.spdmVca ++ spdmMsg s.mgmt.spdmVersion 0xE3 0 0 data ++ a } }).spdm a)

/-- A request that needs the negotiations done. -/
def State.spdmReady (s : State) (f : State → State) : State := if !s.root.bureauUp then s else if !s.mgmt.spdmAlgs then s.spdmError 0x04 else f s

/-- GET_DIGESTS (R349): slot 0 only. -/
def execGetDigests (s : State) : Host.Outcome State Fault Refusal :=
  .next (s.spdmReady (fun s =>
    let a := spdmMsg s.mgmt.spdmVersion 0x01 0 1 (sha256 s.root.flashChain)
    ({ s with mgmt := { s.mgmt with spdmB := s.mgmt.spdmB ++ spdmMsg s.mgmt.spdmVersion 0x81 0 0 [] ++ a } }).spdm a))

/-- GET_CERTIFICATE (R349): a portion of the chain of slot 0, which the persistent area of the flash holds. -/
def execGetCertificate (slot off len : Nat) (s : State) : Host.Outcome State Fault Refusal :=
  .next (s.spdmReady (fun s =>
    if slot ≠ 0 ∨ s.root.flashChain.length ≤ off then s.spdmError 0x01
    else
      let part := (s.root.flashChain.drop off).take len
      let a := spdmMsg s.mgmt.spdmVersion 0x02 0 0 (leBytes 2 part.length ++ leBytes 2 (s.root.flashChain.length - off - part.length) ++ part)
      ({ s with mgmt := { s.mgmt with spdmB := s.mgmt.spdmB ++ spdmMsg s.mgmt.spdmVersion 0x82 0 0 (leBytes 2 off ++ leBytes 2 len) ++ a } }).spdm a))

/-- The security state word (Table 14.6, index 4). -/
def State.securityWord (s : State) : Nat :=
  b2n s.regs.strictActive + 2 * b2n s.regs.clearSinceReset + 4 * b2n (bitOf (s.blk 1).locked 0) + 8 * b2n s.mgmt.lecOpened + 16 * b2n (decide (s.root.fuses.debugPolicy ≠ 0))

/-- The content of a measurement (Table 14.6). -/
def State.measurement (s : State) : Nat → List Byte
  | 1 => leBytes 32 (Config.romDigest s.root.b0)
  | 2 => s.root.boot.measurement ++ bytesOf [s.root.boot.image] ++ leBytes 8 s.root.boot.version
  | 3 => leBytes 8 s.root.fuses.svn ++ bytesOf [s.root.fuses.revoke]
  | 4 => leBytes 4 s.securityWord
  | 5 => sha256 (leBytes 16 s.root.flashFence)
  | _ => []

/-- A measurement block: index, specification 1, size, value type, value. -/
def State.measureBlock (s : State) (i : Nat) : List Byte :=
  let v := s.measurement i
  bytesOf [i, 1] ++ leBytes 2 (v.length + 3) ++ bytesOf [if i = 1 then 0 else if i = 2 then 1 else if i = 5 then 3 else 0x83] ++ leBytes 2 v.length ++ v

/-- The signature of a transcript under the attestation key: over its digest in version 1.1, and with the combined prefix of `context` in version 1.2. -/
def spdmSign (version : Nat) (context transcript : List Byte) : List Byte :=
  let pre := (List.replicate 4 ("dmtf-spdm-v1.2.*".toList.map (fun c => BitVec.ofNat 8 c.toNat))).flatten ++ List.replicate (36 - context.length) 0 ++ context
  let d := if version = 0x12 then sha256 (pre ++ sha256 transcript) else sha256 transcript
  beBytes 384 (Config.signature 1 (beNat d))

/-- Text as bytes. -/
def asciiBytes (t : String) : List Byte := t.toList.map (fun c => BitVec.ofNat 8 c.toNat)

/-- CHALLENGE (R349): the chain digest, a nonce, the measurement summary hash asked for (none, of the measurements of ROM and image, or of all), and the signature over the connection's messages. -/
def execChallenge (slot summary : Nat) (nonce : List Byte) (s : State) : Host.Outcome State Fault Refusal :=
  .next (s.spdmReady (fun s =>
    if slot ≠ 0 ∨ (summary ≠ 0 ∧ summary ≠ 1 ∧ summary ≠ 0xFF) ∨ nonce.length ≠ 32 then s.spdmError 0x01
    else
      let d := s.drawBytes 32
      let s : State := d.2
      let sum := if summary = 0 then [] else sha256 ((if summary = 1 then [1, 2] else [1, 2, 3, 4, 5]).flatMap s.measureBlock)
      let a := spdmMsg s.mgmt.spdmVersion 0x03 0 1 (sha256 s.root.flashChain ++ leBytes 32 d.1 ++ sum ++ leBytes 2 0)
      let m := s.mgmt.spdmVca ++ s.mgmt.spdmB ++ spdmMsg s.mgmt.spdmVersion 0x83 0 summary nonce ++ a
      ({ s with mgmt := { s.mgmt with spdmB := [] } }).spdm (a ++ spdmSign s.mgmt.spdmVersion (asciiBytes "responder-challenge_auth signing") m)))

/-- GET_MEASUREMENTS (R349, Table 14.6): index 0 the number of measurements, 0xFF all of them; state at the moment of the request; signed on request. -/
def execGetMeasurements (index slot : Nat) (sign : Bool) (nonce : List Byte) (s : State) : Host.Outcome State Fault Refusal :=
  .next (s.spdmReady (fun s =>
    if (5 < index ∧ index ≠ 0xFF) ∨ (sign ∧ (slot ≠ 0 ∨ nonce.length ≠ 32)) then s.spdmError 0x01
    else
      let d := s.drawBytes 32
      let s : State := d.2
      let v := s.mgmt.spdmVersion
      let is := if index = 0 then [] else if index = 0xFF then [1, 2, 3, 4, 5] else [index]
      let rec' := is.flatMap s.measureBlock
      let req := spdmMsg v 0xE0 (b2n sign) index (if sign then nonce ++ bytesOf [slot] else [])
      let a := spdmMsg v 0x60 (if index = 0 then 5 else 0) 0 (bytesOf [is.length] ++ leBytes 3 rec'.length ++ rec' ++ leBytes 32 d.1 ++ leBytes 2 0)
      let l := s.mgmt.spdmL ++ req ++ a
      if sign then
        ({ s with mgmt := { s.mgmt with spdmL := [] } }).spdm (a ++ spdmSign v (asciiBytes "responder-measurements signing") ((if v = 0x12 then s.mgmt.spdmVca else []) ++ l))
      else ({ s with mgmt := { s.mgmt with spdmL := l } }).spdm a))

/-! ### The Lectern (R378 to R381) -/

/-- Answer a Lectern message. -/
def State.lectern (s : State) (cmd : Nat) (l : List Byte) : State := s.emit (.mctp 0x7E cmd l)

/-- LECTERN_NONCE_REQUEST (R379): 8 bytes, valid for 60 s and for one token. -/
def execLecternNonceRequest (s : State) : Host.Outcome State Fault Refusal :=
  .next (if !s.root.bureauUp then s
    else
      let d := s.drawBytes 8
      let s : State := d.2
      ({ s with mgmt := { s.mgmt with lecNonce := some (d.1, s.now + 60000 * ms) } }).lectern 0 (leBytes 8 d.1))

/-- The parts of a token with its certificate and root key: scope, duration in s, debug key, certificate, root key, signature. -/
structure LecToken where
  scope : Nat
  duration : Nat
  key : List Byte
  cert : List Byte
  root : List Byte
  sig : List Byte
  deriving DecidableEq, Repr

def parseToken (b : List Byte) : LecToken :=
  { scope := byteAt b 0, duration := leNat ((b.drop 1).take 4), key := (b.drop 5).take 388, cert := (b.drop 393).take 384, root := (b.drop 777).take 388, sig := (b.drop 1165).take 384 }

/-- Whether a token opens the Lectern of this device now: debug_policy 0b01, a valid nonce, a root key that is fused and not revoked, a certificate and a signature that verify, and a duration of at most 86,400 s. -/
def State.tokenOk (s : State) (b : List Byte) : Bool :=
  let t := parseToken b
  decide (s.root.fuses.debugPolicy = 1 ∧ b.length = 1549 ∧ t.duration ≤ 86400) &&
    (List.range 4).any (fun i => s.root.fuses.rootOk i t.root) && rsaKeyVerify t.root t.key t.cert &&
    (match s.mgmt.lecNonce with
    | some n => decide (s.now < n.2) && rsaKeyVerify t.key (leBytes 8 n.1 ++ leBytes 16 s.root.devid ++ bytesOf [t.scope] ++ leBytes 4 t.duration) t.sig
    | none => false)

/-- LECTERN_UNLOCK (R379, R380): a good token opens the Lectern with its scope and duration and is recorded; a refused one is recorded with a reason, a free value. Either way the nonce is used up. -/
def execLecternUnlock (token : List Byte) (s : State) : Host.Outcome State Fault Refusal :=
  .next (if !s.root.bureauUp then s
    else
      let ok := s.tokenOk token
      let t := parseToken token
      let s : State := { s with mgmt := { s.mgmt with lecNonce := none } }
      if ok then
        ({ s with mgmt := { s.mgmt with lecOpen := true, lecScope := t.scope % 8, lecUntil := s.now + t.duration * 1000 * ms, lecOpened := true } }).record
          { s.mkRec 0x57 0 with syndrome := t.scope % 8 + t.duration * 2 ^ 32 }
      else (s.record { s.mkRec 0x58 0 with syndrome := s.freeVal 256 }).drawn 1)

/-- The Lectern closes; cores that it halted run on. -/
def State.lecternShut (s : State) : State :=
  { s with
    mgmt := { s.mgmt with lecOpen := false, lecScope := 0, lecUntil := 0 }
    cores := s.cores.map (fun (c : Nat × Core) => (c.1, { c.2 with halted := false, haltNext := false })) }

/-- LECTERN_CLOSE (R379). -/
def execLecternClose (s : State) : Host.Outcome State Fault Refusal := .next (if s.mgmt.lecOpen then s.lecternShut else s)

/-- LECTERN_EXPIRY (R379): the duration has passed; a Lectern that is open from reset has none. -/
def execLecternExpiry (s : State) : Host.Outcome State Fault Refusal :=
  .next (if !s.mgmt.lecOpen ∨ s.mgmt.lecUntil = 0 ∨ s.now < s.mgmt.lecUntil then s else s.lecternShut)

/-- An operation of the open Lectern that needs a bit of its scope: 0 read, 1 write, 2 halt. -/
def State.byLectern (s : State) (bit : Nat) (f : State → State) : State := if s.mgmt.lecOpen ∧ bitOf s.mgmt.lecScope bit then f s else s

/-- LECTERN_HALT (R381): the core stops at its next bundle boundary: at once where no slot of the present bundle has issued. -/
def execLecternHalt (core : Nat) (s : State) : Host.Outcome State Fault Refusal :=
  .next (s.byLectern 2 (fun s =>
    if 128 ≤ core ∨ !s.root.mainUp ∨ (s.core core).halted then s
    else s.setCore core { s.core core with halted := decide ((s.core core).issued = 0), haltNext := decide ((s.core core).issued ≠ 0) }))

/-- LECTERN_SINGLE_STEP (R381): a halted core goes on until the next bundle boundary. -/
def execLecternSingleStep (core : Nat) (s : State) : Host.Outcome State Fault Refusal :=
  .next (s.byLectern 2 (fun s =>
    let k := s.core core
    if 128 ≤ core ∨ !k.halted ∨ k.run.isNone ∨ k.ended then s else s.setCore core { k with halted := false, haltNext := true }))

/-- What a core holds, as bytes: 0 a scalar register, 1 a vector register, 2 an accumulator word, 3 a line of staging, 4 a line of instruction memory. -/
def Core.debugRead (k : Core) (what index : Nat) : List Byte :=
  match what with
  | 0 => leBytes 4 (tget 0 k.sregs index).toNat
  | 1 => tget zeroVreg k.vregs index
  | 2 => leBytes 4 (tget 0 k.accs index).toNat
  | 3 => tbytes k.staging (index * 64) 64
  | _ => tbytes k.imem (index * 64) 64

/-- A write to what a core holds; a register beyond its file is not written. -/
def Core.debugWrite (k : Core) (what index : Nat) (bytes : List Byte) : Core :=
  match what with
  | 0 => if index < 32 then { k with sregs := tput 0 k.sregs index (BitVec.ofNat 32 (leNat (bytes.take 4))) } else k
  | 1 => if index < 64 then { k with vregs := tput zeroVreg k.vregs index ((bytes ++ zeroVreg).take 512) } else k
  | 2 => if index < 4096 * 64 then { k with accs := tput 0 k.accs index (BitVec.ofNat 32 (leNat (bytes.take 4))) } else k
  | 3 => if index < 4 * 131072 / 64 then { k with staging := tputBytes k.staging (index * 64) (bytes.take 64) } else k
  | _ => if index < 262144 / 64 then { k with imem := tputBytes k.imem (index * 64) (bytes.take 64) } else k

/-- The decode and guard checks on a Lectern access to memory of this device, granule by granule, with its device addresses; the Lectern passes access tables and owners as the Bureau does. -/
def State.lecternCheck (s : State) (right : Right) (a n : Nat) : Option Nat :=
  ((pieces 4096 (n / 4096 + 2) a n).filterMap (fun p =>
    match s.decodeAddr p.1 with
    | none => some 0x37
    | some (d, k, o) => if d ≠ s.cab then some 0x37 else s.memCheck right 0xF000 0 k o p.2)).head?

/-- LECTERN_READ (R380, R103): a register, memory, a counter, a scratchpad line followed by its valid bit (zeros where it is not valid), what a core holds, or a flag word. -/
def execLecternRead (t : DbgTarget) (n : Nat) (s : State) : Host.Outcome State Fault Refusal :=
  .next (s.byLectern 0 (fun s => match t with
    | .reg a =>
      if !inRegs a then s
      else
        let r := s.regRead 0xF001 a n
        (match r.1 with | .ok bs => r.2.lectern 5 bs | .error _ => r.2.lectern 5 [])
    | .mem a =>
      match s.lecternCheck .r a n with
      | some cls => (s.record { s.mkRec cls 0xB with addr := a, syndrome := 0xF001 }).lectern 5 []
      | none =>
        if s.devBad a n then
          (match s.decodeAddr a with | some (_, k, o) => (s.containLine k o 0x18).lectern 5 [] | none => s)
        else s.lectern 5 (s.devRead a n)
    | .counter die index => s.lectern 5 (leBytes 8 (if die < 16 ∧ index < 16384 then (s.ctr (die * 16384 + index)).value else 0))
    | .spad c l => s.lectern 5 (match tfind (s.core c).spad l with | some bs => bs ++ [1] | none => zeroLine ++ [0])
    | .core c what i => s.lectern 5 ((s.core c).debugRead what i)
    | .flagWord x sh => s.lectern 5 (leBytes 4 (match tfind (s.ctx x).shards sh with | some h => h.flags | none => 0))))

/-- The contexts whose frames a run of device addresses touches. -/
def State.ownersOf (s : State) (a n : Nat) : List Nat :=
  ((pieces 4096 (n / 4096 + 2) a n).filterMap (fun p =>
    match s.decodeAddr p.1 with
    | some (_, _, o) => if feAlloc (s.frame (frameOf o)) then some (feOwner (s.frame (frameOf o))) else none
    | none => none)).dedup

/-- LECTERN_WRITE (R380, R24): a write to a context's memory, counters or flag words during a step is an external write of it. -/
def execLecternWrite (t : DbgTarget) (bytes : List Byte) (s : State) : Host.Outcome State Fault Refusal :=
  .next (s.byLectern 1 (fun s => match t with
    | .reg a => if inRegs a then (s.regWrite 0xF001 a bytes).2 else s
    | .mem a =>
      (match s.lecternCheck .w a bytes.length with
      | some cls => s.record { s.mkRec cls 0xB with addr := a, syndrome := 0xF001 }
      | none =>
        let ns := s.ownersOf a bytes.length
        ns.foldl State.external (s.devWrite (ns.headD 0) a bytes))
    | .counter die index =>
      let k := die * 16384 + index
      if 16 ≤ die ∨ 16384 ≤ index then s
      else match s.ctrOwner k with
        | none => s
        | some n =>
          let old := s.ctr k
          let v := leNat (bytes.take 8)
          ((s.setCtr k { old with value := v, lastMaster := 0xF001, lastTime := s.now }).notifyWaiters k old.value v
            ((s.waitersOn k).map (fun w => w.1 / 512 / 8)).dedup).external n
    | .spad c l => if c < 128 ∧ l < 98304 then s.setCore c { s.core c with spad := tset (s.core c).spad l ((bytes ++ zeroLine).take 64) } else s
    | .core c what i => if c < 128 then s.setCore c ((s.core c).debugWrite what i bytes) else s
    | .flagWord x sh =>
      (s.modCtx x (fun c => match tfind c.shards sh with
        | some h => { c with shards := tset c.shards sh { h with flags := leNat (bytes.take 4) % 32 } }
        | none => c)).external x))

/-! ### The JTAG port (R378, R439; IEEE 1149.1) -/

/-- Select a JTAG instruction: 0 IDCODE, 1 BYPASS, 2 SAMPLE/PRELOAD, 3 EXTEST. Leaving EXTEST ends the drive of the pins. -/
def State.jtagSelect (s : State) (ir : Nat) : State :=
  let t : State := { s with pins := { s.pins with jtagIr := ir } }
  if s.pins.jtagIr = 3 ∧ ir ≠ 3 then t.emit (.pin 3 false) else t

/-- JTAG_BYPASS: one shift through the bypass register, which captures 0 when it is selected. -/
def execJtagBypass (bit : Bool) (s : State) : Host.Outcome State Fault Refusal :=
  .next (if !s.root.standby then s
    else
      let old := decide (s.pins.jtagIr = 1) && s.pins.jtagBypass
      let s := s.jtagSelect 1
      ({ s with pins := { s.pins with jtagBypass := bit } }).emit (.jtag [old]))

/-- The identification code (R439). -/
def State.idcode (s : State) : Nat := if s.root.b0 then 0x270201E7 else 0x170201E7

/-- JTAG_IDCODE (R439): 32 bits, the least significant first. -/
def execJtagIdcode (s : State) : Host.Outcome State Fault Refusal :=
  .next (if !s.root.standby then s else (s.jtagSelect 0).emit (.jtag ((List.range 32).map (bitOf s.idcode))))

/-- The sideband pins in the order of the model's boundary-scan chain: straps, YIELD_N as filtered, PERST_N, ALERT_N, THERMTRIP_N, MAIN_PG. -/
def Pins.chain (p : Pins) : List Bool := (List.range 11).map (bitOf p.straps) ++ [p.yieldFiltered, p.perstN, p.alertN, p.thermtripN, p.mainPg]

/-- JTAG_SAMPLE_PRELOAD (R378, R439): the sideband pins are sampled, or the chain is loaded. -/
def execJtagSamplePreload (preload : Option (List Bool)) (s : State) : Host.Outcome State Fault Refusal :=
  .next (if !s.root.standby then s
    else
      let s := s.jtagSelect 2
      match preload with
      | some l => { s with pins := { s.pins with jtagChain := l } }
      | none => s.emit (.jtag s.pins.chain))

/-- JTAG_EXTEST (R378): the chain drives the sideband pins, only while the main domain is off. -/
def execJtagExtest (s : State) : Host.Outcome State Fault Refusal :=
  .next (if !s.root.standby ∨ s.root.mainEn ∨ s.root.mainUp then s else ((s.jtagSelect 3).emit (.jtag s.pins.jtagChain)).emit (.pin 3 true))

/-- JTAG_TEST_LOGIC_RESET (R439): the test logic alone: IDCODE is selected. -/
def execJtagTestLogicReset (s : State) : Host.Outcome State Fault Refusal :=
  .next (let t := s.jtagSelect 0; { t with pins := { t.pins with jtagBypass := false } })

end Sys2Proof.Machine
end

