-- ==== Sys2Proof/Machine/HostPort.lean ====
section
/-! DEFINITION. The PCI Express endpoint of a bridge module: reset, links, configuration and base address registers (R267 to R272, R276, R385, R435). -/

namespace Sys2Proof.Machine

/-! ### Reset of the endpoint (R272, R435) -/

/-- PERST_N_FALL (R272, R435): the endpoint and every function's configuration reset, every context of the module is unloaded as by UNLOAD, and the other modules of the Shelf get their notices, once a Bureau and a route can send them. Another module
ignores the pin. -/
def execPerstNFall (s : State) : Host.Outcome State Fault Refusal :=
  let s : State := { s with pins := { s.pins with perstN := false } }
  .next (if !s.bridge ∨ !s.root.por then s
    else
      let s := ({ s with pcie := { s.pcie with linkUp := false, rate := 0, width := 0, flit := false } }).resetFunctions
      let notices := s.shelfMates.map (fun d => (d, 64))
      let s : State := { s with pcie := { s.pcie with owed := if s.root.bureauUp then [] else notices } }
      let s := if s.root.bureauUp then s.sendNotices notices else s
      s.loadedCtxs.foldl State.startUnload s)

/-- PERST_N_RISE (R267, R385, R435): link training of the endpoint, which settles at a rate, width and mode; before the end of power-on reset the edge only counts as high then. -/
def execPerstNRise (rate width : Nat) (flit : Bool) (s : State) : Host.Outcome State Fault Refusal :=
  .next (({ s with pins := { s.pins with perstN := true } } : State).startPcie rate width flit)

/-- SHELF_UNLOAD_NOTICE (R272): the bridge module's notice unloads the context of a function, or with 64, after a PERST_N, every context: no host request is accepted before they are unloaded, and no virtual function
is enabled. -/
def execShelfUnloadNotice (fn : Nat) (s : State) : Host.Outcome State Fault Refusal :=
  .next (if !s.root.bureauUp then s
    else
      let s : State := if fn = 64 ∧ !s.bridge then { s with pcie := { s.pcie with shut := !s.loadedCtxs.isEmpty, vfs := 0 } } else s
      (s.loadedCtxs.filter (fun n => decide (fn = 64 ∨ n = fn))).foldl State.startUnload s)

/-- A Function Level Reset (R272): the function's configuration resets, with the physical function the virtual ones are disabled, and context n is unloaded on every module of the Shelf. -/
def State.functionReset (s : State) (fn : Nat) : State :=
  let mine := fun (f : Nat) => decide (f = fn ∨ fn = 0)
  let s : State := { s with pcie := { s.pcie with
    vfs := if fn = 0 then 0 else s.pcie.vfs, config := s.pcie.config.filter (fun w => !mine (w.1 / 1024)), aer := s.pcie.aer.filter (fun w => !mine w.1)
    msixOpen := s.pcie.msixOpen.filter (fun v => !mine (v / 64)), msixPending := s.pcie.msixPending.filter (fun v => !mine (v / 64)) } }
  (s.sendNotices (s.shelfMates.map (fun d => (d, fn)))).startUnload fn

/-- FUNCTION_LEVEL_RESET (R272). -/
def execFunctionLevelReset (fn : Nat) (s : State) : Host.Outcome State Fault Refusal :=
  .next (if !s.bridge ∨ !s.pcie.linkUp ∨ !s.root.bureauUp ∨ s.pcie.vfs < fn then s else s.functionReset fn)

/-- PCIE_LANE_FAILURE (R268): the endpoint down-trains to the next width that the live lanes give, at a rate; below 16 GT/s it is recorded. -/
def execPcieLaneFailure (lanes rate : Nat) (s : State) : Host.Outcome State Fault Refusal :=
  .next (if !s.bridge ∨ !s.pcie.linkUp then s
    else
      let live := min lanes s.pcie.width
      let width := ([16, 8, 4, 2, 1].find? (fun w => decide (w ≤ live))).getD 0
      if width = 0 then { s with pcie := { s.pcie with linkUp := false, rate := 0, width := 0, flit := false } }
      else ({ s with pcie := { s.pcie with width := width, rate := rate } }).hostDegraded)

/-! ### Configuration requests (R271, R385) -/

/-- The writable bits of a configuration word, at the places of the PCI Express specification (assumption log 46): the command register, the physical function's base addresses (512 MiB and 8 TiB, Table 11.17),
device control (payload and read request sizes), MSI-X control, the error masks, SR-IOV control, NumVFs and the base addresses of the virtual functions (32 KiB and 8 TiB). -/
def cfgMask (fn reg : Nat) : Nat :=
  match reg with
  | 1 => 0x0546
  | 4 => if fn = 0 then 2 ^ 32 - 2 ^ 29 else 0
  | 5 => if fn = 0 then 2 ^ 32 - 1 else 0
  | 7 => if fn = 0 then 2 ^ 32 - 2 ^ 11 else 0
  | 0x12 => 0x70EF
  | 0x2C => 0xC0000000
  | 0x42 | 0x43 | 0x45 => Config.pcieMask fn reg % 2 ^ 32
  | 0x5A => if fn = 0 then 0x9 else 0
  | 0x5C => if fn = 0 then 0xFFFF else 0
  | 0x61 => if fn = 0 then 2 ^ 32 - 2 ^ 15 else 0
  | 0x62 => if fn = 0 then 2 ^ 32 - 1 else 0
  | 0x64 => if fn = 0 then 2 ^ 32 - 2 ^ 11 else 0
  | _ => 0

/-- A configuration word before any write: the capabilities of Table 11.16 and no others, in one list (PCI Express at 0x40, MSI-X at 0xB0) and one extended list (Advanced Error Reporting at 0x100, and on the physical
function SR-IOV at 0x160). The identity, class and subsystem words, the place of the MSI-X table and the error masks are constants that nothing evaluates. -/
def cfgInit (fn reg : Nat) : Nat :=
  match reg with
  | 1 => 2 ^ 20
  | 4 => if fn = 0 then 0x4 else 0
  | 6 => if fn = 0 then 0xC else 0
  | 0xD => 0x40
  | 0x10 => 0x0002B010
  | 0x11 => 0x10008002                        -- 512-byte payloads, role-based errors, Function Level Reset; no L0s or L1
  | 0x12 => 0x2000
  | 0x13 => 0x106                             -- 64 GT/s, x16
  | 0x1B => 0x7E
  | 0x2C => 0x11 + (if fn = 0 then 63 else 15) * 2 ^ 16
  | 0x40 => if fn = 0 then 0x16020001 else 0x00020001
  | 0x58 => if fn = 0 then 0x00010010 else 0
  | 0x5B => if fn = 0 then 63 * (2 ^ 16 + 1) else 0
  | 0x61 => if fn = 0 then 0x4 else 0
  | 0x63 => if fn = 0 then 0xC else 0
  | 0 | 2 | 3 | 0xB | 0x2D | 0x2E | 0x42 | 0x43 | 0x45 => Config.pcieWord fn reg % 2 ^ 32
  | _ => 0

/-- Vectors of a function: 64 for the physical one, 16 for a virtual one (Table 11.16). -/
def vectorsOf (fn : Nat) : Nat := if fn = 0 then 64 else 16

/-- The model's place for the vector control word of an MSI-X vector (assumption log 46). -/
def isVector (fn reg : Nat) : Bool := decide (0x200 ≤ reg ∧ reg < 0x200 + vectorsOf fn)

/-- A configuration word as read: link status, the Advanced Error Reporting status and the vector masks are live. -/
def State.cfgRead (s : State) (fn reg : Nat) : Nat :=
  let m := cfgMask fn reg
  if reg = 0x14 then (s.pcie.rate % 16 + s.pcie.width % 64 * 16) * 2 ^ 16
  else if reg = 0x41 then tget 0 s.pcie.aer fn % 2 ^ 32
  else if isVector fn reg then b2n (!s.pcie.msixOpen.contains (fn * 64 + (reg - 0x200)))
  else ((tget 0 s.pcie.config (fn * 1024 + reg)).toNat &&& m) ||| (cfgInit fn reg &&& (2 ^ 32 - 1 - m))

/-- Masks or the enable of a function have changed: what is pending and may go is sent (R276). -/
def State.msixFlush (s : State) (fn : Nat) : State :=
  let go := s.pcie.msixPending.filter (fun v => decide (v / 64 = fn) && !s.vectorHeld fn (v % 64))
  ({ s with pcie := { s.pcie with msixPending := s.pcie.msixPending.filter (fun v => !go.contains v) } } : State).sendAll (go.map (fun v => .msix fn (v % 64)))

/-- One vector of a function is masked or unmasked (R276). -/
def State.maskVector (s : State) (fn vec : Nat) (masked : Bool) : State :=
  let rest := s.pcie.msixOpen.filter (fun v => decide (v ≠ fn * 64 + vec))
  ({ s with pcie := { s.pcie with msixOpen := if masked then rest else rest ++ [fn * 64 + vec] } } : State).msixFlush fn

/-- A write of a configuration word and what it brings about: virtual functions are enabled or disabled, vectors masked or unmasked, error status bits cleared, a function reset. -/
def State.cfgWrite (s : State) (fn reg value : Nat) : State :=
  if reg = 0x41 then { s with pcie := { s.pcie with aer := tput 0 s.pcie.aer fn (tget 0 s.pcie.aer fn &&& (2 ^ 32 - 1 - value % 2 ^ 32)) } }
  else if isVector fn reg then s.maskVector fn (reg - 0x200) (bitOf value 0)
  else
    let s : State := { s with pcie := { s.pcie with config := tput 0 s.pcie.config (fn * 1024 + reg) (BitVec.ofNat 32 (value &&& cfgMask fn reg)) } }
    if reg = 0x2C then s.msixFlush fn
    else if reg = 0x12 ∧ bitOf value 15 then s.functionReset fn
    else if fn = 0 ∧ (reg = 0x5A ∨ reg = 0x5C) then
      { s with pcie := { s.pcie with vfs := if bitOf (s.cfgRead 0 0x5A) 0 then min 63 (s.cfgRead 0 0x5C % 65536) else 0 } }
    else s

/-- What the hardware path of R271 answers: reads of the identity, class, subsystem and capability words, and writes to the command register. -/
def hardwarePath (reg : Nat) (write : Bool) : Bool := if write then decide (reg = 1) else decide (reg = 0 ∨ reg = 2 ∨ reg = 0xB ∨ reg = 0xD ∨ 0x10 ≤ reg)

/-- PCIE_CONFIG_REQUEST (R271, R385): from the end of power-on reset; before the Bureau starts, what the hardware path does not answer completes with Request Retry Status. -/
def execPcieConfigRequest (fn reg : Nat) (write : Bool) (value : W32) (s : State) : Host.Outcome State Fault Refusal :=
  .next (if !s.bridge ∨ !s.root.por ∨ !s.pcie.linkUp then s
    else if !s.root.bureauUp ∧ (s.pcie.vfs < fn ∨ 1024 ≤ reg ∨ !hardwarePath reg write) then s.hostAnswer fn 3 []
    else if s.pcie.vfs < fn ∨ 1024 ≤ reg then s.hostAnswer fn 1 []
    else if write then (s.cfgWrite fn reg value.toNat).hostAnswer fn 0 []
    else s.hostAnswer fn 0 (leBytes 4 (s.cfgRead fn reg)))

/-! ### Base address registers (R270, Table 11.17) -/

/-- Where a request to a BAR leads: the slot, and an address of that module's register space or stack-local window. -/
inductive BarTarget where
  | reg (slot addr : Nat)
  | mem (slot stack off : Nat)
  | none
  deriving DecidableEq, Repr

/-- Table 11.17, with the decode errors of R270. -/
def barTarget (fn bar addr : Nat) : BarTarget :=
  if bar = 0 then
    if fn = 0 then (if addr < 2 ^ 29 then .reg (addr / 2 ^ 26) (regBase + addr % 2 ^ 26) else .none)
    else if addr < 2 ^ 15 then .reg (addr / 4096) (regBase + (0x1000 + fn) * 4096 + addr % 4096)
    else .none
  else if bar = 2 ∧ addr < 2 ^ 43 ∧ addr % 2 ^ 36 < stackBytes then .mem (addr / 2 ^ 40) (addr / 2 ^ 36 % 16) (addr % 2 ^ 36)
  else .none

/-- A host request to a stack of this module, checked and applied (R270, R353, R196). -/
def State.hostMem (s : State) (fn stack off len : Nat) (data : Option (List Byte)) (bad : Nat) : State :=
  let right : Right := if data.isSome then .w else .r
  if !s.root.ready then s.hostRefused fn 0x37 data.isNone
  else match s.memCheck right (0x8000 + fn) fn stack off len with
    | some cls => (s.record (s.refusalRec cls 0xB (0x8000 + fn) fn (stack * 2 ^ 36 + off))).hostRefused fn cls data.isNone
    | none =>
      match data with
      | some bs => ((s.applyWrite fn stack off (bs.take len)).eccWrite stack off bad).hostWrote (0x8000 + fn) off
      | none =>
        let s := s.eccRead stack off bad
        if s.devBad (stack * 2 ^ 36 + off) len then (s.containLine stack off 0x18).hostAnswer fn 4 (s.memRead stack off len)
        else s.hostAnswer fn 0 (s.memRead stack off len)

/-- A host request to the register space of this module. -/
def State.hostReg (s : State) (fn addr len : Nat) (data : Option (List Byte)) : State :=
  match data with
  | some bs =>
    let r := s.regWrite (0x8000 + fn) addr bs
    (match r.1 with | none => r.2 | some cls => r.2.hostRefused fn cls false)
  | none =>
    let r := s.regRead (0x8000 + fn) addr len
    (match r.1 with | .ok bs => r.2.hostAnswer fn 0 bs | .error cls => r.2.hostRefused fn cls true)

/-- A host request goes on to another module of the Shelf by its route (R270); without one a read completes with Unsupported Request. -/
def State.hostForward (s : State) (fn slot addr len : Nat) (data : Option (List Byte)) : State :=
  let d := s.cab / 8 * 8 + slot
  if (s.routePort d).isNone then s.hostRefused fn 0x37 data.isNone
  else s.send (.remote d (b2n data.isSome) addr fn 2 len (data.getD []))

/-- HOST_BAR_REQUEST (R270, R385): a host request enters with its function's master ID and is decoded by Table 11.17; an address that no target decodes is an Unsupported Request. -/
def execHostBarRequest (fn bar addr len : Nat) (data : Option (List Byte)) (bad : Nat) (s : State) : Host.Outcome State Fault Refusal :=
  .next (if !s.bridge ∨ !s.pcie.linkUp then s
    else if s.pcie.vfs < fn ∨ !s.root.bureauUp ∨ len = 0 then s.hostRefused (fn % 64) 0x37 data.isNone
    else match barTarget fn bar addr with
      | .none => (s.record (s.refusalRec 0x37 0xB (0x8000 + fn) fn addr)).hostRefused fn 0x37 data.isNone
      | .reg slot a =>
        if planModules s.plan ≤ s.cab / 8 * 8 + slot then s.hostRefused fn 0x37 data.isNone
        else if s.cab = s.cab / 8 * 8 + slot then s.hostReg fn a len data
        else s.hostForward fn slot a len data
      | .mem slot k o =>
        if planModules s.plan ≤ s.cab / 8 * 8 + slot then s.hostRefused fn 0x37 data.isNone
        else if s.cab = s.cab / 8 * 8 + slot then s.hostMem fn k o len data bad
        else s.hostForward fn slot (k * 2 ^ 36 + o) len data)

end Sys2Proof.Machine
end

