-- ==== Sys2Proof/Machine/Matrix.lean ====
section
/-! DEFINITION. The M-slot operations, the landing of results and the cycle of a core (R61 to R85, R92, R133). -/

namespace Sys2Proof.Machine

/-- MMA1 (R73): a single-array matrix instruction issues. -/
def execMma1 (core : Nat) (w : W32) (s : State) : Host.Outcome State Fault Refusal :=
  .next (s.issueOp core 0 (isMS 1) issueMma w)

/-- MMA4 (R73): a four-array matrix instruction issues. -/
def execMma4 (core : Nat) (w : W32) (s : State) : Host.Outcome State Fault Refusal :=
  .next (s.issueOp core 0 (isMS 2) issueMma w)

/-- OCV (R80): an output conversion reserves its converter. -/
def execOcv (core : Nat) (w : W32) (s : State) : Host.Outcome State Fault Refusal :=
  .next (s.issueOp core 0 (isMS 3) issueOcv w)

/-- Every result of a core that is due is written (R92, R93). -/
def State.landCore (s : State) (c : Nat) : State :=
  if 128 ≤ c then s else s.coreResult c (s.core c).landDue

/-- A converter whose reservation has ended becomes free (R83). -/
def Core.freeConv (c : Core) (conv : Nat) : Core :=
  match tfind c.convs conv with
  | some r => if r.reserved c.icyc then c else { c with convs := tdel c.convs conv }
  | none => c

/-- OCV_TILE_VISIBLE (R83): the tile and its metadata become visible, and the converter frees. -/
def execOcvTileVisible (core conv : Nat) (s : State) : Host.Outcome State Fault Refusal :=
  .next (if 128 ≤ core then s
    else match (s.core core).landDue with
      | .err st op => s.endTaskBy core st op
      | .ok k => s.setCore core (k.freeConv conv))

/-- OPERATION_LANDING (R92, R307): the results that are due are written, the later landing standing; an error found in a memory of the core ends its task. -/
def execOperationLanding (core : Nat) (upset : Bool) (s : State) : Host.Outcome State Fault Refusal :=
  .next (if 128 ≤ core then s else if upset then s.coreUpset core else s.landCore core)

/-- Whether the core issues a whole bundle in the present cycle. -/
def Core.bundleIssues (c : Core) (e : CoreEnv) : Bool := c.canFetch && !c.holding e && c.bundleDone e

/-- The lane generators advance in every cycle, in test mode only when a bundle issues (R133, R135). -/
def Core.laneCycle (c : Core) (e : CoreEnv) : Core :=
  if !c.test || c.bundleIssues e then c.advanceLanes else c

/-- The Footstool's samples dropped in a cycle are counted (R107). -/
def State.countDrops (s : State) (c : Nat) : State :=
  let k := s.core c
  if k.fsDropped = 0 then s else (s.setCore c { k with fsDropped := 0 }).count (corePage c) .fsDropped k.fsDropped

/-- LANE_GENERATOR_ADVANCE (R133): one arithmetic cycle of a core; its lane generators advance, and the cycle of its running task passes (assumption log 4). -/
def execLaneGeneratorAdvance (core : Nat) (s : State) : Host.Outcome State Fault Refusal :=
  .next (if 128 ≤ core then s
    else
      let e := s.env core
      let k := (s.core core).laneCycle e
      if k.run.isNone then s.setCore core k else (s.coreResult core (k.cycle e)).countDrops core)

end Sys2Proof.Machine
end

