-- ==== Sys2Proof/Machine/Scalar.lean ====
section
/-! DEFINITION. The scalar and control operations of the C slot (R446, R447, R171, R100). -/

namespace Sys2Proof.Machine

/-- ADD: sd = sa + sb, wrapping (R446). -/
def execSAdd (core : Nat) (w : W32) (s : State) : Host.Outcome State Fault Refusal :=
  .next (s.issueOp core 3 (isC 0xC0) (scalarReg (fun a b => a + b)) w)

/-- SUB: sd = sa − sb, wrapping (R446). -/
def execSSub (core : Nat) (w : W32) (s : State) : Host.Outcome State Fault Refusal :=
  .next (s.issueOp core 3 (isC 0xC1) (scalarReg (fun a b => a - b)) w)

/-- MUL: the low 32 bits of sa × sb (R446). -/
def execSMul (core : Nat) (w : W32) (s : State) : Host.Outcome State Fault Refusal :=
  .next (s.issueOp core 3 (isC 0xC2) (scalarReg (fun a b => a * b)) w)

/-- AND (R446). -/
def execSAnd (core : Nat) (w : W32) (s : State) : Host.Outcome State Fault Refusal :=
  .next (s.issueOp core 3 (isC 0xC3) (scalarReg (fun a b => a &&& b)) w)

/-- OR (R446). -/
def execSOr (core : Nat) (w : W32) (s : State) : Host.Outcome State Fault Refusal :=
  .next (s.issueOp core 3 (isC 0xC4) (scalarReg (fun a b => a ||| b)) w)

/-- XOR (R446). -/
def execSXor (core : Nat) (w : W32) (s : State) : Host.Outcome State Fault Refusal :=
  .next (s.issueOp core 3 (isC 0xC5) (scalarReg (fun a b => a ^^^ b)) w)

/-- SHL: sa shifted left by sb[4:0] (R446). -/
def execSShl (core : Nat) (w : W32) (s : State) : Host.Outcome State Fault Refusal :=
  .next (s.issueOp core 3 (isC 0xC6) (scalarReg (fun a b => a <<< (b.toNat % 32))) w)

/-- SHR: sa shifted right logically by sb[4:0] (R446). -/
def execSShr (core : Nat) (w : W32) (s : State) : Host.Outcome State Fault Refusal :=
  .next (s.issueOp core 3 (isC 0xC7) (scalarReg (fun a b => a >>> (b.toNat % 32))) w)

/-- SAR: sa shifted right arithmetically by sb[4:0] (R446). -/
def execSSar (core : Nat) (w : W32) (s : State) : Host.Outcome State Fault Refusal :=
  .next (s.issueOp core 3 (isC 0xC8) (scalarReg (fun a b => a.sshiftRight (b.toNat % 32))) w)

/-- SLT: 1 if sa < sb as signed integers, else 0 (R446). -/
def execSSlt (core : Nat) (w : W32) (s : State) : Host.Outcome State Fault Refusal :=
  .next (s.issueOp core 3 (isC 0xC9) (scalarReg (fun a b => if a.slt b then 1 else 0)) w)

/-- SLTU: 1 if sa < sb as unsigned integers, else 0 (R446). -/
def execSSltu (core : Nat) (w : W32) (s : State) : Host.Outcome State Fault Refusal :=
  .next (s.issueOp core 3 (isC 0xCA) (scalarReg (fun a b => if a.ult b then 1 else 0)) w)

/-- ADDI: sd = sa + sign-extended imm14 (R446). -/
def execSAddi (core : Nat) (w : W32) (s : State) : Host.Outcome State Fault Refusal :=
  .next (s.issueOp core 3 (isC 0xD0) (scalarImm (fun i => i.signExtend 32) (fun a b => a + b)) w)

/-- ANDI: sd = sa AND zero-extended imm14 (R446). -/
def execSAndi (core : Nat) (w : W32) (s : State) : Host.Outcome State Fault Refusal :=
  .next (s.issueOp core 3 (isC 0xD1) (scalarImm (fun i => i.zeroExtend 32) (fun a b => a &&& b)) w)

/-- ORI: sd = sa OR zero-extended imm14 (R446). -/
def execSOri (core : Nat) (w : W32) (s : State) : Host.Outcome State Fault Refusal :=
  .next (s.issueOp core 3 (isC 0xD2) (scalarImm (fun i => i.zeroExtend 32) (fun a b => a ||| b)) w)

/-- XORI: sd = sa XOR zero-extended imm14 (R446). -/
def execSXori (core : Nat) (w : W32) (s : State) : Host.Outcome State Fault Refusal :=
  .next (s.issueOp core 3 (isC 0xD3) (scalarImm (fun i => i.zeroExtend 32) (fun a b => a ^^^ b)) w)

/-- LUI: sd = imm19 × 2^13 (R446). -/
def execSLui (core : Nat) (w : W32) (s : State) : Host.Outcome State Fault Refusal :=
  .next (s.issueOp core 3 (isC 0xD4) scalarLui w)

/-- SIG (R171). -/
def execKSig (core : Nat) (w : W32) (s : State) : Host.Outcome State Fault Refusal :=
  .next (s.issueOp core 3 (isC 0xE0) issueSig w)

/-- LOOP (R447). -/
def execKLoop (core : Nat) (w : W32) (s : State) : Host.Outcome State Fault Refusal :=
  .next (s.issueOp core 3 (isC 0xE4) issueLoop w)

/-- BR (R447). -/
def execKBr (core : Nat) (w : W32) (s : State) : Host.Outcome State Fault Refusal :=
  .next (s.issueOp core 3 (isC 0xE8) issueBr w)

/-- END (R100, step 2). -/
def execKEnd (core : Nat) (w : W32) (s : State) : Host.Outcome State Fault Refusal :=
  .next (s.issueOp core 3 (isC 0xFF) issueEnd w)

end Sys2Proof.Machine
end

