-- ==== Sys2Proof/Machine/Vector.lean ====
section
/-! DEFINITION. The operations of the V slot (Table 6.3). -/

namespace Sys2Proof.Machine

/-- VADD: binary32 sum on every lane, rounded once (R113). -/
def execVadd (core : Nat) (w : W32) (s : State) : Host.Outcome State Fault Refusal :=
  .next (s.issueOp core 1 (isV 0x01) (vArith fmtB32 0) w)

/-- VSUB: binary32 difference on every lane, rounded once (R113). -/
def execVsub (core : Nat) (w : W32) (s : State) : Host.Outcome State Fault Refusal :=
  .next (s.issueOp core 1 (isV 0x02) (vArith fmtB32 1) w)

/-- VMUL: binary32 product on every lane, rounded once (R113). -/
def execVmul (core : Nat) (w : W32) (s : State) : Host.Outcome State Fault Refusal :=
  .next (s.issueOp core 1 (isV 0x03) (vArith fmtB32 2) w)

/-- VFMA: binary32 fused multiply-add on every lane, rounded once (R113). -/
def execVfma (core : Nat) (w : W32) (s : State) : Host.Outcome State Fault Refusal :=
  .next (s.issueOp core 1 (isV 0x04) (vArith fmtB32 3) w)

/-- VADD.H: packed binary16 sum (R113). -/
def execVaddH (core : Nat) (w : W32) (s : State) : Host.Outcome State Fault Refusal :=
  .next (s.issueOp core 1 (isV 0x05) (vArith fmtF16 0) w)

/-- VSUB.H: packed binary16 difference (R113). -/
def execVsubH (core : Nat) (w : W32) (s : State) : Host.Outcome State Fault Refusal :=
  .next (s.issueOp core 1 (isV 0x06) (vArith fmtF16 1) w)

/-- VMUL.H: packed binary16 product (R113). -/
def execVmulH (core : Nat) (w : W32) (s : State) : Host.Outcome State Fault Refusal :=
  .next (s.issueOp core 1 (isV 0x07) (vArith fmtF16 2) w)

/-- VFMA.H: packed binary16 fused multiply-add (R113). -/
def execVfmaH (core : Nat) (w : W32) (s : State) : Host.Outcome State Fault Refusal :=
  .next (s.issueOp core 1 (isV 0x08) (vArith fmtF16 3) w)

/-- VADD.B: packed bfloat16 sum (R113). -/
def execVaddB (core : Nat) (w : W32) (s : State) : Host.Outcome State Fault Refusal :=
  .next (s.issueOp core 1 (isV 0x09) (vArith fmtBf16 0) w)

/-- VSUB.B: packed bfloat16 difference (R113). -/
def execVsubB (core : Nat) (w : W32) (s : State) : Host.Outcome State Fault Refusal :=
  .next (s.issueOp core 1 (isV 0x0A) (vArith fmtBf16 1) w)

/-- VMUL.B: packed bfloat16 product (R113). -/
def execVmulB (core : Nat) (w : W32) (s : State) : Host.Outcome State Fault Refusal :=
  .next (s.issueOp core 1 (isV 0x0B) (vArith fmtBf16 2) w)

/-- VFMA.B: packed bfloat16 fused multiply-add (R113). -/
def execVfmaB (core : Nat) (w : W32) (s : State) : Host.Outcome State Fault Refusal :=
  .next (s.issueOp core 1 (isV 0x0C) (vArith fmtBf16 3) w)

/-- VMIN: binary32 minimum; a NaN gives the canonical NaN (R114). -/
def execVmin (core : Nat) (w : W32) (s : State) : Host.Outcome State Fault Refusal :=
  .next (s.issueOp core 1 (isV 0x10) (vMinMax fmtB32 false) w)

/-- VMAX: binary32 maximum; a NaN gives the canonical NaN (R114). -/
def execVmax (core : Nat) (w : W32) (s : State) : Host.Outcome State Fault Refusal :=
  .next (s.issueOp core 1 (isV 0x11) (vMinMax fmtB32 true) w)

/-- VCEQ: all ones where va = vb in binary32 (R114). -/
def execVceq (core : Nat) (w : W32) (s : State) : Host.Outcome State Fault Refusal :=
  .next (s.issueOp core 1 (isV 0x12) (vCompare (fun d => decide (d = 0))) w)

/-- VCLT: all ones where va < vb in binary32 (R114). -/
def execVclt (core : Nat) (w : W32) (s : State) : Host.Outcome State Fault Refusal :=
  .next (s.issueOp core 1 (isV 0x13) (vCompare (fun d => decide (d < 0))) w)

/-- VCLE: all ones where va ≤ vb in binary32 (R114). -/
def execVcle (core : Nat) (w : W32) (s : State) : Host.Outcome State Fault Refusal :=
  .next (s.issueOp core 1 (isV 0x14) (vCompare (fun d => decide (d ≤ 0))) w)

/-- VMIN.H: packed binary16 minimum (R114). -/
def execVminH (core : Nat) (w : W32) (s : State) : Host.Outcome State Fault Refusal :=
  .next (s.issueOp core 1 (isV 0x15) (vMinMax fmtF16 false) w)

/-- VMAX.H: packed binary16 maximum (R114). -/
def execVmaxH (core : Nat) (w : W32) (s : State) : Host.Outcome State Fault Refusal :=
  .next (s.issueOp core 1 (isV 0x16) (vMinMax fmtF16 true) w)

/-- VMIN.B: packed bfloat16 minimum (R114). -/
def execVminB (core : Nat) (w : W32) (s : State) : Host.Outcome State Fault Refusal :=
  .next (s.issueOp core 1 (isV 0x17) (vMinMax fmtBf16 false) w)

/-- VMAX.B: packed bfloat16 maximum (R114). -/
def execVmaxB (core : Nat) (w : W32) (s : State) : Host.Outcome State Fault Refusal :=
  .next (s.issueOp core 1 (isV 0x18) (vMinMax fmtBf16 true) w)

/-- VAND (R114). -/
def execVand (core : Nat) (w : W32) (s : State) : Host.Outcome State Fault Refusal :=
  .next (s.issueOp core 1 (isV 0x20) (vInt (fun a b => a &&& b)) w)

/-- VOR (R114). -/
def execVor (core : Nat) (w : W32) (s : State) : Host.Outcome State Fault Refusal :=
  .next (s.issueOp core 1 (isV 0x21) (vInt (fun a b => a ||| b)) w)

/-- VXOR (R114). -/
def execVxor (core : Nat) (w : W32) (s : State) : Host.Outcome State Fault Refusal :=
  .next (s.issueOp core 1 (isV 0x22) (vInt (fun a b => a ^^^ b)) w)

/-- VSEL: (va AND vc) OR (vb AND NOT vc) (R114). -/
def execVsel (core : Nat) (w : W32) (s : State) : Host.Outcome State Fault Refusal :=
  .next (s.issueOp core 1 (isV 0x23) vSelect w)

/-- VIADD: int32 sum, wrapping (R114). -/
def execViadd (core : Nat) (w : W32) (s : State) : Host.Outcome State Fault Refusal :=
  .next (s.issueOp core 1 (isV 0x24) (vInt (fun a b => a + b)) w)

/-- VISUB: int32 difference, wrapping (R114). -/
def execVisub (core : Nat) (w : W32) (s : State) : Host.Outcome State Fault Refusal :=
  .next (s.issueOp core 1 (isV 0x25) (vInt (fun a b => a - b)) w)

/-- VIMUL: the low 32 bits of the product (R114). -/
def execVimul (core : Nat) (w : W32) (s : State) : Host.Outcome State Fault Refusal :=
  .next (s.issueOp core 1 (isV 0x26) (vInt (fun a b => a * b)) w)

/-- VSHL: va shifted left by vb[4:0] (R114). -/
def execVshl (core : Nat) (w : W32) (s : State) : Host.Outcome State Fault Refusal :=
  .next (s.issueOp core 1 (isV 0x27) (vInt (fun a b => a <<< (b.toNat % 32))) w)

/-- VSHR: va shifted right logically by vb[4:0] (R114). -/
def execVshr (core : Nat) (w : W32) (s : State) : Host.Outcome State Fault Refusal :=
  .next (s.issueOp core 1 (isV 0x28) (vInt (fun a b => a >>> (b.toNat % 32))) w)

/-- VSAR: va shifted right arithmetically by vb[4:0] (R114). -/
def execVsar (core : Nat) (w : W32) (s : State) : Host.Outcome State Fault Refusal :=
  .next (s.issueOp core 1 (isV 0x29) (vInt (fun a b => a.sshiftRight (b.toNat % 32))) w)

/-- VBCAST: a scalar register in every lane (R114). -/
def execVbcast (core : Nat) (w : W32) (s : State) : Host.Outcome State Fault Refusal :=
  .next (s.issueOp core 1 (isV 0x2A) vBroadcast w)

/-- VLANE: lane i = i (R114). -/
def execVlane (core : Nat) (w : W32) (s : State) : Host.Outcome State Fault Refusal :=
  .next (s.issueOp core 1 (isV 0x2B) vLaneIndex w)

/-- VCVT: format conversion (R117, R118). -/
def execVcvt (core : Nat) (w : W32) (s : State) : Host.Outcome State Fault Refusal :=
  .next (s.issueOp core 1 (isV 0x30) vConvert w)

/-- VF2I: binary32 to int32 (R119). -/
def execVf2i (core : Nat) (w : W32) (s : State) : Host.Outcome State Fault Refusal :=
  .next (s.issueOp core 1 (isV 0x31) (vUnary .vConv f2i) w)

/-- VI2F: int32 to binary32 (R119). -/
def execVi2f (core : Nat) (w : W32) (s : State) : Host.Outcome State Fault Refusal :=
  .next (s.issueOp core 1 (isV 0x32) (vUnary .vConv i2f) w)

/-- VRCP: 1/va (R115). -/
def execVrcp (core : Nat) (w : W32) (s : State) : Host.Outcome State Fault Refusal :=
  .next (s.issueOp core 1 (isV 0x40) (vUnary .vRcp fRcp) w)

/-- VRSQRT: 1/√va (R115). -/
def execVrsqrt (core : Nat) (w : W32) (s : State) : Host.Outcome State Fault Refusal :=
  .next (s.issueOp core 1 (isV 0x41) (vUnary .vRcp fRsqrt) w)

/-- VSQRT: √va (R115). -/
def execVsqrt (core : Nat) (w : W32) (s : State) : Host.Outcome State Fault Refusal :=
  .next (s.issueOp core 1 (isV 0x42) (vUnary .vRcp fSqrt) w)

/-- VDIV: va / vb (R115). -/
def execVdiv (core : Nat) (w : W32) (s : State) : Host.Outcome State Fault Refusal :=
  .next (s.issueOp core 1 (isV 0x43) vDivide w)

/-- VEXP2: 2^va (R115). -/
def execVexp2 (core : Nat) (w : W32) (s : State) : Host.Outcome State Fault Refusal :=
  .next (s.issueOp core 1 (isV 0x44) (vUnary .vExp fExp2) w)

/-- VLOG2: log₂ va (R115). -/
def execVlog2 (core : Nat) (w : W32) (s : State) : Host.Outcome State Fault Refusal :=
  .next (s.issueOp core 1 (isV 0x45) (vUnary .vExp fLog2) w)

/-- VTANH: tanh va (R115). -/
def execVtanh (core : Nat) (w : W32) (s : State) : Host.Outcome State Fault Refusal :=
  .next (s.issueOp core 1 (isV 0x46) (vUnary .vTanh fTanh) w)

/-- VRNG.W: raw keyed words (R127). -/
def execVrngW (core : Nat) (w : W32) (s : State) : Host.Outcome State Fault Refusal :=
  .next (s.issueOp core 1 (isV 0x50) (vRng 0) w)

/-- VRNG.U: uniform binary32 values (R127). -/
def execVrngU (core : Nat) (w : W32) (s : State) : Host.Outcome State Fault Refusal :=
  .next (s.issueOp core 1 (isV 0x51) (vRng 1) w)

/-- VRNG.B: 1.0 or +0 against a threshold (R127). -/
def execVrngB (core : Nat) (w : W32) (s : State) : Host.Outcome State Fault Refusal :=
  .next (s.issueOp core 1 (isV 0x52) (vRng 2) w)

/-- VRNG.N: normal deviates (R128). -/
def execVrngN (core : Nat) (w : W32) (s : State) : Host.Outcome State Fault Refusal :=
  .next (s.issueOp core 1 (isV 0x53) (vRng 3) w)

/-- VFRL: the lane generators’ outputs (R133, R136). -/
def execVfrl (core : Nat) (w : W32) (s : State) : Host.Outcome State Fault Refusal :=
  .next (s.issueOp core 1 (isV 0x58) vFrl w)

/-- VLD: 512 bytes of the scratchpad into vd (R120). -/
def execVld (core : Nat) (w : W32) (s : State) : Host.Outcome State Fault Refusal :=
  .next (s.issueOp core 1 (isV 0x60) vLoad w)

/-- VST: vd into 512 bytes of the scratchpad (R120). -/
def execVst (core : Nat) (w : W32) (s : State) : Host.Outcome State Fault Refusal :=
  .next (s.issueOp core 1 (isV 0x61) vStore w)

/-- VACC: two accumulator rows into vd (R120). -/
def execVacc (core : Nat) (w : W32) (s : State) : Host.Outcome State Fault Refusal :=
  .next (s.issueOp core 1 (isV 0x62) vAccRead w)

/-- VFLG: the flag word of the task’s shard in every lane (R120). -/
def execVflg (core : Nat) (w : W32) (s : State) : Host.Outcome State Fault Refusal :=
  .next (s.issueOp core 1 (isV 0x63) vFlagRead w)

end Sys2Proof.Machine
end

