-- ==== Sys2Proof/Machine/Dispatch.lean ====
section
/-! DEFINITION. The meaning of every command: one arm per constructor, each one direct call. -/

namespace Sys2Proof.Machine

/-- The effect of a command on everything but the queue. -/
def exec (i : Instr) (s : State) : Host.Outcome State Fault Refusal :=
  match i with
  | .mma1 core w => Sys2Proof.Machine.execMma1 core w s
  | .mma4 core w => Sys2Proof.Machine.execMma4 core w s
  | .ocv core w => Sys2Proof.Machine.execOcv core w s
  | .ocvTileVisible core conv => Sys2Proof.Machine.execOcvTileVisible core conv s
  | .operationLanding core upset => Sys2Proof.Machine.execOperationLanding core upset s
  | .sAdd core w => Sys2Proof.Machine.execSAdd core w s
  | .sSub core w => Sys2Proof.Machine.execSSub core w s
  | .sMul core w => Sys2Proof.Machine.execSMul core w s
  | .sAnd core w => Sys2Proof.Machine.execSAnd core w s
  | .sOr core w => Sys2Proof.Machine.execSOr core w s
  | .sXor core w => Sys2Proof.Machine.execSXor core w s
  | .sShl core w => Sys2Proof.Machine.execSShl core w s
  | .sShr core w => Sys2Proof.Machine.execSShr core w s
  | .sSar core w => Sys2Proof.Machine.execSSar core w s
  | .sSlt core w => Sys2Proof.Machine.execSSlt core w s
  | .sSltu core w => Sys2Proof.Machine.execSSltu core w s
  | .sAddi core w => Sys2Proof.Machine.execSAddi core w s
  | .sAndi core w => Sys2Proof.Machine.execSAndi core w s
  | .sOri core w => Sys2Proof.Machine.execSOri core w s
  | .sXori core w => Sys2Proof.Machine.execSXori core w s
  | .sLui core w => Sys2Proof.Machine.execSLui core w s
  | .kSig core w => Sys2Proof.Machine.execKSig core w s
  | .sigConditionMet core => Sys2Proof.Machine.execSigConditionMet core s
  | .kLoop core w => Sys2Proof.Machine.execKLoop core w s
  | .kBr core w => Sys2Proof.Machine.execKBr core w s
  | .kEnd core w => Sys2Proof.Machine.execKEnd core w s
  | .vadd core w => Sys2Proof.Machine.execVadd core w s
  | .vsub core w => Sys2Proof.Machine.execVsub core w s
  | .vmul core w => Sys2Proof.Machine.execVmul core w s
  | .vfma core w => Sys2Proof.Machine.execVfma core w s
  | .vaddH core w => Sys2Proof.Machine.execVaddH core w s
  | .vsubH core w => Sys2Proof.Machine.execVsubH core w s
  | .vmulH core w => Sys2Proof.Machine.execVmulH core w s
  | .vfmaH core w => Sys2Proof.Machine.execVfmaH core w s
  | .vaddB core w => Sys2Proof.Machine.execVaddB core w s
  | .vsubB core w => Sys2Proof.Machine.execVsubB core w s
  | .vmulB core w => Sys2Proof.Machine.execVmulB core w s
  | .vfmaB core w => Sys2Proof.Machine.execVfmaB core w s
  | .vmin core w => Sys2Proof.Machine.execVmin core w s
  | .vmax core w => Sys2Proof.Machine.execVmax core w s
  | .vceq core w => Sys2Proof.Machine.execVceq core w s
  | .vclt core w => Sys2Proof.Machine.execVclt core w s
  | .vcle core w => Sys2Proof.Machine.execVcle core w s
  | .vminH core w => Sys2Proof.Machine.execVminH core w s
  | .vmaxH core w => Sys2Proof.Machine.execVmaxH core w s
  | .vminB core w => Sys2Proof.Machine.execVminB core w s
  | .vmaxB core w => Sys2Proof.Machine.execVmaxB core w s
  | .vand core w => Sys2Proof.Machine.execVand core w s
  | .vor core w => Sys2Proof.Machine.execVor core w s
  | .vxor core w => Sys2Proof.Machine.execVxor core w s
  | .vsel core w => Sys2Proof.Machine.execVsel core w s
  | .viadd core w => Sys2Proof.Machine.execViadd core w s
  | .visub core w => Sys2Proof.Machine.execVisub core w s
  | .vimul core w => Sys2Proof.Machine.execVimul core w s
  | .vshl core w => Sys2Proof.Machine.execVshl core w s
  | .vshr core w => Sys2Proof.Machine.execVshr core w s
  | .vsar core w => Sys2Proof.Machine.execVsar core w s
  | .vbcast core w => Sys2Proof.Machine.execVbcast core w s
  | .vlane core w => Sys2Proof.Machine.execVlane core w s
  | .vcvt core w => Sys2Proof.Machine.execVcvt core w s
  | .vf2i core w => Sys2Proof.Machine.execVf2i core w s
  | .vi2f core w => Sys2Proof.Machine.execVi2f core w s
  | .vrcp core w => Sys2Proof.Machine.execVrcp core w s
  | .vrsqrt core w => Sys2Proof.Machine.execVrsqrt core w s
  | .vsqrt core w => Sys2Proof.Machine.execVsqrt core w s
  | .vdiv core w => Sys2Proof.Machine.execVdiv core w s
  | .vexp2 core w => Sys2Proof.Machine.execVexp2 core w s
  | .vlog2 core w => Sys2Proof.Machine.execVlog2 core w s
  | .vtanh core w => Sys2Proof.Machine.execVtanh core w s
  | .vrngW core w => Sys2Proof.Machine.execVrngW core w s
  | .vrngU core w => Sys2Proof.Machine.execVrngU core w s
  | .vrngB core w => Sys2Proof.Machine.execVrngB core w s
  | .vrngN core w => Sys2Proof.Machine.execVrngN core w s
  | .vfrl core w => Sys2Proof.Machine.execVfrl core w s
  | .vld core w => Sys2Proof.Machine.execVld core w s
  | .vst core w => Sys2Proof.Machine.execVst core w s
  | .vacc core w => Sys2Proof.Machine.execVacc core w s
  | .vflg core w => Sys2Proof.Machine.execVflg core w s
  | .wfill core w => Sys2Proof.Machine.execWfill core w s
  | .wfillComplete core => Sys2Proof.Machine.execWfillComplete core s
  | .send core w => Sys2Proof.Machine.execSend core w s
  | .recv core w => Sys2Proof.Machine.execRecv core w s
  | .readEndpointFetch core ep n => Sys2Proof.Machine.execReadEndpointFetch core ep n s
  | .creditReturn core ep n => Sys2Proof.Machine.execCreditReturn core ep n s
  | .copy core w => Sys2Proof.Machine.execCopy core w s
  | .atom core w => Sys2Proof.Machine.execAtom core w s
  | .pref core w => Sys2Proof.Machine.execPref core w s
  | .cwait core w => Sys2Proof.Machine.execCwait core w s
  | .copyComplete core tag remote lockstep => Sys2Proof.Machine.execCopyComplete core tag remote lockstep s
  | .stackRequest r => Sys2Proof.Machine.execStackRequest r s
  | .mirrorWriteAck buddy ctx => Sys2Proof.Machine.execMirrorWriteAck buddy ctx s
  | .mirrorRepairRequest buddy stack off => Sys2Proof.Machine.execMirrorRepairRequest buddy stack off s
  | .remoteErrorResponse dev ctx src cls addr => Sys2Proof.Machine.execRemoteErrorResponse dev ctx src cls addr s
  | .dieCacheRead core addr bad => Sys2Proof.Machine.execDieCacheRead core addr bad s
  | .atomLineOperation a bad => Sys2Proof.Machine.execAtomLineOperation a bad s
  | .atomLineWriteback die line => Sys2Proof.Machine.execAtomLineWriteback die line s
  | .scrubPass stack bad => Sys2Proof.Machine.execScrubPass stack bad s
  | .frameTableCommit changes => Sys2Proof.Machine.execFrameTableCommit changes s
  | .frameZeroingComplete frame => Sys2Proof.Machine.execFrameZeroingComplete frame s
  | .dispatchDecision core => Sys2Proof.Machine.execDispatchDecision core s
  | .tileTaskDispatch core upset => Sys2Proof.Machine.execTileTaskDispatch core upset s
  | .tileTaskCompletion core => Sys2Proof.Machine.execTileTaskCompletion core s
  | .taskWatchdogExpiry core => Sys2Proof.Machine.execTaskWatchdogExpiry core s
  | .footstoolExactCheck core fault => Sys2Proof.Machine.execFootstoolExactCheck core fault s
  | .footstoolWideSample core => Sys2Proof.Machine.execFootstoolWideSample core s
  | .crossCoreReplay core fault => Sys2Proof.Machine.execCrossCoreReplay core fault s
  | .replayCompare core => Sys2Proof.Machine.execReplayCompare core s
  | .frameMarkerCheck crossing cycle => Sys2Proof.Machine.execFrameMarkerCheck crossing cycle s
  | .flitPassesChannel die channel slot others upset => Sys2Proof.Machine.execFlitPassesChannel die channel slot others upset s
  | .openPacketHop die channel slot arrivals upset => Sys2Proof.Machine.execOpenPacketHop die channel slot arrivals upset s
  | .errorRecordArrival => Sys2Proof.Machine.execErrorRecordArrival s
  | .ctxSig master ctx value => Sys2Proof.Machine.execCtxSig master ctx value s
  | .signalApply upset => Sys2Proof.Machine.execSignalApply upset s
  | .counterValueNotify die ctr => Sys2Proof.Machine.execCounterValueNotify die ctr s
  | .crossDeviceSignal m => Sys2Proof.Machine.execCrossDeviceSignal m s
  | .barrierArrivalMessage m => Sys2Proof.Machine.execBarrierArrivalMessage m s
  | .barrierReleaseMessage m => Sys2Proof.Machine.execBarrierReleaseMessage m s
  | .waitWatchdogExpiry queue => Sys2Proof.Machine.execWaitWatchdogExpiry queue s
  | .syncDbgSel master die index => Sys2Proof.Machine.execSyncDbgSel master die index s
  | .syncSnapshotComplete die => Sys2Proof.Machine.execSyncSnapshotComplete die s
  | .ctxDoorbell master ctx value => Sys2Proof.Machine.execCtxDoorbell master ctx value s
  | .collectiveQueueTail master ctx cq value => Sys2Proof.Machine.execCollectiveQueueTail master ctx cq value s
  | .collectiveHeadCheck ctx cq => Sys2Proof.Machine.execCollectiveHeadCheck ctx cq s
  | .collectiveStart ctx cq => Sys2Proof.Machine.execCollectiveStart ctx cq s
  | .collectiveMessageReceive ctx cq m => Sys2Proof.Machine.execCollectiveMessageReceive ctx cq m s
  | .collectiveRetransmitRequest ctx cq m => Sys2Proof.Machine.execCollectiveRetransmitRequest ctx cq m s
  | .collectiveContributionRequest ctx cq m => Sys2Proof.Machine.execCollectiveContributionRequest ctx cq m s
  | .collectiveFailureNotice ctx cq m => Sys2Proof.Machine.execCollectiveFailureNotice ctx cq m s
  | .collectiveTimeout ctx cq => Sys2Proof.Machine.execCollectiveTimeout ctx cq s
  | .collectiveCompletion ctx cq => Sys2Proof.Machine.execCollectiveCompletion ctx cq s
  | .linkSignalDetect link => Sys2Proof.Machine.execLinkSignalDetect link s
  | .linkEqualizeDone link => Sys2Proof.Machine.execLinkEqualizeDone link s
  | .linkAlignDone link => Sys2Proof.Machine.execLinkAlignDone link s
  | .identMessage link m => Sys2Proof.Machine.execIdentMessage link m s
  | .negotiateMessage link version => Sys2Proof.Machine.execNegotiateMessage link version s
  | .linkTrainingTimeout link => Sys2Proof.Machine.execLinkTrainingTimeout link s
  | .piecePacketReceive link bytes upset => Sys2Proof.Machine.execPiecePacketReceive link bytes upset s
  | .controlPacketReceive link bytes => Sys2Proof.Machine.execControlPacketReceive link bytes s
  | .ackReceive link seq => Sys2Proof.Machine.execAckReceive link seq s
  | .nakReceive link seq => Sys2Proof.Machine.execNakReceive link seq s
  | .ackTimer link => Sys2Proof.Machine.execAckTimer link s
  | .codewordLockLoss link => Sys2Proof.Machine.execCodewordLockLoss link s
  | .uncorrectableCodewordLimit link corrected uncorrectable => Sys2Proof.Machine.execUncorrectableCodewordLimit link corrected uncorrectable s
  | .lnkCtrlRetrain master link => Sys2Proof.Machine.execLnkCtrlRetrain master link s
  | .heartbeatSend => Sys2Proof.Machine.execHeartbeatSend s
  | .heartbeatReceive port device => Sys2Proof.Machine.execHeartbeatReceive port device s
  | .lossTimeout port => Sys2Proof.Machine.execLossTimeout port s
  | .deviceLostNotice device origin nonce about => Sys2Proof.Machine.execDeviceLostNotice device origin nonce about s
  | .placementMessage m => Sys2Proof.Machine.execPlacementMessage m s
  | .perstNFall => Sys2Proof.Machine.execPerstNFall s
  | .perstNRise rate width flit => Sys2Proof.Machine.execPerstNRise rate width flit s
  | .shelfUnloadNotice fn => Sys2Proof.Machine.execShelfUnloadNotice fn s
  | .functionLevelReset fn => Sys2Proof.Machine.execFunctionLevelReset fn s
  | .pcieConfigRequest fn reg write value => Sys2Proof.Machine.execPcieConfigRequest fn reg write value s
  | .hostBarRequest fn bar addr len data bad => Sys2Proof.Machine.execHostBarRequest fn bar addr len data bad s
  | .loadBegin master ctx tag args => Sys2Proof.Machine.execLoadBegin master ctx tag args s
  | .load master ctx tag args => Sys2Proof.Machine.execLoad master ctx tag args s
  | .sharedRegionFetchComplete ctx region holders host => Sys2Proof.Machine.execSharedRegionFetchComplete ctx region holders host s
  | .memberAnnouncement ctx m => Sys2Proof.Machine.execMemberAnnouncement ctx m s
  | .restore master ctx tag args => Sys2Proof.Machine.execRestore master ctx tag args s
  | .unload master ctx tag args => Sys2Proof.Machine.execUnload master ctx tag args s
  | .unloadDrainLimit ctx => Sys2Proof.Machine.execUnloadDrainLimit ctx s
  | .resume master ctx tag args => Sys2Proof.Machine.execResume master ctx tag args s
  | .yield master ctx tag args => Sys2Proof.Machine.execYield master ctx tag args s
  | .restart master ctx tag args => Sys2Proof.Machine.execRestart master ctx tag args s
  | .evict master ctx tag args => Sys2Proof.Machine.execEvict master ctx tag args s
  | .join master ctx tag args => Sys2Proof.Machine.execJoin master ctx tag args s
  | .leave master ctx tag args => Sys2Proof.Machine.execLeave master ctx tag args s
  | .verOpen master ctx tag args => Sys2Proof.Machine.execVerOpen master ctx tag args s
  | .verPublish master ctx tag args => Sys2Proof.Machine.execVerPublish master ctx tag args s
  | .publishComplete region lockstep => Sys2Proof.Machine.execPublishComplete region lockstep s
  | .versionRelease region slot => Sys2Proof.Machine.execVersionRelease region slot s
  | .evalBind master ctx tag args => Sys2Proof.Machine.execEvalBind master ctx tag args s
  | .evalRelease master ctx tag args => Sys2Proof.Machine.execEvalRelease master ctx tag args s
  | .stepBoundary ctx => Sys2Proof.Machine.execStepBoundary ctx s
  | .commitRecordWrite ctx src => Sys2Proof.Machine.execCommitRecordWrite ctx src s
  | .commitReport ctx member step => Sys2Proof.Machine.execCommitReport ctx member step s
  | .commitRelease ctx step => Sys2Proof.Machine.execCommitRelease ctx step s
  | .ctxRcptReadAdvance master ctx rd => Sys2Proof.Machine.execCtxRcptReadAdvance master ctx rd s
  | .receiptSigned => Sys2Proof.Machine.execReceiptSigned s
  | .yieldNFall => Sys2Proof.Machine.execYieldNFall s
  | .yieldNRise => Sys2Proof.Machine.execYieldNRise s
  | .yieldMessage ctx member gen mode step hold => Sys2Proof.Machine.execYieldMessage ctx member gen mode step hold s
  | .resumeMessage ctx member gen => Sys2Proof.Machine.execResumeMessage ctx member gen s
  | .yieldHoldDeadline ctx => Sys2Proof.Machine.execYieldHoldDeadline ctx s
  | .yieldDrainComplete ctx => Sys2Proof.Machine.execYieldDrainComplete ctx s
  | .abortNotice ctx m => Sys2Proof.Machine.execAbortNotice ctx m s
  | .abortDrainComplete ctx fills => Sys2Proof.Machine.execAbortDrainComplete ctx fills s
  | .memberReadyReport ctx member step => Sys2Proof.Machine.execMemberReadyReport ctx member step s
  | .restartRelease ctx gen => Sys2Proof.Machine.execRestartRelease ctx gen s
  | .fenceRequest master value => Sys2Proof.Machine.execFenceRequest master value s
  | .unfenceRequest master value => Sys2Proof.Machine.execUnfenceRequest master value s
  | .inFieldTestPeriod => Sys2Proof.Machine.execInFieldTestPeriod s
  | .inFieldTestStart => Sys2Proof.Machine.execInFieldTestStart s
  | .inFieldTestEnd expected measured footstool => Sys2Proof.Machine.execInFieldTestEnd expected measured footstool s
  | .standbyValid => Sys2Proof.Machine.execStandbyValid s
  | .powerOnResetEnd rate width flit => Sys2Proof.Machine.execPowerOnResetEnd rate width flit s
  | .bootImageVerified => Sys2Proof.Machine.execBootImageVerified s
  | .mainInputInRange => Sys2Proof.Machine.execMainInputInRange s
  | .mainDomainUp => Sys2Proof.Machine.execMainDomainUp s
  | .stackTrainingComplete stack ok bad => Sys2Proof.Machine.execStackTrainingComplete stack ok bad s
  | .coreSelfTestEnd failed ces cpes hashes => Sys2Proof.Machine.execCoreSelfTestEnd failed ces cpes hashes s
  | .linkTrainingConcluded => Sys2Proof.Machine.execLinkTrainingConcluded s
  | .deviceReady => Sys2Proof.Machine.execDeviceReady s
  | .entropyHealthChange healthy => Sys2Proof.Machine.execEntropyHealthChange healthy s
  | .entropyWaitTimeout => Sys2Proof.Machine.execEntropyWaitTimeout s
  | .entropyRecordRepeat => Sys2Proof.Machine.execEntropyRecordRepeat s
  | .assemblyMessage m => Sys2Proof.Machine.execAssemblyMessage m s
  | .assemblyTimeout => Sys2Proof.Machine.execAssemblyTimeout s
  | .buReset master value => Sys2Proof.Machine.execBuReset master value s
  | .mctpResetMessage value => Sys2Proof.Machine.execMctpResetMessage value s
  | .standbyPowerLoss => Sys2Proof.Machine.execStandbyPowerLoss s
  | .powerMeasurement watts mv => Sys2Proof.Machine.execPowerMeasurement watts mv s
  | .limiterThresholdTimer => Sys2Proof.Machine.execLimiterThresholdTimer s
  | .limiterSustained => Sys2Proof.Machine.execLimiterSustained s
  | .clockControllerAdjust => Sys2Proof.Machine.execClockControllerAdjust s
  | .pwrCtrl master value => Sys2Proof.Machine.execPwrCtrl master value s
  | .inputVoltageFault => Sys2Proof.Machine.execInputVoltageFault s
  | .sensorReading sensor temp rails => Sys2Proof.Machine.execSensorReading sensor temp rails s
  | .throttleRecordRepeat sensor => Sys2Proof.Machine.execThrottleRecordRepeat sensor s
  | .thermalTrip sensor => Sys2Proof.Machine.execThermalTrip sensor s
  | .firmwareUpdate bytes hifMajor majorChange => Sys2Proof.Machine.execFirmwareUpdate bytes hifMajor majorChange s
  | .recoveryImageReceive bytes => Sys2Proof.Machine.execRecoveryImageReceive bytes s
  | .mctpControl cmd data => Sys2Proof.Machine.execMctpControl cmd data s
  | .pldmBase cmd data => Sys2Proof.Machine.execPldmBase cmd data s
  | .pldmMonitoring cmd data => Sys2Proof.Machine.execPldmMonitoring cmd data s
  | .pldmFruData cmd data => Sys2Proof.Machine.execPldmFruData cmd data s
  | .getVersion => Sys2Proof.Machine.execGetVersion s
  | .getCapabilities version data => Sys2Proof.Machine.execGetCapabilities version data s
  | .negotiateAlgorithms data => Sys2Proof.Machine.execNegotiateAlgorithms data s
  | .getDigests => Sys2Proof.Machine.execGetDigests s
  | .getCertificate slot off len => Sys2Proof.Machine.execGetCertificate slot off len s
  | .challenge slot summary nonce => Sys2Proof.Machine.execChallenge slot summary nonce s
  | .getMeasurements index slot sign nonce => Sys2Proof.Machine.execGetMeasurements index slot sign nonce s
  | .lecternNonceRequest => Sys2Proof.Machine.execLecternNonceRequest s
  | .lecternUnlock token => Sys2Proof.Machine.execLecternUnlock token s
  | .lecternClose => Sys2Proof.Machine.execLecternClose s
  | .lecternExpiry => Sys2Proof.Machine.execLecternExpiry s
  | .lecternHalt core => Sys2Proof.Machine.execLecternHalt core s
  | .lecternSingleStep core => Sys2Proof.Machine.execLecternSingleStep core s
  | .lecternRead t n => Sys2Proof.Machine.execLecternRead t n s
  | .lecternWrite t bytes => Sys2Proof.Machine.execLecternWrite t bytes s
  | .jtagBypass bit => Sys2Proof.Machine.execJtagBypass bit s
  | .jtagIdcode => Sys2Proof.Machine.execJtagIdcode s
  | .jtagSamplePreload preload => Sys2Proof.Machine.execJtagSamplePreload preload s
  | .jtagExtest => Sys2Proof.Machine.execJtagExtest s
  | .jtagTestLogicReset => Sys2Proof.Machine.execJtagTestLogicReset s
  | .blkCommit master page => Sys2Proof.Machine.execBlkCommit master page s
  | .commitEffectPoint page => Sys2Proof.Machine.execCommitEffectPoint page s
  | .blkLock master page value => Sys2Proof.Machine.execBlkLock master page value s
  | .statFreeze master page value => Sys2Proof.Machine.execStatFreeze master page value s
  | .registerWrite master addr bytes => Sys2Proof.Machine.execRegisterWrite master addr bytes s
  | .laneGeneratorAdvance core => Sys2Proof.Machine.execLaneGeneratorAdvance core s
  | .crossingsTrained latency unit => Sys2Proof.Machine.execCrossingsTrained latency unit s
  | .mainDomainPowerUpLimit unit => Sys2Proof.Machine.execMainDomainPowerUpLimit unit s
  | .bureauFault addr => Sys2Proof.Machine.execBureauFault addr s
  | .dieStopsAnswering die => Sys2Proof.Machine.execDieStopsAnswering die s
  | .crossingRecalibration crossing => Sys2Proof.Machine.execCrossingRecalibration crossing s
  | .regionHolderQuery asker digest => Sys2Proof.Machine.execRegionHolderQuery asker digest s
  | .coordinatorStateRequest ctx coordinator => Sys2Proof.Machine.execCoordinatorStateRequest ctx coordinator s
  | .pcieLaneFailure lanes rate => Sys2Proof.Machine.execPcieLaneFailure lanes rate s
  | .registerReadLatch master addr len => Sys2Proof.Machine.execRegisterReadLatch master addr len s

end Sys2Proof.Machine
end

