-- ==== Sys2Proof/Safety.lean ====
section
/-! DEFINITION. The terms in which claims are stated: safe runs, the canonical memory, and what no command undoes. -/

namespace Sys2Proof.Machine

/-- A run of `k` steps in which no step stops. -/
def SafeRun : Nat → State → Prop
  | 0, _ => True
  | k + 1, s => ∃ t, step s = .next t ∧ SafeRun k t

/-- The memory keeps its canonical form: addresses strictly rising, no listed byte equal to what an unlisted byte reads as. -/
def Memory.wf (m : Tab Byte) : Bool := tabWf 0 m

/-- The fuses `g` are those of `f` with more svn bits blown at most (R342). -/
structure Fuses.Kept (f g : Fuses) : Prop where
  rootHash : g.rootHash = f.rootHash
  revoke : g.revoke = f.revoke
  uds : g.uds = f.uds
  serial : g.serial = f.serial
  debugPolicy : g.debugPolicy = f.debugPolicy
  svn : ∀ i, f.svn.testBit i = true → g.svn.testBit i = true

/-- What a command leaves as it was: the commands that wait; a canonical memory; the free values drawn so far; what has been sent; blown fuses. -/
structure State.Keeps (s t : State) : Prop where
  pending : t.pending = s.pending
  mem : Memory.wf s.mem = true → Memory.wf t.mem = true
  free : s.freeIx ≤ t.freeIx
  out : s.out <+: t.out
  fuses : s.root.fuses.Kept t.root.fuses

/-! ### Operations of a core -/

/-- Word `w`, of a legal op code, is the next operation of slot `slot` of core `c`: a task runs there, the word stands at the present bundle, nothing holds issue, and the results that
are due land without a collision and give the core `k`. -/
structure State.Presents (s : State) (c slot : Nat) (w : W32) (k : Core) : Prop where
  core : c < 128
  lands : (s.core c).landDue = .ok k
  may : k.mayIssue (s.env c) slot w = true
  legal : badWord slot w = false

/-- The state in which the operation of a slot of core `c` has issued and its result is in flight, to land `lat` cycles on. -/
def State.delivers (s : State) (c slot : Nat) (k : Core) (lat : Nat) (what : LandKind) : State :=
  s.setCore c ((k.markIssued slot).emit lat what)

/-- The state in which a lane-wise operation of core `c` has issued: its flags are raised in the vector unit, and elements of `width` bytes are in flight to `vd`. -/
def State.deliversLanes (s : State) (c : Nat) (k : Core) (lat vd width : Nat) (rs : List (Nat × FlagBits)) : State :=
  s.setCore c (((k.markIssued 1).raise 4 (rs.foldl (fun a r => a ||| r.2) 0)).emit lat (.vreg vd 0 (packElems width (rs.map (·.1)))))

/-- An encoding of a format whose exponent field is all ones and whose fraction is not 0: a NaN (R38). -/
def encNaN (f : Fmt) (x : Nat) : Bool := decide (f.infinity false < x % 2 ^ (f.expBits + f.frac))

/-- The place of an encoding in the order of the values, −0 with +0: the magnitude bits, negated under the sign bit. -/
def encOrd (f : Fmt) (x : Nat) : Int :=
  if bitOf x (f.expBits + f.frac) then -((x % 2 ^ (f.expBits + f.frac) : Nat) : Int) else ((x % 2 ^ (f.expBits + f.frac) : Nat) : Int)

/-- The same order with −0 below +0 (R114). -/
def encKey (f : Fmt) (x : Nat) : Int :=
  if bitOf x (f.expBits + f.frac) then -((x % 2 ^ (f.expBits + f.frac) : Nat) : Int) - 1 else ((x % 2 ^ (f.expBits + f.frac) : Nat) : Int)

/-- The core of a slot operation that acts on nothing but its core. RECV, COPY and PREF are not among them: RECV captures for a replay, COPY asks other devices for its source, PREF fills a die's cache. -/
def slotCore : Instr → Option Nat
  | .mma1 c _ | .mma4 c _ | .ocv c _ | .sAdd c _ | .sSub c _ | .sMul c _ | .sAnd c _ | .sOr c _ => some c
  | .sXor c _ | .sShl c _ | .sShr c _ | .sSar c _ | .sSlt c _ | .sSltu c _ | .sAddi c _ | .sAndi c _ => some c
  | .sOri c _ | .sXori c _ | .sLui c _ | .kSig c _ | .kLoop c _ | .kBr c _ | .kEnd c _ | .vadd c _ => some c
  | .vsub c _ | .vmul c _ | .vfma c _ | .vaddH c _ | .vsubH c _ | .vmulH c _ | .vfmaH c _ | .vaddB c _ => some c
  | .vsubB c _ | .vmulB c _ | .vfmaB c _ | .vmin c _ | .vmax c _ | .vceq c _ | .vclt c _ | .vcle c _ => some c
  | .vminH c _ | .vmaxH c _ | .vminB c _ | .vmaxB c _ | .vand c _ | .vor c _ | .vxor c _ | .vsel c _ => some c
  | .viadd c _ | .visub c _ | .vimul c _ | .vshl c _ | .vshr c _ | .vsar c _ | .vbcast c _ | .vlane c _ => some c
  | .vcvt c _ | .vf2i c _ | .vi2f c _ | .vrcp c _ | .vrsqrt c _ | .vsqrt c _ | .vdiv c _ | .vexp2 c _ => some c
  | .vlog2 c _ | .vtanh c _ | .vrngW c _ | .vrngU c _ | .vrngB c _ | .vrngN c _ | .vfrl c _ | .vld c _ => some c
  | .vst c _ | .vacc c _ | .vflg c _ | .wfill c _ | .send c _ | .atom c _ | .cwait c _ => some c
  | _ => none

/-! ### Commands of a context -/

/-- A command of context `n` by this master is accepted (R284): the master may use the command block, no command is in progress, the device is ready, no unload notice keeps host requests out (R272), and no
image area waits to be freed. -/
structure State.Accepts (s : State) (master n : Nat) : Prop where
  ctx : n < 64
  taken : s.hostShut master = false
  may : s.mayCommand n master = true
  idle : (s.ctx n).cmd.busy = false
  ready : s.root.ready = true
  image : (s.ctx n).mem.imageDone = false

/-- The state in which the command block of context `n` has taken a command. -/
def State.issued (s : State) (n op tag master : Nat) (args : List Nat) : State := s.modCtx n (fun c => { c with cmd := c.cmd.issue op tag master args })

/-- The commands of a context with their op codes (Table 12.10). -/
def ctxCommands (master n tag : Nat) (args : List Nat) : List (Nat × Instr) :=
  [(1, .loadBegin master n tag args), (2, .load master n tag args), (3, .restore master n tag args), (4, .unload master n tag args), (5, .resume master n tag args),
   (6, .yield master n tag args), (7, .restart master n tag args), (8, .evict master n tag args), (9, .join master n tag args), (10, .leave master n tag args),
   (11, .verOpen master n tag args), (12, .verPublish master n tag args), (13, .evalBind master n tag args), (14, .evalRelease master n tag args)]

end Sys2Proof.Machine
end

