-- ==== Sys2Proof/WellFormed.lean ====
section
/-! DEFINITION. The operand values that the interfaces can carry. A command with other operands has a meaning all the same. -/

namespace Sys2Proof

/-- A core of the module: 16 compute dies of 8 (R86). -/
def okCore (n : Nat) : Bool := decide (n < 128)
/-- A context number (R273). -/
def okCtx (n : Nat) : Bool := decide (n < 64)
/-- A collective queue of a context (R234). -/
def okCq (n : Nat) : Bool := decide (n < 16)
/-- An output converter of a core (R80). -/
def okConv (n : Nat) : Bool := decide (n < 4)
/-- A stream endpoint of a core (R150). -/
def okEp (n : Nat) : Bool := decide (n < 8)
/-- A master ID is 16 bits (R350). -/
def okMaster (n : Nat) : Bool := decide (n < 65536)
/-- A Dravbo link (R244). -/
def okLink (n : Nat) : Bool := decide (n < 32)
/-- A logical port (R250). -/
def okPort (n : Nat) : Bool := decide (n < 8)
/-- A Gridun stack (R188). -/
def okStack (n : Nat) : Bool := decide (n < 16)
/-- A temperature sensor (R373). -/
def okSensor (n : Nat) : Bool := decide (n < 87)
/-- The arguments of a context command: at most seven of 64 bits (Table 12.11). -/
def okArgs (l : List Nat) : Bool := decide (l.length ≤ 7) && l.all (fun a => decide (a < 2 ^ 64))
/-- A register page (R425). -/
def okPage (n : Nat) : Bool := decide (n < 16384)
/-- An output channel of a router. -/
def okChannel (n : Nat) : Bool := decide (n < 64)
/-- A die-to-die crossing of a compute die: die × 4 + port (R142). -/
def okCrossing (n : Nat) : Bool := decide (n < 64)
/-- A request is at most 64 bytes of a line, and a write brings that many (R213). -/
def okReq (r : MemReq) : Bool := decide (r.master < 65536 ∧ r.ctx < 64 ∧ r.len ≤ 4096) && (match r.data with | some b => decide (b.length = r.len) | none => true)
/-- A collective message names a device of a Cabinet (R235). -/
def okColl (m : CollMsg) : Bool := decide (m.dev < 128)
/-- A signal from another device (R177). -/
def okSync (m : SyncMsg) : Bool := decide (m.dev < 128 ∧ m.ctx < 64 ∧ m.ctr < 2 ^ 18 ∧ m.op < 4)
/-- A cabinet index (R258). -/
def okDev (n : Nat) : Bool := decide (n < 128)
/-- A generation is 16 bits (R179). -/
def okGen (n : Nat) : Bool := decide (n < 65536)
/-- A region ID is 16 bits (R218). -/
def okRegion (n : Nat) : Bool := decide (n < 65536)
/-- A 64 KiB frame of the stacks (R193). -/
def okFrame (n : Nat) : Bool := decide (n < 786432)
/-- A queue ID, or from 65,536 on a collective queue of a context. -/
def okQueue (n : Nat) : Bool := decide (n < 65536 + 1024)
/-- A word of a function's configuration space. -/
def okCfgWord (n : Nat) : Bool := decide (n < 1024)
/-- A rate code of PCIE_STAT (Table 18.8). -/
def okRate (n : Nat) : Bool := decide (n ≤ 6)
/-- A command tag is 8 bits (Table 12.11), a copy tag 9 bits (Table 9.10). -/
def okTag (n : Nat) : Bool := decide (n < 512)
/-- A die of the package: 16 compute dies, 3 link dies. -/
def okDie (n : Nat) : Bool := decide (n < 19)
/-- One byte of a message. -/
def okByte (n : Nat) : Bool := decide (n < 256)
/-- A host function, or 64 for all (R270). -/
def okFn (n : Nat) : Bool := decide (n ≤ 64)

/-- The operands of a command lie in the ranges that its interface carries. -/
def Instr.wf (i : Instr) : Bool :=
  match i with
  | .mma1 core _ => okCore core
  | .mma4 core _ => okCore core
  | .ocv core _ => okCore core
  | .ocvTileVisible core conv => okCore core && okConv conv
  | .operationLanding core _ => okCore core
  | .sAdd core _ => okCore core
  | .sSub core _ => okCore core
  | .sMul core _ => okCore core
  | .sAnd core _ => okCore core
  | .sOr core _ => okCore core
  | .sXor core _ => okCore core
  | .sShl core _ => okCore core
  | .sShr core _ => okCore core
  | .sSar core _ => okCore core
  | .sSlt core _ => okCore core
  | .sSltu core _ => okCore core
  | .sAddi core _ => okCore core
  | .sAndi core _ => okCore core
  | .sOri core _ => okCore core
  | .sXori core _ => okCore core
  | .sLui core _ => okCore core
  | .kSig core _ => okCore core
  | .sigConditionMet core => okCore core
  | .kLoop core _ => okCore core
  | .kBr core _ => okCore core
  | .kEnd core _ => okCore core
  | .vadd core _ => okCore core
  | .vsub core _ => okCore core
  | .vmul core _ => okCore core
  | .vfma core _ => okCore core
  | .vaddH core _ => okCore core
  | .vsubH core _ => okCore core
  | .vmulH core _ => okCore core
  | .vfmaH core _ => okCore core
  | .vaddB core _ => okCore core
  | .vsubB core _ => okCore core
  | .vmulB core _ => okCore core
  | .vfmaB core _ => okCore core
  | .vmin core _ => okCore core
  | .vmax core _ => okCore core
  | .vceq core _ => okCore core
  | .vclt core _ => okCore core
  | .vcle core _ => okCore core
  | .vminH core _ => okCore core
  | .vmaxH core _ => okCore core
  | .vminB core _ => okCore core
  | .vmaxB core _ => okCore core
  | .vand core _ => okCore core
  | .vor core _ => okCore core
  | .vxor core _ => okCore core
  | .vsel core _ => okCore core
  | .viadd core _ => okCore core
  | .visub core _ => okCore core
  | .vimul core _ => okCore core
  | .vshl core _ => okCore core
  | .vshr core _ => okCore core
  | .vsar core _ => okCore core
  | .vbcast core _ => okCore core
  | .vlane core _ => okCore core
  | .vcvt core _ => okCore core
  | .vf2i core _ => okCore core
  | .vi2f core _ => okCore core
  | .vrcp core _ => okCore core
  | .vrsqrt core _ => okCore core
  | .vsqrt core _ => okCore core
  | .vdiv core _ => okCore core
  | .vexp2 core _ => okCore core
  | .vlog2 core _ => okCore core
  | .vtanh core _ => okCore core
  | .vrngW core _ => okCore core
  | .vrngU core _ => okCore core
  | .vrngB core _ => okCore core
  | .vrngN core _ => okCore core
  | .vfrl core _ => okCore core
  | .vld core _ => okCore core
  | .vst core _ => okCore core
  | .vacc core _ => okCore core
  | .vflg core _ => okCore core
  | .wfill core _ => okCore core
  | .wfillComplete core => okCore core
  | .send core _ => okCore core
  | .recv core _ => okCore core
  | .readEndpointFetch core ep _ => okCore core && okEp ep
  | .creditReturn core ep _ => okCore core && okEp ep
  | .copy core _ => okCore core
  | .atom core _ => okCore core
  | .pref core _ => okCore core
  | .cwait core _ => okCore core
  | .copyComplete core tag _ _ => okCore core && okTag tag
  | .stackRequest r => okReq r
  | .mirrorWriteAck buddy ctx => okDev buddy && okCtx ctx
  | .mirrorRepairRequest buddy stack _ => okDev buddy && okStack stack
  | .remoteErrorResponse dev ctx _ _ _ => okDev dev && okCtx ctx
  | .dieCacheRead core _ _ => okCore core
  | .atomLineOperation .. => true
  | .atomLineWriteback die _ => okDie die
  | .scrubPass stack _ => okStack stack
  | .frameTableCommit .. => true
  | .frameZeroingComplete frame => okFrame frame
  | .dispatchDecision core => okCore core
  | .tileTaskDispatch core _ => okCore core
  | .tileTaskCompletion core => okCore core
  | .taskWatchdogExpiry core => okCore core
  | .footstoolExactCheck core _ => okCore core
  | .footstoolWideSample core => okCore core
  | .crossCoreReplay core _ => okCore core
  | .replayCompare core => okCore core
  | .frameMarkerCheck crossing _ => okCrossing crossing
  | .flitPassesChannel die channel _ _ _ => okDie die && okChannel channel
  | .openPacketHop die channel _ _ _ => okDie die && okChannel channel
  | .errorRecordArrival => true
  | .ctxSig master ctx _ => okMaster master && okCtx ctx
  | .signalApply .. => true
  | .counterValueNotify die _ => okDie die
  | .crossDeviceSignal m => okSync m
  | .barrierArrivalMessage .. => true
  | .barrierReleaseMessage .. => true
  | .waitWatchdogExpiry queue => okQueue queue
  | .syncDbgSel master die _ => okMaster master && okDie die
  | .syncSnapshotComplete die => okDie die
  | .ctxDoorbell master ctx _ => okMaster master && okCtx ctx
  | .collectiveQueueTail master ctx cq _ => okMaster master && okCtx ctx && okCq cq
  | .collectiveHeadCheck ctx cq => okCtx ctx && okCq cq
  | .collectiveStart ctx cq => okCtx ctx && okCq cq
  | .collectiveMessageReceive ctx cq m => okCtx ctx && okCq cq && okColl m
  | .collectiveRetransmitRequest ctx cq m => okCtx ctx && okCq cq && okColl m
  | .collectiveContributionRequest ctx cq m => okCtx ctx && okCq cq && okColl m
  | .collectiveFailureNotice ctx cq m => okCtx ctx && okCq cq && okColl m
  | .collectiveTimeout ctx cq => okCtx ctx && okCq cq
  | .collectiveCompletion ctx cq => okCtx ctx && okCq cq
  | .linkSignalDetect link => okLink link
  | .linkEqualizeDone link => okLink link
  | .linkAlignDone link => okLink link
  | .identMessage link _ => okLink link
  | .negotiateMessage link version => okLink link && okByte version
  | .linkTrainingTimeout link => okLink link
  | .piecePacketReceive link _ _ => okLink link
  | .controlPacketReceive link _ => okLink link
  | .ackReceive link _ => okLink link
  | .nakReceive link _ => okLink link
  | .ackTimer link => okLink link
  | .codewordLockLoss link => okLink link
  | .uncorrectableCodewordLimit link _ _ => okLink link
  | .lnkCtrlRetrain master link => okMaster master && okLink link
  | .heartbeatSend => true
  | .heartbeatReceive port device => okPort port && okDev device
  | .lossTimeout port => okPort port
  | .deviceLostNotice device _ _ _ => okDev device
  | .placementMessage .. => true
  | .perstNFall => true
  | .perstNRise rate _ _ => okRate rate
  | .shelfUnloadNotice fn => okFn fn
  | .functionLevelReset fn => okFn fn
  | .pcieConfigRequest fn reg _ _ => okFn fn && okCfgWord reg
  | .hostBarRequest fn _ _ _ _ _ => okFn fn
  | .loadBegin master ctx tag args => okMaster master && okCtx ctx && okTag tag && okArgs args
  | .load master ctx tag args => okMaster master && okCtx ctx && okTag tag && okArgs args
  | .sharedRegionFetchComplete ctx region holders _ => okCtx ctx && okRegion region && holders.all (fun x => okDev x.1)
  | .memberAnnouncement ctx _ => okCtx ctx
  | .restore master ctx tag args => okMaster master && okCtx ctx && okTag tag && okArgs args
  | .unload master ctx tag args => okMaster master && okCtx ctx && okTag tag && okArgs args
  | .unloadDrainLimit ctx => okCtx ctx
  | .resume master ctx tag args => okMaster master && okCtx ctx && okTag tag && okArgs args
  | .yield master ctx tag args => okMaster master && okCtx ctx && okTag tag && okArgs args
  | .restart master ctx tag args => okMaster master && okCtx ctx && okTag tag && okArgs args
  | .evict master ctx tag args => okMaster master && okCtx ctx && okTag tag && okArgs args
  | .join master ctx tag args => okMaster master && okCtx ctx && okTag tag && okArgs args
  | .leave master ctx tag args => okMaster master && okCtx ctx && okTag tag && okArgs args
  | .verOpen master ctx tag args => okMaster master && okCtx ctx && okTag tag && okArgs args
  | .verPublish master ctx tag args => okMaster master && okCtx ctx && okTag tag && okArgs args
  | .publishComplete region _ => okRegion region
  | .versionRelease region _ => okRegion region
  | .evalBind master ctx tag args => okMaster master && okCtx ctx && okTag tag && okArgs args
  | .evalRelease master ctx tag args => okMaster master && okCtx ctx && okTag tag && okArgs args
  | .stepBoundary ctx => okCtx ctx
  | .commitRecordWrite ctx _ => okCtx ctx
  | .commitReport ctx member _ => okCtx ctx && okDev member
  | .commitRelease ctx _ => okCtx ctx
  | .ctxRcptReadAdvance master ctx _ => okMaster master && okCtx ctx
  | .receiptSigned => true
  | .yieldNFall => true
  | .yieldNRise => true
  | .yieldMessage ctx member gen _ _ _ => okCtx ctx && okDev member && okGen gen
  | .resumeMessage ctx member gen => okCtx ctx && okDev member && okGen gen
  | .yieldHoldDeadline ctx => okCtx ctx
  | .yieldDrainComplete ctx => okCtx ctx
  | .abortNotice ctx _ => okCtx ctx
  | .abortDrainComplete ctx _ => okCtx ctx
  | .memberReadyReport ctx member _ => okCtx ctx && okDev member
  | .restartRelease ctx gen => okCtx ctx && okGen gen
  | .fenceRequest master _ => okMaster master
  | .unfenceRequest master _ => okMaster master
  | .inFieldTestPeriod => true
  | .inFieldTestStart => true
  | .inFieldTestEnd .. => true
  | .standbyValid => true
  | .powerOnResetEnd rate _ _ => okRate rate
  | .bootImageVerified => true
  | .mainInputInRange => true
  | .mainDomainUp => true
  | .stackTrainingComplete stack _ _ => okStack stack
  | .coreSelfTestEnd .. => true
  | .linkTrainingConcluded => true
  | .deviceReady => true
  | .entropyHealthChange .. => true
  | .entropyWaitTimeout => true
  | .entropyRecordRepeat => true
  | .assemblyMessage .. => true
  | .assemblyTimeout => true
  | .buReset master _ => okMaster master
  | .mctpResetMessage .. => true
  | .standbyPowerLoss => true
  | .powerMeasurement .. => true
  | .limiterThresholdTimer => true
  | .limiterSustained => true
  | .clockControllerAdjust => true
  | .pwrCtrl master _ => okMaster master
  | .inputVoltageFault => true
  | .sensorReading sensor _ _ => okSensor sensor
  | .throttleRecordRepeat sensor => okSensor sensor
  | .thermalTrip sensor => okSensor sensor
  | .firmwareUpdate .. => true
  | .recoveryImageReceive .. => true
  | .mctpControl cmd _ => okByte cmd
  | .pldmBase cmd _ => okByte cmd
  | .pldmMonitoring cmd _ => okByte cmd
  | .pldmFruData cmd _ => okByte cmd
  | .getVersion => true
  | .getCapabilities version _ => okByte version
  | .negotiateAlgorithms .. => true
  | .getDigests => true
  | .getCertificate .. => true
  | .challenge .. => true
  | .getMeasurements .. => true
  | .lecternNonceRequest => true
  | .lecternUnlock .. => true
  | .lecternClose => true
  | .lecternExpiry => true
  | .lecternHalt core => okCore core
  | .lecternSingleStep core => okCore core
  | .lecternRead .. => true
  | .lecternWrite .. => true
  | .jtagBypass .. => true
  | .jtagIdcode => true
  | .jtagSamplePreload .. => true
  | .jtagExtest => true
  | .jtagTestLogicReset => true
  | .blkCommit master page => okMaster master && okPage page
  | .commitEffectPoint page => okPage page
  | .blkLock master page _ => okMaster master && okPage page
  | .statFreeze master page _ => okMaster master && okPage page
  | .registerWrite master _ _ => okMaster master
  | .laneGeneratorAdvance core => okCore core
  | .crossingsTrained .. => true
  | .mainDomainPowerUpLimit .. => true
  | .bureauFault .. => true
  | .dieStopsAnswering die => okDie die
  | .crossingRecalibration crossing => okCrossing crossing
  | .regionHolderQuery asker _ => okDev asker
  | .coordinatorStateRequest ctx coordinator => okCtx ctx && okDev coordinator
  | .pcieLaneFailure _ rate => okRate rate
  | .registerReadLatch master _ _ => okMaster master

end Sys2Proof
end

