-- ==== Sys2Proof/Certificates/Slice0/Obligations.lean ====
section
/-! DEFINITION. The statements about the model, one for each group of commands, and the invariants of a step. -/

open Sys2Proof Sys2Proof.Machine

/-- The scalar operations (R446): each operation of two registers, and each with an immediate, issues, and one cycle on its 32-bit result, which wraps, lands in sd; nothing
else changes. A reserved bit set in a word of two registers ends the task with status 0x10 (R90). -/
def Obligations.ScalarOperations : Prop :=
  (∀ (s : State) (c : Nat) (w : W32) (k : Core), s.Presents c 3 w k → bitsOf w.toNat 31 23 = 0 →
    (cOp w = 0xC0 → exec (.sAdd c w) s = .next (s.delivers c 3 k 1 (.sreg (cSd w) (k.sreg (cSa w) + k.sreg (cSb w))))) ∧
    (cOp w = 0xC1 → exec (.sSub c w) s = .next (s.delivers c 3 k 1 (.sreg (cSd w) (k.sreg (cSa w) - k.sreg (cSb w))))) ∧
    (cOp w = 0xC2 → exec (.sMul c w) s = .next (s.delivers c 3 k 1 (.sreg (cSd w) (k.sreg (cSa w) * k.sreg (cSb w))))) ∧
    (cOp w = 0xC3 → exec (.sAnd c w) s = .next (s.delivers c 3 k 1 (.sreg (cSd w) (k.sreg (cSa w) &&& k.sreg (cSb w))))) ∧
    (cOp w = 0xC4 → exec (.sOr c w) s = .next (s.delivers c 3 k 1 (.sreg (cSd w) (k.sreg (cSa w) ||| k.sreg (cSb w))))) ∧
    (cOp w = 0xC5 → exec (.sXor c w) s = .next (s.delivers c 3 k 1 (.sreg (cSd w) (k.sreg (cSa w) ^^^ k.sreg (cSb w))))) ∧
    (cOp w = 0xC6 → exec (.sShl c w) s = .next (s.delivers c 3 k 1 (.sreg (cSd w) (k.sreg (cSa w) <<< ((k.sreg (cSb w)).toNat % 32))))) ∧
    (cOp w = 0xC7 → exec (.sShr c w) s = .next (s.delivers c 3 k 1 (.sreg (cSd w) (k.sreg (cSa w) >>> ((k.sreg (cSb w)).toNat % 32))))) ∧
    (cOp w = 0xC8 → exec (.sSar c w) s = .next (s.delivers c 3 k 1 (.sreg (cSd w) ((k.sreg (cSa w)).sshiftRight ((k.sreg (cSb w)).toNat % 32))))) ∧
    (cOp w = 0xC9 → exec (.sSlt c w) s = .next (s.delivers c 3 k 1 (.sreg (cSd w) (if (k.sreg (cSa w)).slt (k.sreg (cSb w)) then 1 else 0)))) ∧
    (cOp w = 0xCA → exec (.sSltu c w) s = .next (s.delivers c 3 k 1 (.sreg (cSd w) (if (k.sreg (cSa w)).ult (k.sreg (cSb w)) then 1 else 0))))) ∧
  (∀ (s : State) (c : Nat) (w : W32) (k : Core), s.Presents c 3 w k →
    (cOp w = 0xD0 → exec (.sAddi c w) s = .next (s.delivers c 3 k 1 (.sreg (cSd w) (k.sreg (cSa w) + (cImm14 w).signExtend 32)))) ∧
    (cOp w = 0xD1 → exec (.sAndi c w) s = .next (s.delivers c 3 k 1 (.sreg (cSd w) (k.sreg (cSa w) &&& (cImm14 w).zeroExtend 32)))) ∧
    (cOp w = 0xD2 → exec (.sOri c w) s = .next (s.delivers c 3 k 1 (.sreg (cSd w) (k.sreg (cSa w) ||| (cImm14 w).zeroExtend 32)))) ∧
    (cOp w = 0xD3 → exec (.sXori c w) s = .next (s.delivers c 3 k 1 (.sreg (cSd w) (k.sreg (cSa w) ^^^ (cImm14 w).zeroExtend 32)))) ∧
    (cOp w = 0xD4 → exec (.sLui c w) s = .next (s.delivers c 3 k 1 (.sreg (cSd w) (BitVec.ofNat 32 (bitsOf w.toNat 31 13 * 2 ^ 13)))))) ∧
  (∀ (s : State) (c : Nat) (w : W32) (k : Core) (p : Nat × Instr), s.Presents c 3 w k → bitsOf w.toNat 31 23 ≠ 0 →
    p ∈ [(0xC0, .sAdd c w), (0xC1, .sSub c w), (0xC2, .sMul c w), (0xC3, .sAnd c w), (0xC4, .sOr c w), (0xC5, .sXor c w), (0xC6, .sShl c w), (0xC7, .sShr c w), (0xC8, .sSar c w), (0xC9, .sSlt c w), (0xCA, .sSltu c w)] →
    cOp w = p.1 → exec p.2 s = .next (s.endTaskBy c 0x10 (p.1, 3)))

/-- A scalar register holds what was last written to it, s31 reads 0 and a write to it changes nothing; at dispatch s0 to s7 hold the parameters of the descriptor and every
other register is 0 (R88). -/
def Obligations.ScalarRegisters : Prop :=
  (∀ (k : Core) (i j : Nat) (v : W32),
    k.sreg 31 = 0 ∧ k.setSreg 31 v = k ∧ (i ≠ 31 → (k.setSreg i v).sreg i = v) ∧ (i ≠ j → (k.setSreg i v).sreg j = k.sreg j)) ∧
  (∀ (k : Core) (t : TaskRun) (tp2 : Bool) (lim i : Nat),
    (i < 8 → (k.atDispatch t tp2 lim).sreg i = BitVec.ofNat 32 (descField t.desc (607 + 32 * i) (576 + 32 * i))) ∧ (8 ≤ i → (k.atDispatch t tp2 lim).sreg i = 0))

/-- LOOP, BR, END and SIG (R447, R100, R171): LOOP with a count N opens a body of N issues, with N = 0 it skips the body; a BR that is taken goes to its target and pays the
penalty, one that is not taken goes on; END marks the last bundle; SIG waits for its condition with the counter and value of its registers. -/
def Obligations.ControlOperations : Prop :=
  ∀ (s : State) (c : Nat) (w : W32) (k : Core), s.Presents c 3 w k →
    (cOp w = 0xE4 → bitOf w.toNat 13 = false → bitsOf w.toNat 31 28 = 0 → bitsOf w.toNat 27 14 ≠ 0 → k.loops.length < 4 → bodyFits k.loops (k.pc + bitsOf w.toNat 27 14) = true → k.sreg (bitsOf w.toNat 12 8) = 0 →
      exec (.kLoop c w) s = .next (s.setCore c { k.markIssued 3 with next := some (k.pc + bitsOf w.toNat 27 14 + 1, 0) })) ∧
    (cOp w = 0xE4 → bitOf w.toNat 13 = false → bitsOf w.toNat 31 28 = 0 → bitsOf w.toNat 27 14 ≠ 0 → k.loops.length < 4 → bodyFits k.loops (k.pc + bitsOf w.toNat 27 14) = true →
      k.sreg (bitsOf w.toNat 12 8) ≠ 0 →
      exec (.kLoop c w) s = .next (s.setCore c { k.markIssued 3 with
        loops := ⟨k.pc + 1, k.pc + bitsOf w.toNat 27 14, (k.sreg (bitsOf w.toNat 12 8)).toNat - 1⟩ :: k.loops })) ∧
    (cOp w = 0xE8 → bitsOf w.toNat 31 29 = 0 → brTaken (bitsOf w.toNat 9 8) (k.sreg (bitsOf w.toNat 14 10)) = false →
      exec (.kBr c w) s = .next (s.setCore c (k.markIssued 3))) ∧
    (cOp w = 0xE8 → bitsOf w.toNat 31 29 = 0 → brTaken (bitsOf w.toNat 9 8) (k.sreg (bitsOf w.toNat 14 10)) = true →
      targetFits k.loops (bitsOf w.toNat 28 15) = true →
      exec (.kBr c w) s = .next (s.setCore c { k.markIssued 3 with next := some (bitsOf w.toNat 28 15, branchPenalty (s.env c).tp2) })) ∧
    (cOp w = 0xFF → bitsOf w.toNat 31 8 = 0 → exec (.kEnd c w) s = .next (s.setCore c { k.markIssued 3 with ending := true })) ∧
    (cOp w = 0xE0 → bitsOf w.toNat 31 20 = 0 → bitsOf w.toNat 9 8 = 1 ∨ bitsOf w.toNat 9 8 = 2 → (k.sreg (bitsOf w.toNat 14 10)).toNat < 2 ^ 18 →
      inWindow (s.env c).wins (k.sreg (bitsOf w.toNat 14 10)).toNat = true → k.sigCount < 16 →
      exec (.kSig c w) s = .next (s.setCore c { k.markIssued 3 with
        sigs := k.sigs ++ [⟨k.icyc, (k.sreg (bitsOf w.toNat 14 10)).toNat, bitsOf w.toNat 9 8, (k.sreg (bitsOf w.toNat 19 15)).toNat⟩], sigCount := k.sigCount + 1 }))

/-- The vector arithmetic operations (R113): each issues; each element of va and vb (and vc for a fused multiply-add) gives its correctly rounded result in its format, which
lands in vd four cycles on, and the flags of the lanes are raised. A two-operand form has vc 0. -/
def Obligations.VectorArithmeticResults : Prop :=
  ∀ (s : State) (c : Nat) (w : W32) (k : Core), s.Presents c 1 w k →
    (vOp w = 0x01 → vVc w = 0 → exec (.vadd c w) s = .next (s.deliversLanes c k 4 (vVd w) 4 (zip3With (arithOp fmtB32 0) (elemsOf 4 (k.vreg (vVa w))) (elemsOf 4 (k.vreg (vVb w))) (elemsOf 4 (k.vreg (vVc w)))))) ∧
    (vOp w = 0x02 → vVc w = 0 → exec (.vsub c w) s = .next (s.deliversLanes c k 4 (vVd w) 4 (zip3With (arithOp fmtB32 1) (elemsOf 4 (k.vreg (vVa w))) (elemsOf 4 (k.vreg (vVb w))) (elemsOf 4 (k.vreg (vVc w)))))) ∧
    (vOp w = 0x03 → vVc w = 0 → exec (.vmul c w) s = .next (s.deliversLanes c k 4 (vVd w) 4 (zip3With (arithOp fmtB32 2) (elemsOf 4 (k.vreg (vVa w))) (elemsOf 4 (k.vreg (vVb w))) (elemsOf 4 (k.vreg (vVc w)))))) ∧
    (vOp w = 0x04 → exec (.vfma c w) s = .next (s.deliversLanes c k 4 (vVd w) 4 (zip3With (arithOp fmtB32 3) (elemsOf 4 (k.vreg (vVa w))) (elemsOf 4 (k.vreg (vVb w))) (elemsOf 4 (k.vreg (vVc w)))))) ∧
    (vOp w = 0x05 → vVc w = 0 → exec (.vaddH c w) s = .next (s.deliversLanes c k 4 (vVd w) 2 (zip3With (arithOp fmtF16 0) (elemsOf 2 (k.vreg (vVa w))) (elemsOf 2 (k.vreg (vVb w))) (elemsOf 2 (k.vreg (vVc w)))))) ∧
    (vOp w = 0x06 → vVc w = 0 → exec (.vsubH c w) s = .next (s.deliversLanes c k 4 (vVd w) 2 (zip3With (arithOp fmtF16 1) (elemsOf 2 (k.vreg (vVa w))) (elemsOf 2 (k.vreg (vVb w))) (elemsOf 2 (k.vreg (vVc w)))))) ∧
    (vOp w = 0x07 → vVc w = 0 → exec (.vmulH c w) s = .next (s.deliversLanes c k 4 (vVd w) 2 (zip3With (arithOp fmtF16 2) (elemsOf 2 (k.vreg (vVa w))) (elemsOf 2 (k.vreg (vVb w))) (elemsOf 2 (k.vreg (vVc w)))))) ∧
    (vOp w = 0x08 → exec (.vfmaH c w) s = .next (s.deliversLanes c k 4 (vVd w) 2 (zip3With (arithOp fmtF16 3) (elemsOf 2 (k.vreg (vVa w))) (elemsOf 2 (k.vreg (vVb w))) (elemsOf 2 (k.vreg (vVc w)))))) ∧
    (vOp w = 0x09 → vVc w = 0 → exec (.vaddB c w) s = .next (s.deliversLanes c k 4 (vVd w) 2 (zip3With (arithOp fmtBf16 0) (elemsOf 2 (k.vreg (vVa w))) (elemsOf 2 (k.vreg (vVb w))) (elemsOf 2 (k.vreg (vVc w)))))) ∧
    (vOp w = 0x0A → vVc w = 0 → exec (.vsubB c w) s = .next (s.deliversLanes c k 4 (vVd w) 2 (zip3With (arithOp fmtBf16 1) (elemsOf 2 (k.vreg (vVa w))) (elemsOf 2 (k.vreg (vVb w))) (elemsOf 2 (k.vreg (vVc w)))))) ∧
    (vOp w = 0x0B → vVc w = 0 → exec (.vmulB c w) s = .next (s.deliversLanes c k 4 (vVd w) 2 (zip3With (arithOp fmtBf16 2) (elemsOf 2 (k.vreg (vVa w))) (elemsOf 2 (k.vreg (vVb w))) (elemsOf 2 (k.vreg (vVc w)))))) ∧
    (vOp w = 0x0C → exec (.vfmaB c w) s = .next (s.deliversLanes c k 4 (vVd w) 2 (zip3With (arithOp fmtBf16 3) (elemsOf 2 (k.vreg (vVa w))) (elemsOf 2 (k.vreg (vVb w))) (elemsOf 2 (k.vreg (vVc w))))))

/-- Minimum, maximum and comparison, the logical, integer and shift operations on lanes of 32 bits, VSEL, VBCAST and VLANE (R114): each issues, and two cycles on the results
of its lanes land in vd. By the bits of the encodings alone: a NaN operand of a minimum or maximum gives the canonical NaN with invalid, and a comparison with one gives 0;
otherwise the smaller or the larger operand is given, −0 below +0, and a comparison holds by the order in which −0 and +0 are one; no other flag is raised. -/
def Obligations.VectorIntegerAndCompare : Prop :=
  (∀ (s : State) (c : Nat) (w : W32) (k : Core), s.Presents c 1 w k → vVc w = 0 →
    (vOp w = 0x10 → exec (.vmin c w) s = .next (s.deliversLanes c k 2 (vVd w) 4 (List.zipWith (minMaxVal fmtB32 false) (elemsOf 4 (k.vreg (vVa w))) (elemsOf 4 (k.vreg (vVb w)))))) ∧
    (vOp w = 0x11 → exec (.vmax c w) s = .next (s.deliversLanes c k 2 (vVd w) 4 (List.zipWith (minMaxVal fmtB32 true) (elemsOf 4 (k.vreg (vVa w))) (elemsOf 4 (k.vreg (vVb w)))))) ∧
    (vOp w = 0x12 → exec (.vceq c w) s = .next (s.deliversLanes c k 2 (vVd w) 4 (List.zipWith (cmpMask (fun d => decide (d = 0))) (elemsOf 4 (k.vreg (vVa w))) (elemsOf 4 (k.vreg (vVb w)))))) ∧
    (vOp w = 0x13 → exec (.vclt c w) s = .next (s.deliversLanes c k 2 (vVd w) 4 (List.zipWith (cmpMask (fun d => decide (d < 0))) (elemsOf 4 (k.vreg (vVa w))) (elemsOf 4 (k.vreg (vVb w)))))) ∧
    (vOp w = 0x14 → exec (.vcle c w) s = .next (s.deliversLanes c k 2 (vVd w) 4 (List.zipWith (cmpMask (fun d => decide (d ≤ 0))) (elemsOf 4 (k.vreg (vVa w))) (elemsOf 4 (k.vreg (vVb w)))))) ∧
    (vOp w = 0x15 → exec (.vminH c w) s = .next (s.deliversLanes c k 2 (vVd w) 2 (List.zipWith (minMaxVal fmtF16 false) (elemsOf 2 (k.vreg (vVa w))) (elemsOf 2 (k.vreg (vVb w)))))) ∧
    (vOp w = 0x16 → exec (.vmaxH c w) s = .next (s.deliversLanes c k 2 (vVd w) 2 (List.zipWith (minMaxVal fmtF16 true) (elemsOf 2 (k.vreg (vVa w))) (elemsOf 2 (k.vreg (vVb w)))))) ∧
    (vOp w = 0x17 → exec (.vminB c w) s = .next (s.deliversLanes c k 2 (vVd w) 2 (List.zipWith (minMaxVal fmtBf16 false) (elemsOf 2 (k.vreg (vVa w))) (elemsOf 2 (k.vreg (vVb w)))))) ∧
    (vOp w = 0x18 → exec (.vmaxB c w) s = .next (s.deliversLanes c k 2 (vVd w) 2 (List.zipWith (minMaxVal fmtBf16 true) (elemsOf 2 (k.vreg (vVa w))) (elemsOf 2 (k.vreg (vVb w))))))) ∧
  (∀ (s : State) (c : Nat) (w : W32) (k : Core), s.Presents c 1 w k → vVc w = 0 →
    (vOp w = 0x20 → exec (.vand c w) s = .next (s.deliversLanes c k 2 (vVd w) 4
      (List.zipWith (fun x y => let a := BitVec.ofNat 32 x; let b := BitVec.ofNat 32 y; ((a &&& b).toNat, 0)) (k.lanesOf (vVa w)) (k.lanesOf (vVb w))))) ∧
    (vOp w = 0x21 → exec (.vor c w) s = .next (s.deliversLanes c k 2 (vVd w) 4
      (List.zipWith (fun x y => let a := BitVec.ofNat 32 x; let b := BitVec.ofNat 32 y; ((a ||| b).toNat, 0)) (k.lanesOf (vVa w)) (k.lanesOf (vVb w))))) ∧
    (vOp w = 0x22 → exec (.vxor c w) s = .next (s.deliversLanes c k 2 (vVd w) 4
      (List.zipWith (fun x y => let a := BitVec.ofNat 32 x; let b := BitVec.ofNat 32 y; ((a ^^^ b).toNat, 0)) (k.lanesOf (vVa w)) (k.lanesOf (vVb w))))) ∧
    (vOp w = 0x24 → exec (.viadd c w) s = .next (s.deliversLanes c k 2 (vVd w) 4
      (List.zipWith (fun x y => let a := BitVec.ofNat 32 x; let b := BitVec.ofNat 32 y; ((a + b).toNat, 0)) (k.lanesOf (vVa w)) (k.lanesOf (vVb w))))) ∧
    (vOp w = 0x25 → exec (.visub c w) s = .next (s.deliversLanes c k 2 (vVd w) 4
      (List.zipWith (fun x y => let a := BitVec.ofNat 32 x; let b := BitVec.ofNat 32 y; ((a - b).toNat, 0)) (k.lanesOf (vVa w)) (k.lanesOf (vVb w))))) ∧
    (vOp w = 0x26 → exec (.vimul c w) s = .next (s.deliversLanes c k 2 (vVd w) 4
      (List.zipWith (fun x y => let a := BitVec.ofNat 32 x; let b := BitVec.ofNat 32 y; ((a * b).toNat, 0)) (k.lanesOf (vVa w)) (k.lanesOf (vVb w))))) ∧
    (vOp w = 0x27 → exec (.vshl c w) s = .next (s.deliversLanes c k 2 (vVd w) 4
      (List.zipWith (fun x y => let a := BitVec.ofNat 32 x; let b := BitVec.ofNat 32 y; ((a <<< (b.toNat % 32)).toNat, 0)) (k.lanesOf (vVa w)) (k.lanesOf (vVb w))))) ∧
    (vOp w = 0x28 → exec (.vshr c w) s = .next (s.deliversLanes c k 2 (vVd w) 4
      (List.zipWith (fun x y => let a := BitVec.ofNat 32 x; let b := BitVec.ofNat 32 y; ((a >>> (b.toNat % 32)).toNat, 0)) (k.lanesOf (vVa w)) (k.lanesOf (vVb w))))) ∧
    (vOp w = 0x29 → exec (.vsar c w) s = .next (s.deliversLanes c k 2 (vVd w) 4
      (List.zipWith (fun x y => let a := BitVec.ofNat 32 x; let b := BitVec.ofNat 32 y; ((a.sshiftRight (b.toNat % 32)).toNat, 0)) (k.lanesOf (vVa w)) (k.lanesOf (vVb w)))))) ∧
  (∀ (s : State) (c : Nat) (w : W32) (k : Core), s.Presents c 1 w k →
    (vOp w = 0x23 → exec (.vsel c w) s = .next (s.deliversLanes c k 2 (vVd w) 4
      (zip3With (fun x y m => let a := BitVec.ofNat 32 x; let b := BitVec.ofNat 32 y; let n := BitVec.ofNat 32 m; (((a &&& n) ||| (b &&& ~~~n)).toNat, 0)) (k.lanesOf (vVa w)) (k.lanesOf (vVb w)) (k.lanesOf (vVc w))))) ∧
    (vOp w = 0x2A → vVb w = 0 → vVc w = 0 → vVa w < 32 → exec (.vbcast c w) s = .next (s.deliversLanes c k 2 (vVd w) 4 (List.replicate 128 ((k.sreg (vVa w)).toNat, 0)))) ∧
    (vOp w = 0x2B → vVa w = 0 → vVb w = 0 → vVc w = 0 → exec (.vlane c w) s = .next (s.deliversLanes c k 2 (vVd w) 4 ((List.range 128).map (fun i => (i, 0)))))) ∧
  (∀ (f : Fmt) (x y : Nat), f = fmtB32 ∨ f = fmtF16 ∨ f = fmtBf16 → x < 2 ^ f.width → y < 2 ^ f.width →
    (encNaN f x = true ∨ encNaN f y = true → (∀ b, minMaxVal f b x y = (f.nan, flInvalid)) ∧ (f = fmtB32 → ∀ test, cmpMask test x y = (0, 0))) ∧
    (encNaN f x = false → encNaN f y = false →
      minMaxVal f false x y = (if encKey f x ≤ encKey f y then x else y, 0) ∧ minMaxVal f true x y = (if encKey f x ≤ encKey f y then y else x, 0) ∧
      (f = fmtB32 →
        cmpMask (fun d => decide (d = 0)) x y = (if encOrd f x = encOrd f y then 0xFFFFFFFF else 0, 0) ∧
        cmpMask (fun d => decide (d < 0)) x y = (if encOrd f x < encOrd f y then 0xFFFFFFFF else 0, 0) ∧
        cmpMask (fun d => decide (d ≤ 0)) x y = (if encOrd f x ≤ encOrd f y then 0xFFFFFFFF else 0, 0))))

/-- The conversions between binary32 and int32 (R119) and the special functions (R115) issue, and the results of their lanes land in vd at the latency of Table 5.3 under the
task's timing profile. VCVT (R116 to R118) with legal formats, rounding and part converts element i of the part under R48, with 16 bits of register va XOR 1 in its lane
under stochastic rounding, and the converted elements alone land in vd. -/
def Obligations.VectorFunctionsAndConversion : Prop :=
  (∀ (s : State) (c : Nat) (w : W32) (k : Core), s.Presents c 1 w k → vVc w = 0 →
    (vOp w = 0x31 → vVb w = 0 → exec (.vf2i c w) s = .next (s.deliversLanes c k (latency (s.env c).tp2 .vConv) (vVd w) 4 ((k.lanesOf (vVa w)).map f2i))) ∧
    (vOp w = 0x32 → vVb w = 0 → exec (.vi2f c w) s = .next (s.deliversLanes c k (latency (s.env c).tp2 .vConv) (vVd w) 4 ((k.lanesOf (vVa w)).map i2f))) ∧
    (vOp w = 0x40 → vVb w = 0 → exec (.vrcp c w) s = .next (s.deliversLanes c k (latency (s.env c).tp2 .vRcp) (vVd w) 4 ((k.lanesOf (vVa w)).map fRcp))) ∧
    (vOp w = 0x41 → vVb w = 0 → exec (.vrsqrt c w) s = .next (s.deliversLanes c k (latency (s.env c).tp2 .vRcp) (vVd w) 4 ((k.lanesOf (vVa w)).map fRsqrt))) ∧
    (vOp w = 0x42 → vVb w = 0 → exec (.vsqrt c w) s = .next (s.deliversLanes c k (latency (s.env c).tp2 .vRcp) (vVd w) 4 ((k.lanesOf (vVa w)).map fSqrt))) ∧
    (vOp w = 0x44 → vVb w = 0 → exec (.vexp2 c w) s = .next (s.deliversLanes c k (latency (s.env c).tp2 .vExp) (vVd w) 4 ((k.lanesOf (vVa w)).map fExp2))) ∧
    (vOp w = 0x45 → vVb w = 0 → exec (.vlog2 c w) s = .next (s.deliversLanes c k (latency (s.env c).tp2 .vExp) (vVd w) 4 ((k.lanesOf (vVa w)).map fLog2))) ∧
    (vOp w = 0x46 → vVb w = 0 → exec (.vtanh c w) s = .next (s.deliversLanes c k (latency (s.env c).tp2 .vTanh) (vVd w) 4 ((k.lanesOf (vVa w)).map fTanh))) ∧
    (vOp w = 0x43 → exec (.vdiv c w) s = .next (s.deliversLanes c k (latency (s.env c).tp2 .vDiv) (vVd w) 4 (List.zipWith fDiv (k.lanesOf (vVa w)) (k.lanesOf (vVb w)))))) ∧
  (∀ (s : State) (c : Nat) (w : W32) (k : Core), s.Presents c 1 w k → vOp w = 0x30 →
    let fs := bitsOf w.toNat 23 20
    let fd := bitsOf w.toNat 27 24
    let part := bitsOf w.toNat 31 30
    let n := cvtCount fs fd
    let from_ := if codeBits fs < codeBits fd then part * n else 0
    let to_ := if codeBits fd < codeBits fs then part * n else 0
    let rs := (List.range n).map (fun i => convertVal ((fmtOfCode fd).getD fmtB32) (regElem fs (k.vreg (vVa w)) (from_ + i)) 0
      (if bitsOf w.toNat 29 28 = 1 then some ((k.lanesOf (vVa w ^^^ 1)).getD i 0 % 65536) else none))
    cvtLegal fs fd (bitsOf w.toNat 29 28) part = true →
      exec (.vcvt c w) s = .next (s.setCore c (((k.markIssued 1).raise 4 (rs.foldl (fun a r => a ||| r.2) 0)).emit (latency (s.env c).tp2 .vConv)
        (.vreg (vVd w) (to_ * (codeBits fd / 8)) (packElems (codeBits fd / 8) (rs.map (·.1)))))))

/-- The keyed draws (R127, R128): lane i draws the word of its index, purpose and stream in the form of its operation, and no flag is raised; VFRL in strict mode ends the task
with status 0x16 (R136). -/
def Obligations.RandomDrawResults : Prop :=
  ∀ (s : State) (c : Nat) (w : W32) (k : Core), s.Presents c 1 w k →
    (vOp w = 0x50 → vVc w < 32 → exec (.vrngW c w) s = .next (s.deliversLanes c k (latency (s.env c).tp2 .vRng) (vVd w) 4
      (List.zipWith (fun a b => (rngLane (s.env c) 0 (k.sreg (vVc w)).toNat a b, 0)) (k.lanesOf (vVa w)) (k.lanesOf (vVb w))))) ∧
    (vOp w = 0x51 → vVc w < 32 → exec (.vrngU c w) s = .next (s.deliversLanes c k (latency (s.env c).tp2 .vRng) (vVd w) 4
      (List.zipWith (fun a b => (rngLane (s.env c) 1 (k.sreg (vVc w)).toNat a b, 0)) (k.lanesOf (vVa w)) (k.lanesOf (vVb w))))) ∧
    (vOp w = 0x52 → vVc w < 32 → exec (.vrngB c w) s = .next (s.deliversLanes c k (latency (s.env c).tp2 .vRng) (vVd w) 4
      (List.zipWith (fun a b => (rngLane (s.env c) 2 (k.sreg (vVc w)).toNat a b, 0)) (k.lanesOf (vVa w)) (k.lanesOf (vVb w))))) ∧
    (vOp w = 0x53 → vVc w < 32 → exec (.vrngN c w) s = .next (s.deliversLanes c k (latency (s.env c).tp2 .vRng) (vVd w) 4
      (List.zipWith (fun a b => (rngLane (s.env c) 3 (k.sreg (vVc w)).toNat a b, 0)) (k.lanesOf (vVa w)) (k.lanesOf (vVb w))))) ∧
    (vOp w = 0x58 → vVa w = 0 → vVb w = 0 → vVc w = 0 → s.regs.strictActive = true → exec (.vfrl c w) s = .next (s.endTaskBy c 0x16 (0x58, 1)))

/-- The lane generators (R133): outside test mode each advances once in every cycle of its core, held cycles included, by the step of R133; its output is w, which VFRL
delivers as it stands in the cycle of issue. That a core's cycle is this command is the model's choice (log 4). -/
def Obligations.LaneGenerators : Prop :=
  (∀ (s : State) (c : Nat), c < 128 → (s.core c).run = none → (s.core c).test = false → exec (.laneGeneratorAdvance c) s = .next (s.setCore c (s.core c).advanceLanes)) ∧
  (∀ (s : State) (c : Nat) (k : Core), c < 128 → (s.core c).run.isSome = true → (s.core c).test = false → ((s.core c).advanceLanes.cycle (s.env c)) = .ok k →
    exec (.laneGeneratorAdvance c) s = .next (s.setCore c k) ∧ k.lanes = (s.core c).advanceLanes.lanes) ∧
  (∀ (k : Core) (i : Nat),
    let e := tget 0 k.lanes i
    let x := BitVec.extractLsb' 0 32 e
    let y := BitVec.extractLsb' 32 32 e
    let z := BitVec.extractLsb' 64 32 e
    let w := BitVec.extractLsb' 96 32 e
    let t := x ^^^ (x <<< 11)
    tget 0 k.advanceLanes.lanes i = (w ^^^ (w >>> 19) ^^^ t ^^^ (t >>> 8)) ++ (w ++ (z ++ y : BitVec 64) : BitVec 96) ∧ laneOut e = w) ∧
  (∀ (s : State) (c : Nat) (w : W32) (k : Core), s.Presents c 1 w k → vOp w = 0x58 → vVa w = 0 → vVb w = 0 → vVc w = 0 → s.regs.strictActive = false →
      exec (.vfrl c w) s = .next (s.deliversLanes c k 2 (vVd w) 4 ((List.range 128).map (fun i => ((laneOut (tget 0 k.lanes i)).toNat, 0)))))

/-- The vector memory operations (R120, R103): VLD brings 512 bytes of valid scratchpad lines to vd, VST takes vd to the scratchpad, VACC brings two accumulator rows, VFLG the
flag word of the task's shard. -/
def Obligations.VectorMemoryResults : Prop :=
  ∀ (s : State) (c : Nat) (w : W32) (k : Core), s.Presents c 1 w k →
    (∀ bs, vOp w = 0x60 → vAddr k w % 4 = 0 → vAddr k w + 512 ≤ spadBytes → k.spadRead (vAddr k w) 512 = some bs →
      exec (.vld c w) s = .next (s.delivers c 1 k (latency (s.env c).tp2 .vLoad) (.vreg (vVd w) 0 bs))) ∧
    (vOp w = 0x60 → vAddr k w % 4 = 0 → vAddr k w + 512 ≤ spadBytes → k.spadRead (vAddr k w) 512 = none → exec (.vld c w) s = .next (s.endTaskBy c 0x11 (0x60, 1))) ∧
    (vOp w = 0x61 → vAddr k w % 4 = 0 → vAddr k w + 512 ≤ spadBytes → exec (.vst c w) s = .next (s.delivers c 1 k 3 (.spad (vAddr k w) (k.vreg (vVd w))))) ∧
    (vOp w = 0x62 → (k.sreg (vSa w)).toNat + vImm w ≤ 4094 →
      exec (.vacc c w) s = .next (s.delivers c 1 k (latency (s.env c).tp2 .vAcc)
        (.vreg (vVd w) 0 (packElems 4 ((List.range 128).map (fun i => k.acc ((k.sreg (vSa w)).toNat + vImm w + i / 64) (i % 64))))))) ∧
    (vOp w = 0x63 → vSa w = 0 → vImm w = 0 → exec (.vflg c w) s = .next (s.deliversLanes c k 4 (vVd w) 4 (List.replicate 128 ((s.env c).flagWord, 0))))

/-- A slot operation that does not reach beyond its core leaves the state as it is, changes its own core alone, or ends that core's task in error: every other core, memory,
every context, queue, register page, link and error record is as before unless the task ends in error. -/
def Obligations.SlotOperationsTouchOnlyTheirCore : Prop :=
  ∀ (i : Instr) (c : Nat) (s t : State), slotCore i = some c → exec i s = .next t →
    t = s ∨ ((∀ d, d ≠ c → t.core d = s.core d) ∧ { t with cores := s.cores } = s) ∨ ∃ st op, t = s.endTaskBy c st op

/-- MMA1 and MMA4 (R73): with a record inside the window, a legal pairing and legal fields, the activation stream free, no output conversion reading an accumulator row that is
written, and the staging of the first chunk not empty, the instruction occupies the activation stream from this cycle on. OCV (R79, R93) reserves its converter from this
cycle on; where the converter is still reserved the task ends with status 0x12. -/
def Obligations.MatrixAndConversionIssue : Prop :=
  (∀ (s : State) (c : Nat) (w : W32) (k : Core) (r : Nat) (p : Pairing), s.Presents c 0 w k → fetchRecord k (s.env c) (bitsOf w.toNat 16 4) = some r →
    mmaPairing (mmaFields k w r).fmtA (mmaFields k w r).fmtW = some p → (mmaFields k w r).legal p = true → k.streamBusy = false →
    (∀ v ∈ k.convs, v.2.reserved k.icyc = true → ∀ i, i < v.2.f.rows → (mmaFields k w r).writesRow (v.2.f.accRow + i * v.2.f.accStride) = false) →
    (mmaFields k w r).k = 0 ∨ k.chunkStaged (mmaFields k w r) p 0 ≠ 2 →
    (bitsOf w.toNat 3 0 = 1 → exec (.mma1 c w) s = .next (s.setCore c { k.markIssued 0 with mma := some ⟨mmaFields k w r, k.icyc, [], none, [], []⟩ })) ∧
    (bitsOf w.toNat 3 0 = 2 → exec (.mma4 c w) s = .next (s.setCore c { k.markIssued 0 with mma := some ⟨mmaFields k w r, k.icyc, [], none, [], []⟩ }))) ∧
  (∀ (s : State) (c : Nat) (w : W32) (k : Core) (r : Nat), s.Presents c 0 w k → bitsOf w.toNat 3 0 = 3 → fetchRecord k (s.env c) (bitsOf w.toNat 16 4) = some r →
    (ocvFields k w r).legal = true →
    ((∀ v, tfind k.convs (ocvFields k w r).conv = some v → v.reserved k.icyc = false) →
      exec (.ocv c w) s = .next (s.setCore c { k.markIssued 0 with convs := tset k.convs (ocvFields k w r).conv ⟨ocvFields k w r, k.icyc, []⟩ })) ∧
    (∀ v, tfind k.convs (ocvFields k w r).conv = some v → v.reserved k.icyc = true → exec (.ocv c w) s = .next (s.endTaskBy c 0x12 (3, 0))))

/-- A result that is due lands (R92): with no collision every result whose cycle has come is written in landing order, and the others stay in flight; an operation landing and
a tile that becomes visible both do so, the latter freeing its converter once its reservation has ended (R83). An error found in a memory of the core is its upset (R307).
Two results that land in one cycle in one vector register, scratchpad line or scalar register end the task with status 0x13 (R93). -/
def Obligations.ResultsLand : Prop :=
  (∀ (s : State) (c conv : Nat), c < 128 → collides (s.core c).dueLands = false →
    let k := (s.core c).dueLands.foldl (fun k l => k.land l.what) { s.core c with lands := (s.core c).lands.filter (fun l => (s.core c).icyc < l.cycle) }
    exec (.operationLanding c false) s = .next (s.setCore c k) ∧
    exec (.ocvTileVisible c conv) s = .next (s.setCore c (k.freeConv conv)) ∧
    exec (.operationLanding c true) s = .next (s.coreUpset c)) ∧
  (∀ (s : State) (c conv : Nat), c < 128 → collides (s.core c).dueLands = true →
    exec (.operationLanding c false) s = .next (s.endTask c 0x13) ∧ exec (.ocvTileVisible c conv) s = .next (s.endTask c 0x13))

/-- The cycle of a core with a running task (R87, R92, R94): results due land; while issue holds, only the cycle counts move; when every slot of the present bundle has issued,
the cycle passes and the next bundle stands ready; samples that the Footstool dropped are counted (R107). That a core's cycle is this command is the model's choice (log 4). -/
def Obligations.CoreCyclePasses : Prop :=
  ∀ (s : State) (c : Nat) (k : Core), c < 128 → (s.core c).run.isSome = true → (s.core c).halted = false → (s.core c).test = false → (s.core c).advanceLanes.landDue = .ok k →
    (k.holding (s.env c) = true → exec (.laneGeneratorAdvance c) s = .next ((s.setCore c { k with cyc := k.cyc + 1, wd := if k.halted then k.wd else k.wd + 1 }).countDrops c)) ∧
    (∀ k', k.holding (s.env c) = false → k.canFetch = true → (∀ i, i < 4 → badWord i (k.slotWord (s.env c) i) = false) → k.bundleDone (s.env c) = true →
      k.passCycle (s.env c) true = .ok k' → exec (.laneGeneratorAdvance c) s = .next ((s.setCore c k').countDrops c) ∧ k'.icyc = k.icyc + 1 ∧ k'.cyc = k.cyc + 1)

/-- WFILL starts a fill of one half, which is no longer ready (R151, R152); WFILL_COMPLETE puts the bytes of the oldest fill into its half, which becomes ready unless another
fill of it is in progress (R63): those that the slots of its fill flow have brought, or where the flow has none those that stand in the region. A fill whose slots have not
brought all its bytes does not complete; that a flow without slots is paced by nothing is the model's choice (log 142). -/
def Obligations.WeightFills : Prop :=
  (∀ (s : State) (c : Nat) (w : W32) (k : Core) (r size : Nat) (p : Pairing), s.Presents c 2 w k → bitsOf w.toNat 3 0 = 1 → fetchRecord k (s.env c) (bitsOf w.toNat 16 4) = some r →
    let reg := fun i => if i = 31 then 0 else (k.sreg i).toNat
    let f := wfillFields r (reg (bitsOf w.toNat 21 17)) (reg (bitsOf w.toNat 31 27))
    pairingOf f.fmt = some p → (s.env c).regSize.getD f.sel none = some size → bitsOf w.toNat 26 22 = 31 → f.legal p size = true →
      exec (.wfill c w) s = .next (s.setCore c { (k.markIssued 2).setHalf f.array f.half 1 with
        fills := k.fills ++ [⟨r, reg (bitsOf w.toNat 21 17), reg (bitsOf w.toNat 31 27), 0, 0, []⟩] })) ∧
  (∀ (s : State) (c : Nat) (t : TaskRun) (fr : FillRun) (rest : List FillRun) (p : Pairing) (base : Nat), c < 128 → (s.core c).run = some t → (s.core c).fills = fr :: rest →
    let f := wfillFields fr.record fr.addSrc fr.addScale
    let slotted := ((s.ctx t.ctx).fillFlow c f.sel).isSome
    pairingOf f.fmt = some p → s.boundBase t f.sel = some base →
    (slotted = true → fr.come < f.total p → exec (.wfillComplete c) s = .next s) ∧
    (slotted = false ∨ f.total p ≤ fr.come →
      (∀ r ∈ f.ranges p, s.rangeCheck .r (coreMaster c) t.ctx (base + r.1) r.2 = none ∧ s.devBad (base + r.1) r.2 = false) →
      exec (.wfillComplete c) s = .next (s.setCore c { (s.core c).setHalf f.array f.half
          (if rest.any (fun x => decide ((wfillFields x.record 0 0).array = f.array ∧ (wfillFields x.record 0 0).half = f.half)) then 1 else 2) with
        staging := tputBytes (s.core c).staging (f.array * 131072 + f.half * 65536) (fillHalf f p (fun o n => if slotted then tbytes fr.got o n else s.devRead (base + o) n))
        fills := rest, halfSrc := tset (s.core c).halfSrc (f.array * 2 + f.half) (t.region f.sel) })))

/-- SEND puts valid scratchpad lines at the end of an outbound endpoint's buffer (R154); RECV takes bytes of a read endpoint into scratchpad lines at the latency of a vector
store (R155). A read endpoint takes the bytes that the slots of its read flow have brought to its core, or of a flow without slots those that its ring holds ahead of it, as far as its
buffer of 4 KiB has room (log 142); credit that comes back frees that much of what the sender has used. -/
def Obligations.StreamsAndEndpoints : Prop :=
  (∀ (s : State) (c : Nat) (w : W32) (k : Core), s.Presents c 2 w k → sLegal k w = true →
    (∀ bs, bitsOf w.toNat 3 0 = 2 → k.spadRead (sAddr k w) (sLen w) = some bs →
      ∃ k', exec (.send c w) s = .next (s.setCore c k') ∧ k'.outEps = tset k.outEps (sEp w) (tget [] k.outEps (sEp w) ++ [(k.icyc, bs)]) ∧
        k'.sregs = k.sregs ∧ k'.vregs = k.vregs ∧ k'.spad = k.spad ∧ k'.accs = k.accs ∧ k'.inEps = k.inEps) ∧
    (bitsOf w.toNat 3 0 = 3 → sLen w ≤ (tget [] k.inEps (sEp w)).length → (s.core c).inEps = k.inEps → (∀ t, k.run = some t → t.replay = false) →
      exec (.recv c w) s = .next (s.setCore c (({ k.markIssued 2 with inEps := tput [] k.inEps (sEp w) ((tget [] k.inEps (sEp w)).drop (sLen w)) } : Core).emit 3
        (.spad (sAddr k w) ((tget [] k.inEps (sEp w)).take (sLen w))))))) ∧
  ((∀ (s : State) (c ep n ctx : Nat) (f : FlowDecl), c < 128 → ep < 8 → s.endpointOwner 2 c ep = some (ctx, f) →
    ((s.ctx ctx).slotted f.flow = true →
      let a := tget [] s.net.arrived (flowKey ctx f.flow)
      exec (.readEndpointFetch c ep n) s = .next (State.setCore { s with net := { s.net with arrived := tput [] s.net.arrived (flowKey ctx f.flow) (a.drop n) } } c
        { s.core c with inEps := tput [] (s.core c).inEps ep (tget [] (s.core c).inEps ep ++ a.take n) })) ∧
    (∀ g, (s.ctx ctx).slotted f.flow = false → tfind s.net.rings (ringKey ctx f.ring) = some g →
      ∃ t, exec (.readEndpointFetch c ep n) s = .next t ∧
        (t.core c).inEps = tput [] (s.core c).inEps ep (tget [] (s.core c).inEps ep ++ (g.ahead (c % 8)).take (min n (s.readRoom c ctx f))) ∧
        { t with cores := s.cores, net := s.net } = s ∧ ∀ d, d ≠ c → t.core d = s.core d)) ∧
  (∀ (s : State) (c ep n ctx : Nat) (f : FlowDecl), s.endpointOwner 1 c ep = some (ctx, f) →
    let q := flowKey ctx f.flow
    let m := min (min n (tget 0 s.net.owed q)) (tget 0 s.net.used q)
    exec (.creditReturn c ep n) s = .next { s with net := { s.net with
      owed := tput 0 s.net.owed q (tget 0 s.net.owed q - m), used := tput 0 s.net.used q (tget 0 s.net.used q - m) } }))

/-- COPY, ATOM, PREF and CWAIT issue (R207 to R212): a legal COPY or ATOM starts under its tag, a COPY asking other devices for its source where it lies there; a PREF brings
lines of its page into the die's cache; a CWAIT brings its tag's last status to a scalar register. COPY_COMPLETE: an ATOM whose elements are all applied frees its tag with
status 0; a COPY whose rows are read and written without a refusal frees its tag with the status that its conversion gives, unless a row went to another device: then its tag
stays busy until the next COPY_COMPLETE, which says that those writes are acknowledged (R215; that it is a command of its own is the model's choice, log 139). -/
def Obligations.CopiesIssueAndComplete : Prop :=
  (∀ (s : State) (c : Nat) (w : W32) (k : Core), s.Presents c 2 w k →
    (∀ r t, bitsOf w.toNat 3 0 = 4 → k.run = some t → (s.core c).copies = k.copies → fetchRecord k (s.env c) (bitsOf w.toNat 16 4) = some r → bitOf w.toNat 31 = false →
      let f := copyFields r (copyAdd k (bitsOf w.toNat 30 26))
      let x : CopyRun := ⟨bitsOf w.toNat 25 17, false, r, copyAdd k (bitsOf w.toNat 30 26), k.icyc, k.hashed, [], [], false, none⟩
      let u := s.setCore c { k.markIssued 2 with copies := k.copies ++ [x] }
      f.legal ((s.env c).regSize.getD f.srcSel none) ((s.env c).regPend.getD f.dstSel none) = true → f.hash = 0 →
      exec (.copy c w) s = .next ((u.askRemote t c x).markAway c x.tag (decide (u.out.length < (u.askRemote t c x).out.length)))) ∧
    (∀ r is vs, bitsOf w.toNat 3 0 = 5 → fetchRecord k (s.env c) (bitsOf w.toNat 16 4) = some r → bitOf w.toNat 31 = false →
      let f := atomFields r (copyAdd k (bitsOf w.toNat 30 26))
      f.legal = true → f.aop ≠ 10 → k.spadRead f.idxAddr (4 * f.n) = some is → k.spadRead f.valAddr (f.width * f.n) = some vs →
      ∃ todo, exec (.atom c w) s = .next (s.setCore c { k.markIssued 2 with
        copies := k.copies ++ [⟨bitsOf w.toNat 25 17, true, r, copyAdd k (bitsOf w.toNat 30 26), k.icyc, 0, todo, [], false, none⟩] })) ∧
    (∀ r t a n, bitsOf w.toNat 3 0 = 6 → k.run = some t → (s.core c).issued = k.issued → fetchRecord k (s.env c) (bitsOf w.toNat 16 4) = some r → prefRange k w r = some (a, n) →
      exec (.pref c w) s = .next ((s.setCore c (k.markIssued 2)).prefetch (c / 8) (s.copyMaster c) t.ctx (a / 64 * 64) n)) ∧
    (bitsOf w.toNat 3 0 = 7 → bitsOf w.toNat 16 13 = 0 → bitsOf w.toNat 31 22 = 0 →
      exec (.cwait c w) s = .next (s.delivers c 2 k 1 (.sreg (bitsOf w.toNat 21 17) (BitVec.ofNat 32 (tget 0 k.tagStatus (bitsOf w.toNat 12 4))))))) ∧
  (∀ (s : State) (c tag : Nat) (remote : List Byte) (t : TaskRun) (k : CopyRun), (s.core c).run = some t → (s.core c).copies.find? (fun x => decide (x.tag = tag)) = some k →
    (∀ lockstep, k.atom = true → k.todo = [] →
      exec (.copyComplete c tag remote lockstep) s = .next (s.setCore c { s.core c with
        copies := (s.core c).copies.filter (fun x => decide (x.tag ≠ tag)), tagStatus := tput 0 (s.core c).tagStatus tag 0 })) ∧
    (k.atom = false → k.done = none → exec (.copyComplete c tag remote 0) s = .next (s.copyDone c t k remote)) ∧
    (∀ st, k.atom = false → k.done = some st → exec (.copyComplete c tag remote 0) s = .next (s.copyEnd c tag st)) ∧
    (∀ lockstep, k.atom = false → lockstep ≠ 0 → exec (.copyComplete c tag remote lockstep) s = .next (s.copyFault (c / 8) (s.engineOf c) (decide (lockstep = 2)))) ∧
    (∀ rows s1 s2,
      let f := copyFields k.record k.add
      let dst := (f.deliver rows).1.mapIdx (fun i bs => (rowAt f.dstKind ((s1.pendBase t f.dstSel).getD 0) ((s.env c).pendSize f.dstSel) ((f.dst + i * f.dstStride : Nat) : Int) bs.length, bs))
      let far := dst.any (fun x => match x.1 with | .dev a => s2.goesFar a x.2.length | _ => false)
      f.gather = false → f.srcKind = 2 → f.hash = 0 →
      State.copyReads c (s.copyMaster c) t.ctx f.rowBytes k.got (s.copySrc c t f []) remote [] s = (s1, some rows) → State.copyWrites c (s.copyMaster c) t.ctx dst s1 = (s2, true) →
      (far = false → ((s.copyDone c t k remote).core c).copies = (s2.core c).copies.filter (fun x => decide (x.tag ≠ k.tag)) ∧
        tget 0 ((s.copyDone c t k remote).core c).tagStatus k.tag = (f.deliver rows).2.toNat) ∧
      (far = true → ∀ x ∈ ((s.copyDone c t k remote).core c).copies, x.tag = k.tag → x.done = some (f.deliver rows).2.toNat ∧ x.away = true)))

/-- STACK_REQUEST with a write of up to a line without an error that R353 admits (R213): the bytes are written at the base die and read back, no other byte changes, and where the frame
is not mirrored a write of a core or an engine changes nothing else but that a full line clears an uncorrectable one (R196); one of another device, which its port must admit, is
answered. An admitted read without an error of a host function or of another device is answered with the bytes, and one of a copy gives it its line; an address that decodes to
nothing, and a request that a check refuses, end in the refusal of its class. A request of the host while its function's contexts are being reset stays in the link (R272). -/
def Obligations.StackRequests : Prop :=
  (∀ (s : State) (r : MemReq) (k o : Nat) (bs : List Byte), s.hostShut r.master = false → s.decodeAddr r.addr = some (s.cab, k, o) → r.len ≠ 0 → o % 64 + r.len ≤ 64 → r.bad = 0 →
    (masterKind r.master = 4 → s.portAdmits r.port r.master r.ctx .r = true) →
    r.data = some bs → bs.length = r.len → s.memCheck .w r.master r.ctx k o r.len = none →
    ∃ t, exec (.stackRequest r) s = .next t ∧ t.memRead k o r.len = bs ∧ (∀ a, a < memKey k o ∨ memKey k o + r.len ≤ a → tget 0 t.mem a = tget 0 s.mem a) ∧
      (feMirror (s.frame (frameOf o)) = false → masterKind r.master ≤ 3 → { t with mem := s.mem, badLines := s.badLines } = s) ∧
      (masterKind r.master = 4 → ∃ u : State, t = u.send (.response (masterDev r.master) 0 [])) ∧
      (o % 64 ≠ 0 → t.badLines = s.badLines) ∧ t.cores = s.cores ∧ t.queues = s.queues ∧ t.frames = s.frames) ∧
  (∀ (s : State) (r : MemReq) (k o : Nat), s.hostShut r.master = false → s.decodeAddr r.addr = some (s.cab, k, o) → r.len ≠ 0 → o % 64 + r.len ≤ 64 → bitOf r.bad 16 = false →
    (masterKind r.master = 4 → s.portAdmits r.port r.master r.ctx .r = true) →
    (r.data = none → s.memCheck .r r.master r.ctx k o r.len = none → r.bad = 0 → s.devBad (k * 2 ^ 36 + o) r.len = false →
      (masterKind r.master = 8 → exec (.stackRequest r) s = .next (s.hostAnswer (r.master % 64) 0 (s.memRead k o r.len))) ∧
      (masterKind r.master = 4 → exec (.stackRequest r) s = .next (s.send (.response (masterDev r.master) 0 (s.memRead k o r.len)))) ∧
      (∀ c, masterKind r.master = 1 → r.core = some c → exec (.stackRequest r) s = .next (s.copyGets c k (o / 64 * 64))) ∧
      (masterKind r.master ≠ 1 → masterKind r.master ≠ 4 → masterKind r.master ≠ 8 → exec (.stackRequest r) s = .next s)) ∧
    (∀ cls, r.data = none → s.memCheck .r r.master r.ctx k o r.len = some cls → exec (.stackRequest r) s = .next (s.refuseReq r cls)) ∧
    (∀ cls bs, r.data = some bs → s.memCheck .w r.master r.ctx k o r.len = some cls → exec (.stackRequest r) s = .next (s.refuseReq r cls))) ∧
  (∀ (s : State) (q : MemReq), (s.hostShut q.master = true → exec (.stackRequest q) s = .next s) ∧
    (s.hostShut q.master = false → s.decodeAddr q.addr = none → exec (.stackRequest q) s = .next (s.refuseReq q 0x37)))

/-- Mirrors (R201, R203, R327): an acknowledgement takes one write off its buddy's count; a repair request sends the line to the buddy and counts it; an error response ends
the task that asked, or stops the context whose mirror write was refused with a record of class 0x44 that names the buddy, or the context whose signal was refused with one of
class 0x38 (R353). Die caches (R202, R206): a miss on an admitted, stable and correct line fills the line and run-ahead follows, and a copy that reads the line has it from then
on, as on a hit (R214); a line that is not stable changes nothing; a refused read ends the task. -/
def Obligations.MirrorsAndDieCaches : Prop :=
  (∀ (s : State) (dev n : Nat),
    (n < 64 → exec (.mirrorWriteAck dev n) s = .next (s.setCtx n { s.ctx n with mem := { (s.ctx n).mem with
      unacked := tput 0 (s.ctx n).mem.unacked dev (tget 0 (s.ctx n).mem.unacked dev - 1) } })) ∧
    (∀ stack off e, ((List.range 256).map (s.mirrorEntry stack)).find? (fun e => (mirrorBuddies e).contains dev && decide (bitsOf e 55 36 ≤ frameOf off)) = some e →
      let o := off - bitsOf e 55 36 * 65536 + bitsOf e 35 16 * 65536
      let ctx := feOwner (s.frame (frameOf o))
      ∃ t, exec (.mirrorRepairRequest dev stack off) s = .next t ∧
        (t.ctx ctx).mem.unacked = tput 0 (s.ctx ctx).mem.unacked dev (tget 0 (s.ctx ctx).mem.unacked dev + 1) ∧
        (dev = s.cab ∨ (s.routePort dev).isSome → t.out = s.out ++ [.remote dev 1 (stack * 2 ^ 36 + off) (peerCtx (s.ctx ctx) dev) 1 64 (s.memRead stack o 64)]) ∧
        t.mem = s.mem ∧ t.cores = s.cores ∧ t.queues = s.queues ∧ t.regs = s.regs ∧ t.frames = s.frames ∧ ∀ m, m ≠ ctx → t.ctx m = s.ctx m) ∧
    (∀ c addr, (s.core c).run.isSome = true → exec (.remoteErrorResponse dev n (.task c) 0x18 addr) s = .next (s.endTaskBy c 0x18 copyOp)) ∧
    (∀ c addr cls, (s.core c).run = none → (∀ x ∈ s.care.late, x.core ≠ c) → exec (.remoteErrorResponse dev n (.task c) cls addr) s = .next s) ∧
    (∀ c cls addr, (s.core c).run.isSome = true → cls ≠ 0x18 → exec (.remoteErrorResponse dev n (.task c) cls addr) s = .next (s.refuseTask c (s.copyMaster c) cls addr copyOp)) ∧
    (∀ cls addr, n < 64 → exec (.remoteErrorResponse dev n .mirror cls addr) s =
      .next ((s.record { s.ctxRec 0x44 2 n with addr := addr, syndrome := dev % 128 }).stopCtx n 0x44)) ∧
    (∀ cls addr, n < 64 → exec (.remoteErrorResponse dev n .signal cls addr) s =
      .next ((s.record (s.refusalRec 0x38 2 (0x4200 + s.cab) n addr)).stopCtx n 0x38))) ∧
  (∀ (s : State) (c addr k o : Nat) (t : TaskRun), (s.core c).run = some t → s.decodeAddr addr = some (s.cab, k, o) →
    (∀ bad cls, s.memCheck .r (s.copyMaster c) t.ctx k (o / 64 * 64) 64 = some cls → exec (.dieCacheRead c addr bad) s = .next (s.refuseTask c (s.copyMaster c) cls addr copyOp)) ∧
    (s.memCheck .r (s.copyMaster c) t.ctx k (o / 64 * 64) 64 = none →
      (∀ bad, feStable (s.frame (frameOf o)) = false → exec (.dieCacheRead c addr bad) s = .next s) ∧
      (∀ bad, feStable (s.frame (frameOf o)) = true → (c / 8, memKey k (o / 64 * 64)) ∈ s.care.cache → symbols bad < 2 →
        exec (.dieCacheRead c addr bad) s = .next (s.copyGets c k (o / 64 * 64))) ∧
      (feStable (s.frame (frameOf o)) = true → (c / 8, memKey k (o / 64 * 64)) ∉ s.care.cache → s.devBad (k * 2 ^ 36 + o / 64 * 64) 64 = false →
        exec (.dieCacheRead c addr 0) s = .next ((s.missFill c (s.copyMaster c) t.ctx (addr / 64)).copyGets c k (o / 64 * 64))))) ∧
  (∀ (s : State) (c master ctx l k o : Nat), s.decodeAddr (64 * l) = some (s.cab, k, o) → feStable (s.frame (frameOf o)) = true → (c / 8, memKey k o) ∉ s.care.cache →
    s.missFill c master ctx l = (s.cacheFill (c / 8) k o).runAhead (c / 8) master ctx (64 * l / 65536) (s.regs.field (dieCachePage (c / 8)) 0x80 6 0) (64 * l + 64))

/-- Atomic units (R204, R205): an operation of another device that passes the checks replaces the element by the result of Table 9.11 of its old value, answers its source and
leaves every byte outside the element; one of a task's ATOM leaves its element done; a writeback frees the line buffer and leaves the memory's bytes as they read. -/
def Obligations.AtomicOperations : Prop :=
  (∀ (s : State) (dev ctx a aop v k o : Nat), s.decodeAddr a = some (s.cab, k, o) → 1 ≤ aop → aop ≤ 10 → o % atomWidth aop = 0 → (k, o / 64 * 64) ∈ s.care.linebufs →
    s.memCheckAt (dieCachePage k) .a (0x4000 + dev % 128) ctx o (atomWidth aop) = none → s.devBad (k * 2 ^ 36 + o / 64 * 64) 64 = false →
    ∃ t, exec (.atomLineOperation (.remote dev ctx a aop v) 0) s = .next t ∧
      t.memRead k o (atomWidth aop) = leBytes (atomWidth aop) (atomApply aop (leNat (s.memRead k o (atomWidth aop))) v) ∧
      (∀ b, b < memKey k o ∨ memKey k o + atomWidth aop ≤ b → tget 0 t.mem b = tget 0 s.mem b) ∧
      t.cores = s.cores ∧ t.ctxs = s.ctxs ∧ t.queues = s.queues ∧ t.regs = s.regs ∧ t.frames = s.frames) ∧
  (∀ (s : State) (c tag i a v k o : Nat) (t : TaskRun) (x : CopyRun), (s.core c).run = some t → (s.core c).copies.find? (fun y => decide (y.tag = tag) && y.atom) = some x →
    x.todo[i]? = some (a, v) → s.decodeAddr a = some (s.cab, k, o) → (k, o / 64 * 64) ∈ s.care.linebufs →
    s.memCheckAt (dieCachePage k) .a (s.copyMaster c) t.ctx o (atomWidth (atomFields x.record x.add).aop) = none → s.devBad (k * 2 ^ 36 + o / 64 * 64) 64 = false →
    ∃ u, exec (.atomLineOperation (.core c tag i) 0) s = .next u ∧
      u.memRead k o (atomWidth (atomFields x.record x.add).aop) = leBytes (atomWidth (atomFields x.record x.add).aop)
        (atomApply (atomFields x.record x.add).aop (leNat (s.memRead k o (atomWidth (atomFields x.record x.add).aop))) v) ∧
      (u.core c).copies = (s.core c).copies.map (fun y => if y.tag = tag then { y with todo := y.todo.eraseIdx i } else y) ∧
      u.ctxs = s.ctxs ∧ u.queues = s.queues ∧ u.regs = s.regs ∧ u.frames = s.frames ∧ u.out = s.out) ∧
  (∀ (s : State) (k line : Nat), (k, line) ∈ s.care.linebufs → ∃ t, exec (.atomLineWriteback k line) s = .next t ∧ (k, line) ∉ t.care.linebufs ∧
    (∀ a, tget 0 t.mem a = tget 0 s.mem a) ∧ t.cores = s.cores ∧ t.queues = s.queues ∧ t.regs = s.regs ∧ t.frames = s.frames)

/-- The frame table and the scrub (R193, R194, R197, R199): a change in range leaves the entry with its reserved bits 0 and zeroing kept, and a stable frame that becomes
writable again leaves the die caches; zeroing makes every byte of the frame read 0 and the entry of a freed frame 0, and touches no other frame; a scrub pass of a stack
without an error changes nothing, and one corrected symbol of a line counts. -/
def Obligations.FrameMaintenance : Prop :=
  (∀ (s : State) (f e : Nat), f < 786432 → s.entryOk f e = true → ∃ t, exec (.frameTableCommit [(f, e)]) s = .next t ∧ t.frame f = entryWritten (s.frame f) e ∧
    (∀ g, g ≠ f → t.frame g = s.frame g) ∧ (feStable (s.frame f) = true → feStable (entryWritten (s.frame f) e) = false → ∀ l ∈ t.care.cache, frameOf (l.2 % 2 ^ 36) ≠ f) ∧
    { t with frames := s.frames, care := s.care } = s) ∧
  (∀ (s : State) (f e : Nat), f < 786432 → s.entryOk f e = false → exec (.frameTableCommit [(f, e)]) s = .next (s.blkErr (stackPage 0) 0)) ∧
  (∀ (s : State) (f : Nat), feZeroing (s.frame f) = true → feAlloc (s.frame f) = false → ∃ t, exec (.frameZeroingComplete f) s = .next t ∧ t.frame f = 0 ∧
    (∀ a, frameOf (a % 2 ^ 36) = f → tget 0 t.mem a = 0) ∧ (∀ a, frameOf (a % 2 ^ 36) ≠ f → tget 0 t.mem a = tget 0 s.mem a) ∧ (∀ g, g ≠ f → t.frame g = s.frame g) ∧
    { t with frames := s.frames, mem := s.mem, badLines := s.badLines } = s) ∧
  (∀ (s : State) (k : Nat), k < 16 → exec (.scrubPass k []) s = .next s) ∧
  (∀ (s : State) (k line : Nat), k < 16 → line < stackBytes → 1 ≤ s.regs.field (stackPage k) 0x80 15 8 →
    exec (.scrubPass k [(line, 1)]) s = .next (s.count (stackPage k) .eccCorrected 1))

/-- Signals (R168, R171, R172, R175, R179): a SIG whose earlier operations have landed, a host's CTX_SIG and an admitted signal of another device of the present generation go
on their way to the counter of their number; a signal of another generation is discarded and counted; a notice teaches a die the counter's value. -/
def Obligations.SignalsTravel : Prop :=
  (∀ (s : State) (c : Nat) (t : TaskRun) (g : SigPend) (rest : List SigPend) (k : Nat), (s.core c).run = some t → (s.core c).sigs = g :: rest → (s.core c).settledUpTo g.iss = true →
    s.sentUpTo c t.ctx g.iss = true → s.deviceCtr t.ctx g.ctr = some k →
    ∃ u, exec (.sigConditionMet c) s = .next u ∧ u.sigs = s.sigs ++ [⟨k, g.op, g.arg, coreMaster c, t.ctx, t.key⟩] ∧ (u.core c).sigs = rest ∧ (∀ d, d ≠ c → u.core d = s.core d) ∧
      { u with sigs := s.sigs, cores := s.cores } = s) ∧
  (∀ (s : State) (master n : Nat) (v : W64) (k : Nat), n < 64 → s.mayCommand n master = true → bitsOf v.toNat 19 18 = 1 ∨ bitsOf v.toNat 19 18 = 2 →
    s.deviceCtr n (bitsOf v.toNat 17 0) = some k → (s.ctx n).hostInput (bitsOf v.toNat 17 0) = true →
    exec (.ctxSig master n v) s = .next { s with sigs := s.sigs ++ [⟨k, bitsOf v.toNat 19 18, bitsOf v.toNat 63 20, master, n, 0⟩] }) ∧
  (∀ (s : State) (m : SyncMsg) (k : Nat), m.ctx < 64 → s.deviceCtr m.ctx m.ctr = some k → s.portAdmitsSync m.port (0x4200 + m.dev % 128) m.ctx = true →
    s.admits (syncPage (k / 16384)) 0 (0x4200 + m.dev % 128) m.ctx (k % 16384) (k % 16384) .s = true →
    (m.gen = (s.ctx m.ctx).job.gen → exec (.crossDeviceSignal m) s = .next { s with sigs := s.sigs ++ [⟨k, m.op, m.arg, 0x4200 + m.dev % 128, m.ctx, 0⟩] }) ∧
    (m.gen ≠ (s.ctx m.ctx).job.gen → exec (.crossDeviceSignal m) s = .next (s.discard m.ctx))) ∧
  (∀ (s : State) (die k v : Nat) (rest : List (Nat × Nat × Nat)), s.notices = (die, k, v) :: rest →
    exec (.counterValueNotify die k) s = .next { s with notices := rest, known := tput 0 s.known (die * 2 ^ 18 + k) v })

/-- SIGNAL_APPLY (R168): a legal signal reaches a counter that a context owns and is no proxy: an add gives the sum, which saturates at 2^64 − 1, a set-max gives the larger;
the counter names its last master and time, and no other counter changes. A signal whose operation is not that of the counter's mode (R169) leaves every counter's value as
it is, writes a record of class 0x33, and stops the queues of the context that owns the counter. -/
def Obligations.SignalsApply : Prop :=
  (∀ (s : State) (g : Signal) (rest : List Signal) (n : Nat), s.sigs = g :: rest → s.ctrOwner g.ctr = some n → (s.ctr g.ctr).proxy = false →
    g.op = 1 ∧ (s.ctr g.ctr).mode = 0 ∨ g.op = 2 ∧ (s.ctr g.ctr).mode = 1 →
    ∃ t, exec (.signalApply false) s = .next t ∧
      t.ctr g.ctr = { s.ctr g.ctr with
        value := if g.op = 1 then min ((s.ctr g.ctr).value + g.arg) (2 ^ 64 - 1) else max (s.ctr g.ctr).value g.arg, lastMaster := g.master, lastTime := s.now } ∧
      (∀ k, k ≠ g.ctr → t.ctr k = s.ctr k) ∧ t.mem = s.mem ∧ t.frames = s.frames ∧ t.regions = s.regions) ∧
  (∀ (s : State) (g : Signal) (rest : List Signal) (n : Nat), s.sigs = g :: rest → s.ctrOwner g.ctr = some n → (s.ctr g.ctr).proxy = false →
    g.op = 1 ∧ (s.ctr g.ctr).mode ≠ 0 ∨ g.op = 2 ∧ (s.ctr g.ctr).mode ≠ 1 →
    ∃ t, exec (.signalApply false) s = .next t ∧
      t.ctr g.ctr = { s.ctr g.ctr with lastMaster := g.master, lastTime := s.now } ∧ (∀ k, k ≠ g.ctr → t.ctr k = s.ctr k) ∧
      t = (({ s with sigs := rest } : State).setCtr g.ctr { s.ctr g.ctr with lastMaster := g.master, lastTime := s.now }).ctrError 0x33 g.ctr g.master ∧
      ((s.ctx n).state ≠ 0 → (t.ctx n).state = 5 ∧ (t.ctx n).errStop = true) ∧ t.mem = s.mem ∧ t.frames = s.frames ∧ t.regions = s.regions)

/-- Barriers (R181): an arrival of a child raises what its node knows of that child and the node advances; a release goes to every child and, at
a member, raises its release counter; a message of another generation of the context is discarded. -/
def Obligations.BarrierMessages : Prop :=
  ∀ (s : State) (m : BarMsg) (b : BarNode), m.ctx < 64 →
    (m.gen = (s.ctx m.ctx).job.gen → tfind s.bars (barKey m.ctx m.barrier) = some b →
      exec (.barrierArrivalMessage m) s = .next (State.barAdvance { s with bars := tset s.bars (barKey m.ctx m.barrier) { b with
        childGen := tput 0 b.childGen m.dev (max (tget 0 b.childGen m.dev) m.g) } } (barKey m.ctx m.barrier))) ∧
    (m.gen = (s.ctx m.ctx).job.gen → tfind s.bars (barKey m.ctx m.barrier) = some b → b.children = [] → b.member = true →
      exec (.barrierReleaseMessage m) s = .next (State.sendSignal { s with bars := tset s.bars (barKey m.ctx m.barrier) { b with released := max m.g b.released } } b.ctx b.relCtr 2 m.g 0xF000)) ∧
    (m.gen = (s.ctx m.ctx).job.gen → tfind s.bars (barKey m.ctx m.barrier) = some b → ∀ c, b.children = [c] → b.member = false →
      exec (.barrierReleaseMessage m) s = .next (State.barSend { s with bars := tset s.bars (barKey m.ctx m.barrier) { b with released := max m.g b.released } } b c msgBarRelease m.g)) ∧
    (m.gen ≠ (s.ctx m.ctx).job.gen → exec (.barrierArrivalMessage m) s = .next (s.discard m.ctx) ∧ exec (.barrierReleaseMessage m) s = .next (s.discard m.ctx))

/-- The watchdog of waits (R183) and the counter snapshot (R185): a head of a RUNNING context that is stalled for longer than the limit leads to the record and the abort of
R183; a snapshot holds the counter's value, last master and time and its waiters, and is ready once they are gathered. -/
def Obligations.WaitWatchdogAndSnapshot : Prop :=
  (∀ (s : State) (qid : Nat) (q : Queue), qid < 65536 → s.queue qid = some q → q.stallLimit < q.stall → (s.ctx q.ctx).state = 2 → s.stalled qid q = true →
    let w := descWait (s.headDesc q) (if s.waitOk qid q 0 then 1 else 0)
    exec (.waitWatchdogExpiry qid) s = .next (s.waitTimeout q.ctx qid w.2.1 w.2.2 false)) ∧
  (∀ (s : State) (n i : Nat) (q : Cq), i < 16 → tfind (s.ctx n).cqs i = some q → q.stallLimit < q.stall → (s.ctx n).state = 2 → s.cqReady n q = false →
    exec (.waitWatchdogExpiry (65536 + 16 * n + i)) s = .next (s.waitTimeout n i (bitsOf (s.cqDesc q) 113 96) (bitsOf (s.cqDesc q) 191 128) true)) ∧
  (∀ (s : State) (master die i n : Nat), die < 16 → i < 16384 → master = 0x8000 ∨ master = 0xF000 → s.ctrOwner (die * 16384 + i) = some n → (s.ctr (die * 16384 + i)).proxy = false →
    exec (.syncDbgSel master die i) s = .next { s with dbg := tset s.dbg die ⟨(s.ctr (die * 16384 + i)).value, (s.ctr (die * 16384 + i)).lastMaster,
      (s.ctr (die * 16384 + i)).lastTime, false, s.waitersOn (die * 16384 + i), n, false, (s.ctr (die * 16384 + i)).mode⟩ }) ∧
  (∀ (s : State) (die : Nat) (d : SyncDbg), tfind s.dbg die = some d → exec (.syncSnapshotComplete die) s = .next { s with dbg := tset s.dbg die { d with ready := true } })

/-- Dispatch (R282, R100): a free core with a candidate chooses one, and nothing else changes; the chosen head of a RUNNING context dispatches, unless the entry of a region that
it names is found in error (R307). At dispatch (R95, Table 5.4) a
core starts at the first bundle of the descriptor with the eight parameters in s0 to s7, every other scalar register, every vector register, the flags, the digest and the
cycle counts 0, and keeps its instruction memory, its endpoints and its lane generators. -/
def Obligations.DispatchOfTileTasks : Prop :=
  ((∀ (s : State) (c : Nat) (e : Nat × Queue), s.coreFree c = true → e ∈ s.queues → s.candidate c e.1 e.2 = true → ∃ a, exec (.dispatchDecision c) s = .next { s with arbs := tput Arb.reset s.arbs c a }) ∧
  (∀ (s : State) (c qid : Nat) (q : Queue), (s.arb c).chosen = some (qid, q.head) → s.queue qid = some q → (s.ctx q.ctx).state = 2 → (s.ctx q.ctx).st.hold = 0 → s.fencedCore c = false →
    (s.core c).run = none →
    let u : State := { s with arbs := tput Arb.reset s.arbs c { s.arb c with chosen := none } }
    exec (.tileTaskDispatch c false) s = .next (u.dispatchTask c qid q) ∧ exec (.tileTaskDispatch c true) s = .next (u.regionFault q.ctx (descRegions (u.headDesc q)))) ∧
  (∀ (s : State) (c qid : Nat) (q : Queue), let d := s.headDesc q
    (s.takeHead qid q d).descLegal q d = true → s.devBad (q.entry q.head) 128 = false → (s.core c).fsPending = none →
    ∃ t : TaskRun, t.ctx = q.ctx ∧ t.queue = qid ∧ t.ring = q.head ∧ t.desc = d ∧ t.tp2 = (s.ctx q.ctx).tp2 ∧ s.dispatchTask c qid q = (s.takeHead qid q d).beginTask c t ∧
      (s.dispatchTask c qid q).core c = (s.core c).atDispatch t t.tp2 (s.regs.field (corePage c) 0x80 15 0))) ∧
  (∀ (k : Core) (t : TaskRun) (tp2 : Bool) (lim i : Nat),
    let d := k.atDispatch t tp2 lim
    d.pc = descField t.desc 45 32 ∧ (i < 8 → d.sreg i = BitVec.ofNat 32 (descField t.desc (607 + 32 * i) (576 + 32 * i))) ∧ (8 ≤ i → d.sreg i = 0) ∧
      d.vregs = [] ∧ d.accs = [] ∧ d.spad = [] ∧ d.flags = [] ∧ d.digest = 0 ∧ d.icyc = 0 ∧ d.cyc = 0 ∧ d.run = some t ∧
      d.imem = k.imem ∧ d.outEps = k.outEps ∧ d.inEps = k.inEps ∧ d.lanes = k.lanes)

/-- The end of a tile-task (R100, R101, R105): in the cycle in which the last of its work lands it completes: its descriptor carries status 1 and the core, its context's count rises by one, and
its core is free; after more than limit × 1,200 cycles it ends with status 0x17. -/
def Obligations.TileTaskEnds : Prop :=
  ∀ (s : State) (c : Nat) (t : TaskRun), (s.core c).run = some t →
    ((s.landedNow c).taskSettled c t = true → exec (.tileTaskCompletion c) s = .next ((s.landedNow c).completeTask c t)) ∧
    ((s.landedNow c).taskSettled c t = false → exec (.tileTaskCompletion c) s = .next s) ∧
    (∀ k, (s.core c).landDue = .ok k → s.landedNow c = s.setCore c k) ∧
    ((s.core c).wdLimit * 1200 < (s.core c).wd → exec (.taskWatchdogExpiry c) s = .next (s.endTask c 0x17)) ∧
    ((s.core c).wd ≤ (s.core c).wdLimit * 1200 → exec (.taskWatchdogExpiry c) s = .next s) ∧
    (s.completeTask c t).core c = (s.core c).idle ∧ ((s.completeTask c t).ctx t.ctx).st.tasksDone = ((s.ctx t.ctx).st.tasksDone + 1) % 2 ^ 64

/-- The Footstool (R106 to R108): the oldest sample of exact mode leaves the buffer; where its recomputation agrees it counts as checked, and where it does not, with no task
running, the mismatch waits for the core's next task; one whose buffer entry fails its parity counts as dropped. The oldest sample of wide mode, whose master weights can be read
and whose sum is not zero and finite, adds to its watch entry's count. Cross-core replay (R311, R313): a pending replay runs on the first partner that may run it and records
its digest (log 115); a digest equal to the original's ends the replay without a record; when both partners give one digest that differs from the original's, the original core
is fenced, and when the second gives the original's, the first partner is. -/
def Obligations.FootstoolAndReplay : Prop :=
  (∀ (s : State) (c : Nat) (x : FsSample), c < 128 →
    ((s.core c).fsBuf.find? (fun y => y.entry.isNone) = some x →
      (∀ fault, bitOf fault 36 = true → exec (.footstoolExactCheck c fault) s = .next ((s.setCore c ((s.core c).fsPop x)).count (corePage c) .fsDropped 1)) ∧
      (∀ fault, bitOf fault 36 = false → (recompute (x.faulty fault)).1 = (x.faulty fault).delivered → (recompute (x.faulty fault)).2.toNat = (x.faulty fault).flags →
        exec (.footstoolExactCheck c fault) s = .next ((s.setCore c ((s.core c).fsPop x)).count (corePage c) .fsChecked 1)) ∧
      (∀ fault, bitOf fault 36 = false → (recompute (x.faulty fault)).1 ≠ (x.faulty fault).delivered → (s.core c).run = none →
        exec (.footstoolExactCheck c fault) s = .next ((((s.setCore c ((s.core c).fsPop x)).count (corePage c) .fsChecked 1).count (corePage c) .fsMismatch 1).setCore c
          { (s.core c).fsPop x with fsPending := some ⟨fsSyndrome (x.faulty fault) (recompute (x.faulty fault)), if x.conv then 4 else 3, x.unit⟩ }))) ∧
    (∀ n ws, (s.core c).fsBuf.find? (fun y => y.entry.isSome) = some x → x.entry = some n → n < 16 → s.masterWeights c n x = some ws →
      absB32 (wideSum x.a0 ws) ≠ 0 → absB32 (wideSum x.a0 ws) < 0x7F800000 →
      ∃ t, exec (.footstoolWideSample c) s = .next t ∧
        t.regs.word (corePage c) (0x100 + 0x20 * n + 0xC) = satAdd 32 (s.regs.word (corePage c) (0x100 + 0x20 * n + 0xC)) 1 ∧ (t.core c) = (s.core c).fsPop x ∧
        { t with regs := s.regs, cores := s.cores } = s)) ∧
  (∀ (s : State) (c : Nat) (r : Replay),
    (∀ p fault, s.care.replays.find? (fun x => decide (x.core = c)) = some r → s.replayOn r = some p → s.mayReplay p r = true →
      exec (.crossCoreReplay c fault) s = .next (({ s with care := { s.care with replays := s.care.replays.map (fun x =>
         if x = r then { r with results := r.results ++ [(p, r.digest ^^^ fault % 2 ^ 64)] } else x) } } : State).count 1 .rplReplayed 1)) ∧
    (s.care.replays.find? (fun x => decide (x.core = c) && !x.results.isEmpty) = some r →
      (∀ p, r.results = [(p, r.digest)] → exec (.replayCompare c) s = .next (s.dropReplay r)) ∧
      (∀ p q d, r.results = [(p, d), (q, d)] → d ≠ r.digest → exec (.replayCompare c) s = .next (((s.dropReplay r).count 1 .rplMismatch 1).replayFault r c d)) ∧
      (∀ p q d, r.results = [(p, d), (q, r.digest)] → d ≠ r.digest → exec (.replayCompare c) s = .next (((s.dropReplay r).count 1 .rplMismatch 1).replayFault r p d))))

/-- FLIT_PASSES_CHANNEL (R161): in a slot the flits due there, that of the channel's own source and any others are presented; one alone that matches the slot's entry is
forwarded and no other effect happens, and it goes on to its next channels by the tables (R144); one alone that does not match is discarded: the conflict is captured, its
context's running tasks end with 0x12 and its queues stop (R162). A slot without flits changes nothing. The capture holds the first conflict since the valid bit was cleared,
with a count of 1; after it only the count rises, up to its greatest value. -/
def Obligations.ScheduledSlots : Prop :=
  (∀ (s : State) (die ch slot : Nat), (slotTable die ch).isSome = true → slot < 256 → s.root.crossings = true →
    (∀ others, exec (.flitPassesChannel die ch slot others 0) s = .next (s.passSlot die ch slot (others.filter (fun f => decide (f.2.1 < 64 ∧ f.2.2 < 4096))))) ∧
    (∀ others, exec (.flitPassesChannel die ch slot others 1) s = .next (s.slotUpset die ch slot) ∧ exec (.flitPassesChannel die ch slot others 2) s = .next (s.tagUpset die ch slot)) ∧
    (die < 16 ∨ ch < 8 → s.slotEntry die ch slot % 4 ≠ 1 → s.dueFlits die ch slot = [] → exec (.flitPassesChannel die ch slot [] 0) s = .next s) ∧
    (∀ i ctx flow, die < 16 ∨ ch < 8 → s.slotEntry die ch slot % 4 ≠ 1 → s.dueFlits die ch slot = [] → ctx < 64 → flow < 4096 →
      exec (.flitPassesChannel die ch slot [(i, ctx, flow)] 0) s =
        .next ((s.captureConflict die ch slot (s.slotEntry die ch slot) ctx flow).conflictStop die ch slot (s.slotEntry die ch slot) ctx flow))) ∧
  (∀ (s : State) (die ch slot : Nat) (f : Flit),
    (s.slotEntry die ch slot % 4 = 1 → bitsOf (s.slotEntry die ch slot) 7 2 = f.ctx → bitsOf (s.slotEntry die ch slot) 19 8 = f.flow → s.passFlits die ch slot [f] = s.forwardFlit f) ∧
    (¬ (s.slotEntry die ch slot % 4 = 1 ∧ bitsOf (s.slotEntry die ch slot) 7 2 = f.ctx ∧ bitsOf (s.slotEntry die ch slot) 19 8 = f.flow) →
      s.passFlits die ch slot [f] = (s.captureConflict die ch slot (s.slotEntry die ch slot) f.ctx f.flow).conflictStop die ch slot (s.slotEntry die ch slot) f.ctx f.flow) ∧
    (∀ d next input, ¬ (16 ≤ f.die ∧ 8 ≤ f.channel) → nextRouter f.die f.channel f.slot = some (d, next, input) →
      (s.forwardFlit f).net.flits = s.net.flits ++ (s.nextChannels d next input f.ctx f.flow).map (fun c => { f with die := d, channel := c, slot := next, input := input }))) ∧
  (∀ (s : State) (die ch slot e ctx flow : Nat),
    (bitOf (tget 0 s.net.conflict die) 63 = false → tget 0 (s.captureConflict die ch slot e ctx flow).net.conflict die = conflictWord ch slot e ctx flow 1) ∧
    (bitOf (tget 0 s.net.conflict die) 63 = true → bitsOf (tget 0 s.net.conflict die) 62 52 < 0x7FF →
      let v := tget 0 (s.captureConflict die ch slot e ctx flow).net.conflict die
      bitsOf v 51 0 = bitsOf (tget 0 s.net.conflict die) 51 0 ∧ bitsOf v 62 52 = bitsOf (tget 0 s.net.conflict die) 62 52 + 1 ∧ bitOf v 63 = true) ∧
    (∀ d, d ≠ die → tget 0 (s.captureConflict die ch slot e ctx flow).net.conflict d = tget 0 s.net.conflict d) ∧
    { s.captureConflict die ch slot e ctx flow with net := s.net } = s)

/-- The crossings and the dies (R142, R331, R377): a frame marker in another cycle than the fixed latency of the crossing, and a recalibration out of margin, are protocol
errors of the crossing; a marker in its cycle changes nothing; a die that stops answering takes the device offline, without ready. Open traffic (R149, R159): flits that
arrive wait at their channel, and a slot that carries no scheduled flit serves one; a scheduled slot without borrowing, or whose owner presents a flit, serves none. The next
record on its way to the Bureau is numbered, kept, and copied into the reserved areas of GS0 and GS15 where those stacks are up (R317; the place there is the model's, log 150). -/
def Obligations.CrossingsAndOpenTraffic : Prop :=
  (∀ (s : State),
    (∀ x cyc, x < 64 → s.root.crossings = true →
      (cyc = s.net.latency → exec (.frameMarkerCheck x cyc) s = .next s) ∧
      (cyc ≠ s.net.latency → exec (.frameMarkerCheck x cyc) s = .next (s.crossingError x s.net.latency)) ∧
      exec (.crossingRecalibration x) s = .next (s.crossingError x s.net.latency)) ∧
    (∀ d, d < 19 → s.root.mainUp = true → exec (.dieStopsAnswering d) s = .next s.goOffline)) ∧
  ((∀ (s : State) (die ch slot vc i dest src : Nat), (slotTable die ch).isSome = true → slot < 256 → s.root.crossings = true → vc < 5 → i < 64 →
    let w : State := { s with net := { s.net with waiting := tput [] s.net.waiting (chanKey die ch) (tget [] s.net.waiting (chanKey die ch) ++ [⟨vc, i, dest, src, 0, 3, 0⟩]) } }
    (s.slotEntry die ch slot % 4 = 1 → s.regs.field (routerPage die) 0x80 20 20 = 0 → exec (.openPacketHop die ch slot [(vc, i, dest, src)] false) s = .next w) ∧
    (s.slotEntry die ch slot % 4 = 1 → w.ownerPresent die ch slot = true → exec (.openPacketHop die ch slot [(vc, i, dest, src)] false) s = .next w) ∧
    (s.slotEntry die ch slot % 4 ≠ 1 ∨ s.regs.field (routerPage die) 0x80 20 20 ≠ 0 ∧ w.ownerPresent die ch slot = false →
      exec (.openPacketHop die ch slot [(vc, i, dest, src)] false) s = .next (w.openSlot die ch slot))) ∧
  (∀ (s : State) (r : ErrRec) (rest : List ErrRec), s.care.transit = r :: rest → s.root.bureauUp = true →
    let rec' : ErrRec := { r with seq := s.care.nextSeq }
    let place := userFrames * 65536 + s.care.nextSeq % 32768 * 64
    ∃ t, exec .errorRecordArrival s = .next t ∧ t.care.transit = rest ∧
      t.care.nextSeq = (s.care.nextSeq + 1) % 2 ^ 32 ∧ t.care.log.getLast? = some rec' ∧ t.care.log.length ≤ 32768 ∧
      (∀ k, k = 0 ∨ k = 15 → k ∈ s.root.stackUp → t.memRead k place 64 = leBytes 64 rec'.encode) ∧
      (∀ a, (∀ k, k = 0 ∨ k = 15 → a < memKey k place ∨ memKey k place + 64 ≤ a) → tget 0 t.mem a = tget 0 s.mem a) ∧ t.cores = s.cores ∧ t.queues = s.queues ∧ t.regs = s.regs))

/-- Doorbells (R280, R234, R172): the owning function, the physical function or the Bureau moves the tail of a queue of the context to a value that the ring can hold, and
nothing else changes; a queue of another context or an illegal tail sets bit 0 of the page's BLK_ERR and moves nothing; another master sets bit 5. The same holds of
collective queues. -/
def Obligations.QueueDoorbells : Prop :=
  ∀ (s : State) (master n : Nat), n < 64 →
    (∀ (v : W64) (q : Queue), s.mayCommand n master = true → s.queue (bitsOf v.toNat 15 0) = some q → q.ctx = n → tailOk q.head q.tail (bitsOf v.toNat 31 16) q.lg = true →
      exec (.ctxDoorbell master n v) s = .next { s with queues := tset s.queues (bitsOf v.toNat 15 0) { q with tail := bitsOf v.toNat 31 16 } }) ∧
    (∀ (v : W64) (q : Queue), s.mayCommand n master = true → s.queue (bitsOf v.toNat 15 0) = some q → q.ctx ≠ n ∨ tailOk q.head q.tail (bitsOf v.toNat 31 16) q.lg = false →
      exec (.ctxDoorbell master n v) s = .next (s.blkErr (ctxPage n) 0)) ∧
    (∀ i v (q : Cq), s.mayCommand n master = true → tfind (s.ctx n).cqs i = some q → tailOk q.head q.tail (v % 65536) q.lg = true →
      exec (.collectiveQueueTail master n i v) s = .next (s.setCtx n { s.ctx n with cqs := tset (s.ctx n).cqs i { q with tail := v % 65536 } })) ∧
    (∀ v i x, s.mayCommand n master = false → exec (.ctxDoorbell master n v) s = .next (s.blkErr (ctxPage n) 5) ∧
      exec (.collectiveQueueTail master n i x) s = .next (s.blkErr (ctxPage n) 5))

/-- Collectives at a queue's head (R230, R232, R235): an illegal descriptor and an eager collective in strict mode end with the status of R230 and R232; a legal one waits for
its counter and then starts; when its results are written it completes. Messages (R236 to R240): one of another generation is discarded; one of the collective in progress
reaches its engine, where one found corrupt is asked for again, one whose op, count or parts differ ends it with 0x23, one that is held already counts as a duplicate, and any
other is held, the next pass follows and the results are formed once nothing is missing; one of a collective not yet started waits; a retransmit request or a contribution
request is answered from the sources; a failure notice ends the collective with 0x22, or waits for it to start, a timeout with contributions missing ends it with 0x20. The
layout of the messages and what their CRC covers are the model's choice (log 16). -/
def Obligations.Collectives : Prop :=
  (∀ (s : State) (n i : Nat) (q : Cq) (d : Nat), n < 64 →
    (s.collHead n i = some (q, d) →
      (s.collLegal n d = false → exec (.collectiveHeadCheck n i) s = .next ((s.collRec n i 0x10 2 0).collStop n i 0x10) ∧
        exec (.collectiveStart n i) s = .next ((s.collRec n i 0x10 2 0).collStop n i 0x10)) ∧
      (s.collLegal n d = true → bitsOf d 7 4 = 4 → s.regs.strictActive = true →
        exec (.collectiveHeadCheck n i) s = .next (((s.count 1 .strictFaults 1).collRec n i 0x16 2 0).collStop n i 0x16)) ∧
      (s.collLegal n d = true → ¬ (bitsOf d 7 4 = 4 ∧ s.regs.strictActive = true) → exec (.collectiveHeadCheck n i) s = .next s ∧
        (s.cqReady n q = true → exec (.collectiveStart n i) s = .next (s.collBegin n i q d)) ∧ (s.cqReady n q = false → exec (.collectiveStart n i) s = .next s))) ∧
    (∀ r, tfind (s.ctx n).cqs i = some q → q.run = some r → r.done = true → exec (.collectiveCompletion n i) s = .next (s.collDone n i r q.engine))) ∧
  (∀ (s : State) (n i : Nat) (q : Cq) (m : CollMsg), n < 64 → tfind (s.ctx n).cqs i = some q →
    (m.gen ≠ (s.ctx n).job.gen → exec (.collectiveMessageReceive n i m) s = .next (s.discard n) ∧ exec (.collectiveFailureNotice n i m) s = .next (s.discard n) ∧
      (collCrcOk 1 m = true → exec (.collectiveRetransmitRequest n i m) s = .next (s.discard n)) ∧
      (collCrcOk 2 m = true → exec (.collectiveContributionRequest n i m) s = .next (s.discard n))) ∧
    (m.gen = (s.ctx n).job.gen → q.run = none → exec (.collectiveMessageReceive n i m) s = .next (s.modCq n i (fun q => { q with early := q.early ++ [m] }))) ∧
    (∀ r, m.gen = (s.ctx n).job.gen → q.run = some r → s.collMatches n r m = true →
      exec (.collectiveMessageReceive n i m) s = .next (s.collTake n i q r m) ∧
      exec (.collectiveFailureNotice n i m) s = .next ((s.collRec n i 0x22 ((s.ctx n).abortAction true) (m.dev % 128 + m.status % 256 * 2 ^ 8)).collAbort n i 0x22)) ∧
    (m.gen = (s.ctx n).job.gen → q.run = none → s.collPassed n q m = false →
      exec (.collectiveFailureNotice n i m) s = .next (s.modCq n i (fun q => { q with notes := q.notes ++ [m] }))) ∧
    (∀ r, s.collTake n i q r { m with lockstep := true } = s.ceFault q.engine ∧
      (let k := heldKey m.pass m.shard m.part m.block
       (m.lockstep = false → collCrcOk 0 m = false → tget 0 r.retries k < 2 →
        s.collTake n i q r m = ((s.modCq n i (fun q => { q with run := some { r with retries := tset r.retries k (tget 0 r.retries k + 1) } })).askAgain n q r m).count
          (cePage (q.engine / 4)) .ceRetransmits 1) ∧
       (m.lockstep = false → collCrcOk 0 m = true → r.differs m = true → s.collTake n i q r m = s.collMismatch n i m) ∧
       (m.lockstep = false → collCrcOk 0 m = true → r.differs m = false → (tfind r.held k).isSome = true → s.collTake n i q r m = s.count (cePage (q.engine / 4)) .ceDuplicates 1) ∧
       (m.lockstep = false → collCrcOk 0 m = true → r.differs m = false → tfind r.held k = none → m.shard ∈ (s.ctx n).groupShards r.group → m.part < r.parts → m.block < r.count → m.pass < 4 →
        m.payload.length = passLen m.pass →
        s.collTake n i q r m = ((s.modCq n i (fun q => { q with run := some (r.hold k (m.payload.map (· % 2 ^ 64))) })).collFollow n i m.block 2 m.pass).collResults n i))) ∧
    (∀ r, m.gen = (s.ctx n).job.gen → m.step = (s.ctx n).st.step → (s.ctx n).loaded = true → s.findColl q m = some r → r.differs m = false → s.collSrcCheck n q r = none → s.collBadLine n r = none →
      (collCrcOk 2 m = true → exec (.collectiveContributionRequest n i m) s =
        .next (s.sendAll (((List.range r.count).filter (fun b => s.takesPass n r m.dev r.firstPass b)).flatMap (fun b => s.collMsgs n q r m.dev r.firstPass 0 b)))) ∧
      (collCrcOk 1 m = true → (s.groupHere n r.group).contains m.shard = true → m.part < r.parts → m.block < r.count → m.pass < 4 →
        exec (.collectiveRetransmitRequest n i m) s = .next (s.send (s.collOut n q r m.dev 0 m.shard m.part m.block m.pass
          (passWords m.pass (m.payload.getD 0 0) (s.ownBlock n r m.shard m.part m.block)))))) ∧
    (∀ r, q.run = some r → r.limit < r.waited → s.collMissing n r ≠ [] →
      ∃ syn, exec (.collectiveTimeout n i) s = .next (((s.collRec n i 0x20 ((s.ctx n).abortAction true) syn).collNotify n r 0x20).collAbort n i 0x20)))

/-- An aligned reduction does not depend on the order of its contributions (R224, R228): any permutation of them gives the same elements and the same flags. -/
def Obligations.AlignedReductionOrderFree : Prop :=
  ∀ cs ds : List (List Nat), cs.Perm ds → alignedBlock cs = alignedBlock ds

/-- Link training (R252, R255 to R257): each training state leads to the next, with the identity or the version sent on entry; a far end as planned is recorded and leads to
NEGOTIATE, one at another index, link or plan is a fault with its reason; equal majors lead to ACTIVE at the lower version, others to a fault. A training state that has
lasted its limit of Table 11.6 tries DETECT again, or is a fault with its reason, and before the limit nothing happens; a loss of codeword lock, and more than 16
uncorrectable codewords in a millisecond, make an active link retrain (R253); LNK_CTRL.retrain trains afresh, out of a fault only for the Bureau (R254). -/
def Obligations.LinkTrainingAndRetrain : Prop :=
  (∀ (s : State) (l : Nat),
    ((s.link l).state = 1 → exec (.linkSignalDetect l) s = .next (s.linkTo l 2)) ∧
    ((s.link l).state = 2 → exec (.linkEqualizeDone l) s = .next (s.linkTo l 3)) ∧
    ((s.link l).state = 3 → exec (.linkAlignDone l) s = .next (s.enterIdent l)) ∧
    (∀ m : IdentMsg, (s.link l).state = 4 → (s.link l).again = false →
      let t := s.setLink l { s.link l with farValid := true, farIndex := m.index % 128, farLink := m.link % 32, farPlan := m.plan % 8, farStepping := m.stepping % 256, farMax := m.version % 256, farDevid := m.devid }
      ((s.portOf l).bind s.portFar = some (m.index % 128) → farLink l = some (m.link % 32) → m.plan % 8 = s.plan → exec (.identMessage l m) s = .next (t.enterNegotiate l)) ∧
      ((s.portOf l).bind s.portFar ≠ some (m.index % 128) → exec (.identMessage l m) s = .next (t.linkFault l 3)) ∧
      ((s.portOf l).bind s.portFar = some (m.index % 128) → farLink l = some (m.link % 32) → m.plan % 8 ≠ s.plan → exec (.identMessage l m) s = .next (t.linkFault l 4))) ∧
    (∀ v, (s.link l).state = 5 → v < 256 →
      (v / 16 = s.protoMax / 16 → exec (.negotiateMessage l v) s = .next ((s.setLink l { s.link l with farMax := v }).linkActive l (min v s.protoMax))) ∧
      (v / 16 ≠ s.protoMax / 16 → exec (.negotiateMessage l v) s = .next ((s.setLink l { s.link l with farMax := v }).linkFault l 5)))) ∧
  (∀ (s : State) (l : Nat), l < 32 →
    (s.now < (s.link l).enteredAt + trainLimit (s.link l).state → exec (.linkTrainingTimeout l) s = .next s) ∧
    ((s.link l).enteredAt + trainLimit (s.link l).state ≤ s.now →
      ((s.link l).state = 1 → exec (.linkTrainingTimeout l) s = .next (s.linkTo l 1)) ∧
      ((s.link l).state = 2 → exec (.linkTrainingTimeout l) s = .next (s.linkFault l 1)) ∧
      ((s.link l).state = 3 → (s.link l).short = false → exec (.linkTrainingTimeout l) s = .next (s.linkFault l 2)) ∧
      ((s.link l).state = 3 → (s.link l).short = true → exec (.linkTrainingTimeout l) s = .next ((s.setLink l { s.link l with short := false }).linkTo l 2)) ∧
      ((s.link l).state = 5 → exec (.linkTrainingTimeout l) s = .next (s.linkFault l 5))) ∧
    exec (.codewordLockLoss l) s = .next (s.retrain l) ∧
    (∀ c u, u ≤ 16 → exec (.uncorrectableCodewordLimit l c u) s = .next ((s.count (linkPage l) .fecCorrected c).count (linkPage l) .fecUncorrectable u)) ∧
    (∀ c u, 16 < u → exec (.uncorrectableCodewordLimit l c u) s = .next (((s.count (linkPage l) .fecCorrected c).count (linkPage l) .fecUncorrectable u).retrain l)) ∧
    (∀ m, m ≠ 0xF001 → (s.link l).state ≠ 7 ∨ m = 0xF000 → exec (.lnkCtrlRetrain m l) s = .next (s.trainLink l)) ∧
    (∀ m, m ≠ 0xF001 → (s.link l).state = 7 → m ≠ 0xF000 → exec (.lnkCtrlRetrain m l) s = .next (s.blkErr (linkPage l) 5)) ∧
    ((s.link l).state = 6 → 3 ≤ ((s.link l).retrainAt.filter (fun t => decide (s.now ≤ t + 6000000000))).length → s.retrain l = s.linkFault l 6))

/-- Link packets (R244, R245): a packet whose CRC verifies and whose number is expected is taken: the next number is expected, its piece goes to the link's port, and every 64th
packet is acknowledged; a failed CRC, a reserved class or a gap gives one NAK; a packet received before changes nothing; an uncorrectable line of the buffer makes the link
retrain (R307). An acknowledgement frees what it covers; packets not yet acknowledged are when the timer runs out. What packets hold beyond Table 11.2 is the model's choice (log 144). -/
def Obligations.LinkPackets : Prop :=
  ∀ (s : State) (l : Nat), l < 32 → (s.link l).state = 6 →
    (∀ b : List Byte, b.length = 264 → (pieceFields b).1.getD 0 0 < 4 →
      ((pieceFields b).1.getD 6 0 = (s.link l).rxSeq →
        exec (.piecePacketReceive l (b ++ leBytes 4 (crc32 b)) false) s = .next (s.takePiece l (pieceFields b).1 (pieceFields b).2) ∧
        ((pieceFields b).1.getD 0 0 = 3 → (s.link l).rxCount < 63 → exec (.piecePacketReceive l (b ++ leBytes 4 (crc32 b)) false) s = .next (s.setLink l { s.link l with
          rxSeq := ((s.link l).rxSeq + 1) % 4096, nakOut := false, rxCount := (s.link l).rxCount + 1 }))) ∧
      ((pieceFields b).1.getD 6 0 ≠ (s.link l).rxSeq →
        (seqDist (s.link l).rxSeq ((pieceFields b).1.getD 6 0) < 2048 → exec (.piecePacketReceive l (b ++ leBytes 4 (crc32 b)) false) s = .next (s.sendNak l)) ∧
        (2048 ≤ seqDist (s.link l).rxSeq ((pieceFields b).1.getD 6 0) → exec (.piecePacketReceive l (b ++ leBytes 4 (crc32 b)) false) s = .next s))) ∧
    (∀ b : List Byte, b.length ≠ 268 ∨ crc32 (b.take 264) ≠ leNat (b.drop 264) ∨ 4 ≤ (pieceFields b).1.getD 0 0 → exec (.piecePacketReceive l b false) s = .next (s.sendNak l)) ∧
    (∀ b, exec (.piecePacketReceive l b true) s = .next (s.retrain l)) ∧
    (∀ q, exec (.ackReceive l q) s = .next (s.setLink l ((s.link l).ack q))) ∧
    (∀ q, exec (.nakReceive l q) s = .next (s.nak l q)) ∧
    (0 < (s.link l).rxCount → (s.link l).nakOut = false → exec (.ackTimer l) s = .next (s.sendAck l)) ∧
    ((s.link l).rxCount = 0 → (s.link l).nakOut = false → exec (.ackTimer l) s = .next s) ∧
    ((s.link l).rxCount = 0 → (s.link l).nakOut = true → exec (.ackTimer l) s = .next (s.emitNak l)) ∧
    (∀ b : List Byte, b.length = 28 → leNat (b.take 1) = 0 →
      exec (.controlPacketReceive l (b ++ leBytes 4 (crc32 b))) s = .next (s.setLink l ((s.link l).ack (leNat ((b.drop 1).take 2)))))

/-- The Cabinet (R331, R332, R393 to R396): every hb_ms heartbeats go to the present neighbours; one received starts the loss timer again; a neighbour without heartbeats for
timeout, and the first notice of a loss, lead to the flooding of the loss and to its effects; a notice of a port lost or back between two other devices changes the routes past it (R265); a message of another plan is counted and discarded, the first of an index and
nonce marks its sender present. -/
def Obligations.CabinetEvents : Prop :=
  ∀ (s : State), s.root.ready = true → s.root.bureauUp = true → s.root.offline = false →
    (s.care.hbAt + s.regs.field 1 0x138 23 16 * ms ≤ s.now → exec .heartbeatSend s = .next (s.presentPorts.foldl
      (fun s p => s.send (.sync ((s.portFar p).getD 0) msgHeartbeat [s.cab, farPortOf p])) { s with care := { s.care with hbAt := s.now } })) ∧
    (∀ p d, d ∈ s.care.present → p ∉ s.ports.lost → exec (.heartbeatReceive p d) s = .next { s with care := { s.care with heard := tset s.care.heard d s.now } }) ∧
    (∀ p d, s.portFar p = some d → d ≠ s.cab → d ∈ s.care.present → tget 0 s.care.heard d + s.regs.field 1 0x138 15 0 * ms ≤ s.now → ∃ r, r.cls = 0x43 ∧ r.action = 8 ∧ r.unitIndex = d ∧
      exec (.lossTimeout p) s = .next (((s.record r).floodLost d s.cab (s.nonceOf d)).deviceLost d)) ∧
    (∀ d o x, d ∉ s.care.lostDevs → d < planModules s.plan → s.nonceOf d = x → exec (.deviceLostNotice d o x 0) s = .next ((s.floodLost d o x).deviceLost d)) ∧
    (∀ d o x, d ∈ s.care.lostDevs → exec (.deviceLostNotice d o x 0) s = .next s) ∧
    (∀ d o x k, 1 ≤ k → k ≤ 16 → exec (.deviceLostNotice d o x k) s = .next (s.portNotice d ((k - 1) % 8) (decide (k ≤ 8)))) ∧
    (∀ m : AsmMsg, m.link < 32 → (s.link m.link).state = 6 → m.origin ≠ s.cab →
      (m.plan ≠ s.plan → exec (.assemblyMessage m) s = .next (s.count 1 .planMismatch 1)) ∧
      (m.plan = s.plan → (m.origin, m.nonce) ∈ s.care.forwarded → m.origin < planModules s.plan → (m.origin, m.nonce) ∉ s.care.seen →
        exec (.assemblyMessage m) s = .next (s.markPresent m).sendAsm)) ∧
    exec .assemblyTimeout s = .next s.evalCab

/-- The command block (R284): a command by a master that may not use it sets bit 5 of the page's BLK_ERR and one while another is in progress bit 0, and neither does anything
else; before the device is ready a command returns 0x41; a host's command that a module which was not reached at a reset of the bridge does not take yet waits there and changes nothing (R272). Sequences (R298): a JOIN of a new ID within its limits enters the pending joins and a LEAVE of an admitted ID the
pending leaves, each with return code 0; a length above 262,144 returns 0x07, frames above the quota 0x06, an ID already known 0x43, and a full list 0x40. -/
def Obligations.CommandBlock : Prop :=
  (∀ (s : State) (master n tag : Nat) (args : List Nat) (p : Nat × Instr), n < 64 → p ∈ ctxCommands master n tag args →
    (s.hostShut master = true → exec p.2 s = .next s) ∧
    (s.hostShut master = false → s.mayCommand n master = false → exec p.2 s = .next (s.blkErr (ctxPage n) 5)) ∧
    (s.hostShut master = false → s.mayCommand n master = true → (s.ctx n).cmd.busy = true → exec p.2 s = .next (s.blkErr (ctxPage n) 0)) ∧
    (s.hostShut master = false → s.mayCommand n master = true → (s.ctx n).cmd.busy = false → s.root.ready = false → exec p.2 s = .next ((s.issued n p.1 tag master args).cmdDone n 0x41 none))) ∧
  (∀ (s : State) (master n tag : Nat) (args : List Nat), s.Accepts master n → (s.ctx n).state ≠ 0 →
    let j := s.issued n 9 tag master args
    let l := s.issued n 10 tag master args
    let m := (s.ctx n).mem
    let known := fun id => m.joins.any (fun x => decide (x.id = id)) || m.admitted.any (fun x => decide (x.id = id))
    (262144 < j.arg n 1 → exec (.join master n tag args) s = .next (j.cmdDone n 0x07 none)) ∧
    (j.arg n 1 ≤ 262144 → s.quota n < j.arg n 2 → exec (.join master n tag args) s = .next (j.cmdDone n 0x06 none)) ∧
    (j.arg n 1 ≤ 262144 → j.arg n 2 ≤ s.quota n → 2 ^ 32 ≤ j.arg n 0 ∨ known (j.arg n 0) = true → exec (.join master n tag args) s = .next (j.cmdDone n 0x43 none)) ∧
    (j.arg n 1 ≤ 262144 → j.arg n 2 ≤ s.quota n → j.arg n 0 < 2 ^ 32 → known (j.arg n 0) = false →
      (1024 ≤ m.joins.length + m.leaves.length → exec (.join master n tag args) s = .next (j.cmdDone n 0x40 none)) ∧
      (m.joins.length + m.leaves.length < 1024 → exec (.join master n tag args) s =
        .next ((j.modCtx n (fun c => { c with mem := { c.mem with joins := c.mem.joins ++ [⟨j.arg n 0, j.arg n 1, j.arg n 2, 0⟩] } })).cmdDone n 0 none))) ∧
    (m.joins.any (fun x => decide (x.id = l.arg n 0)) = false → m.admitted.any (fun x => decide (x.id = l.arg n 0)) = true → l.arg n 0 ∉ m.leaves → m.joins.length + m.leaves.length < 1024 →
      exec (.leave master n tag args) s = .next ((l.modCtx n (fun c => { c with mem := { c.mem with leaves := c.mem.leaves ++ [l.arg n 0] } })).cmdDone n 0 none)))

/-- Loading (R295, R221, R350): LOAD_BEGIN allots an image area within the quota and returns its address; LOAD checks the image and starts the load or returns the code of the
first check failed; RESTORE does so from a save record; the bytes of a shared region that match its declared digest make it current; a member's announcement is noted and
answered. -/
def Obligations.LoadingOfContexts : Prop :=
  (∀ (s : State) (master n tag : Nat) (args : List Nat), s.Accepts master n →
    let i := fun op => s.issued n op tag master args
    ((s.ctx n).state = 0 → (s.ctx n).mem.image = none → args.getD 0 0 ≠ 0 → versionFrames 1 (args.getD 0 0) ≤ s.quota n →
      ∀ f, s.findRun (versionFrames 1 (args.getD 0 0)) = some f → exec (.loadBegin master n tag args) s =
        .next ((((((i 1).sawFn master).modFrames (framesFrom f (versionFrames 1 (args.getD 0 0))) (fun _ => frameEntry n false none)).followPartition n).modCtx n
          (fun c => { c with mem := { c.mem with image := some (runAddr 1 0 f, args.getD 0 0), imageDone := false } })).cmdDone n 0 (some (runAddr 1 0 f)))) ∧
    ((s.ctx n).state ≠ 0 ∨ (s.ctx n).mem.image = none → exec (.load master n tag args) s = .next ((i 2).cmdDone n 0x41 none) ∧ exec (.restore master n tag args) s = .next ((i 3).cmdDone n 0x41 none)) ∧
    ((s.ctx n).state = 0 → (s.ctx n).mem.image ≠ none →
      ((i 2).image n = none → exec (.load master n tag args) s = .next ((i 2).refuseLoad n 0x04)) ∧
      ∀ p m, ((i 2).image n = some (p, m) → (i 2).loadChecks n p m = 0 → exec (.load master n tag args) s = .next ((i 2).startLoad n p m id)) ∧
        ((i 2).image n = some (p, m) → (i 2).loadChecks n p m ≠ 0 → exec (.load master n tag args) s = .next ((i 2).refuseLoad n ((i 2).loadChecks n p m))) ∧
        ∀ r, (i 3).image n = some (p, m) →
          parseSave ((i 3).devRead ((i 3).arg n 0) (p.saveLength (m.shardsOf s.cab).length)) (((List.range 16).filter (fun d => decide (p.ctrCount d ≠ 0))).length) p.regions.length = some r →
          r.lanes = 128 → r.arrays = 4 → r.plan = p.planDigest →
          firstCode [(i 3).checkProfile p, p.checkLanes, 0, (i 3).checkStrict p, p.checkLength, (i 3).checkPlace n p m, (i 3).checkResources n p m, p.checkDesc] = 0 →
          exec (.restore master n tag args) s = .next ((i 3).startLoad n p m (fun s => s.applySave n r)))) ∧
  (∀ (s : State) (n r holder : Nat) (bytes : List Byte) (g : Region), s.region r = some g → g.shared = true → g.pend < 3 → bytes.length = g.size → n ∈ g.mapped →
    (s.declaredDigest r = some (versionDigest g.size bytes) → exec (.sharedRegionFetchComplete n r [] bytes) s = .next ((s.devWrite n (g.base g.pend) bytes).sharedCurrent r 2)) ∧
    (∀ host, holder < 128 → holder ≠ s.cab → s.declaredDigest r = some (versionDigest g.size (assembled g.size [(holder, bytes)])) →
      exec (.sharedRegionFetchComplete n r [(holder, bytes)] host) s = .next ((s.devWrite n (g.base g.pend) (assembled g.size [(holder, bytes)])).sharedCurrent r 1)) ∧
    (∀ dig, s.declaredDigest r = some dig → dig ≠ versionDigest g.size bytes → exec (.sharedRegionFetchComplete n r [] bytes) s = .next (s.askHolders r dig))) ∧
  (∀ (s : State) (n : Nat) (m : AnnMsg) (k : Manifest), n < 64 → m.ctx < 64 → (s.ctx n).job.man = some k → k.jobId = m.job → m.dev ∈ k.members → m.dev ≠ s.cab → (s.ctx n).state ≠ 0 → m.answer = true →
    (tfind (s.ctx n).job.peers m.dev).isSome = true →
    exec (.memberAnnouncement n m) s = .next ((s.modCtx n (fun c => { c with job := { c.job with peers := tset c.job.peers m.dev m.ctx } })).writeFwds n m.dev m.ctx))

/-- Running, yielding, evicting and unloading (R287 to R296, R319): each command has its effect in the states that allow it, and returns 0x41 in the others. -/
def Obligations.LifeOfContexts : Prop :=
  ∀ (s : State) (master n tag : Nat) (args : List Nat), s.Accepts master n →
    let i := fun op => s.issued n op tag master args
    ((s.ctx n).state ≠ 0 → exec (.unload master n tag args) s = .next ((i 4).startUnload n)) ∧
    ((s.ctx n).state = 0 → exec (.unload master n tag args) s = .next ((i 4).cmdDone n 0x41 none)) ∧
    (∀ t, (s.ctx n).st.unloadAt = some t → t + 4000000 ≤ s.now → s.runningOn n = [] → exec (.unloadDrainLimit n) s = .next (s.finishUnload n)) ∧
    ((s.ctx n).state = 4 → (s.ctx n).job.seedDigest = none → (s.ctx n).ysrc = 1 → exec (.resume master n tag args) s =
      .next (((i 5).endSource n 0).resumeIfFree n)) ∧
    ((s.ctx n).state = 5 → (s.ctx n).errStop = false → (s.ctx n).job.seedDigest = none → (s.ctx n).st.hold < 4 → (s.ctx n).job.held = false →
      ((((i 5).endSource n 0).ctx n).ysrc = 0 → exec (.resume master n tag args) s = .next (((i 5).endSource n 0).initialBoundary n)) ∧
      ((((i 5).endSource n 0).ctx n).ysrc ≠ 0 → exec (.resume master n tag args) s = .next ((((i 5).endSource n 0).initialBoundary n).cmdDone n 0 none))) ∧
    ((s.ctx n).state ≠ 4 → (s.ctx n).state ≠ 5 → exec (.resume master n tag args) s = .next ((i 5).cmdDone n 0x41 none)) ∧
    ((s.ctx n).state = 2 → (i 6).arg n 0 ≤ 1 → (i 6).arg n 1 ≤ 50 → exec (.yield master n tag args) s = .next ((i 6).yieldRequest n 0 ((i 6).arg n 0) ((i 6).arg n 1 * ms))) ∧
    ((s.ctx n).state = 2 → 1 < (i 6).arg n 0 ∨ 50 < (i 6).arg n 1 → exec (.yield master n tag args) s = .next ((i 6).cmdDone n 0x43 none)) ∧
    ((s.ctx n).state ≠ 2 → exec (.yield master n tag args) s = .next ((i 6).cmdDone n 0x41 none)) ∧
    ((s.ctx n).state = 5 → (s.ctx n).errStop = true → exec (.restart master n tag args) s =
      .next ((((i 7).modCtx n (fun c => { c with state := 6, errStop := false, job := { c.job with unsettled := false } })).beginRestart n (s.ctx n).job.stopCause false).cmdDone n 0 none)) ∧
    ((s.ctx n).state = 4 → (i 8).arg n 0 ≤ 1 → (i 8).arg n 1 ≤ 50 → exec (.evict master n tag args) s =
      .next (((i 8).modCtx n (fun c => { c with ysrc := c.ysrc ||| 1 })).doEvict n ((i 8).arg n 0))) ∧
    ((s.ctx n).state = 2 → (i 8).arg n 0 ≤ 1 → (i 8).arg n 1 ≤ 50 → exec (.evict master n tag args) s =
      .next (((i 8).modCtx n (fun c => { c with st := { c.st with evict := some ((i 8).arg n 0) } })).yieldRequest n 0 1 ((i 8).arg n 1 * ms)))

/-- Versions and evaluation (R218, R219, R301, R302): VER_OPEN sets up a pending version, VER_PUBLISH asks for its publication, which completes when its writes are done; a
draining slot that nothing holds is released; EVAL_BIND waits for the training context's boundary, EVAL_RELEASE ends the bindings. -/
def Obligations.VersionsAndEvaluation : Prop :=
  (∀ (s : State) (master n tag : Nat) (args : List Nat) (g : Region), s.Accepts master n → (s.ctx n).state ≠ 0 →
    (∀ u, let i := s.issued n 11 tag master args;
      i.mayName n (i.arg n 0) = true → s.region (i.arg n 0) = some g → 3 ≤ g.pend → g.shared = true → i.openVersion (i.arg n 0) = some u →
      exec (.verOpen master n tag args) s = .next (u.cmdDone n 0 (some (match u.region (i.arg n 0) with | some h => h.base h.pend | none => 0)))) ∧
    (let i := s.issued n 11 tag master args;
      i.mayName n (i.arg n 0) = true → s.region (i.arg n 0) = some g → g.pend < 3 → exec (.verOpen master n tag args) s = .next (i.cmdDone n 0x40 none)) ∧
    (let i := s.issued n 12 tag master args;
      i.mayName n (i.arg n 0) = true → s.region (i.arg n 0) = some g →
      (g.pend < 3 → exec (.verPublish master n tag args) s = .next (i.setRegion (i.arg n 0) { g with publishing := true })) ∧
      (3 ≤ g.pend → exec (.verPublish master n tag args) s = .next (i.cmdDone n 0x41 none))) ∧
    (let i := s.issued n 13 tag master args;
      let rs := ((List.range 4).map (fun k => i.arg n (1 + k))).filter (fun r => decide (r ≠ 0xFFFF));
      i.arg n 0 < 64 → i.arg n 0 ≠ n → i.arg n 5 ≤ 1 → master = 0x8000 → (s.ctx (i.arg n 0)).state ≠ 0 → (∀ r ∈ rs, i.mayName (i.arg n 0) r = true) →
      exec (.evalBind master n tag args) s = .next (i.modCtx n (fun c => { c with mem := { c.mem with
        evals := ⟨i.arg n 0, rs, decide (i.arg n 5 = 1), false, []⟩ :: c.mem.evals.filter (·.made) } })))) ∧
  (∀ (s : State) (master n tag : Nat) (args : List Nat), s.Accepts master n → (s.ctx n).mem.evals ≠ [] → evalSlots (s.ctx n).mem.evals = [] →
    exec (.evalRelease master n tag args) s = .next ((((s.issued n 14 tag master args).revoke (fun _ e => aclOf n e && bitOf e 44)).modCtx n
      (fun c => { c with mem := { c.mem with evals := [] } })).cmdDone n 0 none)) ∧
  (∀ (s : State) (r : Nat) (g : Region), s.region r = some g → g.publishing = true → s.writesDone r g = true →
    (∀ c ∈ (s.publish r).ctxs, c.2.cmd.busy = false) → exec (.publishComplete r false) s = .next (s.publish r)) ∧
  (∀ (s : State) (r k : Nat) (g : Region), s.region r = some g → g.slot k = 3 →
    (s.slotHeld r k = false → exec (.versionRelease r k) s = .next (s.releaseSlot r k)) ∧ (s.slotHeld r k = true → exec (.versionRelease r k) s = .next s))

/-- The publication of a pending version (R219, R357): its slot becomes current, the old current slot drains, no version is pending, the version number rises by one modulo
2^32, and the frames of the new version are read-only. No other region changes. -/
def Obligations.PublishedVersion : Prop :=
  ∀ (s : State) (r : Nat) (g : Region), s.region r = some g → g.pend < 3 → g.cur < 3 → g.pend ≠ g.cur → g.states.length = 3 → g.slot g.cur = 2 →
    ∃ h, (s.publish r).region r = some h ∧ h.cur = g.pend ∧ h.slot h.cur = 2 ∧ h.slot g.cur = 3 ∧ h.pend = 3 ∧ h.version = (g.version + 1) % 2 ^ 32 ∧ h.bases = g.bases ∧
      (∀ f ∈ g.frames g.pend, feRo ((s.publish r).frame f) = true ∧ feStable ((s.publish r).frame f) = g.cacheable) ∧
      (∀ q, q ≠ r → (s.publish r).region q = s.region q) ∧ { s.publish r with frames := s.frames, regions := s.regions } = s

/-- Commits and the step boundary (R285, R318, R329, R361, R362): the commit record goes to the buddies and is stored there, the member reports once the buddies have acknowledged it and
no write of the step is outstanding, the coordinator releases, and the step passes its boundary; a held boundary goes on where it waited; the read index of the receipt ring moves within its ring. A passed step leaves the flag words of the context's shards 0,
CTX_STEP one higher, and step_time the time at which the boundary was reached. -/
def Obligations.StepsCommit : Prop :=
  (∀ (s : State) (n : Nat), n < 64 →
    (s.commitDue n = true → (s.ctx n).job.recWritten = false → s.buddiesOf n = [] → exec (.commitRecordWrite n none) s =
      .next (s.setCtx n { s.ctx n with job := { (s.ctx n).job with recWritten := true } })) ∧
    (∀ d bs, d ∈ s.peersOf n → exec (.commitRecordWrite n (some (d, bs))) s = .next ((s.keepRecord d n bs).send (.response d 0 []))) ∧
    ((s.ctx n).state ≠ 0 → s.commitDue n = true → (s.ctx n).job.recWritten = true → (s.ctx n).job.reported = false → (s.ctx n).mem.unackedSum = 0 → s.linesHeld n = false → s.coordinatorOf n = s.cab → s.cab ∉ (s.ctx n).job.reports →
      exec (.commitReport n s.cab (s.stepToCommit n)) s = .next ((s.modCtx n (fun c => { c with job := { c.job with reported := true } })).modCtx n
        (fun c => { c with job := { c.job with reports := c.job.reports ++ [s.cab] } }))) ∧
    ((s.ctx n).mem.unackedSum ≠ 0 ∨ s.linesHeld n = true → ∀ k, exec (.commitReport n s.cab k) s = .next s) ∧
    ((s.ctx n).state ≠ 0 → s.commitDue n = true → (s.ctx n).job.reported = true →
      (s.coordinatorOf n ≠ s.cab → (s.ctx n).job.unsettled = false → exec (.commitRelease n (s.stepToCommit n)) s = .next (s.commitStep n)) ∧
      (s.coordinatorOf n ≠ s.cab → (s.ctx n).job.unsettled = true → exec (.commitRelease n (s.stepToCommit n)) s =
        .next (((s.commitStep n).comeBack n []).modCtx n (fun c => { c with job := { c.job with readySent := false } }))) ∧
      (s.coordinatorOf n = s.cab → (∀ d ∈ s.liveMembers n, d ∈ (s.ctx n).job.reports) → s.peersOf n = [] → (s.ctx n).job.unsettled = false →
        exec (.commitRelease n (s.stepToCommit n)) s = .next (s.commitStep n)) ∧
      (s.coordinatorOf n = s.cab → ∀ d ∈ s.liveMembers n, d ∉ (s.ctx n).job.reports → exec (.commitRelease n (s.stepToCommit n)) s = .next s)) ∧
    ((s.ctx n).state = 2 →
      ((s.ctx n).st.hold = 1 → exec (.stepBoundary n) s = .next (s.boundaryFrom4 n)) ∧
      ((s.ctx n).st.hold = 2 → s.evalHolds n = false → exec (.stepBoundary n) s = .next (s.leaveBoundary n)) ∧
      ((s.ctx n).st.hold = 3 → exec (.stepBoundary n) s = .next (s.boundaryFrom1 n)) ∧
      ((s.ctx n).st.hold = 0 → (s.ctx n).job.released = true → (s.ctx n).hosted = [] → (s.ctx n).mem.rcptWait = [] →
        (∀ r ∈ s.ownRegions n, ∀ g, s.region r = some g → g.commitPub = false) →
        exec (.stepBoundary n) s = .next (State.boundaryFrom2 (s.setCtx n { s.ctx n with st := { (s.ctx n).st with reached := s.elapsed n } }) n)) ∧
      ((s.ctx n).st.hold = 0 → (s.ctx n).job.released = false → exec (.stepBoundary n) s = .next s)) ∧
    (∀ master rd, s.mayCommand n master = true → rd < 2 ^ 32 → ((s.ctx n).mem.rcptWr + 2 ^ 32 - rd) % 2 ^ 32 ≤ 2 ^ s.regs.field (ctxPage n) 0x884 23 16 →
      exec (.ctxRcptReadAdvance master n rd) s = .next (s.setCtx n { s.ctx n with mem := { (s.ctx n).mem with rcptRd := rd } })) ∧
    (∀ a d k o rest, s.mgmt.signQ = (n, a) :: rest → s.decodeAddr a = some (d, k, o) → feOwner (s.frame (frameOf o)) = n → feAlloc (s.frame (frameOf o)) = true →
      exec .receiptSigned s = .next (((State.devWrite { s with mgmt := { s.mgmt with signQ := rest } } n (a + 256)
        (beBytes 384 (Config.signature 1 (beNat (sha256 (s.devRead a 256)))))).devWrite n (a + 0x280) (leBytes 8 1)).count 4 .signed 1))) ∧
  (∀ (s : State) (n : Nat),
    ((s.passStep n).ctx n).st.step = ((s.ctx n).st.step + 1) % 2 ^ 64 ∧ ((s.passStep n).ctx n).st.stepTime = (s.ctx n).st.reached ∧
      (∀ h ∈ ((s.passStep n).ctx n).shards, h.2.flags = 0) ∧ ((s.passStep n).ctx n).mem.hashes = [] ∧ ((s.passStep n).ctx n).mem.leaves = [])

/-- Yield sources (R287 to R290): the pin's fall asks every context that is enabled for it, and its rise ends that source; a member's message pulls the context in or sets its
boundary and deadline, one of another generation is discarded, and the end of that source is passed on; a hold whose deadline has passed pulls in and tells the other members,
outside the commit phase (R16); a drained context is YIELDED. -/
def Obligations.YieldSources : Prop :=
  ∀ (s : State),
    (s.pins.yieldFiltered = true → exec .yieldNFall s = .next ((s.loadedCtxs.filter (fun n => decide (s.regs.field (ctxPage n) 0x48 0 0 = 1))).foldl
      (fun s n => s.yieldRequest n 1 (s.regs.field (ctxPage n) 0x48 1 1) (s.regs.field (ctxPage n) 0x48 15 8 * ms)) { s with pins := { s.pins with yieldFiltered := false } })) ∧
    (s.pins.yieldFiltered = false → exec .yieldNFall s = .next s) ∧
    exec .yieldNRise s = .next ((s.loadedCtxs.filter (fun n => bitOf (s.ctx n).ysrc 1)).foldl
      (fun s n => (s.endSource n 1).resumeIfFree n) { s with pins := { s.pins with yieldFiltered := true } }) ∧
    (∀ n d mode step hold, n < 64 → d ∈ s.peersOf n →
      (let u := s.modCtx n (fun c => { c with ysrc := c.ysrc ||| 4 })
       (s.ctx n).state = 2 → mode % 2 = 0 ∨ step < (s.ctx n).st.step →
        (u.inCommit n = false → exec (.yieldMessage n d (s.ctx n).job.gen mode step hold) s = .next (u.startDrain n)) ∧
        (u.inCommit n = true → exec (.yieldMessage n d (s.ctx n).job.gen mode step hold) s = .next (u.setPoint n 2 (u.boundaryStep n) (2, none)))) ∧
      ((s.ctx n).state = 2 → (s.ctx n).st.step ≤ step → ∃ t, exec (.yieldMessage n d (s.ctx n).job.gen 1 step hold) s = .next t ∧
        (t.ctx n).ysrc = (s.ctx n).ysrc ||| 4 ∧ (t.ctx n).state = 2 ∧ (t.ctx n).st.point = 2 ∧ ((s.ctx n).st.point ≠ 2 → (t.ctx n).st.pointAt = step) ∧
        (tfind (s.ctx n).st.deadlines 2 = none → tfind (t.ctx n).st.deadlines 2 = some (s.now + hold * 100)) ∧ (∀ m, m ≠ n → t.ctx m = s.ctx m) ∧
        t.mem = s.mem ∧ t.cores = s.cores ∧ t.queues = s.queues ∧ t.regs = s.regs ∧ t.out = s.out) ∧
      ((s.ctx n).state ≠ 2 → exec (.yieldMessage n d (s.ctx n).job.gen mode step hold) s = .next (s.modCtx n (fun c => { c with ysrc := c.ysrc ||| 4 }))) ∧
      (∀ g, g ≠ (s.ctx n).job.gen → exec (.yieldMessage n d g mode step hold) s = .next (s.discard n) ∧ exec (.resumeMessage n d g) s = .next (s.discard n)) ∧
      (bitOf (s.ctx n).ysrc 2 = true → exec (.resumeMessage n d (s.ctx n).job.gen) s = .next ((s.endSource n 2).resumeIfFree n))) ∧
    (∀ n src, bitOf (s.ctx n).ysrc src = true → ((s.endSource n src).ctx n).ysrc = (s.ctx n).ysrc - 2 ^ src ∧ ((s.endSource n src).ctx n).state = (s.ctx n).state) ∧
    (∀ n, (s.ctx n).state = 2 → (s.ctx n).st.point = 2 →
      (∀ d ∈ (s.ctx n).st.deadlines, d.2 < s.now → s.inCommit n = false → exec (.yieldHoldDeadline n) s = .next (((s.tellYield n 2 0).originate n).startDrain n)) ∧
      (s.inCommit n = true → exec (.yieldHoldDeadline n) s = .next s) ∧
      ((∀ d ∈ (s.ctx n).st.deadlines, s.now ≤ d.2) → exec (.yieldHoldDeadline n) s = .next s)) ∧
    (∀ n, n < 64 → (s.ctx n).state = 3 → s.drained n = true → exec (.yieldDrainComplete n) s = .next (s.enterYielded n))

/-- Restarts of a job (R319, R320, R333): a notice of another generation is discarded, one of the present generation leads to the abort or the stop that it names; a drained
member goes back to the committed step, once the outcome of a step that it has reported is known (R318), and reports; the release begins the next generation when every live
member is ready; a state request is answered; a placement is applied. -/
def Obligations.JobRestarts : Prop :=
  ∀ (s : State) (n : Nat), n < 64 → (s.ctx n).state ≠ 0 → (s.ctx n).st.unloadAt = none →
    (∀ m : AbortMsg, m.dev ∈ s.peersOf n →
      (m.gen ≠ (s.ctx n).job.gen → exec (.abortNotice n m) s = .next (s.discard n)) ∧
      (m.gen = (s.ctx n).job.gen → m.kind = 1 → exec (.abortNotice n m) s = .next (s.stopHere n m.member m.cls)) ∧
      (m.gen = (s.ctx n).job.gen → m.kind = 2 → exec (.abortNotice n m) s = .next (s.memberLost n m.dev m.cls)) ∧
      (m.gen = (s.ctx n).job.gen → m.kind = 0 → (s.ctx n).state ≠ 5 → (s.ctx n).restarting = false → exec (.abortNotice n m) s = .next (s.abortWith n m.cls m.program false)) ∧
      (m.gen = (s.ctx n).job.gen → m.kind = 0 → (s.ctx n).state = 6 → (s.ctx n).restarting = true → exec (.abortNotice n m) s =
        .next (s.modCtx n (fun c => { c with job := { c.job with progAbort := c.job.progAbort || m.program, ready := c.job.ready.filter (fun d => decide (d ≠ m.dev)) } })))) ∧
    (∀ fills, (s.ctx n).restarting = true → (s.ctx n).state = 6 → (s.ctx n).job.drained = false → s.abortDrained n = true → s.sharedReady n = true → s.fillsReady n fills = true →
      (s.outcomeOpen n = true → exec (.abortDrainComplete n fills) s = .next (s.modCtx n (fun c => { c with job := { c.job with drained := true, unsettled := true } }))) ∧
      (s.outcomeOpen n = false → exec (.abortDrainComplete n fills) s = .next (s.comeBack n fills))) ∧
    (∀ fills, (s.ctx n).state = 6 → (s.ctx n).job.resetPend = false → (s.ctx n).job.adopt = [] → s.comeBack n fills =
      let o := State.openCommitPub (((s.passCommitted n).restoreState n).modCtx n (fun c => { c with job := { c.job with adopt := [], drained := false, unsettled := false } })) n
      if o.2 then o.1.restartSched n else o.1) ∧
    ((s.ctx n).restarting = true → (s.ctx n).job.drained = true → (s.ctx n).job.readySent = false → s.coordinatorOf n ≠ s.cab →
      exec (.memberReadyReport n s.cab (s.ctx n).st.step) s = .next ((s.modCtx n (fun c => { c with job := { c.job with readySent := true } })).tellCoordinator n msgReady [s.cab, (s.ctx n).st.step])) ∧
    ((s.ctx n).restarting = true → (s.ctx n).job.drained = true → (s.ctx n).job.readySent = true → (s.ctx n).job.unsettled = false → s.coordinatorOf n ≠ s.cab → exec (.restartRelease n (((s.ctx n).job.gen + 1) % 2 ^ 16)) s =
      .next (s.runAgain n (((s.ctx n).job.gen + 1) % 2 ^ 16))) ∧
    ((s.ctx n).restarting = true → (s.ctx n).job.readySent = true → s.coordinatorOf n = s.cab → (∃ d ∈ s.liveMembers n, d ∉ (s.ctx n).job.ready) →
      exec (.restartRelease n (((s.ctx n).job.gen + 1) % 2 ^ 16)) s = .next s) ∧
    (∀ d, d ∈ s.peersOf n → exec (.coordinatorStateRequest n d) s = .next ((s.send (s.memberMsg n d msgStateAnswer
      [s.cab, (s.ctx n).state, (s.ctx n).job.stopCause, (s.ctx n).st.step, (s.ctx n).job.committed, b2n (s.ctx n).errStop])).modCtx n (fun c => { c with job := { c.job with readySent := false } }))) ∧
    (∀ (m : PlaceMsg) (k : Manifest) (rest : Tab Ctx), s.ctxs = (n, s.ctx n) :: rest → (s.ctx n).job.man = some k → k.jobId = m.job → k.hosts.length = m.hosts.length →
      exec (.placementMessage m) s = .next (s.applyPlacement n m.hosts (List.zip m.members (m.ctxs.map (· % 64)))))

/-- Fencing and in-field test (R321 to R324, R338, R339): the physical function or the Bureau fences a core, or takes it off the fence list of the flash, which leaves the
cores as they are; another master sets bit 5 of BLK_ERR; a core's turn prepares it, a core that no context uses enters test mode with its lane generators seeded and VU_FRLG_CTRL.test 1 (R135), and a test with equal digests and the
Footstool's report passes, any other is recorded and fences the core. -/
def Obligations.FencingAndTests : Prop :=
  ∀ (s : State),
    (∀ master (v : W32), pfOrBureau master = true →
      (bitOf v.toNat 8 = true → exec (.fenceRequest master v) s = .next (s.fenceCore (v.toNat % 128) 0 (bitOf v.toNat 9))) ∧
      (bitOf v.toNat 8 = false → bitOf s.root.flashFence (v.toNat % 128) = true → exec (.unfenceRequest master v) s =
        .next { s with root := { s.root with flashFence := s.root.flashFence - 2 ^ (v.toNat % 128) } })) ∧
    (∀ master v, pfOrBureau master = false → exec (.fenceRequest master v) s = .next (s.blkErr 1 5) ∧ exec (.unfenceRequest master v) s = .next (s.blkErr 1 5)) ∧
    (s.regs.field 1 0x140 24 24 ≠ 0 → s.root.ready = true → s.care.iftPhase = 0 → s.care.iftPeriodAt + s.iftTurn ≤ s.now → s.care.wantTest = [] → s.loadedCtxs = [] → s.fencedCore s.care.iftNext = false →
      exec .inFieldTestPeriod s = .next { s with care := { s.care with iftPeriodAt := s.now, iftCand := s.care.iftNext, iftNext := (s.care.iftNext + 1) % 128, iftPhase := 1 } }) ∧
    (s.care.iftPhase = 1 → (∀ n ∈ s.loadedCtxs, (s.ctx n).usesCore s.care.iftCand = false) → (s.core s.care.iftCand).run = none → s.fencedCore s.care.iftCand = false →
      exec .inFieldTestStart s = .next { s.setCore s.care.iftCand ((s.core s.care.iftCand).testLanes s.care.iftCand (s.frlgSeed s.care.iftCand)) with
        regs := s.regs.setWord (corePage s.care.iftCand) 0x340 1
        care := { s.care with iftPhase := 2, iftCore := s.care.iftCand, iftStart := s.now } }) ∧
    (∀ e m f, s.care.iftPhase = 2 → s.care.iftStart + s.regs.field 1 0x140 23 16 * 10000000 ≤ s.now →
      (e % 2 ^ 64 = m % 2 ^ 64 → f = true → exec (.inFieldTestEnd e m f) s = .next (s.endTest.count 1 .iftPassed 1)) ∧
      (e % 2 ^ 64 ≠ m % 2 ^ 64 ∨ f = false → ∃ r, r.cls = 0x1C ∧ r.syndrome = e % 2 ^ 64 + m % 2 ^ 64 * 2 ^ 64 ∧ exec (.inFieldTestEnd e m f) s =
        .next (((s.endTest.count 1 .iftFailed 1).record r).fenceCore s.care.iftCore 0x1C true)))

/-- Power and boot (R385, R386, R345, R383): standby power; the end of power-on reset samples the straps and starts local time at 0; the first image that verifies starts the
Bureau, and with none the ROM waits for recovery; the main domain is enabled, comes up within its 50 ms or fails; the crossings take their fixed latency. -/
def Obligations.PowerUpAndBoot : Prop :=
  ∀ (s : State),
    exec .standbyValid s = .next { s with root := { s.root with standby := true } } ∧
    (∀ r w f, s.root.standby = true → s.root.por = false → exec (.powerOnResetEnd r w f) s =
      .next (State.startPcie { s with now := 0, root := { s.root with por := true, straps := sampleStraps s.pins.straps } } r w f)) ∧
    (s.root.por = true → s.root.bureauUp = false → s.root.recovery = false →
      (s.areaFault 0 ≠ 0 → s.areaFault 1 ≠ 0 → exec .bootImageVerified s = .next (State.alert { s with root := { s.root with recovery := true } })) ∧
      (s.areaFault 0 = 0 → s.areaFault 1 ≠ 0 → exec .bootImageVerified s = .next (s.startBureau 0
        (if leNat (tbytes s.root.flash (imageBase 0 + 8) 8) < leNat (tbytes s.root.flash (imageBase 1 + 8) 8) then s.areaFault 1 else 0))) ∧
      (s.areaFault 0 = 0 → s.areaFault 1 = 0 → leNat (tbytes s.root.flash (imageBase 1 + 8) 8) ≤ leNat (tbytes s.root.flash (imageBase 0 + 8) 8) →
        exec .bootImageVerified s = .next (s.startBureau 0 0)) ∧
      (s.areaFault 1 = 0 → leNat (tbytes s.root.flash (imageBase 0 + 8) 8) < leNat (tbytes s.root.flash (imageBase 1 + 8) 8) → exec .bootImageVerified s = .next (s.startBureau 1 0))) ∧
    (s.root.bureauUp = true → s.root.mainEn = false → s.root.offline = false → s.root.boot.firstFail = 0 →
      exec .mainInputInRange s = .next { s with root := { s.root with mainEn := true, mainSince := s.now, fail := 0 } }) ∧
    (s.root.mainEn = true → s.root.mainUp = false →
      (s.now ≤ s.root.mainSince + 50 * ms → (∀ l, (s.link l).state ≠ 6) → ∃ t, exec .mainDomainUp s = .next t ∧ t.root = { s.root with mainUp := true, mainSince := s.now } ∧ t.pins = { s.pins with mainPg := true }) ∧
      (∀ u, s.root.mainSince + 50 * ms ≤ s.now → exec (.mainDomainPowerUpLimit u) s = .next (s.failStart 5 u)) ∧
      (∀ u, s.now < s.root.mainSince + 50 * ms → exec (.mainDomainPowerUpLimit u) s = .next s)) ∧
    (∀ lat u, s.root.mainUp = true → s.root.crossings = false → s.root.offline = false →
      (s.now ≤ s.root.mainSince + 20 * ms → exec (.crossingsTrained lat u) s = .next { s with root := { s.root with crossings := true }, net := { s.net with latency := lat } }) ∧
      (s.root.mainSince + 20 * ms < s.now → exec (.crossingsTrained lat u) s = .next (s.failStart 5 u)))

/-- Readiness (R387 to R391, R346): a stack trains, or after a second failure takes the device offline; the self test ends; links conclude; a device that meets every condition
of R390 is ready, a device that does not stays as it is; the entropy source is watched. -/
def Obligations.Readiness : Prop :=
  ∀ (s : State),
    (∀ k, k < 16 → s.root.crossings = true → s.root.offline = false → k ∉ s.root.stackUp →
      (s.root.withheld.length ≤ 1024 → exec (.stackTrainingComplete k true []) s = .next { s with root := { s.root with stackUp := s.root.stackUp ++ [k] } }) ∧
      (k ∉ s.root.stackFail → exec (.stackTrainingComplete k false []) s = .next { s with root := { s.root with stackFail := s.root.stackFail ++ [k] } }) ∧
      (k ∈ s.root.stackFail → exec (.stackTrainingComplete k false []) s = .next (s.failStart 4 k))) ∧
    (s.root.crossings = true → s.root.testDone = false → s.root.offline = false → s.root.healthy = false →
      exec (.coreSelfTestEnd [] [] [] []) s = .next { s with root := { s.root with testDone := true, testDoneAt := s.now } }) ∧
    (s.root.mainUp = true → s.root.linksDone = false → s.root.offline = false → (∀ l, l < 32 → s.linkPlanned l = true → (s.link l).state = 6 ∨ (s.link l).state = 7) →
      exec .linkTrainingConcluded s = .next { s with root := { s.root with linksDone := true } }) ∧
    (s.mayBeReady = false → exec .deviceReady s = .next s) ∧
    (s.mayBeReady = true → ∃ t, exec .deviceReady s = .next t ∧ t.root.ready = true ∧ t.root.readyMs = min 0xFFFF (s.now / ms) ∧ t.root.offline = false ∧
      t.root.fuses.svn = (if s.root.boot.commitSvn then blowSvn s.root.fuses.svn s.root.boot.svn else s.root.fuses.svn)) ∧
    (s.root.standby = true → s.root.healthy = true → s.root.ready = false → exec (.entropyHealthChange false) s =
      .next (State.count { s with root := { s.root with healthy := false } } 4 .healthFail 1)) ∧
    (s.root.ready = false → s.root.testDone = true → s.root.seeded = false → s.root.healthy = false → s.root.fail ≠ 7 → s.root.offline = false →
      (s.root.testDoneAt + 1000 * ms ≤ s.now → exec .entropyWaitTimeout s = .next (State.entropyRec { s with root := { s.root with fail := 7, failUnit := 0 } } true)) ∧
      (s.now < s.root.testDoneAt + 1000 * ms → exec .entropyWaitTimeout s = .next s)) ∧
    (s.root.ready = true → s.root.healthy = false → s.root.entropyRecAt + 60000 * ms ≤ s.now →
      exec .entropyRecordRepeat s = .next (State.entropyRec { s with root := { s.root with entropyRecAt := s.now } } false))

/-- Resets and loss of power (R398, R399, R363): BU_RESET with its key resets the module, and without it sets bit 0 of BLK_ERR; the MCTP message with the key does the same;
loss of standby power leaves the fuses, the flash, the board's pins and what has been sent, and everything else as at reset; a Bureau fault takes the device offline. -/
def Obligations.ResetsAndPowerLoss : Prop :=
  ∀ (s : State),
    (∀ m (v : W32), s.root.bureauUp = true →
      (pfOrBureau m = true → v.toNat % 65536 = 0xC1D0 → exec (.buReset m v) s = .next s.moduleReset) ∧
      (pfOrBureau m = true → v.toNat % 65536 ≠ 0xC1D0 → exec (.buReset m v) s = .next (s.blkErr 1 0)) ∧
      (pfOrBureau m = false → exec (.buReset m v) s = .next (s.blkErr 1 5))) ∧
    (∀ v : W32, (v.toNat % 65536 = 0xC1D0 → exec (.mctpResetMessage v) s = .next s.moduleReset) ∧ (v.toNat % 65536 ≠ 0xC1D0 → exec (.mctpResetMessage v) s = .next s)) ∧
    (s.root.standby = true → ∃ t, exec .standbyPowerLoss s = .next t ∧ t.root.fuses = s.root.fuses ∧ t.root.flash = s.root.flash ∧ t.root.flashFence = s.root.flashFence ∧
      t.root.flashRecs = s.root.flashRecs ∧ t.root.standby = false ∧ t.root.ready = false ∧ t.pending = s.pending ∧ s.out <+: t.out ∧ t.mem = [] ∧ t.cores = [] ∧ t.ctxs = [] ∧ t.queues = [] ∧
      t.regs = Regs.reset ∧ t.links = [] ∧ t.pins.straps = s.pins.straps) ∧
    (∀ a, s.root.bureauUp = true → s.root.offline = false → exec (.bureauFault a) s = .next (s.record { s.mkRec 0x5A 9 with syndrome := a % 2 ^ 32 }).goOffline)

/-- Power, clocks and temperature (R370 to R375, R382): the limiter's threshold and its timers, the record of a sustained limit, the cap, the clocks with their step as a free
value, the input voltage, the readings of the sensors, the repeated throttle record and the thermal trip. -/
def Obligations.PowerAndThermalEvents : Prop :=
  ∀ (s : State),
    (∀ w mv, ∃ t, exec (.powerMeasurement w mv) s = .next t ∧ t.power.watts = w % 65536 ∧ t.power.mv = mv % 65536 ∧ t.power.atCap = s.power.atCap ∧ { t with power := s.power } = s ∧
      (s.cap < w % 65536 → t.power.belowAt = none ∧ t.power.aboveAt = some (s.power.aboveAt.getD s.now)) ∧
      (w % 65536 ≤ s.cap → t.power.aboveAt = none ∧ t.power.belowAt = some (s.power.belowAt.getD s.now))) ∧
    (∀ a, s.power.aboveAt = some a → a + 10 * ms ≤ s.now → exec .limiterThresholdTimer s = .next { s with power := { s.power with atCap := true } }) ∧
    (∀ a, s.power.aboveAt = none → s.power.belowAt = some a → a + 10 * ms ≤ s.now → exec .limiterThresholdTimer s = .next { s with power := { s.power with atCap := false } }) ∧
    (∀ a, s.power.withheldAt = some a → s.power.sustained = false →
      (a + 1000 * ms < s.now → exec .limiterSustained s = .next (State.record { s with power := { s.power with sustained := true } } { s.mkRec 0x55 0 with syndrome := s.power.watts })) ∧
      (s.now ≤ a + 1000 * ms → exec .limiterSustained s = .next s)) ∧
    (∀ m v, exec (.pwrCtrl m v) s = .next (s.writeCap m v.toNat)) ∧
    (s.root.mainUp = true → ∃ t, exec .clockControllerAdjust s = .next t ∧ t.freeIx = s.freeIx + 1 ∧
      ∀ d, d < 16 → t.fNow d = min (400 + 25 * s.freeVal 33) (min (s.regs.field (diePowerPage d) 0x80 26 16) (s.thermalLimit d))) ∧
    (s.root.mainEn = true → exec .inputVoltageFault s = .next (s.goOffline.mainOff.record { s.mkRec 0x54 9 with syndrome := s.power.mv })) ∧
    (∀ k v, k < 87 → s.root.standby = true → s.root.mainUp = true → k ∈ s.power.excluded → ∃ t, exec (.sensorReading k v []) s = .next t ∧ tget 0 t.power.temps k = v % 65536 ∧
      (∀ j, j ≠ k → tget 0 t.power.temps j = tget 0 s.power.temps j) ∧ t.power.excluded = s.power.excluded ∧ { t with power := s.power } = s) ∧
    (∀ k, k ∈ s.power.throttled → tget 0 s.power.throttleAt (sensorDie k) + 60000 * ms ≤ s.now → exec (.throttleRecordRepeat k) s = .next (s.throttleRec k)) ∧
    (∀ k, k < 87 → s.power.tripped = false → s.root.standby = true →
      (s.reading k < 460 → exec (.thermalTrip k) s = .next s) ∧
      (460 ≤ s.reading k → ∃ t r, exec (.thermalTrip k) s = .next (t.record r).goOffline ∧ t = ((State.setThermtrip { s with power := { s.power with tripped := true } } false).mainOff).alert ∧
        r.cls = 0x53 ∧ r.action = 9))

/-- The host port (R267 to R272, R385): PERST_N, the notices of the Shelf, a function-level reset, lanes that fail, configuration requests and requests to the base address
registers, which reach memory or registers of this module under the function's master ID. -/
def Obligations.HostPortEvents : Prop :=
  ∀ (s : State),
    (s.bridge = false ∨ s.root.por = false → exec .perstNFall s = .next { s with pins := { s.pins with perstN := false } }) ∧
    (s.bridge = true → s.root.por = true → s.loadedCtxs = [] →
      let r := State.resetFunctions { s with pins := { s.pins with perstN := false }, pcie := { s.pcie with linkUp := false, rate := 0, width := 0, flit := false } }
      let told := s.shelfMates.map (fun d => (d, 64))
      (s.root.bureauUp = false → exec .perstNFall s = .next { r with pcie := { r.pcie with owed := told } }) ∧
      (s.root.bureauUp = true → exec .perstNFall s = .next (State.sendNotices { r with pcie := { r.pcie with owed := [] } } told))) ∧
    (∀ r w f, exec (.perstNRise r w f) s = .next (State.startPcie { s with pins := { s.pins with perstN := true } } r w f)) ∧
    (s.root.bureauUp = true → ∀ fn, fn ≠ 64 ∨ s.bridge = true → exec (.shelfUnloadNotice fn) s =
      .next ((s.loadedCtxs.filter (fun n => decide (fn = 64 ∨ n = fn))).foldl State.startUnload s)) ∧
    (s.root.bureauUp = true → s.bridge = false → exec (.shelfUnloadNotice 64) s =
      .next (s.loadedCtxs.foldl State.startUnload { s with pcie := { s.pcie with shut := !s.loadedCtxs.isEmpty, vfs := 0 } })) ∧
    (s.bridge = true → s.pcie.linkUp = true →
      (∀ fn, s.root.bureauUp = true → 1 ≤ fn → fn ≤ s.pcie.vfs → ∃ t : State, exec (.functionLevelReset fn) s = .next ((t.sendNotices (t.shelfMates.map (fun d => (d, fn)))).startUnload fn) ∧ t.pcie.vfs = s.pcie.vfs ∧
        (∀ reg, reg < 1024 → tget 0 t.pcie.config (fn * 1024 + reg) = 0) ∧ tget 0 t.pcie.aer fn = 0 ∧ { t with pcie := s.pcie } = s) ∧
      (s.root.bureauUp = true → ∃ t : State, exec (.functionLevelReset 0) s = .next ((t.sendNotices (t.shelfMates.map (fun d => (d, 0)))).startUnload 0) ∧ t.pcie.vfs = 0 ∧ t.pcie.config = [] ∧
        t.pcie.aer = [] ∧ { t with pcie := s.pcie } = s) ∧
      (∀ rate, 16 ≤ s.pcie.width → exec (.pcieLaneFailure 8 rate) s = .next (State.hostDegraded { s with pcie := { s.pcie with width := 8, rate := rate } })) ∧
      (∀ fn reg w v, s.root.por = true → s.root.bureauUp = true → s.pcie.vfs < fn ∨ 1024 ≤ reg → exec (.pcieConfigRequest fn reg w v) s = .next (s.hostAnswer fn 1 [])) ∧
      (∀ fn reg w v, s.root.por = true → s.root.bureauUp = false → s.pcie.vfs < fn ∨ 1024 ≤ reg ∨ hardwarePath reg w = false →
        exec (.pcieConfigRequest fn reg w v) s = .next (s.hostAnswer fn 3 [])) ∧
      (∀ fn reg v, s.root.por = true → fn ≤ s.pcie.vfs → reg < 1024 → s.root.bureauUp = true →
        exec (.pcieConfigRequest fn reg false v) s = .next (s.hostAnswer fn 0 (leBytes 4 (s.cfgRead fn reg))) ∧
        exec (.pcieConfigRequest fn reg true v) s = .next ((s.cfgWrite fn reg v.toNat).hostAnswer fn 0 [])) ∧
      (∀ fn bar addr len data bad, s.root.bureauUp = true → fn ≤ s.pcie.vfs → len ≠ 0 → s.cab / 8 * 8 < planModules s.plan → s.cab % 8 = 0 →
        (∀ a, barTarget fn bar addr = .reg 0 a → exec (.hostBarRequest fn bar addr len data bad) s = .next (s.hostReg fn a len data)) ∧
        (∀ k o, barTarget fn bar addr = .mem 0 k o → exec (.hostBarRequest fn bar addr len data bad) s = .next (s.hostMem fn k o len data bad)) ∧
        (barTarget fn bar addr = .none → exec (.hostBarRequest fn bar addr len data bad) s =
          .next ((s.record (s.refusalRec 0x37 0xB (0x8000 + fn) fn addr)).hostRefused fn 0x37 data.isNone))))

/-- The register blocks (R411 to R423, R353): a commit request makes the block's shadow pending, unless the Bureau holds the block; at its effect point a block without a fault
takes every shadow word, counts, and has nothing pending, and a rejected one leaves the values in effect; a lock by the Bureau sets the groups; BLK_CTRL freezes the
statistics; a write and a read of the register space pass the page's admission, and a host's wait while the module does not take host requests (R272). -/
def Obligations.RegisterBlocks : Prop :=
  ∀ (s : State) (p : Nat), hasHeader p = true →
    (∀ m, (s.blk p).hold = false ∨ m = 0xF000 → exec (.blkCommit m p) s = .next ((s.commitAcl p).modBlk p (fun b => { b with pending := true }))) ∧
    (∀ m, (s.blk p).hold = true → m ≠ 0xF000 → exec (.blkCommit m p) s = .next (s.blkErr p 4)) ∧
    ((s.blk p).pending = true → s.atEffectPoint p = true → exec (.commitEffectPoint p) s = .next (s.takeEffect p)) ∧
    ((s.blk p).pending = false ∨ s.atEffectPoint p = false → exec (.commitEffectPoint p) s = .next s) ∧
    (∀ b, s.commitFault p = some b → (s.takeEffect p).regs.live = s.regs.live ∧ ((s.takeEffect p).blk p).pending = false ∧ ((s.takeEffect p).blk p).rejected = true) ∧
    (∀ v : W32, exec (.blkLock 0xF000 p v) s = .next ((s.reloadGroups p (v.toNat % 65536 % 2 ^ lockGroups (pageKind p))).modBlk p
      (fun b => { b with locked := b.locked ||| v.toNat % 65536 % 2 ^ lockGroups (pageKind p) }))) ∧
    (∀ m (v : W32), pfOrBureau m = false → exec (.blkLock m p v) s = .next (s.blkErr p 5)) ∧
    (∀ m (v : W32), bitOf v.toNat 1 = (s.blk p).hold → bitOf v.toNat 0 = true → exec (.statFreeze m p v) s = .next (s.modBlk p (fun b => { b with freeze := true }))) ∧
    (∀ m a bs n, s.hostShut m = true → exec (.registerWrite m a bs) s = .next s ∧ exec (.registerReadLatch m a n) s = .next s) ∧
    (∀ m off bs, s.root.bureauUp = true → off < 4096 → p < 16384 → s.hostShut m = false →
      (s.pageRefuses m p .w = none → exec (.registerWrite m (regBase + p * 4096 + off) bs) s = .next (s.writeRegs m p off bs)) ∧
      (∀ cls, s.pageRefuses m p .w = some cls → exec (.registerWrite m (regBase + p * 4096 + off) bs) s = .next (s.pageRefused m p off cls)) ∧
      (∀ n, 0x8000 ≤ m → m < 0x8040 → s.pageRefuses m p .r = none → exec (.registerReadLatch m (regBase + p * 4096 + off) n) s =
        .next (((s.readRegs m p off n).2.readDrawn p off).hostAnswer (m - 0x8000) 0 (s.readRegs m p off n).1)))

/-- Firmware and the management messages (R347, R364, R365): an image is written to the idle area and verified before success is reported, and one of another major version is
refused; recovery verifies, writes and resets; MCTP control, PLDM base, monitoring and FRU messages are answered. The bodies of the answers are the model's choice (log
20). -/
def Obligations.ManagementMessages : Prop :=
  ∀ (s : State),
    (∀ b : List Byte, s.root.bureauUp = true → b.length ≤ imageRoom →
      let t : State := { s with root := { s.root with flash := tputBytes s.root.flash (imageBase s.idleArea) b } }
      (t.areaFault s.idleArea = 0 → exec (.firmwareUpdate b 1 false) s = .next (t.updateResult 0 b)) ∧
      (t.areaFault s.idleArea ≠ 0 → exec (.firmwareUpdate b 1 false) s = .next (t.updateFailed b)) ∧
      (∀ major, major ≠ 1 → exec (.firmwareUpdate b major false) s = .next (s.updateFailed b))) ∧
    (∀ b : List Byte, s.root.recovery = true → b.length ≤ imageRoom → imageFault s.root.fuses b = 0 → exec (.recoveryImageReceive b) s =
      .next (State.moduleReset { s with root := { s.root with flash := tputBytes s.root.flash (imageBase 0) b } })) ∧
    (∀ b : List Byte, s.root.recovery = true → imageFault s.root.fuses b ≠ 0 → exec (.recoveryImageReceive b) s = .next s) ∧
    (s.root.standby = true → exec (.mctpControl 2 []) s = .next (s.emit (.mctp 0 2 (bytesOf [0, s.mgmt.eid, 0, 0])))) ∧
    (s.root.bureauUp = true →
      exec (.pldmBase 4 []) s = .next (s.emit (.mctp 0x10 4 (0 :: leBytes 8 pldmTypes))) ∧
      (∀ k, k < 87 → k ∉ s.power.excluded → exec (.pldmMonitoring 0x11 (bytesOf [k, 0])) s =
        .next (s.emit (.mctp 0x12 0x11 (bytesOf [0, 3, 0, 0, 1, 1, 1] ++ leBytes 2 (tget 0 s.power.temps k))))) ∧
      (∀ d, exec (.pldmFruData 2 d) s = .next (s.emit (.mctp 0x14 2 (bytesOf [0, 0, 0, 0, 0, 5] ++ s.fruRecord)))))

/-- Attestation (R348, R349): while the Bureau runs every request is answered. GET_VERSION answers and begins the connection again; GET_CAPABILITIES and NEGOTIATE_ALGORITHMS follow
in their order and out of order are errors; GET_DIGESTS, GET_CERTIFICATE, CHALLENGE and GET_MEASUREMENTS complete for every operand that they allow once algorithms are agreed: the
digest of the chain, a portion of it, a fresh nonce with the signature over the connection's messages, and the measurements of Table 14.6, signed on request. The bodies of the
messages are the model's choice (log 20). -/
def Obligations.AttestationMessages : Prop :=
  ∀ (s : State), s.root.bureauUp = true →
    (let a := spdmMsg 0x10 0x04 0 0 (bytesOf [0, 2, 0, 0x11, 0, 0x12])
     exec .getVersion s = .next (State.spdm { s with mgmt := { s.mgmt with
       spdmVersion := 0x10, spdmCaps := false, spdmAlgs := false, spdmVca := spdmMsg 0x10 0x84 0 0 [] ++ a, spdmB := [], spdmL := [] } } a)) ∧
    (∀ v d, s.mgmt.spdmVersion ≠ 0 → s.mgmt.spdmAlgs = false →
      (v = 0x11 ∨ v = 0x12 → ∃ t a, exec (.getCapabilities v d) s = .next t ∧ t.out = s.out ++ [.mctp 5 0x61 a] ∧ t.mgmt.spdmVersion = v ∧ t.mgmt.spdmCaps = true ∧ t.mgmt.spdmAlgs = false ∧
        t.mgmt.spdmVca = s.mgmt.spdmVca ++ spdmMsg v 0xE1 0 0 d ++ a ∧ { t with mgmt := s.mgmt, out := s.out } = s) ∧
      (v ≠ 0x11 → v ≠ 0x12 → exec (.getCapabilities v d) s = .next (s.spdmError 0x41))) ∧
    (∀ v d, s.mgmt.spdmVersion = 0 ∨ s.mgmt.spdmAlgs = true → exec (.getCapabilities v d) s = .next (s.spdmError 0x04)) ∧
    (∀ d, s.mgmt.spdmCaps = true → s.mgmt.spdmAlgs = false → bitOf (leNat ((d.drop 4).take 4)) 2 = true → bitOf (leNat ((d.drop 8).take 4)) 0 = true →
      ∃ t a, exec (.negotiateAlgorithms d) s = .next t ∧ t.out = s.out ++ [.mctp 5 0x63 a] ∧ t.mgmt.spdmAlgs = true ∧ t.mgmt.spdmVersion = s.mgmt.spdmVersion ∧
        t.mgmt.spdmVca = s.mgmt.spdmVca ++ spdmMsg s.mgmt.spdmVersion 0xE3 0 0 d ++ a ∧ { t with mgmt := s.mgmt, out := s.out } = s) ∧
    (∀ d, s.mgmt.spdmCaps = false ∨ s.mgmt.spdmAlgs = true → exec (.negotiateAlgorithms d) s = .next (s.spdmError 0x04)) ∧
    (s.mgmt.spdmAlgs = false → exec .getDigests s = .next (s.spdmError 0x04) ∧ (∀ a b c, exec (.getCertificate a b c) s = .next (s.spdmError 0x04)) ∧
      (∀ a b n, exec (.challenge a b n) s = .next (s.spdmError 0x04)) ∧ ∀ a b c n, exec (.getMeasurements a b c n) s = .next (s.spdmError 0x04)) ∧
    (s.mgmt.spdmAlgs = true →
      (let a := spdmMsg s.mgmt.spdmVersion 0x01 0 1 (sha256 s.root.flashChain)
       exec .getDigests s = .next (State.spdm { s with mgmt := { s.mgmt with spdmB := s.mgmt.spdmB ++ spdmMsg s.mgmt.spdmVersion 0x81 0 0 [] ++ a } } a)) ∧
      (∀ slot off n, slot = 0 → off < s.root.flashChain.length →
        let part := (s.root.flashChain.drop off).take n
        let a := spdmMsg s.mgmt.spdmVersion 0x02 0 0 (leBytes 2 part.length ++ leBytes 2 (s.root.flashChain.length - off - part.length) ++ part)
        exec (.getCertificate slot off n) s = .next (State.spdm { s with mgmt := { s.mgmt with spdmB := s.mgmt.spdmB ++ spdmMsg s.mgmt.spdmVersion 0x82 0 0 (leBytes 2 off ++ leBytes 2 n) ++ a } } a)) ∧
      (∀ slot off n, slot ≠ 0 ∨ s.root.flashChain.length ≤ off → exec (.getCertificate slot off n) s = .next (s.spdmError 0x01)) ∧
      (∀ slot summary n, slot = 0 → summary = 0 ∨ summary = 1 ∨ summary = 0xFF → n.length = 32 →
        let sum := if summary = 0 then [] else sha256 ((if summary = 1 then [1, 2] else [1, 2, 3, 4, 5]).flatMap s.measureBlock)
        let a := spdmMsg s.mgmt.spdmVersion 0x03 0 1 (sha256 s.root.flashChain ++ leBytes 32 (s.drawBytes 32).1 ++ sum ++ leBytes 2 0)
        let m := s.mgmt.spdmVca ++ s.mgmt.spdmB ++ spdmMsg s.mgmt.spdmVersion 0x83 0 summary n ++ a
        ∃ t, exec (.challenge slot summary n) s = .next t ∧ t.out = s.out ++ [.mctp 5 3 (a ++ spdmSign s.mgmt.spdmVersion (asciiBytes "responder-challenge_auth signing") m)] ∧
          t.mgmt = { s.mgmt with spdmB := [] } ∧ { t with mgmt := s.mgmt, out := s.out } = (s.drawBytes 32).2) ∧
      (∀ index slot sign n, index ≤ 5 ∨ index = 0xFF → (sign = true → slot = 0 ∧ n.length = 32) →
        let is := if index = 0 then [] else if index = 0xFF then [1, 2, 3, 4, 5] else [index]
        ∃ t a, exec (.getMeasurements index slot sign n) s = .next t ∧ t.out = s.out ++ [.mctp 5 0x60 a] ∧ (a.drop 8).take (is.flatMap s.measureBlock).length = is.flatMap s.measureBlock ∧
          (sign = true → t.mgmt.spdmL = []) ∧ { t with mgmt := s.mgmt, out := s.out } = (s.drawBytes 32).2))

/-- The Lectern (R379 to R381, R24): a nonce is drawn for 60 s; a good token opens the Lectern with its scope and duration and is recorded, and any token uses up the nonce;
while it is open with the scope for it a scratchpad line is read with its valid bit (R103), a core halts at a bundle boundary and goes on bundle by bundle, and registers, memory and counters are read and written; it closes
on request or on expiry and halted cores run on; while it is closed these commands change nothing. -/
def Obligations.LecternCommands : Prop :=
  ∀ (s : State),
    (s.root.bureauUp = true → ∃ t, exec .lecternNonceRequest s = .next t ∧ t.mgmt.lecNonce = some ((s.drawBytes 8).1, s.now + 60000 * ms) ∧ t.mgmt.lecOpen = s.mgmt.lecOpen ∧ t.cores = s.cores ∧ t.mem = s.mem) ∧
    (∀ b, s.root.bureauUp = true → ∃ t, exec (.lecternUnlock b) s = .next t ∧ t.mgmt.lecNonce = none ∧
      (s.tokenOk b = true → t.mgmt.lecOpen = true ∧ t.mgmt.lecScope = (parseToken b).scope % 8 ∧ t.mgmt.lecUntil = s.now + (parseToken b).duration * 1000 * ms) ∧
      (s.tokenOk b = false → t.mgmt.lecOpen = s.mgmt.lecOpen) ∧ { t with mgmt := s.mgmt, care := s.care, freeIx := s.freeIx } = s) ∧
    (s.mgmt.lecOpen = true → exec .lecternClose s = .next s.lecternShut ∧ (s.mgmt.lecUntil ≠ 0 → s.mgmt.lecUntil ≤ s.now → exec .lecternExpiry s = .next s.lecternShut) ∧
      (s.now < s.mgmt.lecUntil → exec .lecternExpiry s = .next s)) ∧
    (s.mgmt.lecOpen = false → (∀ c, exec (.lecternHalt c) s = .next s ∧ exec (.lecternSingleStep c) s = .next s) ∧ (∀ t n, exec (.lecternRead t n) s = .next s) ∧ ∀ t b, exec (.lecternWrite t b) s = .next s) ∧
    (∀ c, s.mgmt.lecOpen = true → bitOf s.mgmt.lecScope 2 = true → c < 128 →
      (s.root.mainUp = true → (s.core c).halted = false → exec (.lecternHalt c) s = .next (s.setCore c { s.core c with
        halted := decide ((s.core c).issued = 0), haltNext := decide ((s.core c).issued ≠ 0) })) ∧
      (∀ r, (s.core c).halted = true → (s.core c).run = some r → (s.core c).ended = false → exec (.lecternSingleStep c) s = .next (s.setCore c { s.core c with halted := false, haltNext := true }))) ∧
    (s.mgmt.lecOpen = true → bitOf s.mgmt.lecScope 0 = true → ∀ die i n, die < 16 → i < 16384 →
      exec (.lecternRead (.counter die i) n) s = .next (s.emit (.mctp 0x7E 5 (leBytes 8 (s.ctr (die * 16384 + i)).value)))) ∧
    (s.mgmt.lecOpen = true → bitOf s.mgmt.lecScope 0 = true → ∀ c l n,
      (∀ bs, tfind (s.core c).spad l = some bs → exec (.lecternRead (.spad c l) n) s = .next (s.emit (.mctp 0x7E 5 (bs ++ [1])))) ∧
      (tfind (s.core c).spad l = none → exec (.lecternRead (.spad c l) n) s = .next (s.emit (.mctp 0x7E 5 (zeroLine ++ [0]))))) ∧
    (s.mgmt.lecOpen = true → bitOf s.mgmt.lecScope 1 = true → ∀ c l b, c < 128 → l < 98304 →
      exec (.lecternWrite (.spad c l) b) s = .next (s.setCore c { s.core c with spad := tset (s.core c).spad l ((b ++ zeroLine).take 64) }))

/-- The JTAG port and the holder query (R378, R439, R221): selecting another instruction ends the drive of EXTEST; the bypass register shifts one bit, IDCODE gives the identification code least significant bit first, the chain is
sampled or loaded, EXTEST drives the pins only with the main domain off, and test-logic reset selects IDCODE; a ready device that holds a shared region with the digest
asked for answers with its address. -/
def Obligations.JtagAndHolderQuery : Prop :=
  (∀ (s : State), s.root.standby = true → s.pins.jtagIr = 3 →
    let off := fun (ir : Nat) (bypass : Bool) (o : List Out) => { s with pins := { s.pins with jtagIr := ir, jtagBypass := bypass }, out := s.out ++ [.pin 3 false] ++ o }
    exec .jtagIdcode s = .next (off 0 s.pins.jtagBypass [.jtag ((List.range 32).map (bitOf s.idcode))]) ∧ exec .jtagTestLogicReset s = .next (off 0 false []) ∧
    ∀ b, exec (.jtagBypass b) s = .next (off 1 b [.jtag [false]])) ∧
  ∀ (s : State), s.root.standby = true → s.pins.jtagIr ≠ 3 →
    (∀ b, ∃ t, exec (.jtagBypass b) s = .next t ∧ t.pins = { s.pins with jtagIr := 1, jtagBypass := b } ∧ t.out = s.out ++ [.jtag [decide (s.pins.jtagIr = 1) && s.pins.jtagBypass]] ∧
      { t with pins := s.pins, out := s.out } = s) ∧
    exec .jtagIdcode s = .next { s with pins := { s.pins with jtagIr := 0 }, out := s.out ++ [.jtag ((List.range 32).map (bitOf s.idcode))] } ∧
    exec (.jtagSamplePreload none) s = .next { s with pins := { s.pins with jtagIr := 2 }, out := s.out ++ [.jtag { s.pins with jtagIr := 2 }.chain] } ∧
    (∀ l, exec (.jtagSamplePreload (some l)) s = .next { s with pins := { s.pins with jtagIr := 2, jtagChain := l } }) ∧
    (s.root.mainEn = false → s.root.mainUp = false → exec .jtagExtest s = .next { s with pins := { s.pins with jtagIr := 3 }, out := s.out ++ [.jtag s.pins.jtagChain] ++ [.pin 3 true] }) ∧
    (s.root.mainUp = true → exec .jtagExtest s = .next s) ∧
    exec .jtagTestLogicReset s = .next { s with pins := { s.pins with jtagIr := 0, jtagBypass := false } } ∧
    (∀ d (dig : List Byte) (r : Nat) (g : Region) (rest : Tab Region), s.root.ready = true → s.regions = (r, g) :: rest → g.shared = true → g.slot g.cur = 2 → g.digests.getD g.cur [] = dig →
      exec (.regionHolderQuery d dig) s = .next (s.send (.mgmt (d % 128) msgHolderAnswer [s.cab, 1, r, g.base g.cur, g.size])))

/-- One step (block form): with command `i` at the front of the queue, the step is `exec` of `i` with the queue's rest; on an empty queue time passes, which is the model's
choice (log 2). -/
def Obligations.StepRunsFrontCommand : Prop :=
  (∀ (s : State) (i : Instr) (rest : List Instr), s.pending = i :: rest → step s = exec i { s with pending := rest }) ∧
  (∀ s : State, s.pending = [] → step s = .next s.tickTime ∧ s.tickTime.pending = [] ∧ s.tickTime.mem = s.mem ∧ s.tickTime.cores = s.cores ∧ s.tickTime.regs = s.regs ∧ s.tickTime.frames = s.frames ∧
    s.tickTime.out = s.out ∧ s.tickTime.now = (if s.root.standby && s.root.por then s.now + 1 else s.now))

/-- Every command answers a next state: nothing that a sender may ask stops the block. -/
def Obligations.ExecAlwaysAnswers : Prop :=
  ∀ (i : Instr) (s : State), ∃ t, exec i s = .next t

/-- A command leaves the commands that wait, takes back nothing that has been sent, and draws free values forward only. -/
def Obligations.ExecLeavesQueueAndOutput : Prop :=
  ∀ (i : Instr) (s t : State), exec i s = .next t → t.pending = s.pending ∧ s.out <+: t.out ∧ s.freeIx ≤ t.freeIx

/-- At reset the memory is canonical, no command waits, and nothing has been sent. -/
def Obligations.ResetMemoryCanonical : Prop :=
  Memory.wf State.reset.mem = true ∧ State.reset.pending = [] ∧ State.reset.out = []

/-- Every step leaves the memory in its canonical form: addresses strictly rising and no byte listed that reads as an unlisted one does. -/
def Obligations.StepKeepsMemoryCanonical : Prop :=
  ∀ s t : State, Memory.wf s.mem = true → step s = .next t → Memory.wf t.mem = true

/-- No step clears a blown fuse, and the fuses other than the security version do not change (R342). -/
def Obligations.StepKeepsFuses : Prop :=
  ∀ s t : State, step s = .next t → s.root.fuses.Kept t.root.fuses
end

