-- ==== Sys2Proof/Laws/Tab.lean ====
section
/-! SUPPORT. Laws of the sparse tables: what a read gives after a write, and that every write keeps the canonical form. -/

namespace Sys2Proof.Machine

variable {α : Type}

theorem tabRising_cons {b : Option Nat} {k : Nat} {v : α} {t : Tab α} :
    tabRising b ((k, v) :: t) = true ↔ (∀ x, b = some x → x < k) ∧ tabRising (some k) t = true := by
  cases b <;> simp [tabRising]

theorem tabRising_weaken {a b : Nat} {t : Tab α} (h : tabRising (some b) t = true) (hab : a ≤ b) : tabRising (some a) t = true := by
  cases t with
  | nil => rfl
  | cons e t =>
    obtain ⟨k, v⟩ := e
    rw [tabRising_cons] at h ⊢
    exact ⟨fun x hx => by
      have h1 := h.1 b rfl
      have h2 : a = x := Option.some.inj hx
      omega, h.2⟩

theorem tabRising_none {b : Option Nat} {t : Tab α} (h : tabRising b t = true) : tabRising none t = true := by
  cases b with
  | none => exact h
  | some b =>
    cases t with
    | nil => rfl
    | cons e t => rw [tabRising_cons] at h ⊢; exact ⟨(fun _ hx => by cases hx), h.2⟩

/-- Writing a record keeps the keys strictly rising. -/
theorem tset_rising (k : Nat) (v : α) (t : Tab α) : ∀ b : Option Nat, tabRising b t = true → (∀ x, b = some x → x < k) → tabRising b (tset t k v) = true := by
  induction t with
  | nil => intro b _ hk; rw [tset, tabRising_cons]; exact ⟨hk, rfl⟩
  | cons e t ih =>
    obtain ⟨k', v'⟩ := e
    intro b h hk
    have h2 := tabRising_cons.mp h
    simp only [tset]
    split
    · rename_i hlt
      rw [tabRising_cons]
      exact ⟨hk, tabRising_cons.mpr ⟨fun x hx => by cases hx; exact hlt, h2.2⟩⟩
    · split
      · subst_vars
        exact tabRising_cons.mpr ⟨hk, h2.2⟩
      · rename_i h1 h3
        exact tabRising_cons.mpr ⟨h2.1, ih (some k') h2.2 (fun x hx => by cases hx; omega)⟩

theorem tset_all (d : α) (k : Nat) (v : α) (t : Tab α) (hv : v ≠ d) (h : ∀ e ∈ t, e.2 ≠ d) : ∀ e ∈ tset t k v, e.2 ≠ d := by
  induction t with
  | nil => intro e he; rw [tset, List.mem_singleton] at he; subst he; exact hv
  | cons e t ih =>
    obtain ⟨k', v'⟩ := e
    have ht : ∀ e ∈ t, e.2 ≠ d := fun e he => h e (List.mem_cons_of_mem _ he)
    simp only [tset]
    split
    · exact List.forall_mem_cons.mpr ⟨hv, h⟩
    · split
      · exact List.forall_mem_cons.mpr ⟨hv, ht⟩
      · exact List.forall_mem_cons.mpr ⟨h _ (List.mem_cons_self ..), ih ht⟩

theorem tabWf_iff [DecidableEq α] {d : α} {t : Tab α} : tabWf d t = true ↔ tabRising none t = true ∧ ∀ e ∈ t, e.2 ≠ d := by
  simp [tabWf, List.all_eq_true]

theorem tabRising_filter (p : Nat × α → Bool) (t : Tab α) : ∀ b : Option Nat, tabRising b t = true → tabRising b (t.filter p) = true := by
  induction t with
  | nil => intro b _; rfl
  | cons e t ih =>
    obtain ⟨k, v⟩ := e
    intro b h
    have h2 := tabRising_cons.mp h
    simp only [List.filter_cons]
    split
    · exact tabRising_cons.mpr ⟨h2.1, ih _ h2.2⟩
    · refine ih b ?_
      cases b with
      | none => exact tabRising_none h2.2
      | some b => exact tabRising_weaken h2.2 (Nat.le_of_lt (h2.1 b rfl))

/-- Removing entries keeps the canonical form. -/
theorem filter_wf [DecidableEq α] (d : α) (p : Nat × α → Bool) (t : Tab α) (h : tabWf d t = true) : tabWf d (t.filter p) = true := by
  rw [tabWf_iff] at h ⊢
  exact ⟨tabRising_filter p t none h.1, fun e he => h.2 e (List.mem_of_mem_filter he)⟩

/-- Writing a key keeps the canonical form. -/
theorem tput_wf [DecidableEq α] (d : α) (k : Nat) (v : α) (t : Tab α) (h : tabWf d t = true) : tabWf d (tput d t k v) = true := by
  unfold tput
  split
  · exact filter_wf d _ t h
  · rw [tabWf_iff] at h ⊢
    exact ⟨tset_rising k v t none h.1 (fun _ hx => by cases hx), tset_all d k v t (by assumption) h.2⟩

/-- Writing bytes keeps the canonical form. -/
theorem tputBytes_wf (t : Tab Byte) (a : Nat) (bs : List Byte) (h : tabWf 0 t = true) : tabWf 0 (tputBytes t a bs) = true := by
  induction bs generalizing t a with
  | nil => exact h
  | cons b bs ih => exact ih _ _ (tput_wf 0 a b t h)

/-- The entry of the key written. -/
theorem tfind_tset_same (v : α) (k : Nat) (t : Tab α) : tfind (tset t k v) k = some v := by
  induction t with
  | nil => simp [tset, tfind]
  | cons e t ih =>
    obtain ⟨k', v'⟩ := e
    simp only [tset]
    split
    · simp [tfind]
    · split
      · simp [tfind]
      · rw [tfind, if_neg (by assumption)]; exact ih

/-- The entry of another key. -/
theorem tfind_tset_other (v : α) (k j : Nat) (t : Tab α) (h : j ≠ k) : tfind (tset t k v) j = tfind t j := by
  induction t with
  | nil => simp [tset, tfind, h]
  | cons e t ih =>
    obtain ⟨k', v'⟩ := e
    simp only [tset]
    split
    · simp [tfind, h]
    · split
      · subst_vars; simp [tfind, h]
      · simp only [tfind, ih]

theorem tget_tset_same (d v : α) (k : Nat) (t : Tab α) : tget d (tset t k v) k = v := by
  induction t with
  | nil => simp [tset, tget]
  | cons e t ih =>
    obtain ⟨k', v'⟩ := e
    simp only [tset]
    split
    · simp [tget]
    · split
      · simp [tget]
      · rw [tget, if_neg (by assumption)]; exact ih

theorem tget_tset_other (d v : α) (k j : Nat) (t : Tab α) (h : j ≠ k) : tget d (tset t k v) j = tget d t j := by
  induction t with
  | nil => simp [tset, tget, h]
  | cons e t ih =>
    obtain ⟨k', v'⟩ := e
    simp only [tset]
    split
    · simp [tget, h]
    · split
      · subst_vars; simp [tget, h]
      · simp only [tget, ih]

/-- A removed key reads as the default. -/
theorem tget_tdel_same (d : α) (k : Nat) (t : Tab α) : tget d (tdel t k) k = d := by
  induction t with
  | nil => rfl
  | cons e t ih =>
    obtain ⟨k', v'⟩ := e
    unfold tdel at ih ⊢
    rw [List.filter_cons]
    split
    · rename_i hk
      have : k ≠ k' := fun e => by simp [e] at hk
      rw [tget, if_neg this]; exact ih
    · exact ih

/-- Removing a key leaves the others. -/
theorem tget_tdel_other (d : α) (k j : Nat) (t : Tab α) (h : j ≠ k) : tget d (tdel t k) j = tget d t j := by
  induction t with
  | nil => rfl
  | cons e t ih =>
    obtain ⟨k', v'⟩ := e
    unfold tdel at ih ⊢
    rw [List.filter_cons]
    split
    · simp only [tget, ih]
    · rename_i hk
      have hk : k' = k := by simpa using hk
      rw [tget, if_neg (by omega)]; exact ih

/-- A read of the key written. -/
theorem tget_tput_same [DecidableEq α] (d v : α) (k : Nat) (t : Tab α) : tget d (tput d t k v) k = v := by
  unfold tput
  split
  · rename_i hv; rw [hv]; exact tget_tdel_same d k t
  · exact tget_tset_same d v k t

/-- A read of another key after a write. -/
theorem tget_tput_other [DecidableEq α] (d v : α) (k j : Nat) (t : Tab α) (h : j ≠ k) : tget d (tput d t k v) j = tget d t j := by
  unfold tput
  split
  · exact tget_tdel_other d k j t h
  · exact tget_tset_other d v k j t h

/-- A byte outside the written run reads as before. -/
theorem tget_tputBytes_other (t : Tab Byte) (a j : Nat) (bs : List Byte) (h : j < a ∨ a + bs.length ≤ j) :
    tget 0 (tputBytes t a bs) j = tget 0 t j := by
  induction bs generalizing t a with
  | nil => rfl
  | cons b bs ih =>
    simp only [List.length_cons] at h
    rw [tputBytes, ih _ _ (by omega), tget_tput_other 0 b a j t (by omega)]

/-- The bytes written read back. -/
theorem tget_tputBytes_same (t : Tab Byte) (a i : Nat) (bs : List Byte) (hi : i < bs.length) :
    tget 0 (tputBytes t a bs) (a + i) = bs[i] := by
  induction bs generalizing t a i with
  | nil => simp at hi
  | cons b bs ih =>
    rw [tputBytes]
    cases i with
    | zero =>
      rw [tget_tputBytes_other _ _ _ _ (by omega)]
      exact tget_tput_same 0 b a t
    | succ i =>
      simp only [List.length_cons] at hi
      have := ih (tput 0 t a b) (a + 1) i (by omega)
      rw [Nat.add_right_comm, Nat.add_assoc] at this
      exact this

/-- Reading a run of bytes whose keys two tables agree on. -/
theorem tbytes_congr (t u : Tab Byte) (a n : Nat) (h : ∀ j, a ≤ j → j < a + n → tget 0 t j = tget 0 u j) : tbytes t a n = tbytes u a n := by
  induction n generalizing a with
  | zero => rfl
  | succ n ih => rw [tbytes, tbytes, h a (Nat.le_refl _) (by omega), ih (a + 1) (fun j h1 h2 => h j (by omega) (by omega))]

end Sys2Proof.Machine
end

