-- ==== Sys2Proof/Laws/State.lean ====
section
/-! SUPPORT. What each update of the state leaves in each field, and what is read back. -/

namespace Sys2Proof.Machine

/-! ### setCore -/

@[simp] theorem State.setCore_pending (s : State) (c : Nat) (k : Core) : (s.setCore c k).pending = s.pending := rfl
@[simp] theorem State.setCore_out (s : State) (c : Nat) (k : Core) : (s.setCore c k).out = s.out := rfl
@[simp] theorem State.setCore_freeIx (s : State) (c : Nat) (k : Core) : (s.setCore c k).freeIx = s.freeIx := rfl
@[simp] theorem State.setCore_now (s : State) (c : Nat) (k : Core) : (s.setCore c k).now = s.now := rfl
@[simp] theorem State.setCore_root (s : State) (c : Nat) (k : Core) : (s.setCore c k).root = s.root := rfl
@[simp] theorem State.setCore_pins (s : State) (c : Nat) (k : Core) : (s.setCore c k).pins = s.pins := rfl
@[simp] theorem State.setCore_power (s : State) (c : Nat) (k : Core) : (s.setCore c k).power = s.power := rfl
@[simp] theorem State.setCore_regs (s : State) (c : Nat) (k : Core) : (s.setCore c k).regs = s.regs := rfl
@[simp] theorem State.setCore_cores (s : State) (c : Nat) (k : Core) : (s.setCore c k).cores = tput Core.reset s.cores c k := rfl
@[simp] theorem State.setCore_mem (s : State) (c : Nat) (k : Core) : (s.setCore c k).mem = s.mem := rfl
@[simp] theorem State.setCore_badLines (s : State) (c : Nat) (k : Core) : (s.setCore c k).badLines = s.badLines := rfl
@[simp] theorem State.setCore_frames (s : State) (c : Nat) (k : Core) : (s.setCore c k).frames = s.frames := rfl
@[simp] theorem State.setCore_regions (s : State) (c : Nat) (k : Core) : (s.setCore c k).regions = s.regions := rfl
@[simp] theorem State.setCore_net (s : State) (c : Nat) (k : Core) : (s.setCore c k).net = s.net := rfl
@[simp] theorem State.setCore_ctrs (s : State) (c : Nat) (k : Core) : (s.setCore c k).ctrs = s.ctrs := rfl
@[simp] theorem State.setCore_sigs (s : State) (c : Nat) (k : Core) : (s.setCore c k).sigs = s.sigs := rfl
@[simp] theorem State.setCore_known (s : State) (c : Nat) (k : Core) : (s.setCore c k).known = s.known := rfl
@[simp] theorem State.setCore_notices (s : State) (c : Nat) (k : Core) : (s.setCore c k).notices = s.notices := rfl
@[simp] theorem State.setCore_fwds (s : State) (c : Nat) (k : Core) : (s.setCore c k).fwds = s.fwds := rfl
@[simp] theorem State.setCore_bars (s : State) (c : Nat) (k : Core) : (s.setCore c k).bars = s.bars := rfl
@[simp] theorem State.setCore_dbg (s : State) (c : Nat) (k : Core) : (s.setCore c k).dbg = s.dbg := rfl
@[simp] theorem State.setCore_queues (s : State) (c : Nat) (k : Core) : (s.setCore c k).queues = s.queues := rfl
@[simp] theorem State.setCore_ctxs (s : State) (c : Nat) (k : Core) : (s.setCore c k).ctxs = s.ctxs := rfl
@[simp] theorem State.setCore_arbs (s : State) (c : Nat) (k : Core) : (s.setCore c k).arbs = s.arbs := rfl
@[simp] theorem State.setCore_links (s : State) (c : Nat) (k : Core) : (s.setCore c k).links = s.links := rfl
@[simp] theorem State.setCore_ports (s : State) (c : Nat) (k : Core) : (s.setCore c k).ports = s.ports := rfl
@[simp] theorem State.setCore_pcie (s : State) (c : Nat) (k : Core) : (s.setCore c k).pcie = s.pcie := rfl
@[simp] theorem State.setCore_care (s : State) (c : Nat) (k : Core) : (s.setCore c k).care = s.care := rfl
@[simp] theorem State.setCore_mgmt (s : State) (c : Nat) (k : Core) : (s.setCore c k).mgmt = s.mgmt := rfl

/-! ### setCtx -/

@[simp] theorem State.setCtx_pending (s : State) (n : Nat) (k : Ctx) : (s.setCtx n k).pending = s.pending := rfl
@[simp] theorem State.setCtx_out (s : State) (n : Nat) (k : Ctx) : (s.setCtx n k).out = s.out := rfl
@[simp] theorem State.setCtx_freeIx (s : State) (n : Nat) (k : Ctx) : (s.setCtx n k).freeIx = s.freeIx := rfl
@[simp] theorem State.setCtx_now (s : State) (n : Nat) (k : Ctx) : (s.setCtx n k).now = s.now := rfl
@[simp] theorem State.setCtx_root (s : State) (n : Nat) (k : Ctx) : (s.setCtx n k).root = s.root := rfl
@[simp] theorem State.setCtx_pins (s : State) (n : Nat) (k : Ctx) : (s.setCtx n k).pins = s.pins := rfl
@[simp] theorem State.setCtx_power (s : State) (n : Nat) (k : Ctx) : (s.setCtx n k).power = s.power := rfl
@[simp] theorem State.setCtx_regs (s : State) (n : Nat) (k : Ctx) : (s.setCtx n k).regs = s.regs := rfl
@[simp] theorem State.setCtx_cores (s : State) (n : Nat) (k : Ctx) : (s.setCtx n k).cores = s.cores := rfl
@[simp] theorem State.setCtx_mem (s : State) (n : Nat) (k : Ctx) : (s.setCtx n k).mem = s.mem := rfl
@[simp] theorem State.setCtx_badLines (s : State) (n : Nat) (k : Ctx) : (s.setCtx n k).badLines = s.badLines := rfl
@[simp] theorem State.setCtx_frames (s : State) (n : Nat) (k : Ctx) : (s.setCtx n k).frames = s.frames := rfl
@[simp] theorem State.setCtx_regions (s : State) (n : Nat) (k : Ctx) : (s.setCtx n k).regions = s.regions := rfl
@[simp] theorem State.setCtx_net (s : State) (n : Nat) (k : Ctx) : (s.setCtx n k).net = s.net := rfl
@[simp] theorem State.setCtx_ctrs (s : State) (n : Nat) (k : Ctx) : (s.setCtx n k).ctrs = s.ctrs := rfl
@[simp] theorem State.setCtx_sigs (s : State) (n : Nat) (k : Ctx) : (s.setCtx n k).sigs = s.sigs := rfl
@[simp] theorem State.setCtx_known (s : State) (n : Nat) (k : Ctx) : (s.setCtx n k).known = s.known := rfl
@[simp] theorem State.setCtx_notices (s : State) (n : Nat) (k : Ctx) : (s.setCtx n k).notices = s.notices := rfl
@[simp] theorem State.setCtx_fwds (s : State) (n : Nat) (k : Ctx) : (s.setCtx n k).fwds = s.fwds := rfl
@[simp] theorem State.setCtx_bars (s : State) (n : Nat) (k : Ctx) : (s.setCtx n k).bars = s.bars := rfl
@[simp] theorem State.setCtx_dbg (s : State) (n : Nat) (k : Ctx) : (s.setCtx n k).dbg = s.dbg := rfl
@[simp] theorem State.setCtx_queues (s : State) (n : Nat) (k : Ctx) : (s.setCtx n k).queues = s.queues := rfl
@[simp] theorem State.setCtx_ctxs (s : State) (n : Nat) (k : Ctx) : (s.setCtx n k).ctxs = tput Ctx.reset s.ctxs n k := rfl
@[simp] theorem State.setCtx_arbs (s : State) (n : Nat) (k : Ctx) : (s.setCtx n k).arbs = s.arbs := rfl
@[simp] theorem State.setCtx_links (s : State) (n : Nat) (k : Ctx) : (s.setCtx n k).links = s.links := rfl
@[simp] theorem State.setCtx_ports (s : State) (n : Nat) (k : Ctx) : (s.setCtx n k).ports = s.ports := rfl
@[simp] theorem State.setCtx_pcie (s : State) (n : Nat) (k : Ctx) : (s.setCtx n k).pcie = s.pcie := rfl
@[simp] theorem State.setCtx_care (s : State) (n : Nat) (k : Ctx) : (s.setCtx n k).care = s.care := rfl
@[simp] theorem State.setCtx_mgmt (s : State) (n : Nat) (k : Ctx) : (s.setCtx n k).mgmt = s.mgmt := rfl

/-! ### modCtx -/

@[simp] theorem State.modCtx_pending (s : State) (n : Nat) (f : Ctx → Ctx) : (s.modCtx n f).pending = s.pending := rfl
@[simp] theorem State.modCtx_out (s : State) (n : Nat) (f : Ctx → Ctx) : (s.modCtx n f).out = s.out := rfl
@[simp] theorem State.modCtx_freeIx (s : State) (n : Nat) (f : Ctx → Ctx) : (s.modCtx n f).freeIx = s.freeIx := rfl
@[simp] theorem State.modCtx_now (s : State) (n : Nat) (f : Ctx → Ctx) : (s.modCtx n f).now = s.now := rfl
@[simp] theorem State.modCtx_root (s : State) (n : Nat) (f : Ctx → Ctx) : (s.modCtx n f).root = s.root := rfl
@[simp] theorem State.modCtx_pins (s : State) (n : Nat) (f : Ctx → Ctx) : (s.modCtx n f).pins = s.pins := rfl
@[simp] theorem State.modCtx_power (s : State) (n : Nat) (f : Ctx → Ctx) : (s.modCtx n f).power = s.power := rfl
@[simp] theorem State.modCtx_regs (s : State) (n : Nat) (f : Ctx → Ctx) : (s.modCtx n f).regs = s.regs := rfl
@[simp] theorem State.modCtx_cores (s : State) (n : Nat) (f : Ctx → Ctx) : (s.modCtx n f).cores = s.cores := rfl
@[simp] theorem State.modCtx_mem (s : State) (n : Nat) (f : Ctx → Ctx) : (s.modCtx n f).mem = s.mem := rfl
@[simp] theorem State.modCtx_badLines (s : State) (n : Nat) (f : Ctx → Ctx) : (s.modCtx n f).badLines = s.badLines := rfl
@[simp] theorem State.modCtx_frames (s : State) (n : Nat) (f : Ctx → Ctx) : (s.modCtx n f).frames = s.frames := rfl
@[simp] theorem State.modCtx_regions (s : State) (n : Nat) (f : Ctx → Ctx) : (s.modCtx n f).regions = s.regions := rfl
@[simp] theorem State.modCtx_net (s : State) (n : Nat) (f : Ctx → Ctx) : (s.modCtx n f).net = s.net := rfl
@[simp] theorem State.modCtx_ctrs (s : State) (n : Nat) (f : Ctx → Ctx) : (s.modCtx n f).ctrs = s.ctrs := rfl
@[simp] theorem State.modCtx_sigs (s : State) (n : Nat) (f : Ctx → Ctx) : (s.modCtx n f).sigs = s.sigs := rfl
@[simp] theorem State.modCtx_known (s : State) (n : Nat) (f : Ctx → Ctx) : (s.modCtx n f).known = s.known := rfl
@[simp] theorem State.modCtx_notices (s : State) (n : Nat) (f : Ctx → Ctx) : (s.modCtx n f).notices = s.notices := rfl
@[simp] theorem State.modCtx_fwds (s : State) (n : Nat) (f : Ctx → Ctx) : (s.modCtx n f).fwds = s.fwds := rfl
@[simp] theorem State.modCtx_bars (s : State) (n : Nat) (f : Ctx → Ctx) : (s.modCtx n f).bars = s.bars := rfl
@[simp] theorem State.modCtx_dbg (s : State) (n : Nat) (f : Ctx → Ctx) : (s.modCtx n f).dbg = s.dbg := rfl
@[simp] theorem State.modCtx_queues (s : State) (n : Nat) (f : Ctx → Ctx) : (s.modCtx n f).queues = s.queues := rfl
@[simp] theorem State.modCtx_ctxs (s : State) (n : Nat) (f : Ctx → Ctx) : (s.modCtx n f).ctxs = tput Ctx.reset s.ctxs n (f (s.ctx n)) := rfl
@[simp] theorem State.modCtx_arbs (s : State) (n : Nat) (f : Ctx → Ctx) : (s.modCtx n f).arbs = s.arbs := rfl
@[simp] theorem State.modCtx_links (s : State) (n : Nat) (f : Ctx → Ctx) : (s.modCtx n f).links = s.links := rfl
@[simp] theorem State.modCtx_ports (s : State) (n : Nat) (f : Ctx → Ctx) : (s.modCtx n f).ports = s.ports := rfl
@[simp] theorem State.modCtx_pcie (s : State) (n : Nat) (f : Ctx → Ctx) : (s.modCtx n f).pcie = s.pcie := rfl
@[simp] theorem State.modCtx_care (s : State) (n : Nat) (f : Ctx → Ctx) : (s.modCtx n f).care = s.care := rfl
@[simp] theorem State.modCtx_mgmt (s : State) (n : Nat) (f : Ctx → Ctx) : (s.modCtx n f).mgmt = s.mgmt := rfl

/-! ### drawn -/

@[simp] theorem State.drawn_pending (s : State) (k : Nat) : (s.drawn k).pending = s.pending := rfl
@[simp] theorem State.drawn_out (s : State) (k : Nat) : (s.drawn k).out = s.out := rfl
@[simp] theorem State.drawn_freeIx (s : State) (k : Nat) : (s.drawn k).freeIx = s.freeIx + k := rfl
@[simp] theorem State.drawn_now (s : State) (k : Nat) : (s.drawn k).now = s.now := rfl
@[simp] theorem State.drawn_root (s : State) (k : Nat) : (s.drawn k).root = s.root := rfl
@[simp] theorem State.drawn_pins (s : State) (k : Nat) : (s.drawn k).pins = s.pins := rfl
@[simp] theorem State.drawn_power (s : State) (k : Nat) : (s.drawn k).power = s.power := rfl
@[simp] theorem State.drawn_regs (s : State) (k : Nat) : (s.drawn k).regs = s.regs := rfl
@[simp] theorem State.drawn_cores (s : State) (k : Nat) : (s.drawn k).cores = s.cores := rfl
@[simp] theorem State.drawn_mem (s : State) (k : Nat) : (s.drawn k).mem = s.mem := rfl
@[simp] theorem State.drawn_badLines (s : State) (k : Nat) : (s.drawn k).badLines = s.badLines := rfl
@[simp] theorem State.drawn_frames (s : State) (k : Nat) : (s.drawn k).frames = s.frames := rfl
@[simp] theorem State.drawn_regions (s : State) (k : Nat) : (s.drawn k).regions = s.regions := rfl
@[simp] theorem State.drawn_net (s : State) (k : Nat) : (s.drawn k).net = s.net := rfl
@[simp] theorem State.drawn_ctrs (s : State) (k : Nat) : (s.drawn k).ctrs = s.ctrs := rfl
@[simp] theorem State.drawn_sigs (s : State) (k : Nat) : (s.drawn k).sigs = s.sigs := rfl
@[simp] theorem State.drawn_known (s : State) (k : Nat) : (s.drawn k).known = s.known := rfl
@[simp] theorem State.drawn_notices (s : State) (k : Nat) : (s.drawn k).notices = s.notices := rfl
@[simp] theorem State.drawn_fwds (s : State) (k : Nat) : (s.drawn k).fwds = s.fwds := rfl
@[simp] theorem State.drawn_bars (s : State) (k : Nat) : (s.drawn k).bars = s.bars := rfl
@[simp] theorem State.drawn_dbg (s : State) (k : Nat) : (s.drawn k).dbg = s.dbg := rfl
@[simp] theorem State.drawn_queues (s : State) (k : Nat) : (s.drawn k).queues = s.queues := rfl
@[simp] theorem State.drawn_ctxs (s : State) (k : Nat) : (s.drawn k).ctxs = s.ctxs := rfl
@[simp] theorem State.drawn_arbs (s : State) (k : Nat) : (s.drawn k).arbs = s.arbs := rfl
@[simp] theorem State.drawn_links (s : State) (k : Nat) : (s.drawn k).links = s.links := rfl
@[simp] theorem State.drawn_ports (s : State) (k : Nat) : (s.drawn k).ports = s.ports := rfl
@[simp] theorem State.drawn_pcie (s : State) (k : Nat) : (s.drawn k).pcie = s.pcie := rfl
@[simp] theorem State.drawn_care (s : State) (k : Nat) : (s.drawn k).care = s.care := rfl
@[simp] theorem State.drawn_mgmt (s : State) (k : Nat) : (s.drawn k).mgmt = s.mgmt := rfl

/-! ### modBlk -/

@[simp] theorem State.modBlk_pending (s : State) (p : Nat) (f : Blk → Blk) : (s.modBlk p f).pending = s.pending := rfl
@[simp] theorem State.modBlk_out (s : State) (p : Nat) (f : Blk → Blk) : (s.modBlk p f).out = s.out := rfl
@[simp] theorem State.modBlk_freeIx (s : State) (p : Nat) (f : Blk → Blk) : (s.modBlk p f).freeIx = s.freeIx := rfl
@[simp] theorem State.modBlk_now (s : State) (p : Nat) (f : Blk → Blk) : (s.modBlk p f).now = s.now := rfl
@[simp] theorem State.modBlk_root (s : State) (p : Nat) (f : Blk → Blk) : (s.modBlk p f).root = s.root := rfl
@[simp] theorem State.modBlk_pins (s : State) (p : Nat) (f : Blk → Blk) : (s.modBlk p f).pins = s.pins := rfl
@[simp] theorem State.modBlk_power (s : State) (p : Nat) (f : Blk → Blk) : (s.modBlk p f).power = s.power := rfl
@[simp] theorem State.modBlk_regs (s : State) (p : Nat) (f : Blk → Blk) : (s.modBlk p f).regs = { s.regs with blks := tput Blk.reset s.regs.blks p (f (s.blk p)) } := rfl
@[simp] theorem State.modBlk_cores (s : State) (p : Nat) (f : Blk → Blk) : (s.modBlk p f).cores = s.cores := rfl
@[simp] theorem State.modBlk_mem (s : State) (p : Nat) (f : Blk → Blk) : (s.modBlk p f).mem = s.mem := rfl
@[simp] theorem State.modBlk_badLines (s : State) (p : Nat) (f : Blk → Blk) : (s.modBlk p f).badLines = s.badLines := rfl
@[simp] theorem State.modBlk_frames (s : State) (p : Nat) (f : Blk → Blk) : (s.modBlk p f).frames = s.frames := rfl
@[simp] theorem State.modBlk_regions (s : State) (p : Nat) (f : Blk → Blk) : (s.modBlk p f).regions = s.regions := rfl
@[simp] theorem State.modBlk_net (s : State) (p : Nat) (f : Blk → Blk) : (s.modBlk p f).net = s.net := rfl
@[simp] theorem State.modBlk_ctrs (s : State) (p : Nat) (f : Blk → Blk) : (s.modBlk p f).ctrs = s.ctrs := rfl
@[simp] theorem State.modBlk_sigs (s : State) (p : Nat) (f : Blk → Blk) : (s.modBlk p f).sigs = s.sigs := rfl
@[simp] theorem State.modBlk_known (s : State) (p : Nat) (f : Blk → Blk) : (s.modBlk p f).known = s.known := rfl
@[simp] theorem State.modBlk_notices (s : State) (p : Nat) (f : Blk → Blk) : (s.modBlk p f).notices = s.notices := rfl
@[simp] theorem State.modBlk_fwds (s : State) (p : Nat) (f : Blk → Blk) : (s.modBlk p f).fwds = s.fwds := rfl
@[simp] theorem State.modBlk_bars (s : State) (p : Nat) (f : Blk → Blk) : (s.modBlk p f).bars = s.bars := rfl
@[simp] theorem State.modBlk_dbg (s : State) (p : Nat) (f : Blk → Blk) : (s.modBlk p f).dbg = s.dbg := rfl
@[simp] theorem State.modBlk_queues (s : State) (p : Nat) (f : Blk → Blk) : (s.modBlk p f).queues = s.queues := rfl
@[simp] theorem State.modBlk_ctxs (s : State) (p : Nat) (f : Blk → Blk) : (s.modBlk p f).ctxs = s.ctxs := rfl
@[simp] theorem State.modBlk_arbs (s : State) (p : Nat) (f : Blk → Blk) : (s.modBlk p f).arbs = s.arbs := rfl
@[simp] theorem State.modBlk_links (s : State) (p : Nat) (f : Blk → Blk) : (s.modBlk p f).links = s.links := rfl
@[simp] theorem State.modBlk_ports (s : State) (p : Nat) (f : Blk → Blk) : (s.modBlk p f).ports = s.ports := rfl
@[simp] theorem State.modBlk_pcie (s : State) (p : Nat) (f : Blk → Blk) : (s.modBlk p f).pcie = s.pcie := rfl
@[simp] theorem State.modBlk_care (s : State) (p : Nat) (f : Blk → Blk) : (s.modBlk p f).care = s.care := rfl
@[simp] theorem State.modBlk_mgmt (s : State) (p : Nat) (f : Blk → Blk) : (s.modBlk p f).mgmt = s.mgmt := rfl

/-! ### blkErr -/

@[simp] theorem State.blkErr_pending (s : State) (p b : Nat) : (s.blkErr p b).pending = s.pending := rfl
@[simp] theorem State.blkErr_out (s : State) (p b : Nat) : (s.blkErr p b).out = s.out := rfl
@[simp] theorem State.blkErr_freeIx (s : State) (p b : Nat) : (s.blkErr p b).freeIx = s.freeIx := rfl
@[simp] theorem State.blkErr_now (s : State) (p b : Nat) : (s.blkErr p b).now = s.now := rfl
@[simp] theorem State.blkErr_root (s : State) (p b : Nat) : (s.blkErr p b).root = s.root := rfl
@[simp] theorem State.blkErr_pins (s : State) (p b : Nat) : (s.blkErr p b).pins = s.pins := rfl
@[simp] theorem State.blkErr_power (s : State) (p b : Nat) : (s.blkErr p b).power = s.power := rfl
@[simp] theorem State.blkErr_regs (s : State) (p b : Nat) : (s.blkErr p b).regs = (s.modBlk (ownerPage p) (fun x => { x with err := x.err ||| 2 ^ b })).regs := rfl
@[simp] theorem State.blkErr_cores (s : State) (p b : Nat) : (s.blkErr p b).cores = s.cores := rfl
@[simp] theorem State.blkErr_mem (s : State) (p b : Nat) : (s.blkErr p b).mem = s.mem := rfl
@[simp] theorem State.blkErr_badLines (s : State) (p b : Nat) : (s.blkErr p b).badLines = s.badLines := rfl
@[simp] theorem State.blkErr_frames (s : State) (p b : Nat) : (s.blkErr p b).frames = s.frames := rfl
@[simp] theorem State.blkErr_regions (s : State) (p b : Nat) : (s.blkErr p b).regions = s.regions := rfl
@[simp] theorem State.blkErr_net (s : State) (p b : Nat) : (s.blkErr p b).net = s.net := rfl
@[simp] theorem State.blkErr_ctrs (s : State) (p b : Nat) : (s.blkErr p b).ctrs = s.ctrs := rfl
@[simp] theorem State.blkErr_sigs (s : State) (p b : Nat) : (s.blkErr p b).sigs = s.sigs := rfl
@[simp] theorem State.blkErr_known (s : State) (p b : Nat) : (s.blkErr p b).known = s.known := rfl
@[simp] theorem State.blkErr_notices (s : State) (p b : Nat) : (s.blkErr p b).notices = s.notices := rfl
@[simp] theorem State.blkErr_fwds (s : State) (p b : Nat) : (s.blkErr p b).fwds = s.fwds := rfl
@[simp] theorem State.blkErr_bars (s : State) (p b : Nat) : (s.blkErr p b).bars = s.bars := rfl
@[simp] theorem State.blkErr_dbg (s : State) (p b : Nat) : (s.blkErr p b).dbg = s.dbg := rfl
@[simp] theorem State.blkErr_queues (s : State) (p b : Nat) : (s.blkErr p b).queues = s.queues := rfl
@[simp] theorem State.blkErr_ctxs (s : State) (p b : Nat) : (s.blkErr p b).ctxs = s.ctxs := rfl
@[simp] theorem State.blkErr_arbs (s : State) (p b : Nat) : (s.blkErr p b).arbs = s.arbs := rfl
@[simp] theorem State.blkErr_links (s : State) (p b : Nat) : (s.blkErr p b).links = s.links := rfl
@[simp] theorem State.blkErr_ports (s : State) (p b : Nat) : (s.blkErr p b).ports = s.ports := rfl
@[simp] theorem State.blkErr_pcie (s : State) (p b : Nat) : (s.blkErr p b).pcie = s.pcie := rfl
@[simp] theorem State.blkErr_care (s : State) (p b : Nat) : (s.blkErr p b).care = s.care := rfl
@[simp] theorem State.blkErr_mgmt (s : State) (p b : Nat) : (s.blkErr p b).mgmt = s.mgmt := rfl

/-! ### setLink -/

@[simp] theorem State.setLink_pending (s : State) (l : Nat) (k : Link) : (s.setLink l k).pending = s.pending := rfl
@[simp] theorem State.setLink_out (s : State) (l : Nat) (k : Link) : (s.setLink l k).out = s.out := rfl
@[simp] theorem State.setLink_freeIx (s : State) (l : Nat) (k : Link) : (s.setLink l k).freeIx = s.freeIx := rfl
@[simp] theorem State.setLink_now (s : State) (l : Nat) (k : Link) : (s.setLink l k).now = s.now := rfl
@[simp] theorem State.setLink_root (s : State) (l : Nat) (k : Link) : (s.setLink l k).root = s.root := rfl
@[simp] theorem State.setLink_pins (s : State) (l : Nat) (k : Link) : (s.setLink l k).pins = s.pins := rfl
@[simp] theorem State.setLink_power (s : State) (l : Nat) (k : Link) : (s.setLink l k).power = s.power := rfl
@[simp] theorem State.setLink_regs (s : State) (l : Nat) (k : Link) : (s.setLink l k).regs = s.regs := rfl
@[simp] theorem State.setLink_cores (s : State) (l : Nat) (k : Link) : (s.setLink l k).cores = s.cores := rfl
@[simp] theorem State.setLink_mem (s : State) (l : Nat) (k : Link) : (s.setLink l k).mem = s.mem := rfl
@[simp] theorem State.setLink_badLines (s : State) (l : Nat) (k : Link) : (s.setLink l k).badLines = s.badLines := rfl
@[simp] theorem State.setLink_frames (s : State) (l : Nat) (k : Link) : (s.setLink l k).frames = s.frames := rfl
@[simp] theorem State.setLink_regions (s : State) (l : Nat) (k : Link) : (s.setLink l k).regions = s.regions := rfl
@[simp] theorem State.setLink_net (s : State) (l : Nat) (k : Link) : (s.setLink l k).net = s.net := rfl
@[simp] theorem State.setLink_ctrs (s : State) (l : Nat) (k : Link) : (s.setLink l k).ctrs = s.ctrs := rfl
@[simp] theorem State.setLink_sigs (s : State) (l : Nat) (k : Link) : (s.setLink l k).sigs = s.sigs := rfl
@[simp] theorem State.setLink_known (s : State) (l : Nat) (k : Link) : (s.setLink l k).known = s.known := rfl
@[simp] theorem State.setLink_notices (s : State) (l : Nat) (k : Link) : (s.setLink l k).notices = s.notices := rfl
@[simp] theorem State.setLink_fwds (s : State) (l : Nat) (k : Link) : (s.setLink l k).fwds = s.fwds := rfl
@[simp] theorem State.setLink_bars (s : State) (l : Nat) (k : Link) : (s.setLink l k).bars = s.bars := rfl
@[simp] theorem State.setLink_dbg (s : State) (l : Nat) (k : Link) : (s.setLink l k).dbg = s.dbg := rfl
@[simp] theorem State.setLink_queues (s : State) (l : Nat) (k : Link) : (s.setLink l k).queues = s.queues := rfl
@[simp] theorem State.setLink_ctxs (s : State) (l : Nat) (k : Link) : (s.setLink l k).ctxs = s.ctxs := rfl
@[simp] theorem State.setLink_arbs (s : State) (l : Nat) (k : Link) : (s.setLink l k).arbs = s.arbs := rfl
@[simp] theorem State.setLink_links (s : State) (l : Nat) (k : Link) : (s.setLink l k).links = tput Link.reset s.links l k := rfl
@[simp] theorem State.setLink_ports (s : State) (l : Nat) (k : Link) : (s.setLink l k).ports = s.ports := rfl
@[simp] theorem State.setLink_pcie (s : State) (l : Nat) (k : Link) : (s.setLink l k).pcie = s.pcie := rfl
@[simp] theorem State.setLink_care (s : State) (l : Nat) (k : Link) : (s.setLink l k).care = s.care := rfl
@[simp] theorem State.setLink_mgmt (s : State) (l : Nat) (k : Link) : (s.setLink l k).mgmt = s.mgmt := rfl

/-! ### emit -/

@[simp] theorem State.emit_pending (s : State) (o : Out) : (s.emit o).pending = s.pending := rfl
@[simp] theorem State.emit_out (s : State) (o : Out) : (s.emit o).out = s.out ++ [o] := rfl
@[simp] theorem State.emit_freeIx (s : State) (o : Out) : (s.emit o).freeIx = s.freeIx := rfl
@[simp] theorem State.emit_now (s : State) (o : Out) : (s.emit o).now = s.now := rfl
@[simp] theorem State.emit_root (s : State) (o : Out) : (s.emit o).root = s.root := rfl
@[simp] theorem State.emit_pins (s : State) (o : Out) : (s.emit o).pins = s.pins := rfl
@[simp] theorem State.emit_power (s : State) (o : Out) : (s.emit o).power = s.power := rfl
@[simp] theorem State.emit_regs (s : State) (o : Out) : (s.emit o).regs = s.regs := rfl
@[simp] theorem State.emit_cores (s : State) (o : Out) : (s.emit o).cores = s.cores := rfl
@[simp] theorem State.emit_mem (s : State) (o : Out) : (s.emit o).mem = s.mem := rfl
@[simp] theorem State.emit_badLines (s : State) (o : Out) : (s.emit o).badLines = s.badLines := rfl
@[simp] theorem State.emit_frames (s : State) (o : Out) : (s.emit o).frames = s.frames := rfl
@[simp] theorem State.emit_regions (s : State) (o : Out) : (s.emit o).regions = s.regions := rfl
@[simp] theorem State.emit_net (s : State) (o : Out) : (s.emit o).net = s.net := rfl
@[simp] theorem State.emit_ctrs (s : State) (o : Out) : (s.emit o).ctrs = s.ctrs := rfl
@[simp] theorem State.emit_sigs (s : State) (o : Out) : (s.emit o).sigs = s.sigs := rfl
@[simp] theorem State.emit_known (s : State) (o : Out) : (s.emit o).known = s.known := rfl
@[simp] theorem State.emit_notices (s : State) (o : Out) : (s.emit o).notices = s.notices := rfl
@[simp] theorem State.emit_fwds (s : State) (o : Out) : (s.emit o).fwds = s.fwds := rfl
@[simp] theorem State.emit_bars (s : State) (o : Out) : (s.emit o).bars = s.bars := rfl
@[simp] theorem State.emit_dbg (s : State) (o : Out) : (s.emit o).dbg = s.dbg := rfl
@[simp] theorem State.emit_queues (s : State) (o : Out) : (s.emit o).queues = s.queues := rfl
@[simp] theorem State.emit_ctxs (s : State) (o : Out) : (s.emit o).ctxs = s.ctxs := rfl
@[simp] theorem State.emit_arbs (s : State) (o : Out) : (s.emit o).arbs = s.arbs := rfl
@[simp] theorem State.emit_links (s : State) (o : Out) : (s.emit o).links = s.links := rfl
@[simp] theorem State.emit_ports (s : State) (o : Out) : (s.emit o).ports = s.ports := rfl
@[simp] theorem State.emit_pcie (s : State) (o : Out) : (s.emit o).pcie = s.pcie := rfl
@[simp] theorem State.emit_care (s : State) (o : Out) : (s.emit o).care = s.care := rfl
@[simp] theorem State.emit_mgmt (s : State) (o : Out) : (s.emit o).mgmt = s.mgmt := rfl

/-! ### memWrite -/

@[simp] theorem State.memWrite_pending (s : State) (k o : Nat) (bs : List Byte) : (s.memWrite k o bs).pending = s.pending := rfl
@[simp] theorem State.memWrite_out (s : State) (k o : Nat) (bs : List Byte) : (s.memWrite k o bs).out = s.out := rfl
@[simp] theorem State.memWrite_freeIx (s : State) (k o : Nat) (bs : List Byte) : (s.memWrite k o bs).freeIx = s.freeIx := rfl
@[simp] theorem State.memWrite_now (s : State) (k o : Nat) (bs : List Byte) : (s.memWrite k o bs).now = s.now := rfl
@[simp] theorem State.memWrite_root (s : State) (k o : Nat) (bs : List Byte) : (s.memWrite k o bs).root = s.root := rfl
@[simp] theorem State.memWrite_pins (s : State) (k o : Nat) (bs : List Byte) : (s.memWrite k o bs).pins = s.pins := rfl
@[simp] theorem State.memWrite_power (s : State) (k o : Nat) (bs : List Byte) : (s.memWrite k o bs).power = s.power := rfl
@[simp] theorem State.memWrite_regs (s : State) (k o : Nat) (bs : List Byte) : (s.memWrite k o bs).regs = s.regs := rfl
@[simp] theorem State.memWrite_cores (s : State) (k o : Nat) (bs : List Byte) : (s.memWrite k o bs).cores = s.cores := rfl
@[simp] theorem State.memWrite_mem (s : State) (k o : Nat) (bs : List Byte) : (s.memWrite k o bs).mem = tputBytes s.mem (memKey k o) bs := rfl
@[simp] theorem State.memWrite_badLines (s : State) (k o : Nat) (bs : List Byte) : (s.memWrite k o bs).badLines = s.badLines := rfl
@[simp] theorem State.memWrite_frames (s : State) (k o : Nat) (bs : List Byte) : (s.memWrite k o bs).frames = s.frames := rfl
@[simp] theorem State.memWrite_regions (s : State) (k o : Nat) (bs : List Byte) : (s.memWrite k o bs).regions = s.regions := rfl
@[simp] theorem State.memWrite_net (s : State) (k o : Nat) (bs : List Byte) : (s.memWrite k o bs).net = s.net := rfl
@[simp] theorem State.memWrite_ctrs (s : State) (k o : Nat) (bs : List Byte) : (s.memWrite k o bs).ctrs = s.ctrs := rfl
@[simp] theorem State.memWrite_sigs (s : State) (k o : Nat) (bs : List Byte) : (s.memWrite k o bs).sigs = s.sigs := rfl
@[simp] theorem State.memWrite_known (s : State) (k o : Nat) (bs : List Byte) : (s.memWrite k o bs).known = s.known := rfl
@[simp] theorem State.memWrite_notices (s : State) (k o : Nat) (bs : List Byte) : (s.memWrite k o bs).notices = s.notices := rfl
@[simp] theorem State.memWrite_fwds (s : State) (k o : Nat) (bs : List Byte) : (s.memWrite k o bs).fwds = s.fwds := rfl
@[simp] theorem State.memWrite_bars (s : State) (k o : Nat) (bs : List Byte) : (s.memWrite k o bs).bars = s.bars := rfl
@[simp] theorem State.memWrite_dbg (s : State) (k o : Nat) (bs : List Byte) : (s.memWrite k o bs).dbg = s.dbg := rfl
@[simp] theorem State.memWrite_queues (s : State) (k o : Nat) (bs : List Byte) : (s.memWrite k o bs).queues = s.queues := rfl
@[simp] theorem State.memWrite_ctxs (s : State) (k o : Nat) (bs : List Byte) : (s.memWrite k o bs).ctxs = s.ctxs := rfl
@[simp] theorem State.memWrite_arbs (s : State) (k o : Nat) (bs : List Byte) : (s.memWrite k o bs).arbs = s.arbs := rfl
@[simp] theorem State.memWrite_links (s : State) (k o : Nat) (bs : List Byte) : (s.memWrite k o bs).links = s.links := rfl
@[simp] theorem State.memWrite_ports (s : State) (k o : Nat) (bs : List Byte) : (s.memWrite k o bs).ports = s.ports := rfl
@[simp] theorem State.memWrite_pcie (s : State) (k o : Nat) (bs : List Byte) : (s.memWrite k o bs).pcie = s.pcie := rfl
@[simp] theorem State.memWrite_care (s : State) (k o : Nat) (bs : List Byte) : (s.memWrite k o bs).care = s.care := rfl
@[simp] theorem State.memWrite_mgmt (s : State) (k o : Nat) (bs : List Byte) : (s.memWrite k o bs).mgmt = s.mgmt := rfl

/-! ### setFrame -/

@[simp] theorem State.setFrame_pending (s : State) (f e : Nat) : (s.setFrame f e).pending = s.pending := rfl
@[simp] theorem State.setFrame_out (s : State) (f e : Nat) : (s.setFrame f e).out = s.out := rfl
@[simp] theorem State.setFrame_freeIx (s : State) (f e : Nat) : (s.setFrame f e).freeIx = s.freeIx := rfl
@[simp] theorem State.setFrame_now (s : State) (f e : Nat) : (s.setFrame f e).now = s.now := rfl
@[simp] theorem State.setFrame_root (s : State) (f e : Nat) : (s.setFrame f e).root = s.root := rfl
@[simp] theorem State.setFrame_pins (s : State) (f e : Nat) : (s.setFrame f e).pins = s.pins := rfl
@[simp] theorem State.setFrame_power (s : State) (f e : Nat) : (s.setFrame f e).power = s.power := rfl
@[simp] theorem State.setFrame_regs (s : State) (f e : Nat) : (s.setFrame f e).regs = s.regs := rfl
@[simp] theorem State.setFrame_cores (s : State) (f e : Nat) : (s.setFrame f e).cores = s.cores := rfl
@[simp] theorem State.setFrame_mem (s : State) (f e : Nat) : (s.setFrame f e).mem = s.mem := rfl
@[simp] theorem State.setFrame_badLines (s : State) (f e : Nat) : (s.setFrame f e).badLines = s.badLines := rfl
@[simp] theorem State.setFrame_frames (s : State) (f e : Nat) : (s.setFrame f e).frames = tput 0 s.frames f e := rfl
@[simp] theorem State.setFrame_regions (s : State) (f e : Nat) : (s.setFrame f e).regions = s.regions := rfl
@[simp] theorem State.setFrame_net (s : State) (f e : Nat) : (s.setFrame f e).net = s.net := rfl
@[simp] theorem State.setFrame_ctrs (s : State) (f e : Nat) : (s.setFrame f e).ctrs = s.ctrs := rfl
@[simp] theorem State.setFrame_sigs (s : State) (f e : Nat) : (s.setFrame f e).sigs = s.sigs := rfl
@[simp] theorem State.setFrame_known (s : State) (f e : Nat) : (s.setFrame f e).known = s.known := rfl
@[simp] theorem State.setFrame_notices (s : State) (f e : Nat) : (s.setFrame f e).notices = s.notices := rfl
@[simp] theorem State.setFrame_fwds (s : State) (f e : Nat) : (s.setFrame f e).fwds = s.fwds := rfl
@[simp] theorem State.setFrame_bars (s : State) (f e : Nat) : (s.setFrame f e).bars = s.bars := rfl
@[simp] theorem State.setFrame_dbg (s : State) (f e : Nat) : (s.setFrame f e).dbg = s.dbg := rfl
@[simp] theorem State.setFrame_queues (s : State) (f e : Nat) : (s.setFrame f e).queues = s.queues := rfl
@[simp] theorem State.setFrame_ctxs (s : State) (f e : Nat) : (s.setFrame f e).ctxs = s.ctxs := rfl
@[simp] theorem State.setFrame_arbs (s : State) (f e : Nat) : (s.setFrame f e).arbs = s.arbs := rfl
@[simp] theorem State.setFrame_links (s : State) (f e : Nat) : (s.setFrame f e).links = s.links := rfl
@[simp] theorem State.setFrame_ports (s : State) (f e : Nat) : (s.setFrame f e).ports = s.ports := rfl
@[simp] theorem State.setFrame_pcie (s : State) (f e : Nat) : (s.setFrame f e).pcie = s.pcie := rfl
@[simp] theorem State.setFrame_care (s : State) (f e : Nat) : (s.setFrame f e).care = s.care := rfl
@[simp] theorem State.setFrame_mgmt (s : State) (f e : Nat) : (s.setFrame f e).mgmt = s.mgmt := rfl

/-! ### setRegion -/

@[simp] theorem State.setRegion_pending (s : State) (r : Nat) (g : Region) : (s.setRegion r g).pending = s.pending := rfl
@[simp] theorem State.setRegion_out (s : State) (r : Nat) (g : Region) : (s.setRegion r g).out = s.out := rfl
@[simp] theorem State.setRegion_freeIx (s : State) (r : Nat) (g : Region) : (s.setRegion r g).freeIx = s.freeIx := rfl
@[simp] theorem State.setRegion_now (s : State) (r : Nat) (g : Region) : (s.setRegion r g).now = s.now := rfl
@[simp] theorem State.setRegion_root (s : State) (r : Nat) (g : Region) : (s.setRegion r g).root = s.root := rfl
@[simp] theorem State.setRegion_pins (s : State) (r : Nat) (g : Region) : (s.setRegion r g).pins = s.pins := rfl
@[simp] theorem State.setRegion_power (s : State) (r : Nat) (g : Region) : (s.setRegion r g).power = s.power := rfl
@[simp] theorem State.setRegion_regs (s : State) (r : Nat) (g : Region) : (s.setRegion r g).regs = s.regs := rfl
@[simp] theorem State.setRegion_cores (s : State) (r : Nat) (g : Region) : (s.setRegion r g).cores = s.cores := rfl
@[simp] theorem State.setRegion_mem (s : State) (r : Nat) (g : Region) : (s.setRegion r g).mem = s.mem := rfl
@[simp] theorem State.setRegion_badLines (s : State) (r : Nat) (g : Region) : (s.setRegion r g).badLines = s.badLines := rfl
@[simp] theorem State.setRegion_frames (s : State) (r : Nat) (g : Region) : (s.setRegion r g).frames = s.frames := rfl
@[simp] theorem State.setRegion_regions (s : State) (r : Nat) (g : Region) : (s.setRegion r g).regions = tset s.regions r g := rfl
@[simp] theorem State.setRegion_net (s : State) (r : Nat) (g : Region) : (s.setRegion r g).net = s.net := rfl
@[simp] theorem State.setRegion_ctrs (s : State) (r : Nat) (g : Region) : (s.setRegion r g).ctrs = s.ctrs := rfl
@[simp] theorem State.setRegion_sigs (s : State) (r : Nat) (g : Region) : (s.setRegion r g).sigs = s.sigs := rfl
@[simp] theorem State.setRegion_known (s : State) (r : Nat) (g : Region) : (s.setRegion r g).known = s.known := rfl
@[simp] theorem State.setRegion_notices (s : State) (r : Nat) (g : Region) : (s.setRegion r g).notices = s.notices := rfl
@[simp] theorem State.setRegion_fwds (s : State) (r : Nat) (g : Region) : (s.setRegion r g).fwds = s.fwds := rfl
@[simp] theorem State.setRegion_bars (s : State) (r : Nat) (g : Region) : (s.setRegion r g).bars = s.bars := rfl
@[simp] theorem State.setRegion_dbg (s : State) (r : Nat) (g : Region) : (s.setRegion r g).dbg = s.dbg := rfl
@[simp] theorem State.setRegion_queues (s : State) (r : Nat) (g : Region) : (s.setRegion r g).queues = s.queues := rfl
@[simp] theorem State.setRegion_ctxs (s : State) (r : Nat) (g : Region) : (s.setRegion r g).ctxs = s.ctxs := rfl
@[simp] theorem State.setRegion_arbs (s : State) (r : Nat) (g : Region) : (s.setRegion r g).arbs = s.arbs := rfl
@[simp] theorem State.setRegion_links (s : State) (r : Nat) (g : Region) : (s.setRegion r g).links = s.links := rfl
@[simp] theorem State.setRegion_ports (s : State) (r : Nat) (g : Region) : (s.setRegion r g).ports = s.ports := rfl
@[simp] theorem State.setRegion_pcie (s : State) (r : Nat) (g : Region) : (s.setRegion r g).pcie = s.pcie := rfl
@[simp] theorem State.setRegion_care (s : State) (r : Nat) (g : Region) : (s.setRegion r g).care = s.care := rfl
@[simp] theorem State.setRegion_mgmt (s : State) (r : Nat) (g : Region) : (s.setRegion r g).mgmt = s.mgmt := rfl

/-! ### setCtr -/

@[simp] theorem State.setCtr_pending (s : State) (k : Nat) (c : Counter) : (s.setCtr k c).pending = s.pending := rfl
@[simp] theorem State.setCtr_out (s : State) (k : Nat) (c : Counter) : (s.setCtr k c).out = s.out := rfl
@[simp] theorem State.setCtr_freeIx (s : State) (k : Nat) (c : Counter) : (s.setCtr k c).freeIx = s.freeIx := rfl
@[simp] theorem State.setCtr_now (s : State) (k : Nat) (c : Counter) : (s.setCtr k c).now = s.now := rfl
@[simp] theorem State.setCtr_root (s : State) (k : Nat) (c : Counter) : (s.setCtr k c).root = s.root := rfl
@[simp] theorem State.setCtr_pins (s : State) (k : Nat) (c : Counter) : (s.setCtr k c).pins = s.pins := rfl
@[simp] theorem State.setCtr_power (s : State) (k : Nat) (c : Counter) : (s.setCtr k c).power = s.power := rfl
@[simp] theorem State.setCtr_regs (s : State) (k : Nat) (c : Counter) : (s.setCtr k c).regs = s.regs := rfl
@[simp] theorem State.setCtr_cores (s : State) (k : Nat) (c : Counter) : (s.setCtr k c).cores = s.cores := rfl
@[simp] theorem State.setCtr_mem (s : State) (k : Nat) (c : Counter) : (s.setCtr k c).mem = s.mem := rfl
@[simp] theorem State.setCtr_badLines (s : State) (k : Nat) (c : Counter) : (s.setCtr k c).badLines = s.badLines := rfl
@[simp] theorem State.setCtr_frames (s : State) (k : Nat) (c : Counter) : (s.setCtr k c).frames = s.frames := rfl
@[simp] theorem State.setCtr_regions (s : State) (k : Nat) (c : Counter) : (s.setCtr k c).regions = s.regions := rfl
@[simp] theorem State.setCtr_net (s : State) (k : Nat) (c : Counter) : (s.setCtr k c).net = s.net := rfl
@[simp] theorem State.setCtr_ctrs (s : State) (k : Nat) (c : Counter) : (s.setCtr k c).ctrs = tset s.ctrs k c := rfl
@[simp] theorem State.setCtr_sigs (s : State) (k : Nat) (c : Counter) : (s.setCtr k c).sigs = s.sigs := rfl
@[simp] theorem State.setCtr_known (s : State) (k : Nat) (c : Counter) : (s.setCtr k c).known = s.known := rfl
@[simp] theorem State.setCtr_notices (s : State) (k : Nat) (c : Counter) : (s.setCtr k c).notices = s.notices := rfl
@[simp] theorem State.setCtr_fwds (s : State) (k : Nat) (c : Counter) : (s.setCtr k c).fwds = s.fwds := rfl
@[simp] theorem State.setCtr_bars (s : State) (k : Nat) (c : Counter) : (s.setCtr k c).bars = s.bars := rfl
@[simp] theorem State.setCtr_dbg (s : State) (k : Nat) (c : Counter) : (s.setCtr k c).dbg = s.dbg := rfl
@[simp] theorem State.setCtr_queues (s : State) (k : Nat) (c : Counter) : (s.setCtr k c).queues = s.queues := rfl
@[simp] theorem State.setCtr_ctxs (s : State) (k : Nat) (c : Counter) : (s.setCtr k c).ctxs = s.ctxs := rfl
@[simp] theorem State.setCtr_arbs (s : State) (k : Nat) (c : Counter) : (s.setCtr k c).arbs = s.arbs := rfl
@[simp] theorem State.setCtr_links (s : State) (k : Nat) (c : Counter) : (s.setCtr k c).links = s.links := rfl
@[simp] theorem State.setCtr_ports (s : State) (k : Nat) (c : Counter) : (s.setCtr k c).ports = s.ports := rfl
@[simp] theorem State.setCtr_pcie (s : State) (k : Nat) (c : Counter) : (s.setCtr k c).pcie = s.pcie := rfl
@[simp] theorem State.setCtr_care (s : State) (k : Nat) (c : Counter) : (s.setCtr k c).care = s.care := rfl
@[simp] theorem State.setCtr_mgmt (s : State) (k : Nat) (c : Counter) : (s.setCtr k c).mgmt = s.mgmt := rfl

/-! ### Reading back -/

@[simp] theorem State.core_setCore (s : State) (n : Nat) (k : Core) : (s.setCore n k).core n = k := tget_tput_same ..
theorem State.core_setCore_ne (s : State) (n m : Nat) (k : Core) (h : m ≠ n) : (s.setCore n k).core m = s.core m := tget_tput_other _ _ _ _ _ h
@[simp] theorem State.ctx_setCtx (s : State) (n : Nat) (k : Ctx) : (s.setCtx n k).ctx n = k := tget_tput_same ..
theorem State.ctx_setCtx_ne (s : State) (n m : Nat) (k : Ctx) (h : m ≠ n) : (s.setCtx n k).ctx m = s.ctx m := tget_tput_other _ _ _ _ _ h
@[simp] theorem State.link_setLink (s : State) (n : Nat) (k : Link) : (s.setLink n k).link n = k := tget_tput_same ..
theorem State.link_setLink_ne (s : State) (n m : Nat) (k : Link) (h : m ≠ n) : (s.setLink n k).link m = s.link m := tget_tput_other _ _ _ _ _ h
@[simp] theorem State.ctx_modCtx (s : State) (n : Nat) (f : Ctx → Ctx) : (s.modCtx n f).ctx n = f (s.ctx n) := tget_tput_same ..
theorem State.ctx_modCtx_ne (s : State) (n m : Nat) (f : Ctx → Ctx) (h : m ≠ n) : (s.modCtx n f).ctx m = s.ctx m := tget_tput_other _ _ _ _ _ h
@[simp] theorem State.frame_setFrame (s : State) (f e : Nat) : (s.setFrame f e).frame f = e := tget_tput_same ..
theorem State.frame_setFrame_ne (s : State) (f g e : Nat) (h : g ≠ f) : (s.setFrame f e).frame g = s.frame g := tget_tput_other _ _ _ _ _ h
@[simp] theorem State.region_setRegion (s : State) (r : Nat) (g : Region) : (s.setRegion r g).region r = some g := tfind_tset_same ..
theorem State.region_setRegion_ne (s : State) (r q : Nat) (g : Region) (h : q ≠ r) : (s.setRegion r g).region q = s.region q := tfind_tset_other _ _ _ _ h
@[simp] theorem State.ctr_setCtr (s : State) (k : Nat) (c : Counter) : (s.setCtr k c).ctr k = c := tget_tset_same ..
theorem State.ctr_setCtr_ne (s : State) (k j : Nat) (c : Counter) (h : j ≠ k) : (s.setCtr k c).ctr j = s.ctr j := tget_tset_other _ _ _ _ _ h
@[simp] theorem State.blk_modBlk (s : State) (p : Nat) (f : Blk → Blk) : (s.modBlk p f).blk p = f (s.blk p) := tget_tput_same ..
theorem State.blk_modBlk_ne (s : State) (p q : Nat) (f : Blk → Blk) (h : q ≠ p) : (s.modBlk p f).blk q = s.blk q := tget_tput_other _ _ _ _ _ h

/-- A run of bytes written is read back. -/
theorem State.memRead_memWrite (s : State) (k o : Nat) (bs : List Byte) : (s.memWrite k o bs).memRead k o bs.length = bs := by
  unfold State.memRead
  rw [State.memWrite_mem]
  generalize memKey k o = a
  generalize s.mem = m
  induction bs generalizing m a with
  | nil => rfl
  | cons b l ih =>
    have h := tget_tputBytes_same m a 0 (b :: l) (by simp)
    rw [Nat.add_zero] at h
    exact (List.cons.injEq ..).mpr ⟨h, ih _ _⟩

/-- A write of one run leaves every byte outside it. -/
theorem State.memWrite_other (s : State) (k o a : Nat) (bs : List Byte) (h : a < memKey k o ∨ memKey k o + bs.length ≤ a) :
    tget 0 (s.memWrite k o bs).mem a = tget 0 s.mem a := tget_tputBytes_other _ _ _ _ (by omega)

/-- A core replaced: the other cores and every other field are as before. -/
theorem State.setCore_frame (s : State) (c : Nat) (k : Core) : (∀ d, d ≠ c → (s.setCore c k).core d = s.core d) ∧ { s.setCore c k with cores := s.cores } = s :=
  ⟨fun d h => s.core_setCore_ne c d k h, rfl⟩

end Sys2Proof.Machine
end

