-- ==== Sys2Proof/Laws/Ops.lean ====
section
/-! SUPPORT. What the shared operations leave as it was: one frame for each, and what it says of each field. -/

namespace Sys2Proof.Machine

/-- Frames of sends compose. -/
theorem State.frame_out_care {s t u : State} (h : { t with out := s.out, care := s.care, ports := s.ports } = s) (h' : { u with out := t.out, care := t.care, ports := t.ports } = t) :
    { u with out := s.out, care := s.care, ports := s.ports } = s := by
  rw [← h, ← h']

/-- A message of the SYNC class is sent, or waits for a credit (R247). -/
theorem State.sendSync_frame (s : State) (p : Nat) (o : Out) : { s.sendSync p o with out := s.out, ports := s.ports } = s := by
  unfold State.sendSync; split
  · split <;> rfl
  · rfl

theorem State.send_frame (s : State) (o : Out) : { s.send o with out := s.out, care := s.care, ports := s.ports } = s := by
  unfold State.send
  cases o.target with
  | none => rfl
  | some d =>
    dsimp only; split
    · rfl
    · split
      · exact congrArg (fun x : State => { x with care := s.care }) (s.sendSync_frame _ _)
      · rfl
      · split <;> rfl
@[simp] theorem State.send_pending (s : State) (o : Out) : (s.send o).pending = s.pending := by have h := congrArg State.pending (s.send_frame o); exact h
@[simp] theorem State.send_freeIx (s : State) (o : Out) : (s.send o).freeIx = s.freeIx := by have h := congrArg State.freeIx (s.send_frame o); exact h
@[simp] theorem State.send_now (s : State) (o : Out) : (s.send o).now = s.now := by have h := congrArg State.now (s.send_frame o); exact h
@[simp] theorem State.send_root (s : State) (o : Out) : (s.send o).root = s.root := by have h := congrArg State.root (s.send_frame o); exact h
@[simp] theorem State.send_pins (s : State) (o : Out) : (s.send o).pins = s.pins := by have h := congrArg State.pins (s.send_frame o); exact h
@[simp] theorem State.send_power (s : State) (o : Out) : (s.send o).power = s.power := by have h := congrArg State.power (s.send_frame o); exact h
@[simp] theorem State.send_regs (s : State) (o : Out) : (s.send o).regs = s.regs := by have h := congrArg State.regs (s.send_frame o); exact h
@[simp] theorem State.send_cores (s : State) (o : Out) : (s.send o).cores = s.cores := by have h := congrArg State.cores (s.send_frame o); exact h
@[simp] theorem State.send_mem (s : State) (o : Out) : (s.send o).mem = s.mem := by have h := congrArg State.mem (s.send_frame o); exact h
@[simp] theorem State.send_badLines (s : State) (o : Out) : (s.send o).badLines = s.badLines := by have h := congrArg State.badLines (s.send_frame o); exact h
@[simp] theorem State.send_frames (s : State) (o : Out) : (s.send o).frames = s.frames := by have h := congrArg State.frames (s.send_frame o); exact h
@[simp] theorem State.send_regions (s : State) (o : Out) : (s.send o).regions = s.regions := by have h := congrArg State.regions (s.send_frame o); exact h
@[simp] theorem State.send_net (s : State) (o : Out) : (s.send o).net = s.net := by have h := congrArg State.net (s.send_frame o); exact h
@[simp] theorem State.send_ctrs (s : State) (o : Out) : (s.send o).ctrs = s.ctrs := by have h := congrArg State.ctrs (s.send_frame o); exact h
@[simp] theorem State.send_sigs (s : State) (o : Out) : (s.send o).sigs = s.sigs := by have h := congrArg State.sigs (s.send_frame o); exact h
@[simp] theorem State.send_known (s : State) (o : Out) : (s.send o).known = s.known := by have h := congrArg State.known (s.send_frame o); exact h
@[simp] theorem State.send_notices (s : State) (o : Out) : (s.send o).notices = s.notices := by have h := congrArg State.notices (s.send_frame o); exact h
@[simp] theorem State.send_fwds (s : State) (o : Out) : (s.send o).fwds = s.fwds := by have h := congrArg State.fwds (s.send_frame o); exact h
@[simp] theorem State.send_bars (s : State) (o : Out) : (s.send o).bars = s.bars := by have h := congrArg State.bars (s.send_frame o); exact h
@[simp] theorem State.send_dbg (s : State) (o : Out) : (s.send o).dbg = s.dbg := by have h := congrArg State.dbg (s.send_frame o); exact h
@[simp] theorem State.send_queues (s : State) (o : Out) : (s.send o).queues = s.queues := by have h := congrArg State.queues (s.send_frame o); exact h
@[simp] theorem State.send_ctxs (s : State) (o : Out) : (s.send o).ctxs = s.ctxs := by have h := congrArg State.ctxs (s.send_frame o); exact h
@[simp] theorem State.send_arbs (s : State) (o : Out) : (s.send o).arbs = s.arbs := by have h := congrArg State.arbs (s.send_frame o); exact h
@[simp] theorem State.send_links (s : State) (o : Out) : (s.send o).links = s.links := by have h := congrArg State.links (s.send_frame o); exact h
@[simp] theorem State.send_pcie (s : State) (o : Out) : (s.send o).pcie = s.pcie := by have h := congrArg State.pcie (s.send_frame o); exact h
@[simp] theorem State.send_mgmt (s : State) (o : Out) : (s.send o).mgmt = s.mgmt := by have h := congrArg State.mgmt (s.send_frame o); exact h

theorem State.sendAll_frame (s : State) (os : List Out) : { s.sendAll os with out := s.out, care := s.care, ports := s.ports } = s := by
  unfold State.sendAll
  induction os generalizing s with
  | nil => rfl
  | cons o l ih => rw [List.foldl_cons]; exact State.frame_out_care (s.send_frame o) (ih (s.send o))
@[simp] theorem State.sendAll_pending (s : State) (os : List Out) : (s.sendAll os).pending = s.pending := by have h := congrArg State.pending (s.sendAll_frame os); exact h
@[simp] theorem State.sendAll_freeIx (s : State) (os : List Out) : (s.sendAll os).freeIx = s.freeIx := by have h := congrArg State.freeIx (s.sendAll_frame os); exact h
@[simp] theorem State.sendAll_now (s : State) (os : List Out) : (s.sendAll os).now = s.now := by have h := congrArg State.now (s.sendAll_frame os); exact h
@[simp] theorem State.sendAll_root (s : State) (os : List Out) : (s.sendAll os).root = s.root := by have h := congrArg State.root (s.sendAll_frame os); exact h
@[simp] theorem State.sendAll_pins (s : State) (os : List Out) : (s.sendAll os).pins = s.pins := by have h := congrArg State.pins (s.sendAll_frame os); exact h
@[simp] theorem State.sendAll_power (s : State) (os : List Out) : (s.sendAll os).power = s.power := by have h := congrArg State.power (s.sendAll_frame os); exact h
@[simp] theorem State.sendAll_regs (s : State) (os : List Out) : (s.sendAll os).regs = s.regs := by have h := congrArg State.regs (s.sendAll_frame os); exact h
@[simp] theorem State.sendAll_cores (s : State) (os : List Out) : (s.sendAll os).cores = s.cores := by have h := congrArg State.cores (s.sendAll_frame os); exact h
@[simp] theorem State.sendAll_mem (s : State) (os : List Out) : (s.sendAll os).mem = s.mem := by have h := congrArg State.mem (s.sendAll_frame os); exact h
@[simp] theorem State.sendAll_badLines (s : State) (os : List Out) : (s.sendAll os).badLines = s.badLines := by have h := congrArg State.badLines (s.sendAll_frame os); exact h
@[simp] theorem State.sendAll_frames (s : State) (os : List Out) : (s.sendAll os).frames = s.frames := by have h := congrArg State.frames (s.sendAll_frame os); exact h
@[simp] theorem State.sendAll_regions (s : State) (os : List Out) : (s.sendAll os).regions = s.regions := by have h := congrArg State.regions (s.sendAll_frame os); exact h
@[simp] theorem State.sendAll_net (s : State) (os : List Out) : (s.sendAll os).net = s.net := by have h := congrArg State.net (s.sendAll_frame os); exact h
@[simp] theorem State.sendAll_ctrs (s : State) (os : List Out) : (s.sendAll os).ctrs = s.ctrs := by have h := congrArg State.ctrs (s.sendAll_frame os); exact h
@[simp] theorem State.sendAll_sigs (s : State) (os : List Out) : (s.sendAll os).sigs = s.sigs := by have h := congrArg State.sigs (s.sendAll_frame os); exact h
@[simp] theorem State.sendAll_known (s : State) (os : List Out) : (s.sendAll os).known = s.known := by have h := congrArg State.known (s.sendAll_frame os); exact h
@[simp] theorem State.sendAll_notices (s : State) (os : List Out) : (s.sendAll os).notices = s.notices := by have h := congrArg State.notices (s.sendAll_frame os); exact h
@[simp] theorem State.sendAll_fwds (s : State) (os : List Out) : (s.sendAll os).fwds = s.fwds := by have h := congrArg State.fwds (s.sendAll_frame os); exact h
@[simp] theorem State.sendAll_bars (s : State) (os : List Out) : (s.sendAll os).bars = s.bars := by have h := congrArg State.bars (s.sendAll_frame os); exact h
@[simp] theorem State.sendAll_dbg (s : State) (os : List Out) : (s.sendAll os).dbg = s.dbg := by have h := congrArg State.dbg (s.sendAll_frame os); exact h
@[simp] theorem State.sendAll_queues (s : State) (os : List Out) : (s.sendAll os).queues = s.queues := by have h := congrArg State.queues (s.sendAll_frame os); exact h
@[simp] theorem State.sendAll_ctxs (s : State) (os : List Out) : (s.sendAll os).ctxs = s.ctxs := by have h := congrArg State.ctxs (s.sendAll_frame os); exact h
@[simp] theorem State.sendAll_arbs (s : State) (os : List Out) : (s.sendAll os).arbs = s.arbs := by have h := congrArg State.arbs (s.sendAll_frame os); exact h
@[simp] theorem State.sendAll_links (s : State) (os : List Out) : (s.sendAll os).links = s.links := by have h := congrArg State.links (s.sendAll_frame os); exact h
@[simp] theorem State.sendAll_pcie (s : State) (os : List Out) : (s.sendAll os).pcie = s.pcie := by have h := congrArg State.pcie (s.sendAll_frame os); exact h
@[simp] theorem State.sendAll_mgmt (s : State) (os : List Out) : (s.sendAll os).mgmt = s.mgmt := by have h := congrArg State.mgmt (s.sendAll_frame os); exact h

theorem State.record_frame (s : State) (r : ErrRec) : { s.record r with care := s.care } = s := rfl
@[simp] theorem State.record_pending (s : State) (r : ErrRec) : (s.record r).pending = s.pending := by have h := congrArg State.pending (s.record_frame r); exact h
@[simp] theorem State.record_out (s : State) (r : ErrRec) : (s.record r).out = s.out := by have h := congrArg State.out (s.record_frame r); exact h
@[simp] theorem State.record_freeIx (s : State) (r : ErrRec) : (s.record r).freeIx = s.freeIx := by have h := congrArg State.freeIx (s.record_frame r); exact h
@[simp] theorem State.record_now (s : State) (r : ErrRec) : (s.record r).now = s.now := by have h := congrArg State.now (s.record_frame r); exact h
@[simp] theorem State.record_root (s : State) (r : ErrRec) : (s.record r).root = s.root := by have h := congrArg State.root (s.record_frame r); exact h
@[simp] theorem State.record_pins (s : State) (r : ErrRec) : (s.record r).pins = s.pins := by have h := congrArg State.pins (s.record_frame r); exact h
@[simp] theorem State.record_power (s : State) (r : ErrRec) : (s.record r).power = s.power := by have h := congrArg State.power (s.record_frame r); exact h
@[simp] theorem State.record_regs (s : State) (r : ErrRec) : (s.record r).regs = s.regs := by have h := congrArg State.regs (s.record_frame r); exact h
@[simp] theorem State.record_cores (s : State) (r : ErrRec) : (s.record r).cores = s.cores := by have h := congrArg State.cores (s.record_frame r); exact h
@[simp] theorem State.record_mem (s : State) (r : ErrRec) : (s.record r).mem = s.mem := by have h := congrArg State.mem (s.record_frame r); exact h
@[simp] theorem State.record_badLines (s : State) (r : ErrRec) : (s.record r).badLines = s.badLines := by have h := congrArg State.badLines (s.record_frame r); exact h
@[simp] theorem State.record_frames (s : State) (r : ErrRec) : (s.record r).frames = s.frames := by have h := congrArg State.frames (s.record_frame r); exact h
@[simp] theorem State.record_regions (s : State) (r : ErrRec) : (s.record r).regions = s.regions := by have h := congrArg State.regions (s.record_frame r); exact h
@[simp] theorem State.record_net (s : State) (r : ErrRec) : (s.record r).net = s.net := by have h := congrArg State.net (s.record_frame r); exact h
@[simp] theorem State.record_ctrs (s : State) (r : ErrRec) : (s.record r).ctrs = s.ctrs := by have h := congrArg State.ctrs (s.record_frame r); exact h
@[simp] theorem State.record_sigs (s : State) (r : ErrRec) : (s.record r).sigs = s.sigs := by have h := congrArg State.sigs (s.record_frame r); exact h
@[simp] theorem State.record_known (s : State) (r : ErrRec) : (s.record r).known = s.known := by have h := congrArg State.known (s.record_frame r); exact h
@[simp] theorem State.record_notices (s : State) (r : ErrRec) : (s.record r).notices = s.notices := by have h := congrArg State.notices (s.record_frame r); exact h
@[simp] theorem State.record_fwds (s : State) (r : ErrRec) : (s.record r).fwds = s.fwds := by have h := congrArg State.fwds (s.record_frame r); exact h
@[simp] theorem State.record_bars (s : State) (r : ErrRec) : (s.record r).bars = s.bars := by have h := congrArg State.bars (s.record_frame r); exact h
@[simp] theorem State.record_dbg (s : State) (r : ErrRec) : (s.record r).dbg = s.dbg := by have h := congrArg State.dbg (s.record_frame r); exact h
@[simp] theorem State.record_queues (s : State) (r : ErrRec) : (s.record r).queues = s.queues := by have h := congrArg State.queues (s.record_frame r); exact h
@[simp] theorem State.record_ctxs (s : State) (r : ErrRec) : (s.record r).ctxs = s.ctxs := by have h := congrArg State.ctxs (s.record_frame r); exact h
@[simp] theorem State.record_arbs (s : State) (r : ErrRec) : (s.record r).arbs = s.arbs := by have h := congrArg State.arbs (s.record_frame r); exact h
@[simp] theorem State.record_links (s : State) (r : ErrRec) : (s.record r).links = s.links := by have h := congrArg State.links (s.record_frame r); exact h
@[simp] theorem State.record_ports (s : State) (r : ErrRec) : (s.record r).ports = s.ports := by have h := congrArg State.ports (s.record_frame r); exact h
@[simp] theorem State.record_pcie (s : State) (r : ErrRec) : (s.record r).pcie = s.pcie := by have h := congrArg State.pcie (s.record_frame r); exact h
@[simp] theorem State.record_mgmt (s : State) (r : ErrRec) : (s.record r).mgmt = s.mgmt := by have h := congrArg State.mgmt (s.record_frame r); exact h

theorem State.count_frame (s : State) (p : Nat) (k : Stat) (n : Nat) : { s.count p k n with regs := s.regs } = s := by unfold State.count; split <;> rfl
@[simp] theorem State.count_pending (s : State) (p : Nat) (k : Stat) (n : Nat) : (s.count p k n).pending = s.pending := by have h := congrArg State.pending (s.count_frame p k n); exact h
@[simp] theorem State.count_out (s : State) (p : Nat) (k : Stat) (n : Nat) : (s.count p k n).out = s.out := by have h := congrArg State.out (s.count_frame p k n); exact h
@[simp] theorem State.count_freeIx (s : State) (p : Nat) (k : Stat) (n : Nat) : (s.count p k n).freeIx = s.freeIx := by have h := congrArg State.freeIx (s.count_frame p k n); exact h
@[simp] theorem State.count_now (s : State) (p : Nat) (k : Stat) (n : Nat) : (s.count p k n).now = s.now := by have h := congrArg State.now (s.count_frame p k n); exact h
@[simp] theorem State.count_root (s : State) (p : Nat) (k : Stat) (n : Nat) : (s.count p k n).root = s.root := by have h := congrArg State.root (s.count_frame p k n); exact h
@[simp] theorem State.count_pins (s : State) (p : Nat) (k : Stat) (n : Nat) : (s.count p k n).pins = s.pins := by have h := congrArg State.pins (s.count_frame p k n); exact h
@[simp] theorem State.count_power (s : State) (p : Nat) (k : Stat) (n : Nat) : (s.count p k n).power = s.power := by have h := congrArg State.power (s.count_frame p k n); exact h
@[simp] theorem State.count_cores (s : State) (p : Nat) (k : Stat) (n : Nat) : (s.count p k n).cores = s.cores := by have h := congrArg State.cores (s.count_frame p k n); exact h
@[simp] theorem State.count_mem (s : State) (p : Nat) (k : Stat) (n : Nat) : (s.count p k n).mem = s.mem := by have h := congrArg State.mem (s.count_frame p k n); exact h
@[simp] theorem State.count_badLines (s : State) (p : Nat) (k : Stat) (n : Nat) : (s.count p k n).badLines = s.badLines := by have h := congrArg State.badLines (s.count_frame p k n); exact h
@[simp] theorem State.count_frames (s : State) (p : Nat) (k : Stat) (n : Nat) : (s.count p k n).frames = s.frames := by have h := congrArg State.frames (s.count_frame p k n); exact h
@[simp] theorem State.count_regions (s : State) (p : Nat) (k : Stat) (n : Nat) : (s.count p k n).regions = s.regions := by have h := congrArg State.regions (s.count_frame p k n); exact h
@[simp] theorem State.count_net (s : State) (p : Nat) (k : Stat) (n : Nat) : (s.count p k n).net = s.net := by have h := congrArg State.net (s.count_frame p k n); exact h
@[simp] theorem State.count_ctrs (s : State) (p : Nat) (k : Stat) (n : Nat) : (s.count p k n).ctrs = s.ctrs := by have h := congrArg State.ctrs (s.count_frame p k n); exact h
@[simp] theorem State.count_sigs (s : State) (p : Nat) (k : Stat) (n : Nat) : (s.count p k n).sigs = s.sigs := by have h := congrArg State.sigs (s.count_frame p k n); exact h
@[simp] theorem State.count_known (s : State) (p : Nat) (k : Stat) (n : Nat) : (s.count p k n).known = s.known := by have h := congrArg State.known (s.count_frame p k n); exact h
@[simp] theorem State.count_notices (s : State) (p : Nat) (k : Stat) (n : Nat) : (s.count p k n).notices = s.notices := by have h := congrArg State.notices (s.count_frame p k n); exact h
@[simp] theorem State.count_fwds (s : State) (p : Nat) (k : Stat) (n : Nat) : (s.count p k n).fwds = s.fwds := by have h := congrArg State.fwds (s.count_frame p k n); exact h
@[simp] theorem State.count_bars (s : State) (p : Nat) (k : Stat) (n : Nat) : (s.count p k n).bars = s.bars := by have h := congrArg State.bars (s.count_frame p k n); exact h
@[simp] theorem State.count_dbg (s : State) (p : Nat) (k : Stat) (n : Nat) : (s.count p k n).dbg = s.dbg := by have h := congrArg State.dbg (s.count_frame p k n); exact h
@[simp] theorem State.count_queues (s : State) (p : Nat) (k : Stat) (n : Nat) : (s.count p k n).queues = s.queues := by have h := congrArg State.queues (s.count_frame p k n); exact h
@[simp] theorem State.count_ctxs (s : State) (p : Nat) (k : Stat) (n : Nat) : (s.count p k n).ctxs = s.ctxs := by have h := congrArg State.ctxs (s.count_frame p k n); exact h
@[simp] theorem State.count_arbs (s : State) (p : Nat) (k : Stat) (n : Nat) : (s.count p k n).arbs = s.arbs := by have h := congrArg State.arbs (s.count_frame p k n); exact h
@[simp] theorem State.count_links (s : State) (p : Nat) (k : Stat) (n : Nat) : (s.count p k n).links = s.links := by have h := congrArg State.links (s.count_frame p k n); exact h
@[simp] theorem State.count_ports (s : State) (p : Nat) (k : Stat) (n : Nat) : (s.count p k n).ports = s.ports := by have h := congrArg State.ports (s.count_frame p k n); exact h
@[simp] theorem State.count_pcie (s : State) (p : Nat) (k : Stat) (n : Nat) : (s.count p k n).pcie = s.pcie := by have h := congrArg State.pcie (s.count_frame p k n); exact h
@[simp] theorem State.count_care (s : State) (p : Nat) (k : Stat) (n : Nat) : (s.count p k n).care = s.care := by have h := congrArg State.care (s.count_frame p k n); exact h
@[simp] theorem State.count_mgmt (s : State) (p : Nat) (k : Stat) (n : Nat) : (s.count p k n).mgmt = s.mgmt := by have h := congrArg State.mgmt (s.count_frame p k n); exact h

theorem State.blkErr_frame (s : State) (p b : Nat) : { s.blkErr p b with regs := s.regs } = s := rfl

theorem State.msix_frame (s : State) (fn v : Nat) : { s.msix fn v with out := s.out, care := s.care, ports := s.ports, pcie := s.pcie } = s := by
  unfold State.msix; split
  · rfl
  · exact congrArg (fun x : State => { x with pcie := s.pcie }) (s.send_frame (.msix fn v))
@[simp] theorem State.msix_pending (s : State) (fn v : Nat) : (s.msix fn v).pending = s.pending := by have h := congrArg State.pending (s.msix_frame fn v); exact h
@[simp] theorem State.msix_freeIx (s : State) (fn v : Nat) : (s.msix fn v).freeIx = s.freeIx := by have h := congrArg State.freeIx (s.msix_frame fn v); exact h
@[simp] theorem State.msix_now (s : State) (fn v : Nat) : (s.msix fn v).now = s.now := by have h := congrArg State.now (s.msix_frame fn v); exact h
@[simp] theorem State.msix_root (s : State) (fn v : Nat) : (s.msix fn v).root = s.root := by have h := congrArg State.root (s.msix_frame fn v); exact h
@[simp] theorem State.msix_pins (s : State) (fn v : Nat) : (s.msix fn v).pins = s.pins := by have h := congrArg State.pins (s.msix_frame fn v); exact h
@[simp] theorem State.msix_power (s : State) (fn v : Nat) : (s.msix fn v).power = s.power := by have h := congrArg State.power (s.msix_frame fn v); exact h
@[simp] theorem State.msix_regs (s : State) (fn v : Nat) : (s.msix fn v).regs = s.regs := by have h := congrArg State.regs (s.msix_frame fn v); exact h
@[simp] theorem State.msix_cores (s : State) (fn v : Nat) : (s.msix fn v).cores = s.cores := by have h := congrArg State.cores (s.msix_frame fn v); exact h
@[simp] theorem State.msix_mem (s : State) (fn v : Nat) : (s.msix fn v).mem = s.mem := by have h := congrArg State.mem (s.msix_frame fn v); exact h
@[simp] theorem State.msix_badLines (s : State) (fn v : Nat) : (s.msix fn v).badLines = s.badLines := by have h := congrArg State.badLines (s.msix_frame fn v); exact h
@[simp] theorem State.msix_frames (s : State) (fn v : Nat) : (s.msix fn v).frames = s.frames := by have h := congrArg State.frames (s.msix_frame fn v); exact h
@[simp] theorem State.msix_regions (s : State) (fn v : Nat) : (s.msix fn v).regions = s.regions := by have h := congrArg State.regions (s.msix_frame fn v); exact h
@[simp] theorem State.msix_net (s : State) (fn v : Nat) : (s.msix fn v).net = s.net := by have h := congrArg State.net (s.msix_frame fn v); exact h
@[simp] theorem State.msix_ctrs (s : State) (fn v : Nat) : (s.msix fn v).ctrs = s.ctrs := by have h := congrArg State.ctrs (s.msix_frame fn v); exact h
@[simp] theorem State.msix_sigs (s : State) (fn v : Nat) : (s.msix fn v).sigs = s.sigs := by have h := congrArg State.sigs (s.msix_frame fn v); exact h
@[simp] theorem State.msix_known (s : State) (fn v : Nat) : (s.msix fn v).known = s.known := by have h := congrArg State.known (s.msix_frame fn v); exact h
@[simp] theorem State.msix_notices (s : State) (fn v : Nat) : (s.msix fn v).notices = s.notices := by have h := congrArg State.notices (s.msix_frame fn v); exact h
@[simp] theorem State.msix_fwds (s : State) (fn v : Nat) : (s.msix fn v).fwds = s.fwds := by have h := congrArg State.fwds (s.msix_frame fn v); exact h
@[simp] theorem State.msix_bars (s : State) (fn v : Nat) : (s.msix fn v).bars = s.bars := by have h := congrArg State.bars (s.msix_frame fn v); exact h
@[simp] theorem State.msix_dbg (s : State) (fn v : Nat) : (s.msix fn v).dbg = s.dbg := by have h := congrArg State.dbg (s.msix_frame fn v); exact h
@[simp] theorem State.msix_queues (s : State) (fn v : Nat) : (s.msix fn v).queues = s.queues := by have h := congrArg State.queues (s.msix_frame fn v); exact h
@[simp] theorem State.msix_ctxs (s : State) (fn v : Nat) : (s.msix fn v).ctxs = s.ctxs := by have h := congrArg State.ctxs (s.msix_frame fn v); exact h
@[simp] theorem State.msix_arbs (s : State) (fn v : Nat) : (s.msix fn v).arbs = s.arbs := by have h := congrArg State.arbs (s.msix_frame fn v); exact h
@[simp] theorem State.msix_links (s : State) (fn v : Nat) : (s.msix fn v).links = s.links := by have h := congrArg State.links (s.msix_frame fn v); exact h
@[simp] theorem State.msix_mgmt (s : State) (fn v : Nat) : (s.msix fn v).mgmt = s.mgmt := by have h := congrArg State.mgmt (s.msix_frame fn v); exact h

theorem State.mirror_frame (s : State) (c k o : Nat) (bs : List Byte) : { s.mirror c k o bs with out := s.out, care := s.care, ports := s.ports, ctxs := s.ctxs } = s := by
  have e : s.mirror c k o bs = if (!feMirror (s.frame (frameOf o))) = true then s else _ := rfl
  rw [e]; split
  · rfl
  · exact congrArg (fun x : State => { x with ctxs := s.ctxs }) (s.sendAll_frame _)
@[simp] theorem State.mirror_pending (s : State) (c k o : Nat) (bs : List Byte) : (s.mirror c k o bs).pending = s.pending := by have h := congrArg State.pending (s.mirror_frame c k o bs); exact h
@[simp] theorem State.mirror_freeIx (s : State) (c k o : Nat) (bs : List Byte) : (s.mirror c k o bs).freeIx = s.freeIx := by have h := congrArg State.freeIx (s.mirror_frame c k o bs); exact h
@[simp] theorem State.mirror_now (s : State) (c k o : Nat) (bs : List Byte) : (s.mirror c k o bs).now = s.now := by have h := congrArg State.now (s.mirror_frame c k o bs); exact h
@[simp] theorem State.mirror_root (s : State) (c k o : Nat) (bs : List Byte) : (s.mirror c k o bs).root = s.root := by have h := congrArg State.root (s.mirror_frame c k o bs); exact h
@[simp] theorem State.mirror_pins (s : State) (c k o : Nat) (bs : List Byte) : (s.mirror c k o bs).pins = s.pins := by have h := congrArg State.pins (s.mirror_frame c k o bs); exact h
@[simp] theorem State.mirror_power (s : State) (c k o : Nat) (bs : List Byte) : (s.mirror c k o bs).power = s.power := by have h := congrArg State.power (s.mirror_frame c k o bs); exact h
@[simp] theorem State.mirror_regs (s : State) (c k o : Nat) (bs : List Byte) : (s.mirror c k o bs).regs = s.regs := by have h := congrArg State.regs (s.mirror_frame c k o bs); exact h
@[simp] theorem State.mirror_cores (s : State) (c k o : Nat) (bs : List Byte) : (s.mirror c k o bs).cores = s.cores := by have h := congrArg State.cores (s.mirror_frame c k o bs); exact h
@[simp] theorem State.mirror_mem (s : State) (c k o : Nat) (bs : List Byte) : (s.mirror c k o bs).mem = s.mem := by have h := congrArg State.mem (s.mirror_frame c k o bs); exact h
@[simp] theorem State.mirror_badLines (s : State) (c k o : Nat) (bs : List Byte) : (s.mirror c k o bs).badLines = s.badLines := by have h := congrArg State.badLines (s.mirror_frame c k o bs); exact h
@[simp] theorem State.mirror_frames (s : State) (c k o : Nat) (bs : List Byte) : (s.mirror c k o bs).frames = s.frames := by have h := congrArg State.frames (s.mirror_frame c k o bs); exact h
@[simp] theorem State.mirror_regions (s : State) (c k o : Nat) (bs : List Byte) : (s.mirror c k o bs).regions = s.regions := by have h := congrArg State.regions (s.mirror_frame c k o bs); exact h
@[simp] theorem State.mirror_net (s : State) (c k o : Nat) (bs : List Byte) : (s.mirror c k o bs).net = s.net := by have h := congrArg State.net (s.mirror_frame c k o bs); exact h
@[simp] theorem State.mirror_ctrs (s : State) (c k o : Nat) (bs : List Byte) : (s.mirror c k o bs).ctrs = s.ctrs := by have h := congrArg State.ctrs (s.mirror_frame c k o bs); exact h
@[simp] theorem State.mirror_sigs (s : State) (c k o : Nat) (bs : List Byte) : (s.mirror c k o bs).sigs = s.sigs := by have h := congrArg State.sigs (s.mirror_frame c k o bs); exact h
@[simp] theorem State.mirror_known (s : State) (c k o : Nat) (bs : List Byte) : (s.mirror c k o bs).known = s.known := by have h := congrArg State.known (s.mirror_frame c k o bs); exact h
@[simp] theorem State.mirror_notices (s : State) (c k o : Nat) (bs : List Byte) : (s.mirror c k o bs).notices = s.notices := by have h := congrArg State.notices (s.mirror_frame c k o bs); exact h
@[simp] theorem State.mirror_fwds (s : State) (c k o : Nat) (bs : List Byte) : (s.mirror c k o bs).fwds = s.fwds := by have h := congrArg State.fwds (s.mirror_frame c k o bs); exact h
@[simp] theorem State.mirror_bars (s : State) (c k o : Nat) (bs : List Byte) : (s.mirror c k o bs).bars = s.bars := by have h := congrArg State.bars (s.mirror_frame c k o bs); exact h
@[simp] theorem State.mirror_dbg (s : State) (c k o : Nat) (bs : List Byte) : (s.mirror c k o bs).dbg = s.dbg := by have h := congrArg State.dbg (s.mirror_frame c k o bs); exact h
@[simp] theorem State.mirror_queues (s : State) (c k o : Nat) (bs : List Byte) : (s.mirror c k o bs).queues = s.queues := by have h := congrArg State.queues (s.mirror_frame c k o bs); exact h
@[simp] theorem State.mirror_arbs (s : State) (c k o : Nat) (bs : List Byte) : (s.mirror c k o bs).arbs = s.arbs := by have h := congrArg State.arbs (s.mirror_frame c k o bs); exact h
@[simp] theorem State.mirror_links (s : State) (c k o : Nat) (bs : List Byte) : (s.mirror c k o bs).links = s.links := by have h := congrArg State.links (s.mirror_frame c k o bs); exact h
@[simp] theorem State.mirror_pcie (s : State) (c k o : Nat) (bs : List Byte) : (s.mirror c k o bs).pcie = s.pcie := by have h := congrArg State.pcie (s.mirror_frame c k o bs); exact h
@[simp] theorem State.mirror_mgmt (s : State) (c k o : Nat) (bs : List Byte) : (s.mirror c k o bs).mgmt = s.mgmt := by have h := congrArg State.mgmt (s.mirror_frame c k o bs); exact h

theorem State.modFrames_frame (s : State) (fs : List Nat) (g : Nat → Nat) : { s.modFrames fs g with frames := s.frames } = s := by
  unfold State.modFrames
  induction fs generalizing s with
  | nil => rfl
  | cons f l ih => rw [List.foldl_cons]; exact congrArg (fun x : State => { x with frames := s.frames }) (ih (s.setFrame f (g (s.frame f))))
@[simp] theorem State.modFrames_pending (s : State) (fs : List Nat) (g : Nat → Nat) : (s.modFrames fs g).pending = s.pending := by have h := congrArg State.pending (s.modFrames_frame fs g); exact h
@[simp] theorem State.modFrames_out (s : State) (fs : List Nat) (g : Nat → Nat) : (s.modFrames fs g).out = s.out := by have h := congrArg State.out (s.modFrames_frame fs g); exact h
@[simp] theorem State.modFrames_freeIx (s : State) (fs : List Nat) (g : Nat → Nat) : (s.modFrames fs g).freeIx = s.freeIx := by have h := congrArg State.freeIx (s.modFrames_frame fs g); exact h
@[simp] theorem State.modFrames_now (s : State) (fs : List Nat) (g : Nat → Nat) : (s.modFrames fs g).now = s.now := by have h := congrArg State.now (s.modFrames_frame fs g); exact h
@[simp] theorem State.modFrames_root (s : State) (fs : List Nat) (g : Nat → Nat) : (s.modFrames fs g).root = s.root := by have h := congrArg State.root (s.modFrames_frame fs g); exact h
@[simp] theorem State.modFrames_pins (s : State) (fs : List Nat) (g : Nat → Nat) : (s.modFrames fs g).pins = s.pins := by have h := congrArg State.pins (s.modFrames_frame fs g); exact h
@[simp] theorem State.modFrames_power (s : State) (fs : List Nat) (g : Nat → Nat) : (s.modFrames fs g).power = s.power := by have h := congrArg State.power (s.modFrames_frame fs g); exact h
@[simp] theorem State.modFrames_regs (s : State) (fs : List Nat) (g : Nat → Nat) : (s.modFrames fs g).regs = s.regs := by have h := congrArg State.regs (s.modFrames_frame fs g); exact h
@[simp] theorem State.modFrames_cores (s : State) (fs : List Nat) (g : Nat → Nat) : (s.modFrames fs g).cores = s.cores := by have h := congrArg State.cores (s.modFrames_frame fs g); exact h
@[simp] theorem State.modFrames_mem (s : State) (fs : List Nat) (g : Nat → Nat) : (s.modFrames fs g).mem = s.mem := by have h := congrArg State.mem (s.modFrames_frame fs g); exact h
@[simp] theorem State.modFrames_badLines (s : State) (fs : List Nat) (g : Nat → Nat) : (s.modFrames fs g).badLines = s.badLines := by have h := congrArg State.badLines (s.modFrames_frame fs g); exact h
@[simp] theorem State.modFrames_regions (s : State) (fs : List Nat) (g : Nat → Nat) : (s.modFrames fs g).regions = s.regions := by have h := congrArg State.regions (s.modFrames_frame fs g); exact h
@[simp] theorem State.modFrames_net (s : State) (fs : List Nat) (g : Nat → Nat) : (s.modFrames fs g).net = s.net := by have h := congrArg State.net (s.modFrames_frame fs g); exact h
@[simp] theorem State.modFrames_ctrs (s : State) (fs : List Nat) (g : Nat → Nat) : (s.modFrames fs g).ctrs = s.ctrs := by have h := congrArg State.ctrs (s.modFrames_frame fs g); exact h
@[simp] theorem State.modFrames_sigs (s : State) (fs : List Nat) (g : Nat → Nat) : (s.modFrames fs g).sigs = s.sigs := by have h := congrArg State.sigs (s.modFrames_frame fs g); exact h
@[simp] theorem State.modFrames_known (s : State) (fs : List Nat) (g : Nat → Nat) : (s.modFrames fs g).known = s.known := by have h := congrArg State.known (s.modFrames_frame fs g); exact h
@[simp] theorem State.modFrames_notices (s : State) (fs : List Nat) (g : Nat → Nat) : (s.modFrames fs g).notices = s.notices := by have h := congrArg State.notices (s.modFrames_frame fs g); exact h
@[simp] theorem State.modFrames_fwds (s : State) (fs : List Nat) (g : Nat → Nat) : (s.modFrames fs g).fwds = s.fwds := by have h := congrArg State.fwds (s.modFrames_frame fs g); exact h
@[simp] theorem State.modFrames_bars (s : State) (fs : List Nat) (g : Nat → Nat) : (s.modFrames fs g).bars = s.bars := by have h := congrArg State.bars (s.modFrames_frame fs g); exact h
@[simp] theorem State.modFrames_dbg (s : State) (fs : List Nat) (g : Nat → Nat) : (s.modFrames fs g).dbg = s.dbg := by have h := congrArg State.dbg (s.modFrames_frame fs g); exact h
@[simp] theorem State.modFrames_queues (s : State) (fs : List Nat) (g : Nat → Nat) : (s.modFrames fs g).queues = s.queues := by have h := congrArg State.queues (s.modFrames_frame fs g); exact h
@[simp] theorem State.modFrames_ctxs (s : State) (fs : List Nat) (g : Nat → Nat) : (s.modFrames fs g).ctxs = s.ctxs := by have h := congrArg State.ctxs (s.modFrames_frame fs g); exact h
@[simp] theorem State.modFrames_arbs (s : State) (fs : List Nat) (g : Nat → Nat) : (s.modFrames fs g).arbs = s.arbs := by have h := congrArg State.arbs (s.modFrames_frame fs g); exact h
@[simp] theorem State.modFrames_links (s : State) (fs : List Nat) (g : Nat → Nat) : (s.modFrames fs g).links = s.links := by have h := congrArg State.links (s.modFrames_frame fs g); exact h
@[simp] theorem State.modFrames_ports (s : State) (fs : List Nat) (g : Nat → Nat) : (s.modFrames fs g).ports = s.ports := by have h := congrArg State.ports (s.modFrames_frame fs g); exact h
@[simp] theorem State.modFrames_pcie (s : State) (fs : List Nat) (g : Nat → Nat) : (s.modFrames fs g).pcie = s.pcie := by have h := congrArg State.pcie (s.modFrames_frame fs g); exact h
@[simp] theorem State.modFrames_care (s : State) (fs : List Nat) (g : Nat → Nat) : (s.modFrames fs g).care = s.care := by have h := congrArg State.care (s.modFrames_frame fs g); exact h
@[simp] theorem State.modFrames_mgmt (s : State) (fs : List Nat) (g : Nat → Nat) : (s.modFrames fs g).mgmt = s.mgmt := by have h := congrArg State.mgmt (s.modFrames_frame fs g); exact h

theorem State.invalidate_frame (s : State) (fs : List Nat) : { s.invalidate fs with care := s.care } = s := rfl
@[simp] theorem State.invalidate_pending (s : State) (fs : List Nat) : (s.invalidate fs).pending = s.pending := by have h := congrArg State.pending (s.invalidate_frame fs); exact h
@[simp] theorem State.invalidate_out (s : State) (fs : List Nat) : (s.invalidate fs).out = s.out := by have h := congrArg State.out (s.invalidate_frame fs); exact h
@[simp] theorem State.invalidate_freeIx (s : State) (fs : List Nat) : (s.invalidate fs).freeIx = s.freeIx := by have h := congrArg State.freeIx (s.invalidate_frame fs); exact h
@[simp] theorem State.invalidate_now (s : State) (fs : List Nat) : (s.invalidate fs).now = s.now := by have h := congrArg State.now (s.invalidate_frame fs); exact h
@[simp] theorem State.invalidate_root (s : State) (fs : List Nat) : (s.invalidate fs).root = s.root := by have h := congrArg State.root (s.invalidate_frame fs); exact h
@[simp] theorem State.invalidate_pins (s : State) (fs : List Nat) : (s.invalidate fs).pins = s.pins := by have h := congrArg State.pins (s.invalidate_frame fs); exact h
@[simp] theorem State.invalidate_power (s : State) (fs : List Nat) : (s.invalidate fs).power = s.power := by have h := congrArg State.power (s.invalidate_frame fs); exact h
@[simp] theorem State.invalidate_regs (s : State) (fs : List Nat) : (s.invalidate fs).regs = s.regs := by have h := congrArg State.regs (s.invalidate_frame fs); exact h
@[simp] theorem State.invalidate_cores (s : State) (fs : List Nat) : (s.invalidate fs).cores = s.cores := by have h := congrArg State.cores (s.invalidate_frame fs); exact h
@[simp] theorem State.invalidate_mem (s : State) (fs : List Nat) : (s.invalidate fs).mem = s.mem := by have h := congrArg State.mem (s.invalidate_frame fs); exact h
@[simp] theorem State.invalidate_badLines (s : State) (fs : List Nat) : (s.invalidate fs).badLines = s.badLines := by have h := congrArg State.badLines (s.invalidate_frame fs); exact h
@[simp] theorem State.invalidate_frames (s : State) (fs : List Nat) : (s.invalidate fs).frames = s.frames := by have h := congrArg State.frames (s.invalidate_frame fs); exact h
@[simp] theorem State.invalidate_regions (s : State) (fs : List Nat) : (s.invalidate fs).regions = s.regions := by have h := congrArg State.regions (s.invalidate_frame fs); exact h
@[simp] theorem State.invalidate_net (s : State) (fs : List Nat) : (s.invalidate fs).net = s.net := by have h := congrArg State.net (s.invalidate_frame fs); exact h
@[simp] theorem State.invalidate_ctrs (s : State) (fs : List Nat) : (s.invalidate fs).ctrs = s.ctrs := by have h := congrArg State.ctrs (s.invalidate_frame fs); exact h
@[simp] theorem State.invalidate_sigs (s : State) (fs : List Nat) : (s.invalidate fs).sigs = s.sigs := by have h := congrArg State.sigs (s.invalidate_frame fs); exact h
@[simp] theorem State.invalidate_known (s : State) (fs : List Nat) : (s.invalidate fs).known = s.known := by have h := congrArg State.known (s.invalidate_frame fs); exact h
@[simp] theorem State.invalidate_notices (s : State) (fs : List Nat) : (s.invalidate fs).notices = s.notices := by have h := congrArg State.notices (s.invalidate_frame fs); exact h
@[simp] theorem State.invalidate_fwds (s : State) (fs : List Nat) : (s.invalidate fs).fwds = s.fwds := by have h := congrArg State.fwds (s.invalidate_frame fs); exact h
@[simp] theorem State.invalidate_bars (s : State) (fs : List Nat) : (s.invalidate fs).bars = s.bars := by have h := congrArg State.bars (s.invalidate_frame fs); exact h
@[simp] theorem State.invalidate_dbg (s : State) (fs : List Nat) : (s.invalidate fs).dbg = s.dbg := by have h := congrArg State.dbg (s.invalidate_frame fs); exact h
@[simp] theorem State.invalidate_queues (s : State) (fs : List Nat) : (s.invalidate fs).queues = s.queues := by have h := congrArg State.queues (s.invalidate_frame fs); exact h
@[simp] theorem State.invalidate_ctxs (s : State) (fs : List Nat) : (s.invalidate fs).ctxs = s.ctxs := by have h := congrArg State.ctxs (s.invalidate_frame fs); exact h
@[simp] theorem State.invalidate_arbs (s : State) (fs : List Nat) : (s.invalidate fs).arbs = s.arbs := by have h := congrArg State.arbs (s.invalidate_frame fs); exact h
@[simp] theorem State.invalidate_links (s : State) (fs : List Nat) : (s.invalidate fs).links = s.links := by have h := congrArg State.links (s.invalidate_frame fs); exact h
@[simp] theorem State.invalidate_ports (s : State) (fs : List Nat) : (s.invalidate fs).ports = s.ports := by have h := congrArg State.ports (s.invalidate_frame fs); exact h
@[simp] theorem State.invalidate_pcie (s : State) (fs : List Nat) : (s.invalidate fs).pcie = s.pcie := by have h := congrArg State.pcie (s.invalidate_frame fs); exact h
@[simp] theorem State.invalidate_mgmt (s : State) (fs : List Nat) : (s.invalidate fs).mgmt = s.mgmt := by have h := congrArg State.mgmt (s.invalidate_frame fs); exact h

theorem State.sendSignal_frame (s : State) (n num op arg m : Nat) : { s.sendSignal n num op arg m with sigs := s.sigs } = s := by unfold State.sendSignal; split <;> rfl
@[simp] theorem State.sendSignal_pending (s : State) (n num op arg m : Nat) : (s.sendSignal n num op arg m).pending = s.pending := by have h := congrArg State.pending (s.sendSignal_frame n num op arg m); exact h
@[simp] theorem State.sendSignal_out (s : State) (n num op arg m : Nat) : (s.sendSignal n num op arg m).out = s.out := by have h := congrArg State.out (s.sendSignal_frame n num op arg m); exact h
@[simp] theorem State.sendSignal_freeIx (s : State) (n num op arg m : Nat) : (s.sendSignal n num op arg m).freeIx = s.freeIx := by have h := congrArg State.freeIx (s.sendSignal_frame n num op arg m); exact h
@[simp] theorem State.sendSignal_now (s : State) (n num op arg m : Nat) : (s.sendSignal n num op arg m).now = s.now := by have h := congrArg State.now (s.sendSignal_frame n num op arg m); exact h
@[simp] theorem State.sendSignal_root (s : State) (n num op arg m : Nat) : (s.sendSignal n num op arg m).root = s.root := by have h := congrArg State.root (s.sendSignal_frame n num op arg m); exact h
@[simp] theorem State.sendSignal_pins (s : State) (n num op arg m : Nat) : (s.sendSignal n num op arg m).pins = s.pins := by have h := congrArg State.pins (s.sendSignal_frame n num op arg m); exact h
@[simp] theorem State.sendSignal_power (s : State) (n num op arg m : Nat) : (s.sendSignal n num op arg m).power = s.power := by have h := congrArg State.power (s.sendSignal_frame n num op arg m); exact h
@[simp] theorem State.sendSignal_regs (s : State) (n num op arg m : Nat) : (s.sendSignal n num op arg m).regs = s.regs := by have h := congrArg State.regs (s.sendSignal_frame n num op arg m); exact h
@[simp] theorem State.sendSignal_cores (s : State) (n num op arg m : Nat) : (s.sendSignal n num op arg m).cores = s.cores := by have h := congrArg State.cores (s.sendSignal_frame n num op arg m); exact h
@[simp] theorem State.sendSignal_mem (s : State) (n num op arg m : Nat) : (s.sendSignal n num op arg m).mem = s.mem := by have h := congrArg State.mem (s.sendSignal_frame n num op arg m); exact h
@[simp] theorem State.sendSignal_badLines (s : State) (n num op arg m : Nat) : (s.sendSignal n num op arg m).badLines = s.badLines := by have h := congrArg State.badLines (s.sendSignal_frame n num op arg m); exact h
@[simp] theorem State.sendSignal_frames (s : State) (n num op arg m : Nat) : (s.sendSignal n num op arg m).frames = s.frames := by have h := congrArg State.frames (s.sendSignal_frame n num op arg m); exact h
@[simp] theorem State.sendSignal_regions (s : State) (n num op arg m : Nat) : (s.sendSignal n num op arg m).regions = s.regions := by have h := congrArg State.regions (s.sendSignal_frame n num op arg m); exact h
@[simp] theorem State.sendSignal_net (s : State) (n num op arg m : Nat) : (s.sendSignal n num op arg m).net = s.net := by have h := congrArg State.net (s.sendSignal_frame n num op arg m); exact h
@[simp] theorem State.sendSignal_ctrs (s : State) (n num op arg m : Nat) : (s.sendSignal n num op arg m).ctrs = s.ctrs := by have h := congrArg State.ctrs (s.sendSignal_frame n num op arg m); exact h
@[simp] theorem State.sendSignal_known (s : State) (n num op arg m : Nat) : (s.sendSignal n num op arg m).known = s.known := by have h := congrArg State.known (s.sendSignal_frame n num op arg m); exact h
@[simp] theorem State.sendSignal_notices (s : State) (n num op arg m : Nat) : (s.sendSignal n num op arg m).notices = s.notices := by have h := congrArg State.notices (s.sendSignal_frame n num op arg m); exact h
@[simp] theorem State.sendSignal_fwds (s : State) (n num op arg m : Nat) : (s.sendSignal n num op arg m).fwds = s.fwds := by have h := congrArg State.fwds (s.sendSignal_frame n num op arg m); exact h
@[simp] theorem State.sendSignal_bars (s : State) (n num op arg m : Nat) : (s.sendSignal n num op arg m).bars = s.bars := by have h := congrArg State.bars (s.sendSignal_frame n num op arg m); exact h
@[simp] theorem State.sendSignal_dbg (s : State) (n num op arg m : Nat) : (s.sendSignal n num op arg m).dbg = s.dbg := by have h := congrArg State.dbg (s.sendSignal_frame n num op arg m); exact h
@[simp] theorem State.sendSignal_queues (s : State) (n num op arg m : Nat) : (s.sendSignal n num op arg m).queues = s.queues := by have h := congrArg State.queues (s.sendSignal_frame n num op arg m); exact h
@[simp] theorem State.sendSignal_ctxs (s : State) (n num op arg m : Nat) : (s.sendSignal n num op arg m).ctxs = s.ctxs := by have h := congrArg State.ctxs (s.sendSignal_frame n num op arg m); exact h
@[simp] theorem State.sendSignal_arbs (s : State) (n num op arg m : Nat) : (s.sendSignal n num op arg m).arbs = s.arbs := by have h := congrArg State.arbs (s.sendSignal_frame n num op arg m); exact h
@[simp] theorem State.sendSignal_links (s : State) (n num op arg m : Nat) : (s.sendSignal n num op arg m).links = s.links := by have h := congrArg State.links (s.sendSignal_frame n num op arg m); exact h
@[simp] theorem State.sendSignal_ports (s : State) (n num op arg m : Nat) : (s.sendSignal n num op arg m).ports = s.ports := by have h := congrArg State.ports (s.sendSignal_frame n num op arg m); exact h
@[simp] theorem State.sendSignal_pcie (s : State) (n num op arg m : Nat) : (s.sendSignal n num op arg m).pcie = s.pcie := by have h := congrArg State.pcie (s.sendSignal_frame n num op arg m); exact h
@[simp] theorem State.sendSignal_care (s : State) (n num op arg m : Nat) : (s.sendSignal n num op arg m).care = s.care := by have h := congrArg State.care (s.sendSignal_frame n num op arg m); exact h
@[simp] theorem State.sendSignal_mgmt (s : State) (n num op arg m : Nat) : (s.sendSignal n num op arg m).mgmt = s.mgmt := by have h := congrArg State.mgmt (s.sendSignal_frame n num op arg m); exact h

theorem State.eccRead_frame (s : State) (k o b : Nat) : { s.eccRead k o b with regs := s.regs, badLines := s.badLines } = s := by
  unfold State.eccRead; split
  · rfl
  · split
    · exact congrArg (fun x : State => { x with badLines := s.badLines }) (s.count_frame _ _ _)
    · exact congrArg (fun x : State => { x with badLines := s.badLines }) (s.count_frame _ _ _)
@[simp] theorem State.eccRead_pending (s : State) (k o b : Nat) : (s.eccRead k o b).pending = s.pending := by have h := congrArg State.pending (s.eccRead_frame k o b); exact h
@[simp] theorem State.eccRead_out (s : State) (k o b : Nat) : (s.eccRead k o b).out = s.out := by have h := congrArg State.out (s.eccRead_frame k o b); exact h
@[simp] theorem State.eccRead_freeIx (s : State) (k o b : Nat) : (s.eccRead k o b).freeIx = s.freeIx := by have h := congrArg State.freeIx (s.eccRead_frame k o b); exact h
@[simp] theorem State.eccRead_now (s : State) (k o b : Nat) : (s.eccRead k o b).now = s.now := by have h := congrArg State.now (s.eccRead_frame k o b); exact h
@[simp] theorem State.eccRead_root (s : State) (k o b : Nat) : (s.eccRead k o b).root = s.root := by have h := congrArg State.root (s.eccRead_frame k o b); exact h
@[simp] theorem State.eccRead_pins (s : State) (k o b : Nat) : (s.eccRead k o b).pins = s.pins := by have h := congrArg State.pins (s.eccRead_frame k o b); exact h
@[simp] theorem State.eccRead_power (s : State) (k o b : Nat) : (s.eccRead k o b).power = s.power := by have h := congrArg State.power (s.eccRead_frame k o b); exact h
@[simp] theorem State.eccRead_cores (s : State) (k o b : Nat) : (s.eccRead k o b).cores = s.cores := by have h := congrArg State.cores (s.eccRead_frame k o b); exact h
@[simp] theorem State.eccRead_mem (s : State) (k o b : Nat) : (s.eccRead k o b).mem = s.mem := by have h := congrArg State.mem (s.eccRead_frame k o b); exact h
@[simp] theorem State.eccRead_frames (s : State) (k o b : Nat) : (s.eccRead k o b).frames = s.frames := by have h := congrArg State.frames (s.eccRead_frame k o b); exact h
@[simp] theorem State.eccRead_regions (s : State) (k o b : Nat) : (s.eccRead k o b).regions = s.regions := by have h := congrArg State.regions (s.eccRead_frame k o b); exact h
@[simp] theorem State.eccRead_net (s : State) (k o b : Nat) : (s.eccRead k o b).net = s.net := by have h := congrArg State.net (s.eccRead_frame k o b); exact h
@[simp] theorem State.eccRead_ctrs (s : State) (k o b : Nat) : (s.eccRead k o b).ctrs = s.ctrs := by have h := congrArg State.ctrs (s.eccRead_frame k o b); exact h
@[simp] theorem State.eccRead_sigs (s : State) (k o b : Nat) : (s.eccRead k o b).sigs = s.sigs := by have h := congrArg State.sigs (s.eccRead_frame k o b); exact h
@[simp] theorem State.eccRead_known (s : State) (k o b : Nat) : (s.eccRead k o b).known = s.known := by have h := congrArg State.known (s.eccRead_frame k o b); exact h
@[simp] theorem State.eccRead_notices (s : State) (k o b : Nat) : (s.eccRead k o b).notices = s.notices := by have h := congrArg State.notices (s.eccRead_frame k o b); exact h
@[simp] theorem State.eccRead_fwds (s : State) (k o b : Nat) : (s.eccRead k o b).fwds = s.fwds := by have h := congrArg State.fwds (s.eccRead_frame k o b); exact h
@[simp] theorem State.eccRead_bars (s : State) (k o b : Nat) : (s.eccRead k o b).bars = s.bars := by have h := congrArg State.bars (s.eccRead_frame k o b); exact h
@[simp] theorem State.eccRead_dbg (s : State) (k o b : Nat) : (s.eccRead k o b).dbg = s.dbg := by have h := congrArg State.dbg (s.eccRead_frame k o b); exact h
@[simp] theorem State.eccRead_queues (s : State) (k o b : Nat) : (s.eccRead k o b).queues = s.queues := by have h := congrArg State.queues (s.eccRead_frame k o b); exact h
@[simp] theorem State.eccRead_ctxs (s : State) (k o b : Nat) : (s.eccRead k o b).ctxs = s.ctxs := by have h := congrArg State.ctxs (s.eccRead_frame k o b); exact h
@[simp] theorem State.eccRead_arbs (s : State) (k o b : Nat) : (s.eccRead k o b).arbs = s.arbs := by have h := congrArg State.arbs (s.eccRead_frame k o b); exact h
@[simp] theorem State.eccRead_links (s : State) (k o b : Nat) : (s.eccRead k o b).links = s.links := by have h := congrArg State.links (s.eccRead_frame k o b); exact h
@[simp] theorem State.eccRead_ports (s : State) (k o b : Nat) : (s.eccRead k o b).ports = s.ports := by have h := congrArg State.ports (s.eccRead_frame k o b); exact h
@[simp] theorem State.eccRead_pcie (s : State) (k o b : Nat) : (s.eccRead k o b).pcie = s.pcie := by have h := congrArg State.pcie (s.eccRead_frame k o b); exact h
@[simp] theorem State.eccRead_care (s : State) (k o b : Nat) : (s.eccRead k o b).care = s.care := by have h := congrArg State.care (s.eccRead_frame k o b); exact h
@[simp] theorem State.eccRead_mgmt (s : State) (k o b : Nat) : (s.eccRead k o b).mgmt = s.mgmt := by have h := congrArg State.mgmt (s.eccRead_frame k o b); exact h

theorem State.notify_frame (s : State) (n b : Nat) : { s.notify n b with ctxs := s.ctxs, out := s.out, care := s.care, ports := s.ports, pcie := s.pcie } = s := by
  unfold State.notify; simp only; split
  · rfl
  · split <;> exact congrArg (fun x : State => { x with ctxs := s.ctxs }) (State.msix_frame (s.modCtx n _) _ _)
@[simp] theorem State.notify_pending (s : State) (n b : Nat) : (s.notify n b).pending = s.pending := by have h := congrArg State.pending (s.notify_frame n b); exact h
@[simp] theorem State.notify_freeIx (s : State) (n b : Nat) : (s.notify n b).freeIx = s.freeIx := by have h := congrArg State.freeIx (s.notify_frame n b); exact h
@[simp] theorem State.notify_now (s : State) (n b : Nat) : (s.notify n b).now = s.now := by have h := congrArg State.now (s.notify_frame n b); exact h
@[simp] theorem State.notify_root (s : State) (n b : Nat) : (s.notify n b).root = s.root := by have h := congrArg State.root (s.notify_frame n b); exact h
@[simp] theorem State.notify_pins (s : State) (n b : Nat) : (s.notify n b).pins = s.pins := by have h := congrArg State.pins (s.notify_frame n b); exact h
@[simp] theorem State.notify_power (s : State) (n b : Nat) : (s.notify n b).power = s.power := by have h := congrArg State.power (s.notify_frame n b); exact h
@[simp] theorem State.notify_regs (s : State) (n b : Nat) : (s.notify n b).regs = s.regs := by have h := congrArg State.regs (s.notify_frame n b); exact h
@[simp] theorem State.notify_cores (s : State) (n b : Nat) : (s.notify n b).cores = s.cores := by have h := congrArg State.cores (s.notify_frame n b); exact h
@[simp] theorem State.notify_mem (s : State) (n b : Nat) : (s.notify n b).mem = s.mem := by have h := congrArg State.mem (s.notify_frame n b); exact h
@[simp] theorem State.notify_badLines (s : State) (n b : Nat) : (s.notify n b).badLines = s.badLines := by have h := congrArg State.badLines (s.notify_frame n b); exact h
@[simp] theorem State.notify_frames (s : State) (n b : Nat) : (s.notify n b).frames = s.frames := by have h := congrArg State.frames (s.notify_frame n b); exact h
@[simp] theorem State.notify_regions (s : State) (n b : Nat) : (s.notify n b).regions = s.regions := by have h := congrArg State.regions (s.notify_frame n b); exact h
@[simp] theorem State.notify_net (s : State) (n b : Nat) : (s.notify n b).net = s.net := by have h := congrArg State.net (s.notify_frame n b); exact h
@[simp] theorem State.notify_ctrs (s : State) (n b : Nat) : (s.notify n b).ctrs = s.ctrs := by have h := congrArg State.ctrs (s.notify_frame n b); exact h
@[simp] theorem State.notify_sigs (s : State) (n b : Nat) : (s.notify n b).sigs = s.sigs := by have h := congrArg State.sigs (s.notify_frame n b); exact h
@[simp] theorem State.notify_known (s : State) (n b : Nat) : (s.notify n b).known = s.known := by have h := congrArg State.known (s.notify_frame n b); exact h
@[simp] theorem State.notify_notices (s : State) (n b : Nat) : (s.notify n b).notices = s.notices := by have h := congrArg State.notices (s.notify_frame n b); exact h
@[simp] theorem State.notify_fwds (s : State) (n b : Nat) : (s.notify n b).fwds = s.fwds := by have h := congrArg State.fwds (s.notify_frame n b); exact h
@[simp] theorem State.notify_bars (s : State) (n b : Nat) : (s.notify n b).bars = s.bars := by have h := congrArg State.bars (s.notify_frame n b); exact h
@[simp] theorem State.notify_dbg (s : State) (n b : Nat) : (s.notify n b).dbg = s.dbg := by have h := congrArg State.dbg (s.notify_frame n b); exact h
@[simp] theorem State.notify_queues (s : State) (n b : Nat) : (s.notify n b).queues = s.queues := by have h := congrArg State.queues (s.notify_frame n b); exact h
@[simp] theorem State.notify_arbs (s : State) (n b : Nat) : (s.notify n b).arbs = s.arbs := by have h := congrArg State.arbs (s.notify_frame n b); exact h
@[simp] theorem State.notify_links (s : State) (n b : Nat) : (s.notify n b).links = s.links := by have h := congrArg State.links (s.notify_frame n b); exact h
@[simp] theorem State.notify_mgmt (s : State) (n b : Nat) : (s.notify n b).mgmt = s.mgmt := by have h := congrArg State.mgmt (s.notify_frame n b); exact h

/-- A message that needs no route, or whose route is up and which is not of the SYNC class, is appended to what the module has sent, and nothing else happens. -/
theorem State.send_routed (s : State) (o : Out) (h : ∀ d, o.target = some d → d = s.cab ∨ ((s.routePort d).isSome ∧ ∀ k fs, o ≠ .sync d k fs)) : s.send o = s.emit o := by
  unfold State.send
  cases ht : o.target with
  | none => rfl
  | some d =>
    rcases h d ht with h | ⟨h, hs⟩
    · simp [h]
    · obtain ⟨p, hp⟩ := Option.isSome_iff_exists.mp h
      simp only [hp]
      split
      · rfl
      · cases o <;> simp_all [Out.target]

/-- An applied write writes its bytes. -/
@[simp] theorem State.applyWrite_mem (s : State) (c k o : Nat) (bs : List Byte) : (s.applyWrite c k o bs).mem = tputBytes s.mem (memKey k o) bs := by
  unfold State.applyWrite
  rw [State.mirror_mem]; rfl

/-- An applied write changes nothing but memory, the errors of its lines, and the mirrors' messages and counts. -/
theorem State.applyWrite_frame (s : State) (c k o : Nat) (bs : List Byte) :
    { s.applyWrite c k o bs with mem := s.mem, badLines := s.badLines, out := s.out, care := s.care, ports := s.ports, ctxs := s.ctxs } = s := by
  unfold State.applyWrite
  exact congrArg (fun x : State => { x with mem := s.mem, badLines := s.badLines }) (State.mirror_frame _ c k o bs)

/-- A write applied to a frame that is not mirrored sends nothing. -/
theorem State.applyWrite_plain (s : State) (c k o : Nat) (bs : List Byte) (h : feMirror (s.frame (frameOf o)) = false) :
    { s.applyWrite c k o bs with mem := s.mem, badLines := s.badLines } = s := by
  unfold State.applyWrite State.mirror
  have : ∀ t : State, t.frames = s.frames → feMirror (t.frame (frameOf o)) = false := by intro t ht; simpa [State.frame, ht] using h
  simp only []
  rw [if_pos]
  · rfl
  · rw [this ((s.memWrite k o bs).clearLines k o bs.length) rfl]; rfl

/-- An entry that a change of other frames leaves is as it was; one of a changed frame is changed (once where the list has no repeats). -/
theorem State.modFrames_other (s : State) (fs : List Nat) (g : Nat → Nat) (f : Nat) (h : f ∉ fs) : (s.modFrames fs g).frame f = s.frame f := by
  unfold State.modFrames
  induction fs generalizing s with
  | nil => rfl
  | cons x l ih =>
    simp only [List.mem_cons, not_or] at h
    rw [List.foldl_cons, ih _ h.2, State.frame_setFrame_ne _ _ _ _ h.1]

end Sys2Proof.Machine
end

