-- ==== Sys2Proof/Laws/Commands.lean ====
section
/-! SUPPORT. What the command block of a context does with a command (R284), and what taking one leaves as it was. -/

namespace Sys2Proof.Machine

/-- An accepted command has its effect on the state in which the block has taken it. -/
theorem State.command_accepted {s : State} {master n : Nat} (h : s.Accepts master n) (op tag : Nat) (args : List Nat) (body : State → State) :
    s.command master n op tag args body = body (s.issued n op tag master args) := by
  have hr : (s.modCtx n (fun c => { c with cmd := c.cmd.issue op tag master args })).root.ready = true := h.ready
  have hi : ((s.modCtx n (fun c => { c with cmd := c.cmd.issue op tag master args })).ctx n).mem.imageDone = false := by rw [State.ctx_modCtx]; exact h.image
  unfold State.command
  rw [if_neg (by simp [Nat.not_le.mpr h.ctx, h.taken]), h.may, h.idle, if_neg (by decide), if_neg (by decide)]
  simp only [hr, hi]
  rfl

@[simp] theorem State.issued_ctx (s : State) (n op tag master : Nat) (args : List Nat) :
    (s.issued n op tag master args).ctx n = { s.ctx n with cmd := (s.ctx n).cmd.issue op tag master args } := s.ctx_modCtx n _

theorem State.issued_ctx_ne (s : State) (n m op tag master : Nat) (args : List Nat) (h : m ≠ n) : (s.issued n op tag master args).ctx m = s.ctx m := s.ctx_modCtx_ne n m _ h

/-- Taking a command changes nothing but the context's command block. -/
theorem State.issued_frame (s : State) (n op tag master : Nat) (args : List Nat) : { s.issued n op tag master args with ctxs := s.ctxs } = s := rfl

@[simp] theorem State.issued_region (s : State) (n op tag master : Nat) (args : List Nat) (r : Nat) : (s.issued n op tag master args).region r = s.region r := rfl
@[simp] theorem State.issued_regs (s : State) (n op tag master : Nat) (args : List Nat) : (s.issued n op tag master args).regs = s.regs := rfl
@[simp] theorem State.issued_quota (s : State) (n op tag master m : Nat) (args : List Nat) : (s.issued n op tag master args).quota m = s.quota m := rfl
@[simp] theorem State.issued_pcie (s : State) (n op tag master : Nat) (args : List Nat) : (s.issued n op tag master args).pcie = s.pcie := rfl
@[simp] theorem State.issued_findRun (s : State) (n op tag master k : Nat) (args : List Nat) : (s.issued n op tag master args).findRun k = s.findRun k := rfl

end Sys2Proof.Machine
end

