-- ==== Sys2Proof/Laws/Cycle.lean ====
section
/-! SUPPORT. What the parts of a core's cycle leave as it was: the cycle counts and the lane generators. -/

namespace Sys2Proof.Machine

/-- The lane generators and the two cycle counts of two cores agree. -/
def Core.ClockAs (c d : Core) : Prop := d.lanes = c.lanes ∧ d.icyc = c.icyc ∧ d.cyc = c.cyc

theorem Core.ClockAs.refl (c : Core) : c.ClockAs c := ⟨rfl, rfl, rfl⟩

theorem Core.ClockAs.trans {a b c : Core} (h : a.ClockAs b) (g : b.ClockAs c) : a.ClockAs c :=
  ⟨g.1.trans h.1, g.2.1.trans h.2.1, g.2.2.trans h.2.2⟩

theorem foldl_clock {α : Type} (f : Core → α → Core) (hf : ∀ (c : Core) (x : α), c.ClockAs (f c x)) (l : List α) (c : Core) : c.ClockAs (l.foldl f c) := by
  induction l generalizing c with
  | nil => exact .refl c
  | cons x l ih => exact (hf c x).trans (ih _)

theorem Core.spadWriteGo_clock (n : Nat) (c : Core) (a : Nat) (bs : List Byte) : c.ClockAs (Core.spadWriteGo n c a bs) := by
  induction n generalizing c a bs with
  | zero => exact .refl c
  | succ n ih =>
    unfold Core.spadWriteGo; split
    · exact .refl c
    · refine Core.ClockAs.trans ?_ (ih _ _ _)
      exact ⟨rfl, rfl, rfl⟩

theorem Core.spadWrite_clock (c : Core) (a : Nat) (bs : List Byte) : c.ClockAs (c.spadWrite a bs) := Core.spadWriteGo_clock _ c a bs

theorem Core.setSreg_clock (c : Core) (i : Nat) (v : W32) : c.ClockAs (c.setSreg i v) := by
  unfold Core.setSreg; split <;> exact ⟨rfl, rfl, rfl⟩

theorem landAcc_clock (row arr sel : Nat) (init : List Nat) (sums : List (Nat × FlagBits)) (n i : Nat) (c : Core) : c.ClockAs (landAcc row arr sel init sums n i c) := by
  induction n generalizing i c with
  | zero => exact .refl c
  | succ n ih =>
    unfold landAcc; dsimp only
    refine Core.ClockAs.trans ?_ (ih _ _)
    split <;> exact ⟨rfl, rfl, rfl⟩

theorem Core.spadWrites_clock (c : Core) (ws : List (Nat × List Byte)) : c.ClockAs (c.spadWrites ws) :=
  foldl_clock (fun c (w : Nat × List Byte) => c.spadWrite w.1 w.2) (fun c w => c.spadWrite_clock w.1 w.2) ws c

theorem Core.land_clock (c : Core) (k : LandKind) : c.ClockAs (c.land k) := by
  cases k with
  | vreg => exact ⟨rfl, rfl, rfl⟩
  | cvt => exact ⟨rfl, rfl, rfl⟩
  | copy ws => exact c.spadWrites_clock ws
  | spad a bs => exact c.spadWrite_clock a bs
  | sreg i v => exact c.setSreg_clock i v
  | acc => exact landAcc_clock ..
  | tile conv ws f resc => exact c.spadWrites_clock ws

theorem Core.landDue_clock {c k : Core} (h : c.landDue = .ok k) : c.ClockAs k := by
  unfold Core.landDue at h; split at h
  · cases h
  · cases h
    exact Core.ClockAs.trans (b := { c with lands := c.lands.filter (fun l => c.icyc < l.cycle) }) ⟨rfl, rfl, rfl⟩
      (foldl_clock (fun c (l : Landing) => c.land l.what) (fun c l => c.land_clock l.what) _ _)

theorem mmaCycle_clock {c k : Core} {e : CoreEnv} {lat : Nat} (h : mmaCycle c e lat = .ok k) : c.ClockAs k := by
  unfold mmaCycle at h
  repeat' (first | (injection h with h; subst h; exact ⟨rfl, rfl, rfl⟩) | (injection h) | dsimp only at h | split at h)

theorem convCycle_clock (e : CoreEnv) (lat : Nat) (c : Core) (key : Nat) (r : ConvRun) : c.ClockAs (convCycle e lat c key r) := by
  unfold convCycle; dsimp only; repeat' split
  all_goals exact ⟨rfl, rfl, rfl⟩

theorem convsCycle_clock (e : CoreEnv) (c : Core) : c.ClockAs (convsCycle e c) :=
  foldl_clock (fun c (k : Nat × ConvRun) => convCycle e (latency e.tp2 .ocv) c k.1 k.2) (fun c k => convCycle_clock e _ c k.1 k.2) c.convs c

theorem Core.nextBundle_clock (c : Core) : c.ClockAs c.nextBundle := by
  unfold Core.nextBundle; dsimp only; repeat' split
  all_goals exact ⟨rfl, rfl, rfl⟩

/-- A cycle that passes raises both counts by one and leaves the lane generators. -/
theorem Core.passCycle_clock {c k : Core} {e : CoreEnv} {b : Bool} (h : c.passCycle e b = .ok k) :
    k.lanes = c.lanes ∧ k.icyc = c.icyc + 1 ∧ k.cyc = c.cyc + 1 := by
  unfold Core.passCycle at h
  split at h
  · cases h
  · rename_i d hd
    have h1 := (mmaCycle_clock hd).trans (convsCycle_clock e d)
    have h2 : d.ClockAs (if b then (convsCycle e d).nextBundle else if (convsCycle e d).pen ≠ 0 then { convsCycle e d with pen := (convsCycle e d).pen - 1 } else convsCycle e d) := by
      refine (convsCycle_clock e d).trans ?_
      repeat' split
      · exact Core.nextBundle_clock _
      · exact ⟨rfl, rfl, rfl⟩
      · exact .refl _
    have h3 := (mmaCycle_clock hd).trans h2
    dsimp only at h
    generalize (if b then (convsCycle e d).nextBundle else if (convsCycle e d).pen ≠ 0 then { convsCycle e d with pen := (convsCycle e d).pen - 1 } else convsCycle e d) = x at h h3
    generalize (if x.halted then x.wd else x.wd + 1) = w at h
    split at h
    · simp at h
    · split at h
      · simp at h
      · injection h with h; subst h; exact ⟨h3.1, congrArg (· + 1) h3.2.1, congrArg (· + 1) h3.2.2⟩

/-- A cycle leaves the lane generators, which advance before it. -/
theorem Core.cycle_lanes {c k : Core} {e : CoreEnv} (h : c.cycle e = .ok k) : k.lanes = c.lanes := by
  unfold Core.cycle at h
  split at h
  · cases h; rfl
  · split at h
    · cases h
    · rename_i d hd
      have h1 := (Core.landDue_clock hd).1
      repeat' split at h
      all_goals first
        | (cases h; exact h1)
        | exact (Core.passCycle_clock h).1.trans h1
        | cases h

end Sys2Proof.Machine
end

