-- ==== Sys2Proof/Laws/Issue.lean ====
section
/-! SUPPORT. What the issue of an operation does (R87), and what marking its slot leaves as it was. -/

namespace Sys2Proof.Machine

@[simp] theorem Core.markIssued_sreg (k : Core) (n i : Nat) : (k.markIssued n).sreg i = k.sreg i := rfl
@[simp] theorem Core.markIssued_vreg (k : Core) (n i : Nat) : (k.markIssued n).vreg i = k.vreg i := rfl
@[simp] theorem Core.markIssued_lanesOf (k : Core) (n i : Nat) : (k.markIssued n).lanesOf i = k.lanesOf i := rfl
@[simp] theorem Core.markIssued_acc (k : Core) (n i j : Nat) : (k.markIssued n).acc i j = k.acc i j := rfl
@[simp] theorem Core.markIssued_spadRead (k : Core) (n a l : Nat) : (k.markIssued n).spadRead a l = k.spadRead a l := rfl
@[simp] theorem Core.markIssued_lanes (k : Core) (n : Nat) : (k.markIssued n).lanes = k.lanes := rfl
@[simp] theorem Core.markIssued_loops (k : Core) (n : Nat) : (k.markIssued n).loops = k.loops := rfl
@[simp] theorem Core.markIssued_pc (k : Core) (n : Nat) : (k.markIssued n).pc = k.pc := rfl
@[simp] theorem Core.markIssued_icyc (k : Core) (n : Nat) : (k.markIssued n).icyc = k.icyc := rfl

@[simp] theorem CoreRes.named_ok (slot : Nat) (w : W32) (k : Core) : (CoreRes.ok k).named slot w = .ok k := rfl
@[simp] theorem CoreRes.named_err (slot : Nat) (w : W32) (st : Nat) (op : OpAt) : (CoreRes.err st op).named slot w = .err st (opAt slot w) := rfl

/-- A word that is presented and is of this operation takes its effect (R87). -/
theorem State.issueOp_present {s : State} {c slot : Nat} {w : W32} {k : Core} (h : s.Presents c slot w k) {isOp : W32 → Bool} (hw : isOp w = true)
    (eff : Core → CoreEnv → W32 → CoreRes) : s.issueOp c slot isOp eff w = s.coreResult c ((eff (k.markIssued slot) (s.env c) w).named slot w) := by
  simp [State.issueOp, Core.issue, Nat.not_le.mpr h.core, h.lands, h.may, h.legal, hw]

/-- An operation sets its core or ends its core's task in error; it does nothing else. -/
theorem State.issueOp_touches (s : State) (c slot : Nat) (isOp : W32 → Bool) (eff : Core → CoreEnv → W32 → CoreRes) (w : W32) :
    s.issueOp c slot isOp eff w = s ∨ (∃ k, s.issueOp c slot isOp eff w = s.setCore c k) ∨ ∃ st op, s.issueOp c slot isOp eff w = s.endTaskBy c st op := by
  unfold State.issueOp
  split
  · exact .inl rfl
  · cases (s.core c).issue (s.env c) slot isOp eff w with
    | ok k => exact .inr (.inl ⟨k, rfl⟩)
    | err st op => exact .inr (.inr ⟨st, op, rfl⟩)

end Sys2Proof.Machine
end

