-- ==== Sys2Proof/Laws/Keeps.lean ====
section
/-! SUPPORT. What every command leaves as it was (`State.Keeps`): the rules from which the lemmas about each operation follow. A lemma `f_keeps` says that `f` keeps what has been
kept since an earlier state. -/

namespace Sys2Proof.Machine

theorem State.Keeps.refl (s : State) : s.Keeps s := ⟨rfl, id, Nat.le_refl _, List.prefix_rfl, ⟨rfl, rfl, rfl, rfl, rfl, fun _ => id⟩⟩

/-- A record update of any field but those that `Keeps` is about. -/
theorem State.Keeps.put {s₀ s : State} {now root pins power regs cores badLines frames regions net ctrs sigs known notices fwds bars dbg queues ctxs arbs links ports pcie care mgmt}
    (h : s₀.Keeps s) (hr : root.fuses = s.root.fuses) :
    s₀.Keeps (State.mk s.pending s.out s.freeIx now root pins power regs cores s.mem badLines frames regions net ctrs sigs known notices fwds bars dbg queues ctxs arbs links ports pcie care mgmt) :=
  ⟨h.pending, h.mem, h.free, h.out, hr ▸ h.fuses⟩

/-- The same where the root part is known to keep the fuses. -/
theorem State.Keeps.putRoot {s₀ s : State} {now root pins power regs cores badLines frames regions net ctrs sigs known notices fwds bars dbg queues ctxs arbs links ports pcie care mgmt}
    (h : s₀.Keeps s) (hr : s₀.root.fuses.Kept root.fuses) :
    s₀.Keeps (State.mk s.pending s.out s.freeIx now root pins power regs cores s.mem badLines frames regions net ctrs sigs known notices fwds bars dbg queues ctxs arbs links ports pcie care mgmt) :=
  ⟨h.pending, h.mem, h.free, h.out, hr⟩

theorem State.Keeps.cut {p q : Prop} (h : p) (k : p → q) : q := k h

theorem State.Keeps.foldl {α : Type} {s₀ s : State} {g : State → α → State} {l : List α} (hg : ∀ s x, s₀.Keeps s → s₀.Keeps (g s x)) (h : s₀.Keeps s) : s₀.Keeps (l.foldl g s) := by
  induction l generalizing s with
  | nil => exact h
  | cons x l ih => exact ih (hg s x h)

/-- A change of the memory that keeps its canonical form. -/
theorem State.Keeps.putMem {s₀ s : State} {m : Tab Byte} (h : s₀.Keeps s) (hm : Memory.wf s.mem = true → Memory.wf m = true) : s₀.Keeps { s with mem := m } :=
  ⟨h.pending, fun w => hm (h.mem w), h.free, h.out, h.fuses⟩

/-- The outcome of a command. -/
def State.KeepsO (s₀ : State) (o : Host.Outcome State Fault Refusal) : Prop := ∀ t, o = .next t → s₀.Keeps t

theorem State.KeepsO.next {s₀ s : State} (h : s₀.Keeps s) : s₀.KeepsO (.next s) := fun _ e => by cases e; exact h

/-- An operation that may not apply. -/
def State.KeepsP (s₀ : State) (o : Option State) : Prop := ∀ t, o = some t → s₀.Keeps t

theorem State.KeepsP.none {s₀ : State} : s₀.KeepsP none := fun _ e => by cases e

theorem State.KeepsP.some {s₀ s : State} (h : s₀.Keeps s) : s₀.KeepsP (some s) := fun _ e => by cases e; exact h

theorem State.KeepsP.get {s₀ t : State} {o : Option State} (e : o = Option.some t) (h : s₀.KeepsP o) : s₀.Keeps t := h t e

theorem State.KeepsP.getD {s₀ t : State} {o : Option State} (h : s₀.KeepsP o) (ht : s₀.Keeps t) : s₀.Keeps (o.getD t) := by
  cases o with
  | none => exact ht
  | some u => exact h u rfl

theorem State.KeepsP.map {s₀ : State} {o : Option State} {g : State → State} (h : s₀.KeepsP o) (hg : ∀ s, s₀.Keeps s → s₀.Keeps (g s)) : s₀.KeepsP (o.map g) := by
  cases o with
  | none => exact State.KeepsP.none
  | some p => exact State.KeepsP.some (hg p (h p rfl))

/-- An operation that may not apply, with a result. -/
def State.KeepsQ {α : Type} (s₀ : State) (o : Option (State × α)) : Prop := ∀ p, o = Option.some p → s₀.Keeps p.1

theorem State.KeepsQ.get {α : Type} {s₀ t : State} {a : α} {o : Option (State × α)} (e : o = Option.some (t, a)) (h : s₀.KeepsQ o) : s₀.Keeps t := h _ e

theorem State.KeepsQ.map {α : Type} {s₀ : State} {o : Option (State × α)} {g : State × α → State} (h : s₀.KeepsQ o) (hg : ∀ p, s₀.Keeps p.1 → s₀.Keeps (g p)) : s₀.KeepsP (o.map g) := by
  cases o with
  | none => exact State.KeepsP.none
  | some p => exact State.KeepsP.some (hg p (h p rfl))

/-- An operation with a result beside the state. -/
def State.KeepsL {α : Type} (s₀ : State) (p : State × α) : Prop := s₀.Keeps p.1

theorem State.KeepsL.mk {α : Type} {s₀ s : State} {a : α} (h : s₀.Keeps s) : s₀.KeepsL (s, a) := h

theorem State.KeepsL.fst {α : Type} {s₀ t : State} {a : α} {p : State × α} (e : p = (t, a)) (h : s₀.KeepsL p) : s₀.Keeps t := by rw [e] at h; exact h

theorem State.KeepsL.proj {α : Type} {s₀ : State} {p : State × α} (h : s₀.KeepsL p) : s₀.Keeps p.1 := h

theorem State.KeepsL.foldl {α β : Type} {s₀ : State} {p : State × β} {g : State × β → α → State × β} {l : List α} (hg : ∀ p x, s₀.KeepsL p → s₀.KeepsL (g p x)) (h : s₀.KeepsL p) :
    s₀.KeepsL (l.foldl g p) := by
  induction l generalizing p with
  | nil => exact h
  | cons x l ih => exact ih (hg p x h)

/-- The same with the result first. -/
def State.KeepsR {α : Type} (s₀ : State) (p : α × State) : Prop := s₀.Keeps p.2

theorem State.KeepsR.mk {α : Type} {s₀ s : State} {a : α} (h : s₀.Keeps s) : s₀.KeepsR (a, s) := h

theorem State.KeepsR.snd {α : Type} {s₀ t : State} {a : α} {p : α × State} (e : p = (a, t)) (h : s₀.KeepsR p) : s₀.Keeps t := by rw [e] at h; exact h

theorem State.KeepsR.proj {α : Type} {s₀ : State} {p : α × State} (h : s₀.KeepsR p) : s₀.Keeps p.2 := h

theorem State.KeepsR.foldl {α β : Type} {s₀ : State} {p : β × State} {g : β × State → α → β × State} {l : List α} (hg : ∀ p x, s₀.KeepsR p → s₀.KeepsR (g p x)) (h : s₀.KeepsR p) :
    s₀.KeepsR (l.foldl g p) := by
  induction l generalizing p with
  | nil => exact h
  | cons x l ih => exact ih (hg p x h)

theorem State.setCore_keeps {s₀ s : State} {a1 a2} (h : s₀.Keeps s) : s₀.Keeps (State.setCore s a1 a2) := by
  unfold State.setCore
  repeat' first | with_reducible assumption | fail_if_no_progress (with_reducible refine State.Keeps.put ?_ (by with_reducible rfl))
theorem State.setCtx_keeps {s₀ s : State} {a1 a2} (h : s₀.Keeps s) : s₀.Keeps (State.setCtx s a1 a2) := by
  unfold State.setCtx
  repeat' first | with_reducible assumption | fail_if_no_progress (with_reducible refine State.Keeps.put ?_ (by with_reducible rfl))
theorem State.modCtx_keeps {s₀ s : State} {a1 a2} (h : s₀.Keeps s) : s₀.Keeps (State.modCtx s a1 a2) := by
  unfold State.modCtx
  repeat' first | with_reducible assumption | with_reducible apply State.setCtx_keeps
theorem State.drawn_keeps {s₀ s : State} {a1} (h : s₀.Keeps s) : s₀.Keeps (s.drawn a1) :=
  ⟨h.pending, h.mem, Nat.le_trans h.free (Nat.le_add_right ..), h.out, h.fuses⟩
theorem State.modBlk_keeps {s₀ s : State} {a1 a2} (h : s₀.Keeps s) : s₀.Keeps (State.modBlk s a1 a2) := by
  unfold State.modBlk
  repeat' first | with_reducible assumption | fail_if_no_progress (with_reducible refine State.Keeps.put ?_ (by with_reducible rfl))
theorem State.blkErr_keeps {s₀ s : State} {a1 a2} (h : s₀.Keeps s) : s₀.Keeps (State.blkErr s a1 a2) := by
  unfold State.blkErr
  repeat' first | with_reducible assumption | with_reducible apply State.modBlk_keeps
theorem State.setLink_keeps {s₀ s : State} {a1 a2} (h : s₀.Keeps s) : s₀.Keeps (State.setLink s a1 a2) := by
  unfold State.setLink
  repeat' first | with_reducible assumption | fail_if_no_progress (with_reducible refine State.Keeps.put ?_ (by with_reducible rfl))
theorem State.emit_keeps {s₀ s : State} {a1} (h : s₀.Keeps s) : s₀.Keeps (s.emit a1) :=
  ⟨h.pending, h.mem, h.free, h.out.trans (List.prefix_append ..), h.fuses⟩
theorem State.spend_keeps {s₀ s : State} {a1 a2 a3} (h : s₀.Keeps s) : s₀.Keeps (State.spend s a1 a2 a3) := by
  unfold State.spend
  repeat' first | with_reducible assumption | fail_if_no_progress (with_reducible refine State.Keeps.put ?_ (by with_reducible rfl))
theorem State.sendSync_keeps {s₀ s : State} {a1 a2} (h : s₀.Keeps s) : s₀.Keeps (State.sendSync s a1 a2) := by
  unfold State.sendSync
  repeat' first | with_reducible assumption | with_reducible apply State.spend_keeps | with_reducible apply State.emit_keeps | split | fail_if_no_progress (with_reducible refine State.Keeps.put ?_ (by with_reducible rfl))
theorem State.send_keeps {s₀ s : State} {a1} (h : s₀.Keeps s) : s₀.Keeps (State.send s a1) := by
  unfold State.send
  repeat' first | with_reducible assumption | with_reducible apply State.emit_keeps | with_reducible apply State.sendSync_keeps | split | (extract_lets +onlyGivenNames x; refine State.Keeps.cut (p := s₀.Keeps x) ?_ ?_ <;> [(revert x; dsimp only); (intro hx; clear_value x; rename' x => y, hx => hy)]) | (extract_lets +onlyGivenNames x; clear_value x; rename' x => y) | fail_if_no_progress (with_reducible refine State.Keeps.put ?_ (by with_reducible rfl))
theorem State.sendAll_keeps {s₀ s : State} {a1} (h : s₀.Keeps s) : s₀.Keeps (State.sendAll s a1) := by
  unfold State.sendAll
  repeat' first | with_reducible assumption | with_reducible apply State.send_keeps | with_reducible apply State.Keeps.foldl
theorem State.hostAnswer_keeps {s₀ s : State} {a1 a2 a3} (h : s₀.Keeps s) : s₀.Keeps (State.hostAnswer s a1 a2 a3) := by
  unfold State.hostAnswer
  repeat' first | with_reducible assumption | with_reducible apply State.send_keeps | with_reducible apply State.emit_keeps | split | (extract_lets +onlyGivenNames x; clear_value x; rename' x => y) | fail_if_no_progress (with_reducible refine State.Keeps.put ?_ (by with_reducible rfl))
theorem State.hostRefused_keeps {s₀ s : State} {a1 a2 a3} (h : s₀.Keeps s) : s₀.Keeps (State.hostRefused s a1 a2 a3) := by
  unfold State.hostRefused
  repeat' first | with_reducible assumption | with_reducible apply State.hostAnswer_keeps | split | (extract_lets +onlyGivenNames x; clear_value x; rename' x => y) | fail_if_no_progress (with_reducible refine State.Keeps.put ?_ (by with_reducible rfl))
theorem State.count_keeps {s₀ s : State} {a1 a2 a3} (h : s₀.Keeps s) : s₀.Keeps (State.count s a1 a2 a3) := by
  unfold State.count
  repeat' first | with_reducible assumption | split | fail_if_no_progress (with_reducible refine State.Keeps.put ?_ (by with_reducible rfl))
theorem State.msix_keeps {s₀ s : State} {a1 a2} (h : s₀.Keeps s) : s₀.Keeps (State.msix s a1 a2) := by
  unfold State.msix
  repeat' first | with_reducible assumption | with_reducible apply State.send_keeps | split | fail_if_no_progress (with_reducible refine State.Keeps.put ?_ (by with_reducible rfl))
theorem State.sawFn_keeps {s₀ s : State} {a1} (h : s₀.Keeps s) : s₀.Keeps (State.sawFn s a1) := by
  unfold State.sawFn
  repeat' first | with_reducible assumption | split | fail_if_no_progress (with_reducible refine State.Keeps.put ?_ (by with_reducible rfl))
theorem State.notify_keeps {s₀ s : State} {a1 a2} (h : s₀.Keeps s) : s₀.Keeps (State.notify s a1 a2) := by
  unfold State.notify
  repeat' first | with_reducible assumption | with_reducible apply State.modCtx_keeps | with_reducible apply State.msix_keeps | split | (extract_lets +onlyGivenNames x; refine State.Keeps.cut (p := s₀.Keeps x) ?_ ?_ <;> [(revert x; dsimp only); (intro hx; clear_value x; rename' x => y, hx => hy)]) | (extract_lets +onlyGivenNames x; clear_value x; rename' x => y)
theorem State.memWrite_keeps {s₀ s : State} {a1 a2 a3} (h : s₀.Keeps s) : s₀.Keeps (s.memWrite a1 a2 a3) :=
  h.putMem (tputBytes_wf _ _ _)
theorem State.setFrame_keeps {s₀ s : State} {a1 a2} (h : s₀.Keeps s) : s₀.Keeps (State.setFrame s a1 a2) := by
  unfold State.setFrame
  repeat' first | with_reducible assumption | fail_if_no_progress (with_reducible refine State.Keeps.put ?_ (by with_reducible rfl))
theorem State.modFrames_keeps {s₀ s : State} {a1 a2} (h : s₀.Keeps s) : s₀.Keeps (State.modFrames s a1 a2) := by
  unfold State.modFrames
  repeat' first | with_reducible assumption | with_reducible apply State.setFrame_keeps | with_reducible apply State.Keeps.foldl | (with_reducible intro)
theorem State.mirror_keeps {s₀ s : State} {a1 a2 a3 a4} (h : s₀.Keeps s) : s₀.Keeps (State.mirror s a1 a2 a3 a4) := by
  unfold State.mirror
  repeat' first | with_reducible assumption | with_reducible apply State.modCtx_keeps | with_reducible apply State.sendAll_keeps | with_reducible apply State.Keeps.foldl | (with_reducible intro) | split | (extract_lets +onlyGivenNames x; clear_value x; rename' x => y)
theorem State.clearLines_keeps {s₀ s : State} {a1 a2 a3} (h : s₀.Keeps s) : s₀.Keeps (State.clearLines s a1 a2 a3) := by
  unfold State.clearLines
  repeat' first | with_reducible assumption | (with_reducible intro) | fail_if_no_progress (with_reducible refine State.Keeps.put ?_ (by with_reducible rfl))
theorem State.applyWrite_keeps {s₀ s : State} {a1 a2 a3 a4} (h : s₀.Keeps s) : s₀.Keeps (State.applyWrite s a1 a2 a3 a4) := by
  unfold State.applyWrite
  repeat' first | with_reducible assumption | with_reducible apply State.memWrite_keeps | with_reducible apply State.clearLines_keeps | with_reducible apply State.mirror_keeps
theorem State.external_keeps {s₀ s : State} {a1} (h : s₀.Keeps s) : s₀.Keeps (State.external s a1) := by
  unfold State.external
  repeat' first | with_reducible assumption | with_reducible apply State.modCtx_keeps | split
theorem State.devWriteGo_keeps {s₀ s : State} {a1 a2 a3} (h : s₀.Keeps s) : s₀.Keeps (State.devWriteGo a1 a2 a3 s) := by
  induction a2 generalizing s a3 with
  | nil => exact h
  | cons p ps ih =>
    refine ih ?_
    split
    · exact State.applyWrite_keeps h
    · exact h
theorem State.devWrite_keeps {s₀ s : State} {a1 a2 a3} (h : s₀.Keeps s) : s₀.Keeps (State.devWrite s a1 a2 a3) := by
  unfold State.devWrite
  repeat' first | with_reducible assumption | with_reducible apply State.devWriteGo_keeps
theorem State.record_keeps {s₀ s : State} {a1} (h : s₀.Keeps s) : s₀.Keeps (State.record s a1) := by
  unfold State.record
  repeat' first | with_reducible assumption | split | (extract_lets +onlyGivenNames x; clear_value x; rename' x => y) | fail_if_no_progress (with_reducible refine State.Keeps.put ?_ (by with_reducible rfl))
theorem State.cmdDone_keeps {s₀ s : State} {a1 a2 a3} (h : s₀.Keeps s) : s₀.Keeps (State.cmdDone s a1 a2 a3) := by
  unfold State.cmdDone
  repeat' first | with_reducible assumption | with_reducible apply State.notify_keeps | with_reducible apply State.modCtx_keeps
theorem State.cmdCut_keeps {s₀ s : State} {a1} (h : s₀.Keeps s) : s₀.Keeps (State.cmdCut s a1) := by
  unfold State.cmdCut
  repeat' first | with_reducible assumption | with_reducible apply State.cmdDone_keeps | split | (extract_lets +onlyGivenNames x; clear_value x; rename' x => y)
theorem State.stopCtx_keeps {s₀ s : State} {a1 a2} (h : s₀.Keeps s) : s₀.Keeps (State.stopCtx s a1 a2) := by
  unfold State.stopCtx
  repeat' first | with_reducible assumption | with_reducible apply State.modCtx_keeps | with_reducible apply State.cmdCut_keeps | with_reducible apply State.notify_keeps | split
theorem State.stopJob_keeps {s₀ s : State} {a1 a2 a3 a4} (h : s₀.Keeps s) : s₀.Keeps (State.stopJob s a1 a2 a3 a4) := by
  unfold State.stopJob
  repeat' first | with_reducible assumption | with_reducible apply State.record_keeps | with_reducible apply State.sendAll_keeps | with_reducible apply State.stopCtx_keeps
theorem State.beginRestart_keeps {s₀ s : State} {a1 a2 a3} (h : s₀.Keeps s) : s₀.Keeps (State.beginRestart s a1 a2 a3) := by
  unfold State.beginRestart
  repeat' first | with_reducible assumption | with_reducible apply State.sendAll_keeps | with_reducible apply State.modCtx_keeps | with_reducible apply State.notify_keeps | split
theorem State.abortWith_keeps {s₀ s : State} {a1 a2 a3 a4} (h : s₀.Keeps s) : s₀.Keeps (State.abortWith s a1 a2 a3 a4) := by
  unfold State.abortWith
  repeat' first | with_reducible assumption | with_reducible apply State.modCtx_keeps | with_reducible apply State.stopJob_keeps | with_reducible apply State.beginRestart_keeps | split | (extract_lets +onlyGivenNames x; clear_value x; rename' x => y)
theorem State.abortCtx_keeps {s₀ s : State} {a1 a2 a3} (h : s₀.Keeps s) : s₀.Keeps (State.abortCtx s a1 a2 a3) := by
  unfold State.abortCtx
  repeat' first | with_reducible assumption | with_reducible apply State.abortWith_keeps
theorem State.drawBytes_keeps {s₀ s : State} {a1} (h : s₀.Keeps s) : s₀.KeepsR (State.drawBytes s a1) := by
  unfold State.drawBytes
  repeat' first | with_reducible assumption | with_reducible apply State.drawn_keeps | split | (extract_lets +onlyGivenNames x; refine State.Keeps.cut (p := s₀.Keeps x) ?_ ?_ <;> [(revert x; dsimp only); (intro hx; clear_value x; rename' x => y, hx => hy)]) | (extract_lets +onlyGivenNames x; refine State.Keeps.cut (p := s₀.root.fuses.Kept x.fuses) ?_ ?_ <;> [(revert x; dsimp only); (intro hx; clear_value x; rename' x => y, hx => hy)]) | (extract_lets +onlyGivenNames x; clear_value x; rename' x => y) | with_reducible apply State.KeepsR.mk | with_reducible apply State.Keeps.fuses | with_reducible refine State.Keeps.putRoot ?_ (by with_reducible assumption)
theorem State.seedLanes_keeps {s₀ s : State} {a1} (h : s₀.Keeps s) : s₀.Keeps (s.seedLanes a1) := by
  unfold State.seedLanes
  exact State.setCore_keeps (State.KeepsR.proj (State.KeepsR.foldl (fun p _ hp => State.drawBytes_keeps hp) h))
theorem State.endTest_keeps {s₀ s : State} (h : s₀.Keeps s) : s₀.Keeps (State.endTest s) := by
  unfold State.endTest
  repeat' first | with_reducible assumption | with_reducible apply State.seedLanes_keeps | split | (extract_lets +onlyGivenNames x; refine State.Keeps.cut (p := s₀.Keeps x) ?_ ?_ <;> [(revert x; dsimp only); (intro hx; clear_value x; rename' x => y, hx => hy)]) | (extract_lets +onlyGivenNames x; clear_value x; rename' x => y) | fail_if_no_progress (with_reducible refine State.Keeps.put ?_ (by with_reducible rfl))
theorem State.fenceCore_keeps {s₀ s : State} {a1 a2 a3} (h : s₀.Keeps s) : s₀.Keeps (State.fenceCore s a1 a2 a3) := by
  unfold State.fenceCore
  repeat' first | with_reducible assumption | with_reducible apply State.endTest_keeps | with_reducible apply State.abortCtx_keeps | with_reducible apply State.record_keeps | with_reducible apply State.Keeps.foldl | (with_reducible intro) | split | (extract_lets +onlyGivenNames x; refine State.Keeps.cut (p := s₀.root.fuses.Kept x.fuses) ?_ ?_ <;> [(revert x; dsimp only); (intro hx; clear_value x; rename' x => y, hx => hy)]) | (extract_lets +onlyGivenNames x; clear_value x; rename' x => y) | with_reducible apply State.Keeps.fuses | with_reducible refine State.Keeps.putRoot ?_ (by with_reducible assumption) | fail_if_no_progress (with_reducible refine State.Keeps.put ?_ (by with_reducible rfl))
theorem State.writeCompletion_keeps {s₀ s : State} {a1 a2 a3 a4} (h : s₀.Keeps s) : s₀.Keeps (State.writeCompletion s a1 a2 a3 a4) := by
  unfold State.writeCompletion
  repeat' first | with_reducible assumption | with_reducible apply State.devWrite_keeps | split
theorem State.queueDone_keeps {s₀ s : State} {a1 a2} (h : s₀.Keeps s) : s₀.Keeps (State.queueDone s a1 a2) := by
  unfold State.queueDone
  repeat' first | with_reducible assumption | split | fail_if_no_progress (with_reducible refine State.Keeps.put ?_ (by with_reducible rfl))
theorem State.dropSigs_keeps {s₀ s : State} {a1} (h : s₀.Keeps s) : s₀.Keeps (State.dropSigs s a1) := by
  unfold State.dropSigs
  repeat' first | with_reducible assumption | (with_reducible intro) | fail_if_no_progress (with_reducible refine State.Keeps.put ?_ (by with_reducible rfl))
theorem State.lateCompletion_keeps {s₀ s : State} {a1 a2 a3 a4 a5} (h : s₀.Keeps s) : s₀.Keeps (State.lateCompletion s a1 a2 a3 a4 a5) := by
  unfold State.lateCompletion
  repeat' first | with_reducible assumption | with_reducible apply State.writeCompletion_keeps | with_reducible apply State.queueDone_keeps | split | fail_if_no_progress (with_reducible refine State.Keeps.put ?_ (by with_reducible rfl))
theorem State.endQuiet_keeps {s₀ s : State} {a1 a2} (h : s₀.Keeps s) : s₀.Keeps (State.endQuiet s a1 a2) := by
  unfold State.endQuiet
  repeat' first | with_reducible assumption | with_reducible apply State.setCore_keeps | with_reducible apply State.dropSigs_keeps | with_reducible apply State.lateCompletion_keeps | split | (extract_lets +onlyGivenNames x; refine State.Keeps.cut (p := s₀.Keeps x) ?_ ?_ <;> [(revert x; dsimp only); (intro hx; clear_value x; rename' x => y, hx => hy)]) | (extract_lets +onlyGivenNames x; clear_value x; rename' x => y) | fail_if_no_progress (with_reducible refine State.Keeps.put ?_ (by with_reducible rfl))
theorem State.dropTask_keeps {s₀ s : State} {a1 a2 a3} (h : s₀.Keeps s) : s₀.Keeps (State.dropTask s a1 a2 a3) := by
  unfold State.dropTask
  repeat' first | with_reducible assumption | with_reducible apply State.endQuiet_keeps | with_reducible apply State.record_keeps | split
theorem State.endTaskBy_keeps {s₀ s : State} {a1 a2 a3} (h : s₀.Keeps s) : s₀.Keeps (State.endTaskBy s a1 a2 a3) := by
  unfold State.endTaskBy
  repeat' first | with_reducible assumption | with_reducible apply State.dropTask_keeps | with_reducible apply State.abortCtx_keeps | with_reducible apply State.fenceCore_keeps | with_reducible apply State.stopCtx_keeps | with_reducible apply State.count_keeps | split | (extract_lets +onlyGivenNames x; clear_value x; rename' x => y)
theorem State.endTask_keeps {s₀ s : State} {a1 a2} (h : s₀.Keeps s) : s₀.Keeps (State.endTask s a1 a2) := State.endTaskBy_keeps h
theorem State.coreUpset_keeps {s₀ s : State} {a1} (h : s₀.Keeps s) : s₀.Keeps (State.coreUpset s a1) := by
  unfold State.coreUpset
  repeat' first | with_reducible assumption | with_reducible apply State.endTask_keeps | with_reducible apply State.endTaskBy_keeps | with_reducible apply State.fenceCore_keeps | split | (extract_lets +onlyGivenNames x; clear_value x; rename' x => y) | fail_if_no_progress (with_reducible refine State.Keeps.put ?_ (by with_reducible rfl))
theorem State.tableFault_keeps {s₀ s : State} {a1 a2 a3} (h : s₀.Keeps s) : s₀.Keeps (State.tableFault s a1 a2 a3) := by
  unfold State.tableFault
  repeat' first | with_reducible assumption | with_reducible apply State.abortCtx_keeps | with_reducible apply State.record_keeps | with_reducible apply State.Keeps.foldl | (with_reducible intro) | fail_if_no_progress (with_reducible refine State.Keeps.put ?_ (by with_reducible rfl))
theorem State.lockstepRec_keeps {s₀ s : State} {a1 a2} (h : s₀.Keeps s) : s₀.Keeps (State.lockstepRec s a1 a2) := by
  unfold State.lockstepRec
  repeat' first | with_reducible assumption | with_reducible apply State.record_keeps
theorem State.copyFault_keeps {s₀ s : State} {a1 a2 a3} (h : s₀.Keeps s) : s₀.Keeps (State.copyFault s a1 a2 a3) := by
  unfold State.copyFault
  repeat' first | with_reducible assumption | with_reducible apply State.lockstepRec_keeps | with_reducible apply State.abortCtx_keeps | with_reducible apply State.Keeps.foldl | (with_reducible intro) | split | (extract_lets +onlyGivenNames x; clear_value x; rename' x => y) | fail_if_no_progress (with_reducible refine State.Keeps.put ?_ (by with_reducible rfl))
theorem State.coreResult_keeps {s₀ s : State} {a1 a2} (h : s₀.Keeps s) : s₀.Keeps (State.coreResult s a1 a2) := by
  unfold State.coreResult
  repeat' first | with_reducible assumption | with_reducible apply State.setCore_keeps | with_reducible apply State.endTask_keeps | with_reducible apply State.endTaskBy_keeps | split

end Sys2Proof.Machine
end

