-- ==== Sys2Proof/Laws/KeepsMem.lean ====
section
/-! SUPPORT. What the operations of memory, signals, streams and contexts leave as they were. -/

namespace Sys2Proof.Machine

theorem State.followPartition_keeps {s₀ s : State} {a1} (h : s₀.Keeps s) : s₀.Keeps (State.followPartition s a1) := by
  unfold State.followPartition
  exact State.Keeps.put h rfl
theorem State.invalidate_keeps {s₀ s : State} {a1} (h : s₀.Keeps s) : s₀.Keeps (State.invalidate s a1) := by
  unfold State.invalidate
  repeat' first | with_reducible assumption | fail_if_no_progress (with_reducible refine State.Keeps.put ?_ (by with_reducible rfl))
theorem State.freeFrames_keeps {s₀ s : State} {a1} (h : s₀.Keeps s) : s₀.Keeps (State.freeFrames s a1) := by
  unfold State.freeFrames
  repeat' first | with_reducible assumption | with_reducible apply State.modFrames_keeps | with_reducible apply State.invalidate_keeps
theorem State.zeroFrame_keeps {s₀ s : State} {a1} (h : s₀.Keeps s) : s₀.Keeps (s.zeroFrame a1) :=
  ⟨h.pending, fun w => filter_wf _ _ _ (h.mem w), h.free, h.out, h.fuses⟩
theorem State.setRegion_keeps {s₀ s : State} {a1 a2} (h : s₀.Keeps s) : s₀.Keeps (State.setRegion s a1 a2) := by
  unfold State.setRegion
  repeat' first | with_reducible assumption | fail_if_no_progress (with_reducible refine State.Keeps.put ?_ (by with_reducible rfl))
theorem State.openVersion_keeps {s₀ s : State} {a1} (h : s₀.Keeps s) : s₀.KeepsP (State.openVersion s a1) := by
  unfold State.openVersion
  repeat' first | with_reducible assumption | with_reducible apply State.followPartition_keeps | exact State.KeepsP.none | with_reducible apply State.KeepsP.some | with_reducible apply State.setRegion_keeps | with_reducible apply State.modFrames_keeps | split
theorem State.releaseSlot_keeps {s₀ s : State} {a1 a2} (h : s₀.Keeps s) : s₀.Keeps (State.releaseSlot s a1 a2) := by
  unfold State.releaseSlot
  repeat' first | with_reducible assumption | with_reducible apply State.setRegion_keeps | with_reducible apply State.freeFrames_keeps | split
theorem State.publish_keeps {s₀ s : State} {a1} (h : s₀.Keeps s) : s₀.Keeps (State.publish s a1) := by
  unfold State.publish
  repeat' first | with_reducible assumption | with_reducible apply State.modFrames_keeps | with_reducible apply State.setRegion_keeps | split
theorem State.noPending_keeps {s₀ s : State} {a1} (h : s₀.Keeps s) : s₀.Keeps (State.noPending s a1) := by
  unfold State.noPending
  repeat' first | with_reducible assumption | with_reducible apply State.setRegion_keeps | split
theorem State.discardPending_keeps {s₀ s : State} {a1} (h : s₀.Keeps s) : s₀.Keeps (State.discardPending s a1) := by
  unfold State.discardPending
  repeat' first | with_reducible assumption | with_reducible apply State.noPending_keeps | with_reducible apply State.releaseSlot_keeps | split
theorem State.refuseTask_keeps {s₀ s : State} {a1 a2 a3 a4 a5} (h : s₀.Keeps s) : s₀.Keeps (State.refuseTask s a1 a2 a3 a4 a5) := by
  unfold State.refuseTask
  repeat' first | with_reducible assumption | with_reducible apply State.dropTask_keeps | with_reducible apply State.stopCtx_keeps | split
theorem State.refuseSignal_keeps {s₀ s : State} {a1 a2} (h : s₀.Keeps s) : s₀.Keeps (State.refuseSignal s a1 a2) := by
  unfold State.refuseSignal
  repeat' first | with_reducible assumption | with_reducible apply State.record_keeps | with_reducible apply State.stopCtx_keeps
theorem State.quietWrite_keeps {s₀ s : State} {a1 a2} (h : s₀.Keeps s) : s₀.Keeps (s.quietWrite a1 a2) := by
  unfold State.quietWrite
  refine State.KeepsL.proj (State.KeepsL.foldl (fun p x hp => ?_) (State.KeepsL.mk h))
  refine State.KeepsL.mk ?_
  split
  · exact State.Keeps.put (State.memWrite_keeps hp) rfl
  · exact hp
theorem State.resetPartition_keeps {s₀ s : State} {a1 a2} (h : s₀.Keeps s) : s₀.Keeps (State.resetPartition s a1 a2) := by
  unfold State.resetPartition
  repeat' first | with_reducible assumption | with_reducible apply State.invalidate_keeps | with_reducible apply State.modFrames_keeps | with_reducible apply State.zeroFrame_keeps | with_reducible apply State.freeFrames_keeps | with_reducible apply State.setRegion_keeps | with_reducible apply State.quietWrite_keeps | with_reducible apply State.publish_keeps | with_reducible apply State.Keeps.foldl | (with_reducible intro) | split | (extract_lets +onlyGivenNames x; refine State.Keeps.cut (p := s₀.Keeps x) ?_ ?_ <;> [(revert x; dsimp only); (intro hx; clear_value x; rename' x => y, hx => hy)]) | (extract_lets +onlyGivenNames x; clear_value x; rename' x => y)
theorem State.askHolders_keeps {s₀ s : State} {a1 a2} (h : s₀.Keeps s) : s₀.Keeps (State.askHolders s a1 a2) := by
  unfold State.askHolders
  repeat' first | with_reducible assumption | with_reducible apply State.sendAll_keeps | (with_reducible intro)
theorem State.dropShared_keeps {s₀ s : State} {a1 a2 a3} (h : s₀.Keeps s) : s₀.Keeps (State.dropShared s a1 a2 a3) := by
  unfold State.dropShared
  repeat' first | with_reducible assumption | with_reducible apply State.abortCtx_keeps | with_reducible apply State.releaseSlot_keeps | with_reducible apply State.askHolders_keeps | with_reducible apply State.openVersion_keeps | with_reducible apply State.Keeps.foldl | (with_reducible intro) | with_reducible refine State.KeepsQ.map ?_ ?_ | with_reducible refine State.KeepsP.map ?_ ?_ | with_reducible refine State.KeepsP.getD ?_ ?_ | (extract_lets +onlyGivenNames x; refine State.Keeps.cut (p := s₀.Keeps x) ?_ ?_ <;> [(revert x; dsimp only); (intro hx; clear_value x; rename' x => y, hx => hy)]) | (extract_lets +onlyGivenNames x; refine State.Keeps.cut (p := s₀.KeepsP x) ?_ ?_ <;> [(revert x; dsimp only); (intro hx; clear_value x; rename' x => y, hx => hy)]) | (extract_lets +onlyGivenNames x; clear_value x; rename' x => y) | with_reducible refine State.KeepsP.get (by with_reducible assumption) ?_
theorem State.containAs_keeps {s₀ s : State} {a1 a2 a3 a4} (h : s₀.Keeps s) : s₀.Keeps (State.containAs s a1 a2 a3 a4) := by
  unfold State.containAs
  repeat' first | with_reducible assumption | with_reducible apply State.record_keeps | with_reducible apply State.setFrame_keeps | with_reducible apply State.freeFrames_keeps | with_reducible apply State.releaseSlot_keeps | with_reducible apply State.dropShared_keeps | with_reducible apply State.stopCtx_keeps | with_reducible apply State.send_keeps | with_reducible apply State.abortCtx_keeps | with_reducible apply State.modCtx_keeps | with_reducible apply State.Keeps.foldl | (with_reducible intro) | split | (extract_lets +onlyGivenNames x; refine State.Keeps.cut (p := s₀.Keeps x) ?_ ?_ <;> [(revert x; dsimp only); (intro hx; clear_value x; rename' x => y, hx => hy)]) | (extract_lets +onlyGivenNames x; refine State.Keeps.cut (p := s₀.root.fuses.Kept x.fuses) ?_ ?_ <;> [(revert x; dsimp only); (intro hx; clear_value x; rename' x => y, hx => hy)]) | (extract_lets +onlyGivenNames x; clear_value x; rename' x => y) | with_reducible apply State.Keeps.fuses | with_reducible refine State.Keeps.putRoot ?_ (by with_reducible assumption) | fail_if_no_progress (with_reducible refine State.Keeps.put ?_ (by with_reducible rfl))
theorem State.containLine_keeps {s₀ s : State} {a1 a2 a3} (h : s₀.Keeps s) : s₀.Keeps (State.containLine s a1 a2 a3) := by
  unfold State.containLine
  repeat' first | with_reducible assumption | with_reducible apply State.containAs_keeps
theorem State.taskBad_keeps {s₀ s : State} {a1 a2 a3 a4} (h : s₀.Keeps s) : s₀.Keeps (State.taskBad s a1 a2 a3 a4) := by
  unfold State.taskBad
  repeat' first | with_reducible assumption | with_reducible apply State.endQuiet_keeps | with_reducible apply State.containAs_keeps | (with_reducible intro) | split | (extract_lets +onlyGivenNames x; refine State.Keeps.cut (p := s₀.Keeps x) ?_ ?_ <;> [(revert x; dsimp only); (intro hx; clear_value x; rename' x => y, hx => hy)]) | (extract_lets +onlyGivenNames x; clear_value x; rename' x => y) | fail_if_no_progress (with_reducible refine State.Keeps.put ?_ (by with_reducible rfl))
theorem State.eccRead_keeps {s₀ s : State} {a1 a2 a3} (h : s₀.Keeps s) : s₀.Keeps (State.eccRead s a1 a2 a3) := by
  unfold State.eccRead
  repeat' first | with_reducible assumption | with_reducible apply State.count_keeps | split | fail_if_no_progress (with_reducible refine State.Keeps.put ?_ (by with_reducible rfl))
theorem State.issueOp_keeps {s₀ s : State} {a1 a2 a3 a4 a5} (h : s₀.Keeps s) : s₀.Keeps (State.issueOp s a1 a2 a3 a4 a5) := by
  unfold State.issueOp
  repeat' first | with_reducible assumption | with_reducible apply State.coreResult_keeps | split
theorem State.setCtr_keeps {s₀ s : State} {a1 a2} (h : s₀.Keeps s) : s₀.Keeps (State.setCtr s a1 a2) := by
  unfold State.setCtr
  repeat' first | with_reducible assumption | fail_if_no_progress (with_reducible refine State.Keeps.put ?_ (by with_reducible rfl))
theorem State.notifyWaiters_keeps {s₀ s : State} {a1 a2 a3 a4} (h : s₀.Keeps s) : s₀.Keeps (State.notifyWaiters s a1 a2 a3 a4) := by
  unfold State.notifyWaiters
  repeat' first | with_reducible assumption | with_reducible apply State.Keeps.foldl | (with_reducible intro) | split | (extract_lets +onlyGivenNames x; refine State.Keeps.cut (p := s₀.Keeps x) ?_ ?_ <;> [(revert x; dsimp only); (intro hx; clear_value x; rename' x => y, hx => hy)]) | fail_if_no_progress (with_reducible refine State.Keeps.put ?_ (by with_reducible rfl))
theorem State.sendSignal_keeps {s₀ s : State} {a1 a2 a3 a4 a5} (h : s₀.Keeps s) : s₀.Keeps (State.sendSignal s a1 a2 a3 a4 a5) := by
  unfold State.sendSignal
  repeat' first | with_reducible assumption | split | fail_if_no_progress (with_reducible refine State.Keeps.put ?_ (by with_reducible rfl))
theorem State.ctrError_keeps {s₀ s : State} {a1 a2 a3} (h : s₀.Keeps s) : s₀.Keeps (State.ctrError s a1 a2 a3) := by
  unfold State.ctrError
  repeat' first | with_reducible assumption | with_reducible apply State.record_keeps | with_reducible apply State.stopCtx_keeps | split
theorem State.forward_keeps {s₀ s : State} {a1 a2} (h : s₀.Keeps s) : s₀.Keeps (State.forward s a1 a2) := by
  unfold State.forward
  repeat' first | with_reducible assumption | with_reducible apply State.refuseSignal_keeps | (extract_lets +onlyGivenNames x; clear_value x; rename' x => y) | with_reducible apply State.ctrError_keeps | with_reducible apply State.sendSignal_keeps | with_reducible apply State.send_keeps | split
theorem State.barSend_keeps {s₀ s : State} {a1 a2 a3 a4} (h : s₀.Keeps s) : s₀.Keeps (State.barSend s a1 a2 a3 a4) := by
  unfold State.barSend
  repeat' first | with_reducible assumption | with_reducible apply State.count_keeps | with_reducible apply State.send_keeps
theorem State.barRelease_keeps {s₀ s : State} {a1 a2} (h : s₀.Keeps s) : s₀.Keeps (State.barRelease s a1 a2) := by
  unfold State.barRelease
  repeat' first | with_reducible assumption | with_reducible apply State.barSend_keeps | with_reducible apply State.sendSignal_keeps | with_reducible apply State.Keeps.foldl | (with_reducible intro) | split | fail_if_no_progress (with_reducible refine State.Keeps.put ?_ (by with_reducible rfl))
theorem State.barAdvance_keeps {s₀ s : State} {a1} (h : s₀.Keeps s) : s₀.Keeps (State.barAdvance s a1) := by
  unfold State.barAdvance
  repeat' first | with_reducible assumption | with_reducible apply State.barRelease_keeps | with_reducible apply State.barSend_keeps | with_reducible apply State.Keeps.foldl | (with_reducible intro) | split | (extract_lets +onlyGivenNames x; clear_value x; rename' x => y) | fail_if_no_progress (with_reducible refine State.Keeps.put ?_ (by with_reducible rfl))
theorem State.barTouch_keeps {s₀ s : State} {a1} (h : s₀.Keeps s) : s₀.Keeps (State.barTouch s a1) := by
  unfold State.barTouch
  repeat' first | with_reducible assumption | with_reducible apply State.barAdvance_keeps | with_reducible apply State.Keeps.foldl | (with_reducible intro)
theorem State.applySignal_keeps {s₀ s : State} {a1} (h : s₀.Keeps s) : s₀.Keeps (State.applySignal s a1) := by
  unfold State.applySignal
  repeat' first | with_reducible assumption | with_reducible apply State.forward_keeps | with_reducible apply State.ctrError_keeps | with_reducible apply State.setCtr_keeps | with_reducible apply State.notifyWaiters_keeps | with_reducible apply State.barTouch_keeps | split | (extract_lets +onlyGivenNames x; clear_value x; rename' x => y)
theorem State.tickTime_keeps {s₀ s : State} (h : s₀.Keeps s) : s₀.Keeps (State.tickTime s) := by
  unfold State.tickTime
  repeat' first | with_reducible assumption | split | fail_if_no_progress (with_reducible refine State.Keeps.put ?_ (by with_reducible rfl))
theorem execWfill_keeps {s₀ s : State} {a0 a1} (h : s₀.Keeps s) : s₀.KeepsO (execWfill a0 a1 s) := by
  unfold execWfill
  repeat' first | with_reducible assumption | with_reducible apply State.KeepsO.next | with_reducible apply State.issueOp_keeps
theorem State.fillDone_keeps {s₀ s : State} {a1} (h : s₀.Keeps s) : s₀.Keeps (State.fillDone s a1) := by
  unfold State.fillDone
  repeat' first | with_reducible assumption | with_reducible apply State.refuseTask_keeps | with_reducible apply State.taskBad_keeps | with_reducible apply State.setCore_keeps | split | (extract_lets +onlyGivenNames x; clear_value x; rename' x => y)
theorem State.fillFlit_keeps {s₀ s : State} {a1 a2 a3} (h : s₀.Keeps s) : s₀.KeepsL (State.fillFlit s a1 a2 a3) := by
  unfold State.fillFlit
  repeat' first | with_reducible assumption | with_reducible apply State.setCore_keeps | with_reducible apply State.KeepsL.foldl | with_reducible apply State.KeepsR.foldl | with_reducible apply State.Keeps.foldl | (with_reducible intro) | split | (extract_lets +onlyGivenNames x; refine State.Keeps.cut (p := s₀.Keeps x) ?_ ?_ <;> [(revert x; dsimp only); (intro hx; clear_value x; rename' x => y, hx => hy)]) | (extract_lets +onlyGivenNames x; refine State.Keeps.cut (p := s₀.KeepsL x) ?_ ?_ <;> [(revert x; dsimp only); (intro hx; clear_value x; rename' x => y, hx => hy)]) | (extract_lets +onlyGivenNames x; refine State.Keeps.cut (p := s₀.KeepsR x) ?_ ?_ <;> [(revert x; dsimp only); (intro hx; clear_value x; rename' x => y, hx => hy)]) | (extract_lets +onlyGivenNames x; clear_value x; rename' x => y) | with_reducible apply State.KeepsL.proj | with_reducible apply State.KeepsR.proj | with_reducible refine State.KeepsL.fst (by with_reducible assumption) ?_ | with_reducible refine State.KeepsR.snd (by with_reducible assumption) ?_ | with_reducible apply State.KeepsL.mk | with_reducible apply State.KeepsR.mk | fail_if_no_progress (with_reducible refine State.Keeps.put ?_ (by with_reducible rfl))
theorem State.fillArrive_keeps {s₀ s : State} {a1 a2 a3} (h : s₀.Keeps s) : s₀.Keeps (State.fillArrive s a1 a2 a3) := by
  unfold State.fillArrive
  repeat' first | with_reducible assumption | with_reducible apply State.setCore_keeps | with_reducible apply State.Keeps.foldl | (with_reducible intro) | split | (extract_lets +onlyGivenNames x; refine State.Keeps.cut (p := s₀.Keeps x) ?_ ?_ <;> [(revert x; dsimp only); (intro hx; clear_value x; rename' x => y, hx => hy)]) | (extract_lets +onlyGivenNames x; clear_value x; rename' x => y) | fail_if_no_progress (with_reducible refine State.Keeps.put ?_ (by with_reducible rfl))
theorem execWfillComplete_keeps {s₀ s : State} {a0} (h : s₀.Keeps s) : s₀.KeepsO (execWfillComplete a0 s) := by
  unfold execWfillComplete
  repeat' first | with_reducible assumption | with_reducible apply State.KeepsO.next | with_reducible apply State.fillDone_keeps | split
theorem execSend_keeps {s₀ s : State} {a0 a1} (h : s₀.Keeps s) : s₀.KeepsO (execSend a0 a1 s) := by
  unfold execSend
  repeat' first | with_reducible assumption | with_reducible apply State.KeepsO.next | with_reducible apply State.issueOp_keeps
theorem State.capture_keeps {s₀ s : State} {a1 a2} (h : s₀.Keeps s) : s₀.Keeps (State.capture s a1 a2) := by
  unfold State.capture
  repeat' first | with_reducible assumption | with_reducible apply State.setCore_keeps | with_reducible apply State.count_keeps | with_reducible apply State.modCtx_keeps | with_reducible apply State.devWrite_keeps | (with_reducible intro) | split | (extract_lets +onlyGivenNames x; refine State.Keeps.cut (p := s₀.Keeps x) ?_ ?_ <;> [(revert x; dsimp only); (intro hx; clear_value x; rename' x => y, hx => hy)]) | (extract_lets +onlyGivenNames x; clear_value x; rename' x => y) | fail_if_no_progress (with_reducible refine State.Keeps.put ?_ (by with_reducible rfl))
theorem execRecv_keeps {s₀ s : State} {a0 a1} (h : s₀.Keeps s) : s₀.KeepsO (execRecv a0 a1 s) := by
  unfold execRecv
  repeat' first | with_reducible assumption | with_reducible apply State.KeepsO.next | with_reducible apply State.issueOp_keeps | with_reducible apply State.capture_keeps | split
theorem State.ringTake_keeps {s₀ s : State} {a1 a2 a3 a4} (h : s₀.Keeps s) : s₀.KeepsL (State.ringTake s a1 a2 a3 a4) := by
  unfold State.ringTake
  repeat' first | with_reducible assumption | (with_reducible intro) | split | (extract_lets +onlyGivenNames x; refine State.Keeps.cut (p := s₀.Keeps x) ?_ ?_ <;> [(revert x; dsimp only); (intro hx; clear_value x; rename' x => y, hx => hy)]) | (extract_lets +onlyGivenNames x; refine State.Keeps.cut (p := s₀.KeepsL x) ?_ ?_ <;> [(revert x; dsimp only); (intro hx; clear_value x; rename' x => y, hx => hy)]) | (extract_lets +onlyGivenNames x; refine State.Keeps.cut (p := s₀.KeepsR x) ?_ ?_ <;> [(revert x; dsimp only); (intro hx; clear_value x; rename' x => y, hx => hy)]) | (extract_lets +onlyGivenNames x; clear_value x; rename' x => y) | with_reducible apply State.KeepsL.proj | with_reducible apply State.KeepsR.proj | with_reducible refine State.KeepsL.fst (by with_reducible assumption) ?_ | with_reducible refine State.KeepsR.snd (by with_reducible assumption) ?_ | with_reducible apply State.KeepsL.mk | with_reducible apply State.KeepsR.mk | fail_if_no_progress (with_reducible refine State.Keeps.put ?_ (by with_reducible rfl))
theorem State.endpointFetch_keeps {s₀ s : State} {a1 a2 a3} (h : s₀.Keeps s) : s₀.Keeps (State.endpointFetch s a1 a2 a3) := by
  unfold State.endpointFetch
  repeat' first | with_reducible assumption | with_reducible apply State.ringTake_keeps | with_reducible apply State.setCore_keeps | split | (extract_lets +onlyGivenNames x; refine State.Keeps.cut (p := s₀.Keeps x) ?_ ?_ <;> [(revert x; dsimp only); (intro hx; clear_value x; rename' x => y, hx => hy)]) | (extract_lets +onlyGivenNames x; refine State.Keeps.cut (p := s₀.KeepsL x) ?_ ?_ <;> [(revert x; dsimp only); (intro hx; clear_value x; rename' x => y, hx => hy)]) | (extract_lets +onlyGivenNames x; refine State.Keeps.cut (p := s₀.KeepsR x) ?_ ?_ <;> [(revert x; dsimp only); (intro hx; clear_value x; rename' x => y, hx => hy)]) | (extract_lets +onlyGivenNames x; clear_value x; rename' x => y) | with_reducible apply State.KeepsL.proj | with_reducible apply State.KeepsR.proj | with_reducible refine State.KeepsL.fst (by with_reducible assumption) ?_ | with_reducible refine State.KeepsR.snd (by with_reducible assumption) ?_ | with_reducible apply State.KeepsL.mk | with_reducible apply State.KeepsR.mk | fail_if_no_progress (with_reducible refine State.Keeps.put ?_ (by with_reducible rfl))
theorem execReadEndpointFetch_keeps {s₀ s : State} {a0 a1 a2} (h : s₀.Keeps s) : s₀.KeepsO (execReadEndpointFetch a0 a1 a2 s) := by
  unfold execReadEndpointFetch
  repeat' first | with_reducible assumption | with_reducible apply State.KeepsO.next | with_reducible apply State.endpointFetch_keeps | split
theorem execCreditReturn_keeps {s₀ s : State} {a0 a1 a2} (h : s₀.Keeps s) : s₀.KeepsO (execCreditReturn a0 a1 a2 s) := by
  unfold execCreditReturn
  repeat' first | with_reducible assumption | with_reducible apply State.KeepsO.next | split | (extract_lets +onlyGivenNames x; clear_value x; rename' x => y) | fail_if_no_progress (with_reducible refine State.Keeps.put ?_ (by with_reducible rfl))

end Sys2Proof.Machine
end

