-- ==== Sys2Proof/Laws/KeepsTask.lean ====
section
/-! SUPPORT. What the operations of copies and tile-tasks leave as they were. -/

namespace Sys2Proof.Machine

theorem execAtom_keeps {s₀ s : State} {a0 a1} (h : s₀.Keeps s) : s₀.KeepsO (execAtom a0 a1 s) := by
  unfold execAtom
  repeat' first | with_reducible assumption | with_reducible apply State.KeepsO.next | with_reducible apply State.issueOp_keeps
theorem State.cacheFill_keeps {s₀ s : State} {a1 a2 a3} (h : s₀.Keeps s) : s₀.Keeps (State.cacheFill s a1 a2 a3) := by
  unfold State.cacheFill
  repeat' first | with_reducible assumption | split | (extract_lets +onlyGivenNames x; clear_value x; rename' x => y) | fail_if_no_progress (with_reducible refine State.Keeps.put ?_ (by with_reducible rfl))
theorem State.runAhead_keeps {s₀ s : State} {a1 a2 a3 a4 a5 a6} (h : s₀.Keeps s) : s₀.Keeps (State.runAhead s a1 a2 a3 a4 a5 a6) := by
  induction a5 generalizing s a6 with
  | zero =>
    unfold State.runAhead
    repeat' first | with_reducible assumption
  | succ x ih =>
    unfold State.runAhead
    repeat' first | with_reducible assumption | with_reducible apply ih | with_reducible apply State.cacheFill_keeps | split | (extract_lets +onlyGivenNames x; clear_value x; rename' x => y)
theorem State.prefetch_keeps {s₀ s : State} {a1 a2 a3 a4 a5} (h : s₀.Keeps s) : s₀.Keeps (State.prefetch s a1 a2 a3 a4 a5) := by
  unfold State.prefetch
  repeat' first | with_reducible assumption | with_reducible apply State.cacheFill_keeps | with_reducible apply State.Keeps.foldl | (with_reducible intro) | split
theorem execPref_keeps {s₀ s : State} {a0 a1} (h : s₀.Keeps s) : s₀.KeepsO (execPref a0 a1 s) := by
  unfold execPref
  repeat' first | with_reducible assumption | with_reducible apply State.KeepsO.next | with_reducible apply State.issueOp_keeps | with_reducible apply State.prefetch_keeps | split
theorem execCwait_keeps {s₀ s : State} {a0 a1} (h : s₀.Keeps s) : s₀.KeepsO (execCwait a0 a1 s) := by
  unfold execCwait
  repeat' first | with_reducible assumption | with_reducible apply State.KeepsO.next | with_reducible apply State.issueOp_keeps
theorem State.writeMixed_keeps {s₀ s : State} {a1 a2 a3} (h : s₀.Keeps s) : s₀.Keeps (State.writeMixed s a1 a2 a3) := by
  unfold State.writeMixed
  repeat' first | with_reducible assumption | with_reducible apply State.KeepsL.proj | with_reducible apply State.KeepsL.foldl | with_reducible apply State.applyWrite_keeps | with_reducible apply State.sendAll_keeps | with_reducible apply State.Keeps.foldl | (with_reducible intro) | split | (extract_lets +onlyGivenNames x; clear_value x; rename' x => y) | with_reducible apply State.KeepsL.mk
theorem State.countHashed_keeps {s₀ s : State} {a1 a2} (h : s₀.Keeps s) : s₀.Keeps (State.countHashed s a1 a2) := by
  unfold State.countHashed
  repeat' first | with_reducible assumption | with_reducible apply State.count_keeps | (extract_lets +onlyGivenNames x; clear_value x; rename' x => y) | fail_if_no_progress (with_reducible refine State.Keeps.put ?_ (by with_reducible rfl))
theorem State.copyWrites_keeps {s₀ s : State} {a0 a1 a2 a3} (h : s₀.Keeps s) : s₀.KeepsL (State.copyWrites a0 a1 a2 a3 s) := by
  induction a3 generalizing s a0 a1 a2 with
  | nil =>
    unfold State.copyWrites
    repeat' first | with_reducible assumption | with_reducible apply ih | with_reducible apply State.refuseTask_keeps | with_reducible apply State.writeMixed_keeps | split | with_reducible apply State.KeepsL.proj | with_reducible apply State.KeepsR.proj | with_reducible refine State.KeepsL.fst (by with_reducible assumption) ?_ | with_reducible refine State.KeepsR.snd (by with_reducible assumption) ?_ | with_reducible apply State.KeepsL.mk | with_reducible apply State.KeepsR.mk | fail_if_no_progress (with_reducible refine State.Keeps.put ?_ (by with_reducible rfl))
  | cons x xs ih =>
    unfold State.copyWrites
    repeat' first | with_reducible assumption | with_reducible apply ih | with_reducible apply State.refuseTask_keeps | with_reducible apply State.writeMixed_keeps | split | with_reducible apply State.KeepsL.proj | with_reducible apply State.KeepsR.proj | with_reducible refine State.KeepsL.fst (by with_reducible assumption) ?_ | with_reducible refine State.KeepsR.snd (by with_reducible assumption) ?_ | with_reducible apply State.KeepsL.mk | with_reducible apply State.KeepsR.mk | fail_if_no_progress (with_reducible refine State.Keeps.put ?_ (by with_reducible rfl))
theorem State.missFill_keeps {s₀ s : State} {a1 a2 a3 a4} (h : s₀.Keeps s) : s₀.Keeps (State.missFill s a1 a2 a3 a4) := by
  unfold State.missFill
  repeat' first | with_reducible assumption | with_reducible apply State.cacheFill_keeps | with_reducible apply State.runAhead_keeps | split | fail_if_no_progress (with_reducible refine State.Keeps.put ?_ (by with_reducible rfl))
theorem State.copyReads_keeps {s₀ s : State} {a0 a1 a2 a3 a4 a5 a6 a7} (h : s₀.Keeps s) : s₀.KeepsL (State.copyReads a0 a1 a2 a3 a4 a5 a6 a7 s) := by
  induction a5 generalizing s a0 a1 a2 a3 a4 a6 a7 with
  | nil =>
    unfold State.copyReads
    repeat' first | with_reducible assumption | with_reducible apply ih | with_reducible apply State.refuseTask_keeps | with_reducible apply State.endTaskBy_keeps | with_reducible apply State.taskBad_keeps | with_reducible apply State.missFill_keeps | with_reducible apply State.KeepsL.foldl | with_reducible apply State.KeepsR.foldl | with_reducible apply State.Keeps.foldl | (with_reducible intro) | split | (extract_lets +onlyGivenNames x; refine State.Keeps.cut (p := s₀.Keeps x) ?_ ?_ <;> [(revert x; dsimp only); (intro hx; clear_value x; rename' x => y, hx => hy)]) | (extract_lets +onlyGivenNames x; refine State.Keeps.cut (p := s₀.KeepsL x) ?_ ?_ <;> [(revert x; dsimp only); (intro hx; clear_value x; rename' x => y, hx => hy)]) | (extract_lets +onlyGivenNames x; refine State.Keeps.cut (p := s₀.KeepsR x) ?_ ?_ <;> [(revert x; dsimp only); (intro hx; clear_value x; rename' x => y, hx => hy)]) | (extract_lets +onlyGivenNames x; clear_value x; rename' x => y) | with_reducible apply State.KeepsL.proj | with_reducible apply State.KeepsR.proj | with_reducible refine State.KeepsL.fst (by with_reducible assumption) ?_ | with_reducible refine State.KeepsR.snd (by with_reducible assumption) ?_ | with_reducible apply State.KeepsL.mk | with_reducible apply State.KeepsR.mk | fail_if_no_progress (with_reducible refine State.Keeps.put ?_ (by with_reducible rfl))
  | cons x xs ih =>
    unfold State.copyReads
    repeat' first | with_reducible assumption | with_reducible apply ih | with_reducible apply State.refuseTask_keeps | with_reducible apply State.endTaskBy_keeps | with_reducible apply State.taskBad_keeps | with_reducible apply State.missFill_keeps | with_reducible apply State.KeepsL.foldl | with_reducible apply State.KeepsR.foldl | with_reducible apply State.Keeps.foldl | (with_reducible intro) | split | (extract_lets +onlyGivenNames x; refine State.Keeps.cut (p := s₀.Keeps x) ?_ ?_ <;> [(revert x; dsimp only); (intro hx; clear_value x; rename' x => y, hx => hy)]) | (extract_lets +onlyGivenNames x; refine State.Keeps.cut (p := s₀.KeepsL x) ?_ ?_ <;> [(revert x; dsimp only); (intro hx; clear_value x; rename' x => y, hx => hy)]) | (extract_lets +onlyGivenNames x; refine State.Keeps.cut (p := s₀.KeepsR x) ?_ ?_ <;> [(revert x; dsimp only); (intro hx; clear_value x; rename' x => y, hx => hy)]) | (extract_lets +onlyGivenNames x; clear_value x; rename' x => y) | with_reducible apply State.KeepsL.proj | with_reducible apply State.KeepsR.proj | with_reducible refine State.KeepsL.fst (by with_reducible assumption) ?_ | with_reducible refine State.KeepsR.snd (by with_reducible assumption) ?_ | with_reducible apply State.KeepsL.mk | with_reducible apply State.KeepsR.mk | fail_if_no_progress (with_reducible refine State.Keeps.put ?_ (by with_reducible rfl))
theorem State.copyGets_keeps {s₀ s : State} {a1 a2 a3} (h : s₀.Keeps s) : s₀.Keeps (State.copyGets s a1 a2 a3) := by
  unfold State.copyGets
  repeat' first | with_reducible assumption | with_reducible apply State.record_keeps | with_reducible apply State.setCore_keeps | (with_reducible intro) | split | (extract_lets +onlyGivenNames x; refine State.Keeps.cut (p := s₀.Keeps x) ?_ ?_ <;> [(revert x; dsimp only); (intro hx; clear_value x; rename' x => y, hx => hy)]) | (extract_lets +onlyGivenNames x; clear_value x; rename' x => y) | fail_if_no_progress (with_reducible refine State.Keeps.put ?_ (by with_reducible rfl))
theorem State.copyFree_keeps {s₀ s : State} {a1 a2 a3} (h : s₀.Keeps s) : s₀.Keeps (State.copyFree s a1 a2 a3) := by
  unfold State.copyFree
  repeat' first | with_reducible assumption | with_reducible apply State.setCore_keeps | (with_reducible intro) | (extract_lets +onlyGivenNames x; refine State.Keeps.cut (p := s₀.Keeps x) ?_ ?_ <;> [(revert x; dsimp only); (intro hx; clear_value x; rename' x => y, hx => hy)]) | (extract_lets +onlyGivenNames x; clear_value x; rename' x => y) | fail_if_no_progress (with_reducible refine State.Keeps.put ?_ (by with_reducible rfl))
theorem State.copyEnd_keeps {s₀ s : State} {a1 a2 a3} (h : s₀.Keeps s) : s₀.Keeps (State.copyEnd s a1 a2 a3) := by
  unfold State.copyEnd
  repeat' first | with_reducible assumption | with_reducible apply State.copyFree_keeps | with_reducible apply State.count_keeps
theorem State.copyDone_keeps {s₀ s : State} {a1 a2 a3 a4} (h : s₀.Keeps s) : s₀.Keeps (State.copyDone s a1 a2 a3 a4) := by
  unfold State.copyDone
  repeat' first | with_reducible assumption | with_reducible apply State.record_keeps | with_reducible apply State.endTaskBy_keeps | with_reducible apply State.copyReads_keeps | with_reducible apply State.capture_keeps | with_reducible apply State.copyWrites_keeps | with_reducible apply State.setCore_keeps | with_reducible apply State.countHashed_keeps | with_reducible apply State.copyEnd_keeps | with_reducible apply State.KeepsL.foldl | with_reducible apply State.KeepsR.foldl | with_reducible apply State.Keeps.foldl | (with_reducible intro) | split | (extract_lets +onlyGivenNames x; refine State.Keeps.cut (p := s₀.Keeps x) ?_ ?_ <;> [(revert x; dsimp only); (intro hx; clear_value x; rename' x => y, hx => hy)]) | (extract_lets +onlyGivenNames x; refine State.Keeps.cut (p := s₀.KeepsL x) ?_ ?_ <;> [(revert x; dsimp only); (intro hx; clear_value x; rename' x => y, hx => hy)]) | (extract_lets +onlyGivenNames x; refine State.Keeps.cut (p := s₀.KeepsR x) ?_ ?_ <;> [(revert x; dsimp only); (intro hx; clear_value x; rename' x => y, hx => hy)]) | (extract_lets +onlyGivenNames x; clear_value x; rename' x => y) | with_reducible apply State.KeepsL.proj | with_reducible apply State.KeepsR.proj | with_reducible refine State.KeepsL.fst (by with_reducible assumption) ?_ | with_reducible refine State.KeepsR.snd (by with_reducible assumption) ?_ | with_reducible apply State.KeepsL.mk | with_reducible apply State.KeepsR.mk | fail_if_no_progress (with_reducible refine State.Keeps.put ?_ (by with_reducible rfl))
theorem State.askRemote_keeps {s₀ s : State} {a1 a2 a3} (h : s₀.Keeps s) : s₀.Keeps (State.askRemote s a1 a2 a3) := by
  unfold State.askRemote
  repeat' first | with_reducible assumption | with_reducible apply State.send_keeps | with_reducible apply State.Keeps.foldl | (with_reducible intro) | split | (extract_lets +onlyGivenNames x; clear_value x; rename' x => y)
theorem State.markAway_keeps {s₀ s : State} {a1 a2 a3} (h : s₀.Keeps s) : s₀.Keeps (State.markAway s a1 a2 a3) := by
  unfold State.markAway
  repeat' first | with_reducible assumption | with_reducible apply State.setCore_keeps | (with_reducible intro) | split | (extract_lets +onlyGivenNames x; refine State.Keeps.cut (p := s₀.Keeps x) ?_ ?_ <;> [(revert x; dsimp only); (intro hx; clear_value x; rename' x => y, hx => hy)]) | (extract_lets +onlyGivenNames x; clear_value x; rename' x => y) | fail_if_no_progress (with_reducible refine State.Keeps.put ?_ (by with_reducible rfl))
theorem execCopy_keeps {s₀ s : State} {a0 a1} (h : s₀.Keeps s) : s₀.KeepsO (execCopy a0 a1 s) := by
  unfold execCopy
  repeat' first | with_reducible assumption | with_reducible apply State.KeepsO.next | with_reducible apply State.issueOp_keeps | with_reducible apply State.askRemote_keeps | with_reducible apply State.markAway_keeps | split | (extract_lets +onlyGivenNames x; refine State.Keeps.cut (p := s₀.Keeps x) ?_ ?_ <;> [(revert x; dsimp only); (intro hx; clear_value x; rename' x => y, hx => hy)]) | (extract_lets +onlyGivenNames x; clear_value x; rename' x => y) | fail_if_no_progress (with_reducible refine State.Keeps.put ?_ (by with_reducible rfl))
theorem State.lateHeard_keeps {s₀ s : State} {a1 a2} (h : s₀.Keeps s) : s₀.Keeps (State.lateHeard s a1 a2) := by
  unfold State.lateHeard
  repeat' first | with_reducible assumption | with_reducible apply State.writeCompletion_keeps | with_reducible apply State.queueDone_keeps | (with_reducible intro) | split | (extract_lets +onlyGivenNames x; refine State.Keeps.cut (p := s₀.Keeps x) ?_ ?_ <;> [(revert x; dsimp only); (intro hx; clear_value x; rename' x => y, hx => hy)]) | (extract_lets +onlyGivenNames x; clear_value x; rename' x => y) | fail_if_no_progress (with_reducible refine State.Keeps.put ?_ (by with_reducible rfl))
theorem execCopyComplete_keeps {s₀ s : State} {a0 a1 a2 a3} (h : s₀.Keeps s) : s₀.KeepsO (execCopyComplete a0 a1 a2 a3 s) := by
  unfold execCopyComplete
  repeat' first | with_reducible assumption | with_reducible apply State.KeepsO.next | with_reducible apply State.copyFree_keeps | with_reducible apply State.copyEnd_keeps | with_reducible apply State.copyDone_keeps | with_reducible apply State.copyFault_keeps | with_reducible apply State.lateHeard_keeps | (with_reducible intro) | split | fail_if_no_progress (with_reducible refine State.Keeps.put ?_ (by with_reducible rfl))
theorem State.refuseReq_keeps {s₀ s : State} {a1 a2} (h : s₀.Keeps s) : s₀.Keeps (State.refuseReq s a1 a2) := by
  unfold State.refuseReq
  repeat' first | with_reducible assumption | with_reducible apply State.refuseTask_keeps | with_reducible apply State.send_keeps | with_reducible apply State.record_keeps | with_reducible apply State.hostRefused_keeps | split
theorem State.hostWrote_keeps {s₀ s : State} {a1 a2} (h : s₀.Keeps s) : s₀.Keeps (State.hostWrote s a1 a2) := by
  unfold State.hostWrote
  repeat' first | with_reducible assumption | with_reducible apply State.external_keeps | split | (extract_lets +onlyGivenNames x; refine State.Keeps.cut (p := s₀.Keeps x) ?_ ?_ <;> [(revert x; dsimp only); (intro hx; clear_value x; rename' x => y, hx => hy)]) | (extract_lets +onlyGivenNames x; clear_value x; rename' x => y)
theorem State.eccWrite_keeps {s₀ s : State} {a1 a2 a3} (h : s₀.Keeps s) : s₀.Keeps (State.eccWrite s a1 a2 a3) := by
  unfold State.eccWrite
  repeat' first | with_reducible assumption | with_reducible apply State.eccRead_keeps | with_reducible apply State.containLine_keeps | split | (extract_lets +onlyGivenNames x; refine State.Keeps.cut (p := s₀.Keeps x) ?_ ?_ <;> [(revert x; dsimp only); (intro hx; clear_value x; rename' x => y, hx => hy)]) | (extract_lets +onlyGivenNames x; clear_value x; rename' x => y)
theorem State.readFor_keeps {s₀ s : State} {a1 a2 a3} (h : s₀.Keeps s) : s₀.Keeps (State.readFor s a1 a2 a3) := by
  unfold State.readFor
  repeat' first | with_reducible assumption | with_reducible apply State.copyGets_keeps | split | fail_if_no_progress (with_reducible refine State.Keeps.put ?_ (by with_reducible rfl))
theorem State.stackReq_keeps {s₀ s : State} {a1} (h : s₀.Keeps s) : s₀.Keeps (State.stackReq s a1) := by
  unfold State.stackReq
  repeat' first | with_reducible assumption | with_reducible apply State.refuseReq_keeps | with_reducible apply State.tableFault_keeps | with_reducible apply State.applyWrite_keeps | with_reducible apply State.eccWrite_keeps | with_reducible apply State.hostWrote_keeps | with_reducible apply State.send_keeps | with_reducible apply State.eccRead_keeps | with_reducible apply State.taskBad_keeps | with_reducible apply State.containLine_keeps | with_reducible apply State.hostAnswer_keeps | with_reducible apply State.readFor_keeps | split | (extract_lets +onlyGivenNames x; refine State.Keeps.cut (p := s₀.Keeps x) ?_ ?_ <;> [(revert x; dsimp only); (intro hx; clear_value x; rename' x => y, hx => hy)]) | (extract_lets +onlyGivenNames x; clear_value x; rename' x => y) | fail_if_no_progress (with_reducible refine State.Keeps.put ?_ (by with_reducible rfl))
theorem execStackRequest_keeps {s₀ s : State} {a0} (h : s₀.Keeps s) : s₀.KeepsO (execStackRequest a0 s) := by
  unfold execStackRequest
  repeat' first | with_reducible assumption | with_reducible apply State.KeepsO.next | with_reducible apply State.stackReq_keeps | split
theorem execMirrorWriteAck_keeps {s₀ s : State} {a0 a1} (h : s₀.Keeps s) : s₀.KeepsO (execMirrorWriteAck a0 a1 s) := by
  unfold execMirrorWriteAck
  repeat' first | with_reducible assumption | with_reducible apply State.KeepsO.next | with_reducible apply State.modCtx_keeps | split
theorem execMirrorRepairRequest_keeps {s₀ s : State} {a0 a1 a2} (h : s₀.Keeps s) : s₀.KeepsO (execMirrorRepairRequest a0 a1 a2 s) := by
  unfold execMirrorRepairRequest
  repeat' first | with_reducible assumption | with_reducible apply State.KeepsO.next | with_reducible apply State.modCtx_keeps | with_reducible apply State.send_keeps | split
theorem execRemoteErrorResponse_keeps {s₀ s : State} {a0 a1 a2 a3 a4} (h : s₀.Keeps s) : s₀.KeepsO (execRemoteErrorResponse a0 a1 a2 a3 a4 s) := by
  unfold execRemoteErrorResponse
  repeat' first | with_reducible assumption | with_reducible apply State.KeepsO.next | with_reducible apply State.endTaskBy_keeps | with_reducible apply State.refuseTask_keeps | with_reducible apply State.record_keeps | with_reducible apply State.hostAnswer_keeps | with_reducible apply State.hostRefused_keeps | with_reducible apply State.mirror_keeps | with_reducible apply State.stopCtx_keeps | with_reducible apply State.refuseSignal_keeps | (with_reducible intro) | split | fail_if_no_progress (with_reducible refine State.Keeps.put ?_ (by with_reducible rfl))
theorem State.cacheHit_keeps {s₀ s : State} {a1 a2 a3 a4} (h : s₀.Keeps s) : s₀.Keeps (State.cacheHit s a1 a2 a3 a4) := by
  unfold State.cacheHit
  repeat' first | with_reducible assumption | with_reducible apply State.copyGets_keeps | with_reducible apply State.endTaskBy_keeps | (with_reducible intro) | split | fail_if_no_progress (with_reducible refine State.Keeps.put ?_ (by with_reducible rfl))
theorem execDieCacheRead_keeps {s₀ s : State} {a0 a1 a2} (h : s₀.Keeps s) : s₀.KeepsO (execDieCacheRead a0 a1 a2 s) := by
  unfold execDieCacheRead
  repeat' first | with_reducible assumption | with_reducible apply State.KeepsO.next | with_reducible apply State.refuseTask_keeps | with_reducible apply State.cacheHit_keeps | with_reducible apply State.eccRead_keeps | with_reducible apply State.taskBad_keeps | with_reducible apply State.missFill_keeps | with_reducible apply State.copyGets_keeps | split | (extract_lets +onlyGivenNames x; refine State.Keeps.cut (p := s₀.Keeps x) ?_ ?_ <;> [(revert x; dsimp only); (intro hx; clear_value x; rename' x => y, hx => hy)]) | (extract_lets +onlyGivenNames x; clear_value x; rename' x => y) | fail_if_no_progress (with_reducible refine State.Keeps.put ?_ (by with_reducible rfl))
theorem State.takeLine_keeps {s₀ s : State} {a1 a2} (h : s₀.Keeps s) : s₀.KeepsP (State.takeLine s a1 a2) := by
  unfold State.takeLine
  repeat' first | with_reducible assumption | exact State.KeepsP.none | with_reducible apply State.KeepsP.some | split | fail_if_no_progress (with_reducible refine State.Keeps.put ?_ (by with_reducible rfl))
theorem State.atomAt_keeps {s₀ s : State} {a1 a2 a3 a4} (h : s₀.Keeps s) : s₀.Keeps (State.atomAt s a1 a2 a3 a4) := by
  unfold State.atomAt
  repeat' first | with_reducible assumption | with_reducible apply State.memWrite_keeps
theorem State.atomTaken_keeps {s₀ s : State} {a1 a2 a3 a4} (h : s₀.Keeps s) : s₀.Keeps (State.atomTaken s a1 a2 a3 a4) := by
  unfold State.atomTaken
  repeat' first | with_reducible assumption | with_reducible apply State.setCore_keeps
theorem State.atomElement_keeps {s₀ s : State} {a1 a2 a3 a4} (h : s₀.Keeps s) : s₀.Keeps (State.atomElement s a1 a2 a3 a4) := by
  unfold State.atomElement
  repeat' first | with_reducible assumption | with_reducible apply State.record_keeps | with_reducible apply State.refuseTask_keeps | with_reducible apply State.send_keeps | with_reducible apply State.atomTaken_keeps | with_reducible apply State.markAway_keeps | with_reducible apply State.eccRead_keeps | with_reducible apply State.taskBad_keeps | with_reducible apply State.takeLine_keeps | with_reducible apply State.atomAt_keeps | (with_reducible intro) | split | (extract_lets +onlyGivenNames x; refine State.Keeps.cut (p := s₀.Keeps x) ?_ ?_ <;> [(revert x; dsimp only); (intro hx; clear_value x; rename' x => y, hx => hy)]) | (extract_lets +onlyGivenNames x; refine State.Keeps.cut (p := s₀.KeepsP x) ?_ ?_ <;> [(revert x; dsimp only); (intro hx; clear_value x; rename' x => y, hx => hy)]) | (extract_lets +onlyGivenNames x; clear_value x; rename' x => y) | with_reducible refine State.KeepsP.get (by with_reducible assumption) ?_ | fail_if_no_progress (with_reducible refine State.Keeps.put ?_ (by with_reducible rfl))
theorem State.atomRemote_keeps {s₀ s : State} {a1 a2 a3 a4 a5 a6} (h : s₀.Keeps s) : s₀.Keeps (State.atomRemote s a1 a2 a3 a4 a5 a6) := by
  unfold State.atomRemote
  repeat' first | with_reducible assumption | with_reducible apply State.send_keeps | with_reducible apply State.record_keeps | with_reducible apply State.eccRead_keeps | with_reducible apply State.containLine_keeps | with_reducible apply State.takeLine_keeps | with_reducible apply State.atomAt_keeps | with_reducible apply State.KeepsP.getD | split | (extract_lets +onlyGivenNames x; refine State.Keeps.cut (p := s₀.Keeps x) ?_ ?_ <;> [(revert x; dsimp only); (intro hx; clear_value x; rename' x => y, hx => hy)]) | (extract_lets +onlyGivenNames x; clear_value x; rename' x => y) | with_reducible refine State.KeepsP.get (by with_reducible assumption) ?_
theorem execAtomLineOperation_keeps {s₀ s : State} {a0 a1} (h : s₀.Keeps s) : s₀.KeepsO (execAtomLineOperation a0 a1 s) := by
  unfold execAtomLineOperation
  repeat' first | with_reducible assumption | with_reducible apply State.KeepsO.next | with_reducible apply State.atomElement_keeps | with_reducible apply State.atomRemote_keeps | split
theorem execAtomLineWriteback_keeps {s₀ s : State} {a0 a1} (h : s₀.Keeps s) : s₀.KeepsO (execAtomLineWriteback a0 a1 s) := by
  unfold execAtomLineWriteback
  repeat' first | with_reducible assumption | with_reducible apply State.KeepsO.next | with_reducible apply State.applyWrite_keeps | split | fail_if_no_progress (with_reducible refine State.Keeps.put ?_ (by with_reducible rfl))
theorem execScrubPass_keeps {s₀ s : State} {a0 a1} (h : s₀.Keeps s) : s₀.KeepsO (execScrubPass a0 a1 s) := by
  unfold execScrubPass
  repeat' first | with_reducible assumption | with_reducible apply State.KeepsO.next | with_reducible apply State.eccRead_keeps | with_reducible apply State.containLine_keeps | with_reducible apply State.record_keeps | with_reducible apply State.Keeps.foldl | (with_reducible intro) | split | (extract_lets +onlyGivenNames x; clear_value x; rename' x => y)
theorem execFrameTableCommit_keeps {s₀ s : State} {a0} (h : s₀.Keeps s) : s₀.KeepsO (execFrameTableCommit a0 s) := by
  unfold execFrameTableCommit
  repeat' first | with_reducible assumption | with_reducible apply State.KeepsO.next | with_reducible apply State.blkErr_keeps | with_reducible apply State.invalidate_keeps | with_reducible apply State.setFrame_keeps | with_reducible apply State.Keeps.foldl | (with_reducible intro) | split
theorem execFrameZeroingComplete_keeps {s₀ s : State} {a0} (h : s₀.Keeps s) : s₀.KeepsO (execFrameZeroingComplete a0 s) := by
  unfold execFrameZeroingComplete
  repeat' first | with_reducible assumption | with_reducible apply State.KeepsO.next | with_reducible apply State.setFrame_keeps | with_reducible apply State.zeroFrame_keeps | split
theorem State.sendSig_keeps {s₀ s : State} {a1 a2 a3 a4 a5} (h : s₀.Keeps s) : s₀.Keeps (State.sendSig s a1 a2 a3 a4 a5) := by
  unfold State.sendSig
  repeat' first | with_reducible assumption | split | fail_if_no_progress (with_reducible refine State.Keeps.put ?_ (by with_reducible rfl))
theorem State.sigMet_keeps {s₀ s : State} {a1} (h : s₀.Keeps s) : s₀.Keeps (State.sigMet s a1) := by
  unfold State.sigMet
  repeat' first | with_reducible assumption | with_reducible apply State.setCore_keeps | with_reducible apply State.sendSig_keeps | split | (extract_lets +onlyGivenNames x; refine State.Keeps.cut (p := s₀.Keeps x) ?_ ?_ <;> [(revert x; dsimp only); (intro hx; clear_value x; rename' x => y, hx => hy)]) | (extract_lets +onlyGivenNames x; clear_value x; rename' x => y) | fail_if_no_progress (with_reducible refine State.Keeps.put ?_ (by with_reducible rfl))
theorem execSigConditionMet_keeps {s₀ s : State} {a0} (h : s₀.Keeps s) : s₀.KeepsO (execSigConditionMet a0 s) := by
  unfold execSigConditionMet
  repeat' first | with_reducible assumption | with_reducible apply State.KeepsO.next | with_reducible apply State.sigMet_keeps
theorem execCtxSig_keeps {s₀ s : State} {a0 a1 a2} (h : s₀.Keeps s) : s₀.KeepsO (execCtxSig a0 a1 a2 s) := by
  unfold execCtxSig
  repeat' first | with_reducible assumption | with_reducible apply State.KeepsO.next | with_reducible apply State.blkErr_keeps | with_reducible apply State.external_keeps | with_reducible apply State.sendSignal_keeps | split
theorem execSignalApply_keeps {s₀ s : State} {a0} (h : s₀.Keeps s) : s₀.KeepsO (execSignalApply a0 s) := by
  unfold execSignalApply
  repeat' first | with_reducible assumption | with_reducible apply State.KeepsO.next | with_reducible apply State.tableFault_keeps | with_reducible apply State.record_keeps | with_reducible apply State.abortCtx_keeps | with_reducible apply State.applySignal_keeps | split | (extract_lets +onlyGivenNames x; refine State.Keeps.cut (p := s₀.Keeps x) ?_ ?_ <;> [(revert x; dsimp only); (intro hx; clear_value x; rename' x => y, hx => hy)]) | (extract_lets +onlyGivenNames x; clear_value x; rename' x => y) | fail_if_no_progress (with_reducible refine State.Keeps.put ?_ (by with_reducible rfl))
theorem execCounterValueNotify_keeps {s₀ s : State} {a0 a1} (h : s₀.Keeps s) : s₀.KeepsO (execCounterValueNotify a0 a1 s) := by
  unfold execCounterValueNotify
  repeat' first | with_reducible assumption | with_reducible apply State.KeepsO.next | split | fail_if_no_progress (with_reducible refine State.Keeps.put ?_ (by with_reducible rfl))
theorem State.discard_keeps {s₀ s : State} {a1} (h : s₀.Keeps s) : s₀.Keeps (State.discard s a1) := by
  unfold State.discard
  repeat' first | with_reducible assumption | with_reducible apply State.modCtx_keeps
theorem execCrossDeviceSignal_keeps {s₀ s : State} {a0} (h : s₀.Keeps s) : s₀.KeepsO (execCrossDeviceSignal a0 s) := by
  unfold execCrossDeviceSignal
  repeat' first | with_reducible assumption | with_reducible apply State.KeepsO.next | with_reducible apply State.send_keeps | with_reducible apply State.record_keeps | with_reducible apply State.discard_keeps | with_reducible apply State.sendSignal_keeps | split
theorem execBarrierArrivalMessage_keeps {s₀ s : State} {a0} (h : s₀.Keeps s) : s₀.KeepsO (execBarrierArrivalMessage a0 s) := by
  unfold execBarrierArrivalMessage
  repeat' first | with_reducible assumption | with_reducible apply State.KeepsO.next | with_reducible apply State.discard_keeps | with_reducible apply State.barAdvance_keeps | split | fail_if_no_progress (with_reducible refine State.Keeps.put ?_ (by with_reducible rfl))
theorem execBarrierReleaseMessage_keeps {s₀ s : State} {a0} (h : s₀.Keeps s) : s₀.KeepsO (execBarrierReleaseMessage a0 s) := by
  unfold execBarrierReleaseMessage
  repeat' first | with_reducible assumption | with_reducible apply State.KeepsO.next | with_reducible apply State.discard_keeps | with_reducible apply State.barRelease_keeps | split
theorem State.waitTimeout_keeps {s₀ s : State} {a1 a2 a3 a4 a5} (h : s₀.Keeps s) : s₀.Keeps (State.waitTimeout s a1 a2 a3 a4 a5) := by
  unfold State.waitTimeout
  repeat' first | with_reducible assumption | with_reducible apply State.abortCtx_keeps | with_reducible apply State.record_keeps
theorem execWaitWatchdogExpiry_keeps {s₀ s : State} {a0} (h : s₀.Keeps s) : s₀.KeepsO (execWaitWatchdogExpiry a0 s) := by
  unfold execWaitWatchdogExpiry
  repeat' first | with_reducible assumption | with_reducible apply State.KeepsO.next | with_reducible apply State.waitTimeout_keeps | split | (extract_lets +onlyGivenNames x; clear_value x; rename' x => y)
theorem execSyncDbgSel_keeps {s₀ s : State} {a0 a1 a2} (h : s₀.Keeps s) : s₀.KeepsO (execSyncDbgSel a0 a1 a2 s) := by
  unfold execSyncDbgSel
  repeat' first | with_reducible assumption | with_reducible apply State.KeepsO.next | with_reducible apply State.blkErr_keeps | split | (extract_lets +onlyGivenNames x; clear_value x; rename' x => y) | fail_if_no_progress (with_reducible refine State.Keeps.put ?_ (by with_reducible rfl))
theorem execSyncSnapshotComplete_keeps {s₀ s : State} {a0} (h : s₀.Keeps s) : s₀.KeepsO (execSyncSnapshotComplete a0 s) := by
  unfold execSyncSnapshotComplete
  repeat' first | with_reducible assumption | with_reducible apply State.KeepsO.next | split | fail_if_no_progress (with_reducible refine State.Keeps.put ?_ (by with_reducible rfl))
theorem execDispatchDecision_keeps {s₀ s : State} {a0} (h : s₀.Keeps s) : s₀.KeepsO (execDispatchDecision a0 s) := by
  unfold execDispatchDecision
  repeat' first | with_reducible assumption | with_reducible apply State.KeepsO.next | split | (extract_lets +onlyGivenNames x; clear_value x; rename' x => y) | fail_if_no_progress (with_reducible refine State.Keeps.put ?_ (by with_reducible rfl))
theorem State.takeHead_keeps {s₀ s : State} {a1 a2 a3} (h : s₀.Keeps s) : s₀.Keeps (State.takeHead s a1 a2 a3) := by
  unfold State.takeHead
  repeat' first | with_reducible assumption | with_reducible apply State.modCtx_keeps | fail_if_no_progress (with_reducible refine State.Keeps.put ?_ (by with_reducible rfl))
theorem State.beginTask_keeps {s₀ s : State} {a1 a2} (h : s₀.Keeps s) : s₀.Keeps (State.beginTask s a1 a2) := by
  unfold State.beginTask
  repeat' first | with_reducible assumption | with_reducible apply State.setCore_keeps | (with_reducible intro) | (extract_lets +onlyGivenNames x; refine State.Keeps.cut (p := s₀.Keeps x) ?_ ?_ <;> [(revert x; dsimp only); (intro hx; clear_value x; rename' x => y, hx => hy)]) | (extract_lets +onlyGivenNames x; clear_value x; rename' x => y) | fail_if_no_progress (with_reducible refine State.Keeps.put ?_ (by with_reducible rfl))
theorem State.dispatchTask_keeps {s₀ s : State} {a1 a2 a3} (h : s₀.Keeps s) : s₀.Keeps (State.dispatchTask s a1 a2 a3) := by
  unfold State.dispatchTask
  repeat' first | with_reducible assumption | with_reducible apply State.takeHead_keeps | with_reducible apply State.beginTask_keeps | with_reducible apply State.drawn_keeps | with_reducible apply State.endTask_keeps | with_reducible apply State.endTaskBy_keeps | with_reducible apply State.taskBad_keeps | with_reducible apply State.setCore_keeps | with_reducible apply State.fenceCore_keeps | with_reducible apply State.dropTask_keeps | split | (extract_lets +onlyGivenNames x; refine State.Keeps.cut (p := s₀.Keeps x) ?_ ?_ <;> [(revert x; dsimp only); (intro hx; clear_value x; rename' x => y, hx => hy)]) | (extract_lets +onlyGivenNames x; clear_value x; rename' x => y)
theorem State.regionFault_keeps {s₀ s : State} {a1 a2} (h : s₀.Keeps s) : s₀.Keeps (State.regionFault s a1 a2) := by
  unfold State.regionFault
  repeat' first | with_reducible assumption | with_reducible apply State.tableFault_keeps | (with_reducible intro) | split | (extract_lets +onlyGivenNames x; refine State.Keeps.cut (p := s₀.Keeps x) ?_ ?_ <;> [(revert x; dsimp only); (intro hx; clear_value x; rename' x => y, hx => hy)]) | (extract_lets +onlyGivenNames x; clear_value x; rename' x => y) | fail_if_no_progress (with_reducible refine State.Keeps.put ?_ (by with_reducible rfl))
theorem execTileTaskDispatch_keeps {s₀ s : State} {a0 a1} (h : s₀.Keeps s) : s₀.KeepsO (execTileTaskDispatch a0 a1 s) := by
  unfold execTileTaskDispatch
  repeat' first | with_reducible assumption | with_reducible apply State.KeepsO.next | with_reducible apply State.regionFault_keeps | with_reducible apply State.dispatchTask_keeps | split | (extract_lets +onlyGivenNames x; refine State.Keeps.cut (p := s₀.Keeps x) ?_ ?_ <;> [(revert x; dsimp only); (intro hx; clear_value x; rename' x => y, hx => hy)]) | (extract_lets +onlyGivenNames x; clear_value x; rename' x => y) | fail_if_no_progress (with_reducible refine State.Keeps.put ?_ (by with_reducible rfl))
theorem State.foldFlags_keeps {s₀ s : State} {a1 a2 a3} (h : s₀.Keeps s) : s₀.Keeps (State.foldFlags s a1 a2 a3) := by
  unfold State.foldFlags
  repeat' first | with_reducible assumption | with_reducible apply State.modCtx_keeps
theorem State.digestLog_keeps {s₀ s : State} {a1 a2 a3} (h : s₀.Keeps s) : s₀.Keeps (State.digestLog s a1 a2 a3) := by
  unfold State.digestLog
  repeat' first | with_reducible assumption | with_reducible apply State.devWrite_keeps | split | (extract_lets +onlyGivenNames x; clear_value x; rename' x => y)
theorem State.descSignal_keeps {s₀ s : State} {a1 a2 a3} (h : s₀.Keeps s) : s₀.Keeps (State.descSignal s a1 a2 a3) := by
  unfold State.descSignal
  repeat' first | with_reducible assumption | with_reducible apply State.sendSignal_keeps | split | (extract_lets +onlyGivenNames x; clear_value x; rename' x => y)
theorem State.completeTask_keeps {s₀ s : State} {a1 a2} (h : s₀.Keeps s) : s₀.Keeps (State.completeTask s a1 a2) := by
  unfold State.completeTask
  repeat' first | with_reducible assumption | with_reducible apply State.foldFlags_keeps | with_reducible apply State.digestLog_keeps | with_reducible apply State.modCtx_keeps | with_reducible apply State.writeCompletion_keeps | with_reducible apply State.queueDone_keeps | with_reducible apply State.setCore_keeps | with_reducible apply State.descSignal_keeps | with_reducible apply State.Keeps.foldl | (with_reducible intro) | split | (extract_lets +onlyGivenNames x; clear_value x; rename' x => y) | fail_if_no_progress (with_reducible refine State.Keeps.put ?_ (by with_reducible rfl))
theorem State.landedNow_keeps {s₀ s : State} {a1} (h : s₀.Keeps s) : s₀.Keeps (State.landedNow s a1) := by
  unfold State.landedNow
  repeat' first | with_reducible assumption | with_reducible apply State.setCore_keeps | split
theorem execTileTaskCompletion_keeps {s₀ s : State} {a0} (h : s₀.Keeps s) : s₀.KeepsO (execTileTaskCompletion a0 s) := by
  unfold execTileTaskCompletion
  repeat' first | with_reducible assumption | with_reducible apply State.KeepsO.next | with_reducible apply State.completeTask_keeps | with_reducible apply State.landedNow_keeps | split
theorem execTaskWatchdogExpiry_keeps {s₀ s : State} {a0} (h : s₀.Keeps s) : s₀.KeepsO (execTaskWatchdogExpiry a0 s) := by
  unfold execTaskWatchdogExpiry
  repeat' first | with_reducible assumption | with_reducible apply State.KeepsO.next | with_reducible apply State.endTask_keeps | with_reducible apply State.endTaskBy_keeps | split
theorem State.fsMismatch_keeps {s₀ s : State} {a1 a2 a3} (h : s₀.Keeps s) : s₀.Keeps (State.fsMismatch s a1 a2 a3) := by
  unfold State.fsMismatch
  repeat' first | with_reducible assumption | with_reducible apply State.count_keeps | with_reducible apply State.dropTask_keeps | with_reducible apply State.fenceCore_keeps | with_reducible apply State.setCore_keeps | split | (extract_lets +onlyGivenNames x; refine State.Keeps.cut (p := s₀.Keeps x) ?_ ?_ <;> [(revert x; dsimp only); (intro hx; clear_value x; rename' x => y, hx => hy)]) | (extract_lets +onlyGivenNames x; clear_value x; rename' x => y) | fail_if_no_progress (with_reducible refine State.Keeps.put ?_ (by with_reducible rfl))
theorem State.exactCheck_keeps {s₀ s : State} {a1 a2} (h : s₀.Keeps s) : s₀.Keeps (State.exactCheck s a1 a2) := by
  unfold State.exactCheck
  repeat' first | with_reducible assumption | with_reducible apply State.setCore_keeps | with_reducible apply State.count_keeps | with_reducible apply State.fsMismatch_keeps | (with_reducible intro) | split | (extract_lets +onlyGivenNames x; refine State.Keeps.cut (p := s₀.Keeps x) ?_ ?_ <;> [(revert x; dsimp only); (intro hx; clear_value x; rename' x => y, hx => hy)]) | (extract_lets +onlyGivenNames x; clear_value x; rename' x => y) | fail_if_no_progress (with_reducible refine State.Keeps.put ?_ (by with_reducible rfl))
theorem execFootstoolExactCheck_keeps {s₀ s : State} {a0 a1} (h : s₀.Keeps s) : s₀.KeepsO (execFootstoolExactCheck a0 a1 s) := by
  unfold execFootstoolExactCheck
  repeat' first | with_reducible assumption | with_reducible apply State.KeepsO.next | with_reducible apply State.exactCheck_keeps | split
theorem State.wideStats_keeps {s₀ s : State} {a1 a2 a3 a4} (h : s₀.Keeps s) : s₀.Keeps (State.wideStats s a1 a2 a3 a4) := by
  unfold State.wideStats
  repeat' first | with_reducible assumption | split | (extract_lets +onlyGivenNames x; refine State.Keeps.cut (p := s₀.Keeps x) ?_ ?_ <;> [(revert x; dsimp only); (intro hx; clear_value x; rename' x => y, hx => hy)]) | (extract_lets +onlyGivenNames x; clear_value x; rename' x => y) | fail_if_no_progress (with_reducible refine State.Keeps.put ?_ (by with_reducible rfl))
theorem execFootstoolWideSample_keeps {s₀ s : State} {a0} (h : s₀.Keeps s) : s₀.KeepsO (execFootstoolWideSample a0 s) := by
  unfold execFootstoolWideSample
  repeat' first | with_reducible assumption | with_reducible apply State.KeepsO.next | with_reducible apply State.setCore_keeps | with_reducible apply State.wideStats_keeps | with_reducible apply State.count_keeps | (with_reducible intro) | split | (extract_lets +onlyGivenNames x; refine State.Keeps.cut (p := s₀.Keeps x) ?_ ?_ <;> [(revert x; dsimp only); (intro hx; clear_value x; rename' x => y, hx => hy)]) | (extract_lets +onlyGivenNames x; clear_value x; rename' x => y) | fail_if_no_progress (with_reducible refine State.Keeps.put ?_ (by with_reducible rfl))
theorem execCrossCoreReplay_keeps {s₀ s : State} {a0 a1} (h : s₀.Keeps s) : s₀.KeepsO (execCrossCoreReplay a0 a1 s) := by
  unfold execCrossCoreReplay
  repeat' first | with_reducible assumption | with_reducible apply State.KeepsO.next | with_reducible apply State.count_keeps | split | (extract_lets +onlyGivenNames x; clear_value x; rename' x => y) | fail_if_no_progress (with_reducible refine State.Keeps.put ?_ (by with_reducible rfl))
theorem State.replayFault_keeps {s₀ s : State} {a1 a2 a3} (h : s₀.Keeps s) : s₀.Keeps (State.replayFault s a1 a2 a3) := by
  unfold State.replayFault
  repeat' first | with_reducible assumption | with_reducible apply State.record_keeps | with_reducible apply State.fenceCore_keeps
theorem State.dropReplay_keeps {s₀ s : State} {a1} (h : s₀.Keeps s) : s₀.Keeps (State.dropReplay s a1) := by
  unfold State.dropReplay
  repeat' first | with_reducible assumption | fail_if_no_progress (with_reducible refine State.Keeps.put ?_ (by with_reducible rfl))
theorem State.markTest_keeps {s₀ s : State} {a1} (h : s₀.Keeps s) : s₀.Keeps (State.markTest s a1) := by
  unfold State.markTest
  repeat' first | with_reducible assumption | fail_if_no_progress (with_reducible refine State.Keeps.put ?_ (by with_reducible rfl))
theorem execReplayCompare_keeps {s₀ s : State} {a0} (h : s₀.Keeps s) : s₀.KeepsO (execReplayCompare a0 s) := by
  unfold execReplayCompare
  repeat' first | with_reducible assumption | with_reducible apply State.KeepsO.next | with_reducible apply State.dropReplay_keeps | with_reducible apply State.markTest_keeps | with_reducible apply State.replayFault_keeps | with_reducible apply State.count_keeps | split | (extract_lets +onlyGivenNames x; clear_value x; rename' x => y)

end Sys2Proof.Machine
end

