-- ==== Sys2Proof/Laws/KeepsNet.lean ====
section
/-! SUPPORT. What the operations of the networks leave as they were. -/

namespace Sys2Proof.Machine

theorem State.fillRoutes_keeps {s₀ s : State} (h : s₀.Keeps s) : s₀.Keeps (State.fillRoutes s) := by
  unfold State.fillRoutes
  repeat' first | with_reducible assumption | with_reducible apply State.Keeps.foldl | (with_reducible intro) | fail_if_no_progress (with_reducible refine State.Keeps.put ?_ (by with_reducible rfl))
theorem State.sendNotices_keeps {s₀ s : State} {a1} (h : s₀.Keeps s) : s₀.Keeps (State.sendNotices s a1) := by
  unfold State.sendNotices
  repeat' first | with_reducible assumption | with_reducible apply State.send_keeps | with_reducible apply State.Keeps.foldl | (with_reducible intro) | split | fail_if_no_progress (with_reducible refine State.Keeps.put ?_ (by with_reducible rfl))
theorem State.retryNotices_keeps {s₀ s : State} (h : s₀.Keeps s) : s₀.Keeps (State.retryNotices s) := by
  unfold State.retryNotices
  repeat' first | with_reducible assumption | with_reducible apply State.sendNotices_keeps | fail_if_no_progress (with_reducible refine State.Keeps.put ?_ (by with_reducible rfl))
theorem State.evalCab_keeps {s₀ s : State} (h : s₀.Keeps s) : s₀.Keeps (State.evalCab s) := by
  unfold State.evalCab
  repeat' first | with_reducible assumption | split | (extract_lets +onlyGivenNames x; clear_value x; rename' x => y) | fail_if_no_progress (with_reducible refine State.Keeps.put ?_ (by with_reducible rfl))
theorem State.floodAsm_keeps {s₀ s : State} {a1 a2 a3} (h : s₀.Keeps s) : s₀.Keeps (State.floodAsm s a1 a2 a3) := by
  unfold State.floodAsm
  repeat' first | with_reducible assumption | with_reducible apply State.emit_keeps | with_reducible apply State.Keeps.foldl | (with_reducible intro)
theorem State.sendAsm_keeps {s₀ s : State} (h : s₀.Keeps s) : s₀.Keeps (State.sendAsm s) := by
  unfold State.sendAsm
  repeat' first | with_reducible assumption | with_reducible apply State.floodAsm_keeps
theorem State.setSlotEntry_keeps {s₀ s : State} {a1 a2 a3 a4} (h : s₀.Keeps s) : s₀.Keeps (State.setSlotEntry s a1 a2 a3 a4) := by
  unfold State.setSlotEntry
  repeat' first | with_reducible assumption | split | fail_if_no_progress (with_reducible refine State.Keeps.put ?_ (by with_reducible rfl))
theorem State.returnCredits_keeps {s₀ s : State} {a1 a2 a3} (h : s₀.Keeps s) : s₀.Keeps (State.returnCredits s a1 a2 a3) := by
  unfold State.returnCredits
  repeat' first | with_reducible assumption | with_reducible apply State.emit_keeps | split | (extract_lets +onlyGivenNames x; refine State.Keeps.cut (p := s₀.Keeps x) ?_ ?_ <;> [(revert x; dsimp only); (intro hx; clear_value x; rename' x => y, hx => hy)]) | (extract_lets +onlyGivenNames x; clear_value x; rename' x => y) | fail_if_no_progress (with_reducible refine State.Keeps.put ?_ (by with_reducible rfl))
theorem State.written_keeps {s₀ s : State} {a1 a2 a3} (h : s₀.Keeps s) : s₀.Keeps (State.written s a1 a2 a3) := by
  unfold State.written
  repeat' first | with_reducible assumption | with_reducible apply State.returnCredits_keeps | with_reducible apply State.Keeps.foldl | (with_reducible intro) | (extract_lets +onlyGivenNames x; refine State.Keeps.cut (p := s₀.Keeps x) ?_ ?_ <;> [(revert x; dsimp only); (intro hx; clear_value x; rename' x => y, hx => hy)]) | (extract_lets +onlyGivenNames x; clear_value x; rename' x => y) | fail_if_no_progress (with_reducible refine State.Keeps.put ?_ (by with_reducible rfl))
theorem State.freeImage_keeps {s₀ s : State} {a1} (h : s₀.Keeps s) : s₀.Keeps (State.freeImage s a1) := by
  unfold State.freeImage
  repeat' first | with_reducible assumption | with_reducible apply State.modCtx_keeps | with_reducible apply State.freeFrames_keeps | split
theorem State.command_keeps {s₀ s : State} {a1 a2 a3 a4 a5 f6} (h : s₀.Keeps s) (hf6 : ∀ s, s₀.Keeps s → s₀.Keeps (f6 s)) : s₀.Keeps (State.command s a1 a2 a3 a4 a5 f6) := by
  unfold State.command
  repeat' first | with_reducible assumption | with_reducible apply hf6 | with_reducible apply State.blkErr_keeps | with_reducible apply State.modCtx_keeps | with_reducible apply State.cmdDone_keeps | with_reducible apply State.freeImage_keeps | (with_reducible intro) | split | (extract_lets +onlyGivenNames x; refine State.Keeps.cut (p := s₀.Keeps x) ?_ ?_ <;> [(revert x; dsimp only); (intro hx; clear_value x; rename' x => y, hx => hy)])
theorem State.grant_keeps {s₀ s : State} {a1 a2 a3} (h : s₀.Keeps s) : s₀.Keeps (State.grant s a1 a2 a3) := by
  unfold State.grant
  repeat' first | with_reducible assumption | split | fail_if_no_progress (with_reducible refine State.Keeps.put ?_ (by with_reducible rfl))
theorem State.grantAll_keeps {s₀ s : State} {a1 a2} (h : s₀.Keeps s) : s₀.Keeps (State.grantAll s a1 a2) := by
  unfold State.grantAll
  repeat' first | with_reducible assumption | with_reducible apply State.grant_keeps | with_reducible apply State.Keeps.foldl | (with_reducible intro)
theorem State.revoke_keeps {s₀ s : State} {a1} (h : s₀.Keeps s) : s₀.Keeps (State.revoke s a1) := by
  unfold State.revoke
  repeat' first | with_reducible assumption | (extract_lets +onlyGivenNames x; clear_value x; rename' x => y) | fail_if_no_progress (with_reducible refine State.Keeps.put ?_ (by with_reducible rfl))
theorem State.grantLocal_keeps {s₀ s : State} {a1} (h : s₀.Keeps s) : s₀.Keeps (State.grantLocal s a1) := by
  unfold State.grantLocal
  repeat' first | with_reducible assumption | with_reducible apply State.grantAll_keeps | with_reducible apply State.grant_keeps
theorem State.grantMember_keeps {s₀ s : State} {a1 a2} (h : s₀.Keeps s) : s₀.Keeps (State.grantMember s a1 a2) := by
  unfold State.grantMember
  repeat' first | with_reducible assumption | with_reducible apply State.grantAll_keeps | with_reducible apply State.grant_keeps | with_reducible apply State.Keeps.foldl | (with_reducible intro) | split | (extract_lets +onlyGivenNames x; refine State.Keeps.cut (p := s₀.Keeps x) ?_ ?_ <;> [(revert x; dsimp only); (intro hx; clear_value x; rename' x => y, hx => hy)]) | (extract_lets +onlyGivenNames x; clear_value x; rename' x => y)
theorem State.takeSnapshot_keeps {s₀ s : State} {a1} (h : s₀.Keeps s) : s₀.Keeps (State.takeSnapshot s a1) := by
  unfold State.takeSnapshot
  repeat' first | with_reducible assumption | with_reducible apply State.modCtx_keeps
theorem State.writeCounters_keeps {s₀ s : State} {a1} (h : s₀.Keeps s) : s₀.Keeps (State.writeCounters s a1) := by
  unfold State.writeCounters
  repeat' first | with_reducible assumption | with_reducible apply State.setCtr_keeps | with_reducible apply State.Keeps.foldl | (with_reducible intro)
theorem State.startDrain_keeps {s₀ s : State} {a1} (h : s₀.Keeps s) : s₀.Keeps (State.startDrain s a1) := by
  unfold State.startDrain
  repeat' first | with_reducible assumption | with_reducible apply State.modCtx_keeps
theorem State.tellYield_keeps {s₀ s : State} {a1 a2 a3} (h : s₀.Keeps s) : s₀.Keeps (State.tellYield s a1 a2 a3) := by
  unfold State.tellYield
  repeat' first | with_reducible assumption | with_reducible apply State.sendAll_keeps
theorem State.setPoint_keeps {s₀ s : State} {a1 a2 a3 a4} (h : s₀.Keeps s) : s₀.Keeps (State.setPoint s a1 a2 a3 a4) := by
  unfold State.setPoint
  repeat' first | with_reducible assumption | with_reducible apply State.startDrain_keeps | with_reducible apply State.modCtx_keeps | split
theorem State.originate_keeps {s₀ s : State} {a1} (h : s₀.Keeps s) : s₀.Keeps (State.originate s a1) := by
  unfold State.originate
  repeat' first | with_reducible assumption | with_reducible apply State.modCtx_keeps
theorem State.yieldRequest_keeps {s₀ s : State} {a1 a2 a3 a4} (h : s₀.Keeps s) : s₀.Keeps (State.yieldRequest s a1 a2 a3 a4) := by
  unfold State.yieldRequest
  repeat' first | with_reducible assumption | with_reducible apply State.originate_keeps | with_reducible apply State.modCtx_keeps | with_reducible apply State.tellYield_keeps | with_reducible apply State.setPoint_keeps | split | (extract_lets +onlyGivenNames x; refine State.Keeps.cut (p := s₀.Keeps x) ?_ ?_ <;> [(revert x; dsimp only); (intro hx; clear_value x; rename' x => y, hx => hy)])
theorem State.tellResume_keeps {s₀ s : State} {a1} (h : s₀.Keeps s) : s₀.Keeps (State.tellResume s a1) := by
  unfold State.tellResume
  repeat' first | with_reducible assumption | with_reducible apply State.sendAll_keeps | with_reducible apply State.modCtx_keeps | split
theorem State.endSource_keeps {s₀ s : State} {a1 a2} (h : s₀.Keeps s) : s₀.Keeps (State.endSource s a1 a2) := by
  unfold State.endSource
  repeat' first | with_reducible assumption | with_reducible apply State.tellResume_keeps | with_reducible apply State.modCtx_keeps
theorem State.releaseNet_keeps {s₀ s : State} {a1} (h : s₀.Keeps s) : s₀.Keeps (State.releaseNet s a1) := by
  unfold State.releaseNet
  repeat' first | with_reducible assumption | with_reducible apply State.setCore_keeps | with_reducible apply State.Keeps.foldl | (with_reducible intro) | split | (extract_lets +onlyGivenNames x; refine State.Keeps.cut (p := s₀.Keeps x) ?_ ?_ <;> [(revert x; dsimp only); (intro hx; clear_value x; rename' x => y, hx => hy)]) | (extract_lets +onlyGivenNames x; clear_value x; rename' x => y) | fail_if_no_progress (with_reducible refine State.Keeps.put ?_ (by with_reducible rfl))
theorem State.releaseSlots_keeps {s₀ s : State} {a1} (h : s₀.Keeps s) : s₀.Keeps (State.releaseSlots s a1) := by
  unfold State.releaseSlots
  repeat' first | with_reducible assumption | split | (extract_lets +onlyGivenNames x; clear_value x; rename' x => y) | fail_if_no_progress (with_reducible refine State.Keeps.put ?_ (by with_reducible rfl))
theorem State.releaseRegions_keeps {s₀ s : State} {a1} (h : s₀.Keeps s) : s₀.Keeps (State.releaseRegions s a1) := by
  unfold State.releaseRegions
  repeat' first | with_reducible assumption | with_reducible apply State.freeFrames_keeps | with_reducible apply State.setRegion_keeps | with_reducible apply State.Keeps.foldl | (with_reducible intro) | split | (extract_lets +onlyGivenNames x; refine State.Keeps.cut (p := s₀.Keeps x) ?_ ?_ <;> [(revert x; dsimp only); (intro hx; clear_value x; rename' x => y, hx => hy)]) | (extract_lets +onlyGivenNames x; clear_value x; rename' x => y) | fail_if_no_progress (with_reducible refine State.Keeps.put ?_ (by with_reducible rfl))
theorem State.resetCtxPage_keeps {s₀ s : State} {a1} (h : s₀.Keeps s) : s₀.Keeps (State.resetCtxPage s a1) := by
  unfold State.resetCtxPage
  repeat' first | with_reducible assumption | (extract_lets +onlyGivenNames x; clear_value x; rename' x => y) | fail_if_no_progress (with_reducible refine State.Keeps.put ?_ (by with_reducible rfl))
theorem State.releaseCtx_keeps {s₀ s : State} {a1} (h : s₀.Keeps s) : s₀.Keeps (State.releaseCtx s a1) := by
  unfold State.releaseCtx
  repeat' first | with_reducible assumption | with_reducible apply State.KeepsL.proj | with_reducible apply State.KeepsL.foldl | with_reducible apply State.releaseSlots_keeps | with_reducible apply State.releaseNet_keeps | with_reducible apply State.releaseRegions_keeps | with_reducible apply State.freeFrames_keeps | with_reducible apply State.revoke_keeps | with_reducible apply State.setCtx_keeps | with_reducible apply State.resetCtxPage_keeps | split | (extract_lets +onlyGivenNames x; clear_value x; rename' x => y) | with_reducible apply State.KeepsL.mk | fail_if_no_progress (with_reducible refine State.Keeps.put ?_ (by with_reducible rfl))
theorem State.finishUnload_keeps {s₀ s : State} {a1} (h : s₀.Keeps s) : s₀.Keeps (State.finishUnload s a1) := by
  unfold State.finishUnload
  repeat' first | with_reducible assumption | with_reducible apply State.releaseCtx_keeps | with_reducible apply State.cmdDone_keeps | split | (extract_lets +onlyGivenNames x; refine State.Keeps.cut (p := s₀.Keeps x) ?_ ?_ <;> [(revert x; dsimp only); (intro hx; clear_value x; rename' x => y, hx => hy)]) | (extract_lets +onlyGivenNames x; clear_value x; rename' x => y) | fail_if_no_progress (with_reducible refine State.Keeps.put ?_ (by with_reducible rfl))
theorem State.startUnload_keeps {s₀ s : State} {a1} (h : s₀.Keeps s) : s₀.Keeps (State.startUnload s a1) := by
  unfold State.startUnload
  repeat' first | with_reducible assumption | with_reducible apply State.cmdDone_keeps | with_reducible apply State.startDrain_keeps | with_reducible apply State.modCtx_keeps | split
theorem State.floodLost_keeps {s₀ s : State} {a1 a2 a3} (h : s₀.Keeps s) : s₀.Keeps (State.floodLost s a1 a2 a3) := by
  unfold State.floodLost
  repeat' first | with_reducible assumption | with_reducible apply State.sendSync_keeps | with_reducible apply State.Keeps.foldl | (with_reducible intro) | split | fail_if_no_progress (with_reducible refine State.Keeps.put ?_ (by with_reducible rfl))
theorem State.alert_keeps {s₀ s : State} (h : s₀.Keeps s) : s₀.Keeps (State.alert s) := by
  unfold State.alert
  repeat' first | with_reducible assumption | with_reducible apply State.emit_keeps | split | (extract_lets +onlyGivenNames x; clear_value x; rename' x => y) | fail_if_no_progress (with_reducible refine State.Keeps.put ?_ (by with_reducible rfl))
theorem State.goOffline_keeps {s₀ s : State} (h : s₀.Keeps s) : s₀.Keeps (State.goOffline s) := by
  unfold State.goOffline
  repeat' first | with_reducible assumption | with_reducible apply State.alert_keeps | with_reducible apply State.record_keeps | with_reducible apply State.floodLost_keeps | with_reducible apply State.startUnload_keeps | with_reducible apply State.Keeps.foldl | (with_reducible intro) | split | (extract_lets +onlyGivenNames x; refine State.Keeps.cut (p := s₀.root.fuses.Kept x.fuses) ?_ ?_ <;> [(revert x; dsimp only); (intro hx; clear_value x; rename' x => y, hx => hy)]) | with_reducible apply State.Keeps.fuses | with_reducible refine State.Keeps.putRoot ?_ (by with_reducible assumption)
theorem State.crossingError_keeps {s₀ s : State} {a1 a2} (h : s₀.Keeps s) : s₀.Keeps (State.crossingError s a1 a2) := by
  unfold State.crossingError
  repeat' first | with_reducible assumption | with_reducible apply State.count_keeps | with_reducible apply State.record_keeps | with_reducible apply State.goOffline_keeps | with_reducible apply State.abortCtx_keeps | with_reducible apply State.Keeps.foldl | (with_reducible intro) | split | (extract_lets +onlyGivenNames x; refine State.Keeps.cut (p := s₀.Keeps x) ?_ ?_ <;> [(revert x; dsimp only); (intro hx; clear_value x; rename' x => y, hx => hy)]) | (extract_lets +onlyGivenNames x; clear_value x; rename' x => y) | fail_if_no_progress (with_reducible refine State.Keeps.put ?_ (by with_reducible rfl))
theorem execFrameMarkerCheck_keeps {s₀ s : State} {a0 a1} (h : s₀.Keeps s) : s₀.KeepsO (execFrameMarkerCheck a0 a1 s) := by
  unfold execFrameMarkerCheck
  repeat' first | with_reducible assumption | with_reducible apply State.KeepsO.next | with_reducible apply State.crossingError_keeps | split
theorem execCrossingRecalibration_keeps {s₀ s : State} {a0} (h : s₀.Keeps s) : s₀.KeepsO (execCrossingRecalibration a0 s) := by
  unfold execCrossingRecalibration
  repeat' first | with_reducible assumption | with_reducible apply State.KeepsO.next | with_reducible apply State.crossingError_keeps | split
theorem execDieStopsAnswering_keeps {s₀ s : State} {a0} (h : s₀.Keeps s) : s₀.KeepsO (execDieStopsAnswering a0 s) := by
  unfold execDieStopsAnswering
  repeat' first | with_reducible assumption | with_reducible apply State.KeepsO.next | with_reducible apply State.goOffline_keeps | split
theorem State.sendFlit_keeps {s₀ s : State} {a1 a2 a3} (h : s₀.Keeps s) : s₀.KeepsL (State.sendFlit s a1 a2 a3) := by
  unfold State.sendFlit
  repeat' first | with_reducible assumption | with_reducible apply State.setCore_keeps | split | (extract_lets +onlyGivenNames x; refine State.Keeps.cut (p := s₀.Keeps x) ?_ ?_ <;> [(revert x; dsimp only); (intro hx; clear_value x; rename' x => y, hx => hy)]) | (extract_lets +onlyGivenNames x; refine State.Keeps.cut (p := s₀.KeepsL x) ?_ ?_ <;> [(revert x; dsimp only); (intro hx; clear_value x; rename' x => y, hx => hy)]) | (extract_lets +onlyGivenNames x; refine State.Keeps.cut (p := s₀.KeepsR x) ?_ ?_ <;> [(revert x; dsimp only); (intro hx; clear_value x; rename' x => y, hx => hy)]) | (extract_lets +onlyGivenNames x; clear_value x; rename' x => y) | with_reducible apply State.KeepsL.proj | with_reducible apply State.KeepsR.proj | with_reducible refine State.KeepsL.fst (by with_reducible assumption) ?_ | with_reducible refine State.KeepsR.snd (by with_reducible assumption) ?_ | with_reducible apply State.KeepsL.mk | with_reducible apply State.KeepsR.mk | fail_if_no_progress (with_reducible refine State.Keeps.put ?_ (by with_reducible rfl))
theorem State.readFlit_keeps {s₀ s : State} {a1 a2 a3} (h : s₀.Keeps s) : s₀.KeepsL (State.readFlit s a1 a2 a3) := by
  unfold State.readFlit
  repeat' first | with_reducible assumption | with_reducible apply State.ringTake_keeps | split | (extract_lets +onlyGivenNames x; refine State.Keeps.cut (p := s₀.Keeps x) ?_ ?_ <;> [(revert x; dsimp only); (intro hx; clear_value x; rename' x => y, hx => hy)]) | (extract_lets +onlyGivenNames x; refine State.Keeps.cut (p := s₀.KeepsL x) ?_ ?_ <;> [(revert x; dsimp only); (intro hx; clear_value x; rename' x => y, hx => hy)]) | (extract_lets +onlyGivenNames x; refine State.Keeps.cut (p := s₀.KeepsR x) ?_ ?_ <;> [(revert x; dsimp only); (intro hx; clear_value x; rename' x => y, hx => hy)]) | (extract_lets +onlyGivenNames x; clear_value x; rename' x => y) | with_reducible apply State.KeepsL.proj | with_reducible apply State.KeepsR.proj | with_reducible refine State.KeepsL.fst (by with_reducible assumption) ?_ | with_reducible refine State.KeepsR.snd (by with_reducible assumption) ?_ | with_reducible apply State.KeepsL.mk | with_reducible apply State.KeepsR.mk | fail_if_no_progress (with_reducible refine State.Keeps.put ?_ (by with_reducible rfl))
theorem State.farFlit_keeps {s₀ s : State} {a1 a2} (h : s₀.Keeps s) : s₀.KeepsL (State.farFlit s a1 a2) := by
  unfold State.farFlit
  repeat' first | with_reducible assumption | split | (extract_lets +onlyGivenNames x; refine State.Keeps.cut (p := s₀.Keeps x) ?_ ?_ <;> [(revert x; dsimp only); (intro hx; clear_value x; rename' x => y, hx => hy)]) | (extract_lets +onlyGivenNames x; refine State.Keeps.cut (p := s₀.KeepsL x) ?_ ?_ <;> [(revert x; dsimp only); (intro hx; clear_value x; rename' x => y, hx => hy)]) | (extract_lets +onlyGivenNames x; refine State.Keeps.cut (p := s₀.KeepsR x) ?_ ?_ <;> [(revert x; dsimp only); (intro hx; clear_value x; rename' x => y, hx => hy)]) | (extract_lets +onlyGivenNames x; clear_value x; rename' x => y) | with_reducible apply State.KeepsL.proj | with_reducible apply State.KeepsR.proj | with_reducible refine State.KeepsL.fst (by with_reducible assumption) ?_ | with_reducible refine State.KeepsR.snd (by with_reducible assumption) ?_ | with_reducible apply State.KeepsL.mk | with_reducible apply State.KeepsR.mk | fail_if_no_progress (with_reducible refine State.Keeps.put ?_ (by with_reducible rfl))
theorem State.ringFlit_keeps {s₀ s : State} {a1 a2 a3 a4} (h : s₀.Keeps s) : s₀.Keeps (State.ringFlit s a1 a2 a3 a4) := by
  unfold State.ringFlit
  repeat' first | with_reducible assumption | with_reducible apply State.written_keeps | split | (extract_lets +onlyGivenNames x; refine State.Keeps.cut (p := s₀.Keeps x) ?_ ?_ <;> [(revert x; dsimp only); (intro hx; clear_value x; rename' x => y, hx => hy)]) | (extract_lets +onlyGivenNames x; clear_value x; rename' x => y) | fail_if_no_progress (with_reducible refine State.Keeps.put ?_ (by with_reducible rfl))
theorem State.portFrame_keeps {s₀ s : State} {a1 a2} (h : s₀.Keeps s) : s₀.Keeps (State.portFrame s a1 a2) := by
  unfold State.portFrame
  repeat' first | with_reducible assumption | split | (extract_lets +onlyGivenNames x; refine State.Keeps.cut (p := s₀.Keeps x) ?_ ?_ <;> [(revert x; dsimp only); (intro hx; clear_value x; rename' x => y, hx => hy)]) | (extract_lets +onlyGivenNames x; clear_value x; rename' x => y) | fail_if_no_progress (with_reducible refine State.Keeps.put ?_ (by with_reducible rfl))
theorem State.sendPiece_keeps {s₀ s : State} {a1 a2 a3} (h : s₀.Keeps s) : s₀.Keeps (State.sendPiece s a1 a2 a3) := by
  unfold State.sendPiece
  repeat' first | with_reducible assumption | with_reducible apply State.setLink_keeps | with_reducible apply State.emit_keeps | (extract_lets +onlyGivenNames x; refine State.Keeps.cut (p := s₀.Keeps x) ?_ ?_ <;> [(revert x; dsimp only); (intro hx; clear_value x; rename' x => y, hx => hy)]) | (extract_lets +onlyGivenNames x; clear_value x; rename' x => y) | fail_if_no_progress (with_reducible refine State.Keeps.put ?_ (by with_reducible rfl))
theorem State.portFlit_keeps {s₀ s : State} {a1 a2 a3 a4} (h : s₀.Keeps s) : s₀.Keeps (State.portFlit s a1 a2 a3 a4) := by
  unfold State.portFlit
  repeat' first | with_reducible assumption | with_reducible apply State.spend_keeps | with_reducible apply State.sendPiece_keeps | with_reducible apply State.Keeps.foldl | (with_reducible intro) | split | (extract_lets +onlyGivenNames x; refine State.Keeps.cut (p := s₀.Keeps x) ?_ ?_ <;> [(revert x; dsimp only); (intro hx; clear_value x; rename' x => y, hx => hy)]) | (extract_lets +onlyGivenNames x; clear_value x; rename' x => y) | fail_if_no_progress (with_reducible refine State.Keeps.put ?_ (by with_reducible rfl))
theorem State.arriveFlit_keeps {s₀ s : State} {a1 a2 a3} (h : s₀.Keeps s) : s₀.Keeps (State.arriveFlit s a1 a2 a3) := by
  unfold State.arriveFlit
  repeat' first | with_reducible assumption | with_reducible apply State.fillArrive_keeps | with_reducible apply State.ringFlit_keeps | (with_reducible intro) | split | (extract_lets +onlyGivenNames x; refine State.Keeps.cut (p := s₀.Keeps x) ?_ ?_ <;> [(revert x; dsimp only); (intro hx; clear_value x; rename' x => y, hx => hy)]) | (extract_lets +onlyGivenNames x; clear_value x; rename' x => y) | fail_if_no_progress (with_reducible refine State.Keeps.put ?_ (by with_reducible rfl))
theorem State.forwardFlit_keeps {s₀ s : State} {a1} (h : s₀.Keeps s) : s₀.Keeps (State.forwardFlit s a1) := by
  unfold State.forwardFlit
  repeat' first | with_reducible assumption | with_reducible apply State.emit_keeps | with_reducible apply State.portFlit_keeps | with_reducible apply State.arriveFlit_keeps | (with_reducible intro) | split | (extract_lets +onlyGivenNames x; refine State.Keeps.cut (p := s₀.Keeps x) ?_ ?_ <;> [(revert x; dsimp only); (intro hx; clear_value x; rename' x => y, hx => hy)]) | (extract_lets +onlyGivenNames x; clear_value x; rename' x => y) | fail_if_no_progress (with_reducible refine State.Keeps.put ?_ (by with_reducible rfl))
theorem State.sourceFlit_keeps {s₀ s : State} {a1 a2 a3 a4} (h : s₀.Keeps s) : s₀.KeepsL (State.sourceFlit s a1 a2 a3 a4) := by
  unfold State.sourceFlit
  repeat' first | with_reducible assumption | with_reducible apply State.sendFlit_keeps | with_reducible apply State.fillFlit_keeps | with_reducible apply State.readFlit_keeps | with_reducible apply State.farFlit_keeps | split | with_reducible apply State.KeepsL.proj | with_reducible apply State.KeepsR.proj | with_reducible refine State.KeepsL.fst (by with_reducible assumption) ?_ | with_reducible refine State.KeepsR.snd (by with_reducible assumption) ?_ | with_reducible apply State.KeepsL.mk | with_reducible apply State.KeepsR.mk | fail_if_no_progress (with_reducible refine State.Keeps.put ?_ (by with_reducible rfl))
theorem State.captureConflict_keeps {s₀ s : State} {a1 a2 a3 a4 a5 a6} (h : s₀.Keeps s) : s₀.Keeps (State.captureConflict s a1 a2 a3 a4 a5 a6) := by
  unfold State.captureConflict
  repeat' first | with_reducible assumption | split | (extract_lets +onlyGivenNames x; clear_value x; rename' x => y) | fail_if_no_progress (with_reducible refine State.Keeps.put ?_ (by with_reducible rfl))
theorem State.conflictStop_keeps {s₀ s : State} {a1 a2 a3 a4 a5 a6} (h : s₀.Keeps s) : s₀.Keeps (State.conflictStop s a1 a2 a3 a4 a5 a6) := by
  unfold State.conflictStop
  repeat' first | with_reducible assumption | with_reducible apply State.record_keeps | with_reducible apply State.dropTask_keeps | with_reducible apply State.stopCtx_keeps | with_reducible apply State.Keeps.foldl | (with_reducible intro) | split
theorem State.presented_keeps {s₀ s : State} {a1 a2 a3 a4} (h : s₀.Keeps s) : s₀.KeepsL (State.presented s a1 a2 a3 a4) := by
  unfold State.presented
  repeat' first | with_reducible assumption | with_reducible apply State.sourceFlit_keeps | (with_reducible intro) | split | (extract_lets +onlyGivenNames x; refine State.Keeps.cut (p := s₀.Keeps x) ?_ ?_ <;> [(revert x; dsimp only); (intro hx; clear_value x; rename' x => y, hx => hy)]) | (extract_lets +onlyGivenNames x; refine State.Keeps.cut (p := s₀.KeepsL x) ?_ ?_ <;> [(revert x; dsimp only); (intro hx; clear_value x; rename' x => y, hx => hy)]) | (extract_lets +onlyGivenNames x; refine State.Keeps.cut (p := s₀.KeepsR x) ?_ ?_ <;> [(revert x; dsimp only); (intro hx; clear_value x; rename' x => y, hx => hy)]) | (extract_lets +onlyGivenNames x; clear_value x; rename' x => y) | with_reducible apply State.KeepsL.proj | with_reducible apply State.KeepsR.proj | with_reducible refine State.KeepsL.fst (by with_reducible assumption) ?_ | with_reducible refine State.KeepsR.snd (by with_reducible assumption) ?_ | with_reducible apply State.KeepsL.mk | with_reducible apply State.KeepsR.mk | fail_if_no_progress (with_reducible refine State.Keeps.put ?_ (by with_reducible rfl))
theorem State.passFlits_keeps {s₀ s : State} {a1 a2 a3 a4} (h : s₀.Keeps s) : s₀.Keeps (State.passFlits s a1 a2 a3 a4) := by
  unfold State.passFlits
  repeat' first | with_reducible assumption | with_reducible apply State.forwardFlit_keeps | with_reducible apply State.captureConflict_keeps | with_reducible apply State.conflictStop_keeps | with_reducible apply State.KeepsL.foldl | with_reducible apply State.KeepsR.foldl | with_reducible apply State.Keeps.foldl | (with_reducible intro) | split | (extract_lets +onlyGivenNames x; refine State.Keeps.cut (p := s₀.Keeps x) ?_ ?_ <;> [(revert x; dsimp only); (intro hx; clear_value x; rename' x => y, hx => hy)]) | (extract_lets +onlyGivenNames x; refine State.Keeps.cut (p := s₀.KeepsL x) ?_ ?_ <;> [(revert x; dsimp only); (intro hx; clear_value x; rename' x => y, hx => hy)]) | (extract_lets +onlyGivenNames x; refine State.Keeps.cut (p := s₀.KeepsR x) ?_ ?_ <;> [(revert x; dsimp only); (intro hx; clear_value x; rename' x => y, hx => hy)]) | (extract_lets +onlyGivenNames x; clear_value x; rename' x => y) | with_reducible apply State.KeepsL.proj | with_reducible apply State.KeepsR.proj | with_reducible refine State.KeepsL.fst (by with_reducible assumption) ?_ | with_reducible refine State.KeepsR.snd (by with_reducible assumption) ?_ | with_reducible apply State.KeepsL.mk | with_reducible apply State.KeepsR.mk | fail_if_no_progress (with_reducible refine State.Keeps.put ?_ (by with_reducible rfl))
theorem State.passSlot_keeps {s₀ s : State} {a1 a2 a3 a4} (h : s₀.Keeps s) : s₀.Keeps (State.passSlot s a1 a2 a3 a4) := by
  unfold State.passSlot
  repeat' first | with_reducible assumption | with_reducible apply State.portFrame_keeps | with_reducible apply State.presented_keeps | with_reducible apply State.passFlits_keeps | split | (extract_lets +onlyGivenNames x; refine State.Keeps.cut (p := s₀.Keeps x) ?_ ?_ <;> [(revert x; dsimp only); (intro hx; clear_value x; rename' x => y, hx => hy)]) | (extract_lets +onlyGivenNames x; refine State.Keeps.cut (p := s₀.KeepsL x) ?_ ?_ <;> [(revert x; dsimp only); (intro hx; clear_value x; rename' x => y, hx => hy)]) | (extract_lets +onlyGivenNames x; refine State.Keeps.cut (p := s₀.KeepsR x) ?_ ?_ <;> [(revert x; dsimp only); (intro hx; clear_value x; rename' x => y, hx => hy)]) | (extract_lets +onlyGivenNames x; clear_value x; rename' x => y) | with_reducible apply State.KeepsL.proj | with_reducible apply State.KeepsR.proj | with_reducible refine State.KeepsL.fst (by with_reducible assumption) ?_ | with_reducible refine State.KeepsR.snd (by with_reducible assumption) ?_ | with_reducible apply State.KeepsL.mk | with_reducible apply State.KeepsR.mk
theorem State.slotUpset_keeps {s₀ s : State} {a1 a2 a3} (h : s₀.Keeps s) : s₀.Keeps (State.slotUpset s a1 a2 a3) := by
  unfold State.slotUpset
  repeat' first | with_reducible assumption | with_reducible apply State.record_keeps | with_reducible apply State.abortCtx_keeps | split | (extract_lets +onlyGivenNames x; clear_value x; rename' x => y)
theorem State.tagUpset_keeps {s₀ s : State} {a1 a2 a3} (h : s₀.Keeps s) : s₀.Keeps (State.tagUpset s a1 a2 a3) := by
  unfold State.tagUpset
  repeat' first | with_reducible assumption | with_reducible apply State.presented_keeps | with_reducible apply State.slotUpset_keeps | with_reducible apply State.KeepsL.proj | with_reducible apply State.KeepsR.proj | with_reducible refine State.KeepsL.fst (by with_reducible assumption) ?_ | with_reducible refine State.KeepsR.snd (by with_reducible assumption) ?_ | with_reducible apply State.KeepsL.mk | with_reducible apply State.KeepsR.mk
theorem execFlitPassesChannel_keeps {s₀ s : State} {a0 a1 a2 a3 a4} (h : s₀.Keeps s) : s₀.KeepsO (execFlitPassesChannel a0 a1 a2 a3 a4 s) := by
  unfold execFlitPassesChannel
  repeat' first | with_reducible assumption | with_reducible apply State.KeepsO.next | with_reducible apply State.slotUpset_keeps | with_reducible apply State.tagUpset_keeps | with_reducible apply State.passSlot_keeps | (with_reducible intro) | split
theorem State.leaveBuffer_keeps {s₀ s : State} {a1} (h : s₀.Keeps s) : s₀.Keeps (State.leaveBuffer s a1) := by
  unfold State.leaveBuffer
  repeat' first | with_reducible assumption | with_reducible apply State.returnCredits_keeps | split
theorem State.enqueueOpen_keeps {s₀ s : State} {a1 a2} (h : s₀.Keeps s) : s₀.Keeps (State.enqueueOpen s a1 a2) := by
  unfold State.enqueueOpen
  repeat' first | with_reducible assumption | with_reducible apply State.leaveBuffer_keeps | with_reducible apply State.emit_keeps | split | fail_if_no_progress (with_reducible refine State.Keeps.put ?_ (by with_reducible rfl))
theorem State.discardOpen_keeps {s₀ s : State} {a1 a2} (h : s₀.Keeps s) : s₀.Keeps (State.discardOpen s a1 a2) := by
  unfold State.discardOpen
  repeat' first | with_reducible assumption | with_reducible apply State.record_keeps | with_reducible apply State.enqueueOpen_keeps | split | (extract_lets +onlyGivenNames x; refine State.Keeps.cut (p := s₀.Keeps x) ?_ ?_ <;> [(revert x; dsimp only); (intro hx; clear_value x; rename' x => y, hx => hy)]) | (extract_lets +onlyGivenNames x; clear_value x; rename' x => y)
theorem State.openPiece_keeps {s₀ s : State} {a1 a2} (h : s₀.Keeps s) : s₀.Keeps (State.openPiece s a1 a2) := by
  unfold State.openPiece
  repeat' first | with_reducible assumption | with_reducible apply State.discardOpen_keeps | with_reducible apply State.spend_keeps | with_reducible apply State.sendPiece_keeps | split | (extract_lets +onlyGivenNames x; refine State.Keeps.cut (p := s₀.Keeps x) ?_ ?_ <;> [(revert x; dsimp only); (intro hx; clear_value x; rename' x => y, hx => hy)]) | (extract_lets +onlyGivenNames x; clear_value x; rename' x => y) | fail_if_no_progress (with_reducible refine State.Keeps.put ?_ (by with_reducible rfl))
theorem State.serveFlit_keeps {s₀ s : State} {a1 a2 a3} (h : s₀.Keeps s) : s₀.Keeps (State.serveFlit s a1 a2 a3) := by
  unfold State.serveFlit
  repeat' first | with_reducible assumption | with_reducible apply State.discardOpen_keeps | with_reducible apply State.emit_keeps | with_reducible apply State.openPiece_keeps | split | (extract_lets +onlyGivenNames x; refine State.Keeps.cut (p := s₀.Keeps x) ?_ ?_ <;> [(revert x; dsimp only); (intro hx; clear_value x; rename' x => y, hx => hy)]) | (extract_lets +onlyGivenNames x; clear_value x; rename' x => y) | fail_if_no_progress (with_reducible refine State.Keeps.put ?_ (by with_reducible rfl))
theorem State.openSlot_keeps {s₀ s : State} {a1 a2 a3} (h : s₀.Keeps s) : s₀.Keeps (State.openSlot s a1 a2 a3) := by
  unfold State.openSlot
  repeat' first | with_reducible assumption | with_reducible apply State.leaveBuffer_keeps | with_reducible apply State.serveFlit_keeps | (with_reducible intro) | split | (extract_lets +onlyGivenNames x; refine State.Keeps.cut (p := s₀.Keeps x) ?_ ?_ <;> [(revert x; dsimp only); (intro hx; clear_value x; rename' x => y, hx => hy)]) | (extract_lets +onlyGivenNames x; clear_value x; rename' x => y) | fail_if_no_progress (with_reducible refine State.Keeps.put ?_ (by with_reducible rfl))
theorem State.routeFault_keeps {s₀ s : State} {a1} (h : s₀.Keeps s) : s₀.Keeps (State.routeFault s a1) := by
  unfold State.routeFault
  repeat' first | with_reducible assumption | with_reducible apply State.tableFault_keeps | (with_reducible intro) | split | fail_if_no_progress (with_reducible refine State.Keeps.put ?_ (by with_reducible rfl))
theorem execOpenPacketHop_keeps {s₀ s : State} {a0 a1 a2 a3 a4} (h : s₀.Keeps s) : s₀.KeepsO (execOpenPacketHop a0 a1 a2 a3 a4 s) := by
  unfold execOpenPacketHop
  repeat' first | with_reducible assumption | with_reducible apply State.KeepsO.next | with_reducible apply State.routeFault_keeps | with_reducible apply State.openSlot_keeps | (with_reducible intro) | split | (extract_lets +onlyGivenNames x; refine State.Keeps.cut (p := s₀.Keeps x) ?_ ?_ <;> [(revert x; dsimp only); (intro hx; clear_value x; rename' x => y, hx => hy)]) | (extract_lets +onlyGivenNames x; refine State.Keeps.cut (p := s₀.root.fuses.Kept x.fuses) ?_ ?_ <;> [(revert x; dsimp only); (intro hx; clear_value x; rename' x => y, hx => hy)]) | (extract_lets +onlyGivenNames x; clear_value x; rename' x => y) | with_reducible apply State.Keeps.fuses | with_reducible refine State.Keeps.putRoot ?_ (by with_reducible assumption) | fail_if_no_progress (with_reducible refine State.Keeps.put ?_ (by with_reducible rfl))
theorem State.logCopies_keeps {s₀ s : State} {a1} (h : s₀.Keeps s) : s₀.Keeps (State.logCopies s a1) := by
  unfold State.logCopies
  repeat' first | with_reducible assumption | with_reducible apply State.memWrite_keeps | split | (extract_lets +onlyGivenNames x; refine State.Keeps.cut (p := s₀.Keeps x) ?_ ?_ <;> [(revert x; dsimp only); (intro hx; clear_value x; rename' x => y, hx => hy)]) | (extract_lets +onlyGivenNames x; refine State.Keeps.cut (p := s₀.root.fuses.Kept x.fuses) ?_ ?_ <;> [(revert x; dsimp only); (intro hx; clear_value x; rename' x => y, hx => hy)]) | (extract_lets +onlyGivenNames x; clear_value x; rename' x => y)
theorem State.logRecord_keeps {s₀ s : State} {a1} (h : s₀.Keeps s) : s₀.Keeps (State.logRecord s a1) := by
  unfold State.logRecord
  dsimp only
  repeat' first | with_reducible assumption | with_reducible apply State.emit_keeps | with_reducible apply State.modCtx_keeps | with_reducible apply State.notify_keeps | with_reducible apply State.logCopies_keeps | split | with_reducible apply State.Keeps.fuses | with_reducible refine State.Keeps.putRoot ?_ (by with_reducible assumption) | fail_if_no_progress (with_reducible refine State.Keeps.put ?_ (by with_reducible rfl))
theorem execErrorRecordArrival_keeps {s₀ s : State} (h : s₀.Keeps s) : s₀.KeepsO (execErrorRecordArrival s) := by
  unfold execErrorRecordArrival
  repeat' first | with_reducible assumption | with_reducible apply State.KeepsO.next | with_reducible apply State.logRecord_keeps | split | fail_if_no_progress (with_reducible refine State.Keeps.put ?_ (by with_reducible rfl))

end Sys2Proof.Machine
end

