-- ==== Sys2Proof/Laws/KeepsPlace.lean ====
section
/-! SUPPORT. What the operations of loading and restoring leave as they were. -/

namespace Sys2Proof.Machine

theorem State.allocRun_keeps {s₀ s : State} {a1 a2 a3 a4} (h : s₀.Keeps s) : s₀.KeepsQ (s.allocRun a1 a2 a3 a4) := by
  unfold State.allocRun
  intro p e
  obtain ⟨f, -, rfl⟩ := Option.map_eq_some_iff.mp e
  exact State.KeepsL.proj (State.KeepsL.mk (State.followPartition_keeps (State.modFrames_keeps h)))
theorem State.placeShards_keeps {s₀ s : State} {a1 a2 a3} (h : s₀.Keeps s) : s₀.KeepsP (State.placeShards s a1 a2 a3) := by
  induction a3 generalizing s  with
  | nil =>
    unfold State.placeShards
    repeat' first | with_reducible assumption | exact State.KeepsP.none | with_reducible apply State.KeepsP.some
  | cons x xs ih =>
    unfold State.placeShards
    repeat' first | with_reducible assumption | with_reducible apply ih | exact State.KeepsP.none | with_reducible apply State.KeepsP.some | with_reducible apply State.modCtx_keeps | with_reducible apply State.allocRun_keeps | with_reducible refine State.KeepsQ.map ?_ ?_ | (with_reducible intro) | split | with_reducible refine State.KeepsQ.get (by with_reducible assumption) ?_
theorem State.placeRegions_keeps {s₀ s : State} {a1 a2} (h : s₀.Keeps s) : s₀.KeepsP (State.placeRegions s a1 a2) := by
  induction a2 generalizing s  with
  | nil =>
    unfold State.placeRegions
    repeat' first | with_reducible assumption | exact State.KeepsP.none | with_reducible apply State.KeepsP.some
  | cons x xs ih =>
    unfold State.placeRegions
    repeat' first | with_reducible assumption | with_reducible apply ih | exact State.KeepsP.none | with_reducible apply State.KeepsP.some | with_reducible apply State.modCtx_keeps | with_reducible apply State.drawn_keeps | with_reducible apply State.setRegion_keeps | with_reducible apply State.openVersion_keeps | with_reducible apply State.publish_keeps | with_reducible refine State.KeepsP.map ?_ ?_ | (with_reducible intro) | with_reducible apply State.KeepsP.getD | split | (extract_lets +onlyGivenNames x; refine State.Keeps.cut (p := s₀.Keeps x) ?_ ?_ <;> [(revert x; dsimp only); (intro hx; clear_value x; rename' x => y, hx => hy)]) | (extract_lets +onlyGivenNames x; clear_value x; rename' x => y) | with_reducible refine State.KeepsP.get (by with_reducible assumption) ?_
theorem State.placeQueues_keeps {s₀ s : State} {a1 a2} (h : s₀.Keeps s) : s₀.KeepsP (State.placeQueues s a1 a2) := by
  induction a2 generalizing s  with
  | nil =>
    unfold State.placeQueues
    repeat' first | with_reducible assumption | exact State.KeepsP.none | with_reducible apply State.KeepsP.some
  | cons x xs ih =>
    unfold State.placeQueues
    repeat' first | with_reducible assumption | with_reducible apply ih | exact State.KeepsP.none | with_reducible apply State.KeepsP.some | with_reducible apply State.modCtx_keeps | with_reducible apply State.allocRun_keeps | with_reducible refine State.KeepsQ.map ?_ ?_ | (with_reducible intro) | split | with_reducible refine State.KeepsQ.get (by with_reducible assumption) ?_ | fail_if_no_progress (with_reducible refine State.Keeps.put ?_ (by with_reducible rfl))
theorem State.placeCqs_keeps {s₀ s : State} {a1 a2} (h : s₀.Keeps s) : s₀.KeepsP (State.placeCqs s a1 a2) := by
  induction a2 generalizing s  with
  | nil =>
    unfold State.placeCqs
    repeat' first | with_reducible assumption | exact State.KeepsP.none | with_reducible apply State.KeepsP.some
  | cons x xs ih =>
    unfold State.placeCqs
    repeat' first | with_reducible assumption | with_reducible apply ih | exact State.KeepsP.none | with_reducible apply State.KeepsP.some | with_reducible apply State.modCtx_keeps | with_reducible apply State.allocRun_keeps | with_reducible refine State.KeepsQ.map ?_ ?_ | (with_reducible intro) | split | with_reducible refine State.KeepsQ.get (by with_reducible assumption) ?_
theorem State.placeReplay_keeps {s₀ s : State} {a1 a2} (h : s₀.Keeps s) : s₀.KeepsP (State.placeReplay s a1 a2) := by
  induction a2 generalizing s  with
  | nil =>
    unfold State.placeReplay
    repeat' first | with_reducible assumption | exact State.KeepsP.none | with_reducible apply State.KeepsP.some
  | cons x xs ih =>
    unfold State.placeReplay
    repeat' first | with_reducible assumption | with_reducible apply ih | exact State.KeepsP.none | with_reducible apply State.KeepsP.some | with_reducible apply State.modCtx_keeps | with_reducible apply State.allocRun_keeps | with_reducible refine State.KeepsQ.map ?_ ?_ | (with_reducible intro) | split | with_reducible refine State.KeepsQ.get (by with_reducible assumption) ?_
theorem State.placeAdm_keeps {s₀ s : State} {a1 a2} (h : s₀.Keeps s) : s₀.KeepsP (State.placeAdm s a1 a2) := by
  unfold State.placeAdm
  repeat' first | with_reducible assumption | exact State.KeepsP.none | with_reducible apply State.KeepsP.some | with_reducible apply State.modCtx_keeps | with_reducible apply State.allocRun_keeps | with_reducible refine State.KeepsQ.map ?_ ?_ | (with_reducible intro) | split
theorem State.placeMirror_keeps {s₀ s : State} {a1 a2 a3} (h : s₀.Keeps s) : s₀.KeepsP (State.placeMirror s a1 a2 a3) := by
  unfold State.placeMirror
  repeat' first | with_reducible assumption | exact State.KeepsP.none | with_reducible apply State.KeepsP.some | with_reducible apply State.modCtx_keeps | with_reducible apply State.allocRun_keeps | with_reducible refine State.KeepsQ.map ?_ ?_ | (with_reducible intro) | split | (extract_lets +onlyGivenNames x; clear_value x; rename' x => y)
theorem State.placeFwds_keeps {s₀ s : State} {a1 a2} (h : s₀.Keeps s) : s₀.Keeps (State.placeFwds s a1 a2) := by
  unfold State.placeFwds
  repeat' first | with_reducible assumption | with_reducible apply State.modCtx_keeps | with_reducible apply State.Keeps.foldl | (with_reducible intro) | split | (extract_lets +onlyGivenNames x; clear_value x; rename' x => y)
theorem State.placeCtrs_keeps {s₀ s : State} {a1 a2} (h : s₀.Keeps s) : s₀.Keeps (State.placeCtrs s a1 a2) := by
  unfold State.placeCtrs
  repeat' first | with_reducible assumption | with_reducible apply State.modCtx_keeps | with_reducible apply State.setCtr_keeps | with_reducible apply State.Keeps.foldl | (with_reducible intro) | split | (extract_lets +onlyGivenNames x; clear_value x; rename' x => y)
theorem State.writeFwds_keeps {s₀ s : State} {a1 a2 a3} (h : s₀.Keeps s) : s₀.Keeps (State.writeFwds s a1 a2 a3) := by
  unfold State.writeFwds
  repeat' first | with_reducible assumption | with_reducible apply State.Keeps.foldl | (with_reducible intro) | split | fail_if_no_progress (with_reducible refine State.Keeps.put ?_ (by with_reducible rfl))
theorem State.placeBars_keeps {s₀ s : State} {a1 a2 a3} (h : s₀.Keeps s) : s₀.Keeps (State.placeBars s a1 a2 a3) := by
  unfold State.placeBars
  repeat' first | with_reducible assumption | with_reducible apply State.Keeps.foldl | (with_reducible intro) | (extract_lets +onlyGivenNames x; clear_value x; rename' x => y) | fail_if_no_progress (with_reducible refine State.Keeps.put ?_ (by with_reducible rfl))
theorem State.placeWindows_keeps {s₀ s : State} {a1 a2} (h : s₀.Keeps s) : s₀.Keeps (State.placeWindows s a1 a2) := by
  unfold State.placeWindows
  repeat' first | with_reducible assumption | with_reducible apply State.modCtx_keeps | with_reducible apply State.setCore_keeps | with_reducible apply State.Keeps.foldl | (with_reducible intro)
theorem State.placeSched_keeps {s₀ s : State} {a1 a2} (h : s₀.Keeps s) : s₀.Keeps (State.placeSched s a1 a2) := by
  unfold State.placeSched
  repeat' first | with_reducible assumption | with_reducible apply State.setSlotEntry_keeps | with_reducible apply State.Keeps.foldl | (with_reducible intro) | (extract_lets +onlyGivenNames x; refine State.Keeps.cut (p := s₀.Keeps x) ?_ ?_ <;> [(revert x; dsimp only); (intro hx; clear_value x; rename' x => y, hx => hy)]) | (extract_lets +onlyGivenNames x; clear_value x; rename' x => y) | fail_if_no_progress (with_reducible refine State.Keeps.put ?_ (by with_reducible rfl))
theorem State.placeProg_keeps {s₀ s : State} {a1 a2 a3 a4 a5} (h : s₀.Keeps s) : s₀.KeepsP (State.placeProg s a1 a2 a3 a4 a5) := by
  unfold State.placeProg
  repeat' first | with_reducible assumption | exact State.KeepsP.none | with_reducible apply State.KeepsP.some | with_reducible apply State.modCtx_keeps | with_reducible apply State.placeShards_keeps | with_reducible apply State.placeRegions_keeps | with_reducible apply State.placeQueues_keeps | with_reducible apply State.placeCqs_keeps | with_reducible apply State.placeReplay_keeps | with_reducible apply State.placeAdm_keeps | with_reducible apply State.placeSched_keeps | with_reducible apply State.placeWindows_keeps | with_reducible apply State.placeBars_keeps | with_reducible apply State.placeCtrs_keeps | with_reducible apply State.placeFwds_keeps | with_reducible apply State.grantLocal_keeps | with_reducible apply State.writeFwds_keeps | with_reducible apply State.placeMirror_keeps | (with_reducible intro) | with_reducible refine State.KeepsP.map ?_ ?_ | (with_reducible intro) | with_reducible apply State.KeepsP.getD | split | (extract_lets +onlyGivenNames x; refine State.Keeps.cut (p := s₀.Keeps x) ?_ ?_ <;> [(revert x; dsimp only); (intro hx; clear_value x; rename' x => y, hx => hy)]) | (extract_lets +onlyGivenNames x; clear_value x; rename' x => y) | with_reducible refine State.KeepsP.get (by with_reducible assumption) ?_
theorem State.clearStreams_keeps {s₀ s : State} {a1} (h : s₀.Keeps s) : s₀.Keeps (State.clearStreams s a1) := by
  unfold State.clearStreams
  repeat' first | with_reducible assumption | with_reducible apply State.setCore_keeps | with_reducible apply State.written_keeps | with_reducible apply State.Keeps.foldl | (with_reducible intro) | split | (extract_lets +onlyGivenNames x; refine State.Keeps.cut (p := s₀.Keeps x) ?_ ?_ <;> [(revert x; dsimp only); (intro hx; clear_value x; rename' x => y, hx => hy)]) | (extract_lets +onlyGivenNames x; clear_value x; rename' x => y) | fail_if_no_progress (with_reducible refine State.Keeps.put ?_ (by with_reducible rfl))
theorem State.resetBars_keeps {s₀ s : State} {a1} (h : s₀.Keeps s) : s₀.Keeps (State.resetBars s a1) := by
  unfold State.resetBars
  repeat' first | with_reducible assumption | split | (extract_lets +onlyGivenNames x; clear_value x; rename' x => y) | fail_if_no_progress (with_reducible refine State.Keeps.put ?_ (by with_reducible rfl))
theorem State.openCommitPub_keeps {s₀ s : State} {a1} (h : s₀.Keeps s) : s₀.KeepsL (State.openCommitPub s a1) := by
  unfold State.openCommitPub
  repeat' first | with_reducible assumption | with_reducible apply State.KeepsL.proj | with_reducible apply State.KeepsL.foldl | with_reducible apply State.openVersion_keeps | with_reducible apply State.Keeps.foldl | (with_reducible intro) | with_reducible apply State.KeepsP.getD | split | with_reducible refine State.KeepsP.get (by with_reducible assumption) ?_ | with_reducible apply State.KeepsL.mk
theorem State.restoreState_keeps {s₀ s : State} {a1} (h : s₀.Keeps s) : s₀.Keeps (State.restoreState s a1) := by
  unfold State.restoreState
  repeat' first | with_reducible assumption | with_reducible apply State.discardPending_keeps | with_reducible apply State.openCommitPub_keeps | with_reducible apply State.clearStreams_keeps | with_reducible apply State.writeCounters_keeps | with_reducible apply State.resetBars_keeps | with_reducible apply State.modCtx_keeps | with_reducible apply State.Keeps.foldl | with_reducible apply State.KeepsL.foldl | (with_reducible intro) | split | with_reducible apply State.KeepsL.proj | with_reducible refine State.KeepsL.fst (by with_reducible assumption) ?_ | with_reducible apply State.KeepsL.mk | fail_if_no_progress (with_reducible refine State.Keeps.put ?_ (by with_reducible rfl))
theorem State.switchQueues_keeps {s₀ s : State} {a1 a2} (h : s₀.Keeps s) : s₀.Keeps (State.switchQueues s a1 a2) := by
  unfold State.switchQueues
  repeat' first | with_reducible assumption | with_reducible apply State.KeepsL.proj | with_reducible apply State.KeepsL.foldl | with_reducible apply State.modCtx_keeps | with_reducible apply State.Keeps.foldl | (with_reducible intro) | split | (extract_lets +onlyGivenNames x; refine State.Keeps.cut (p := s₀.Keeps x) ?_ ?_ <;> [(revert x; dsimp only); (intro hx; clear_value x; rename' x => y, hx => hy)]) | (extract_lets +onlyGivenNames x; clear_value x; rename' x => y) | (dsimp only [id_eq]) | with_reducible apply State.KeepsL.mk | fail_if_no_progress (with_reducible refine State.Keeps.put ?_ (by with_reducible rfl))
theorem State.loadSched_keeps {s₀ s : State} {a1 a2} (h : s₀.Keeps s) : s₀.Keeps (State.loadSched s a1 a2) := by
  unfold State.loadSched
  repeat' first | with_reducible assumption | with_reducible apply State.releaseSlots_keeps | with_reducible apply State.releaseNet_keeps | with_reducible apply State.switchQueues_keeps | with_reducible apply State.modCtx_keeps | with_reducible apply State.placeSched_keeps | split
theorem execLoadBegin_keeps {s₀ s : State} {a0 a1 a2 a3} (h : s₀.Keeps s) : s₀.KeepsO (execLoadBegin a0 a1 a2 a3 s) := by
  unfold execLoadBegin
  repeat' first | with_reducible assumption | with_reducible apply State.KeepsO.next | with_reducible apply State.command_keeps | with_reducible apply State.sawFn_keeps | with_reducible apply State.cmdDone_keeps | with_reducible apply State.freeImage_keeps | with_reducible apply State.allocRun_keeps | with_reducible apply State.modCtx_keeps | (with_reducible intro) | split | (extract_lets +onlyGivenNames x; refine State.Keeps.cut (p := s₀.Keeps x) ?_ ?_ <;> [(revert x; dsimp only); (intro hx; clear_value x; rename' x => y, hx => hy)]) | (extract_lets +onlyGivenNames x; clear_value x; rename' x => y) | with_reducible refine State.KeepsQ.get (by with_reducible assumption) ?_ | fail_if_no_progress (with_reducible refine State.Keeps.put ?_ (by with_reducible rfl))
theorem State.refuseLoad_keeps {s₀ s : State} {a1 a2} (h : s₀.Keeps s) : s₀.Keeps (State.refuseLoad s a1 a2) := by
  unfold State.refuseLoad
  repeat' first | with_reducible assumption | with_reducible apply State.cmdDone_keeps | with_reducible apply State.modCtx_keeps
theorem State.announce_keeps {s₀ s : State} {a1 a2 a3} (h : s₀.Keeps s) : s₀.Keeps (State.announce s a1 a2 a3) := by
  unfold State.announce
  repeat' first | with_reducible assumption | with_reducible apply State.send_keeps | split
theorem State.finishLoad_keeps {s₀ s : State} {a1} (h : s₀.Keeps s) : s₀.Keeps (State.finishLoad s a1) := by
  unfold State.finishLoad
  repeat' first | with_reducible assumption | with_reducible apply State.KeepsL.proj | with_reducible apply State.KeepsL.foldl | with_reducible apply State.devWrite_keeps | with_reducible apply State.modCtx_keeps | with_reducible apply State.cmdDone_keeps | with_reducible apply State.announce_keeps | with_reducible apply State.Keeps.foldl | (with_reducible intro) | split | with_reducible apply State.KeepsL.mk | fail_if_no_progress (with_reducible refine State.Keeps.put ?_ (by with_reducible rfl))
theorem State.startLoad_keeps {s₀ s : State} {a1 a2 a3 f4} (h : s₀.Keeps s) (hf4 : ∀ s, s₀.Keeps s → s₀.Keeps (f4 s)) : s₀.Keeps (State.startLoad s a1 a2 a3 f4) := by
  unfold State.startLoad
  repeat' first | with_reducible assumption | with_reducible apply hf4 | with_reducible apply State.placeProg_keeps | with_reducible apply State.refuseLoad_keeps | with_reducible apply State.modCtx_keeps | with_reducible apply State.finishLoad_keeps | with_reducible apply State.askHolders_keeps | with_reducible apply State.Keeps.foldl | (with_reducible intro) | with_reducible apply State.KeepsP.getD | split | (extract_lets +onlyGivenNames x; refine State.Keeps.cut (p := s₀.Keeps x) ?_ ?_ <;> [(revert x; dsimp only); (intro hx; clear_value x; rename' x => y, hx => hy)]) | (extract_lets +onlyGivenNames x; clear_value x; rename' x => y) | with_reducible refine State.KeepsP.get (by with_reducible assumption) ?_
theorem execLoad_keeps {s₀ s : State} {a0 a1 a2 a3} (h : s₀.Keeps s) : s₀.KeepsO (execLoad a0 a1 a2 a3 s) := by
  unfold execLoad
  repeat' first | with_reducible assumption | with_reducible apply State.KeepsO.next | with_reducible apply State.command_keeps | with_reducible apply State.cmdDone_keeps | with_reducible apply State.refuseLoad_keeps | with_reducible apply State.startLoad_keeps | (with_reducible intro) | split | (extract_lets +onlyGivenNames x; clear_value x; rename' x => y) | (dsimp only [id_eq])
theorem State.applySave_keeps {s₀ s : State} {a1 a2} (h : s₀.Keeps s) : s₀.Keeps (State.applySave s a1 a2) := by
  unfold State.applySave
  repeat' first | with_reducible assumption | with_reducible apply State.writeCounters_keeps | with_reducible apply State.resetBars_keeps | with_reducible apply State.setRegion_keeps | with_reducible apply State.modCtx_keeps | with_reducible apply State.Keeps.foldl | (with_reducible intro) | split
theorem execRestore_keeps {s₀ s : State} {a0 a1 a2 a3} (h : s₀.Keeps s) : s₀.KeepsO (execRestore a0 a1 a2 a3 s) := by
  unfold execRestore
  repeat' first | with_reducible assumption | with_reducible apply State.KeepsO.next | with_reducible apply State.command_keeps | with_reducible apply State.cmdDone_keeps | with_reducible apply State.refuseLoad_keeps | with_reducible apply State.startLoad_keeps | with_reducible apply State.applySave_keeps | (with_reducible intro) | split | (extract_lets +onlyGivenNames x; clear_value x; rename' x => y)
theorem State.sharedCurrent_keeps {s₀ s : State} {a1 a2} (h : s₀.Keeps s) : s₀.Keeps (State.sharedCurrent s a1 a2) := by
  unfold State.sharedCurrent
  repeat' first | with_reducible assumption | with_reducible apply State.publish_keeps | with_reducible apply State.modCtx_keeps | with_reducible apply State.finishLoad_keeps | with_reducible apply State.Keeps.foldl | (with_reducible intro) | split | (extract_lets +onlyGivenNames x; refine State.Keeps.cut (p := s₀.Keeps x) ?_ ?_ <;> [(revert x; dsimp only); (intro hx; clear_value x; rename' x => y, hx => hy)]) | (extract_lets +onlyGivenNames x; clear_value x; rename' x => y) | fail_if_no_progress (with_reducible refine State.Keeps.put ?_ (by with_reducible rfl))
theorem State.fetchShared_keeps {s₀ s : State} {a1 a2 a3 a4 a5 a6} (h : s₀.Keeps s) : s₀.Keeps (State.fetchShared s a1 a2 a3 a4 a5 a6) := by
  induction a5 generalizing s a1 a2 a3 a4 a6 with
  | zero =>
    unfold State.fetchShared
    repeat' first | with_reducible assumption | with_reducible apply ih | with_reducible apply State.askHolders_keeps | with_reducible apply State.devWrite_keeps | with_reducible apply State.sharedCurrent_keeps | with_reducible apply State.record_keeps | split | (extract_lets +onlyGivenNames x; refine State.Keeps.cut (p := s₀.Keeps x) ?_ ?_ <;> [(revert x; dsimp only); (intro hx; clear_value x; rename' x => y, hx => hy)]) | (extract_lets +onlyGivenNames x; clear_value x; rename' x => y) | fail_if_no_progress (with_reducible refine State.Keeps.put ?_ (by with_reducible rfl))
  | succ x ih =>
    unfold State.fetchShared
    repeat' first | with_reducible assumption | with_reducible apply ih | with_reducible apply State.askHolders_keeps | with_reducible apply State.devWrite_keeps | with_reducible apply State.sharedCurrent_keeps | with_reducible apply State.record_keeps | split | (extract_lets +onlyGivenNames x; refine State.Keeps.cut (p := s₀.Keeps x) ?_ ?_ <;> [(revert x; dsimp only); (intro hx; clear_value x; rename' x => y, hx => hy)]) | (extract_lets +onlyGivenNames x; clear_value x; rename' x => y) | fail_if_no_progress (with_reducible refine State.Keeps.put ?_ (by with_reducible rfl))
theorem execSharedRegionFetchComplete_keeps {s₀ s : State} {a0 a1 a2 a3} (h : s₀.Keeps s) : s₀.KeepsO (execSharedRegionFetchComplete a0 a1 a2 a3 s) := by
  unfold execSharedRegionFetchComplete
  repeat' first | with_reducible assumption | with_reducible apply State.KeepsO.next | with_reducible apply State.fetchShared_keeps | with_reducible apply State.devWrite_keeps | with_reducible apply State.sharedCurrent_keeps | with_reducible apply State.askHolders_keeps | (with_reducible intro) | split | (extract_lets +onlyGivenNames x; refine State.Keeps.cut (p := s₀.Keeps x) ?_ ?_ <;> [(revert x; dsimp only); (intro hx; clear_value x; rename' x => y, hx => hy)]) | (extract_lets +onlyGivenNames x; clear_value x; rename' x => y) | fail_if_no_progress (with_reducible refine State.Keeps.put ?_ (by with_reducible rfl))
theorem execRegionHolderQuery_keeps {s₀ s : State} {a0 a1} (h : s₀.Keeps s) : s₀.KeepsO (execRegionHolderQuery a0 a1 s) := by
  unfold execRegionHolderQuery
  repeat' first | with_reducible assumption | with_reducible apply State.KeepsO.next | with_reducible apply State.send_keeps | split
theorem execMemberAnnouncement_keeps {s₀ s : State} {a0 a1} (h : s₀.Keeps s) : s₀.KeepsO (execMemberAnnouncement a0 a1 s) := by
  unfold execMemberAnnouncement
  repeat' first | with_reducible assumption | with_reducible apply State.KeepsO.next | with_reducible apply State.modCtx_keeps | with_reducible apply State.writeFwds_keeps | with_reducible apply State.grantMember_keeps | with_reducible apply State.announce_keeps | split | (extract_lets +onlyGivenNames x; clear_value x; rename' x => y)

end Sys2Proof.Machine
end

