-- ==== Sys2Proof/Laws/KeepsLife.lean ====
section
/-! SUPPORT. What the operations of the life of a context leave as they were. -/

namespace Sys2Proof.Machine

theorem execCtxDoorbell_keeps {s₀ s : State} {a0 a1 a2} (h : s₀.Keeps s) : s₀.KeepsO (execCtxDoorbell a0 a1 a2 s) := by
  unfold execCtxDoorbell
  repeat' first | with_reducible assumption | with_reducible apply State.KeepsO.next | with_reducible apply State.blkErr_keeps | split | (dsimp only [id_eq]) | fail_if_no_progress (with_reducible refine State.Keeps.put ?_ (by with_reducible rfl))
theorem execCollectiveQueueTail_keeps {s₀ s : State} {a0 a1 a2 a3} (h : s₀.Keeps s) : s₀.KeepsO (execCollectiveQueueTail a0 a1 a2 a3 s) := by
  unfold execCollectiveQueueTail
  repeat' first | with_reducible assumption | with_reducible apply State.KeepsO.next | with_reducible apply State.blkErr_keeps | with_reducible apply State.modCtx_keeps | split
theorem execCtxRcptReadAdvance_keeps {s₀ s : State} {a0 a1 a2} (h : s₀.Keeps s) : s₀.KeepsO (execCtxRcptReadAdvance a0 a1 a2 s) := by
  unfold execCtxRcptReadAdvance
  repeat' first | with_reducible assumption | with_reducible apply State.KeepsO.next | with_reducible apply State.blkErr_keeps | with_reducible apply State.modCtx_keeps | split | (extract_lets +onlyGivenNames x; clear_value x; rename' x => y)
theorem execUnload_keeps {s₀ s : State} {a0 a1 a2 a3} (h : s₀.Keeps s) : s₀.KeepsO (execUnload a0 a1 a2 a3 s) := by
  unfold execUnload
  repeat' first | with_reducible assumption | with_reducible apply State.KeepsO.next | with_reducible apply State.command_keeps | with_reducible apply State.cmdDone_keeps | with_reducible apply State.startUnload_keeps | (with_reducible intro) | split
theorem execUnloadDrainLimit_keeps {s₀ s : State} {a0} (h : s₀.Keeps s) : s₀.KeepsO (execUnloadDrainLimit a0 s) := by
  unfold execUnloadDrainLimit
  repeat' first | with_reducible assumption | with_reducible apply State.KeepsO.next | with_reducible apply State.finishUnload_keeps | with_reducible apply State.endTask_keeps | with_reducible apply State.endTaskBy_keeps | with_reducible apply State.Keeps.foldl | (with_reducible intro) | split
theorem State.initialBoundary_keeps {s₀ s : State} {a1} (h : s₀.Keeps s) : s₀.Keeps (State.initialBoundary s a1) := by
  unfold State.initialBoundary
  repeat' first | with_reducible assumption | with_reducible apply State.takeSnapshot_keeps | with_reducible apply State.openCommitPub_keeps | with_reducible apply State.modCtx_keeps | with_reducible apply State.KeepsL.proj
theorem State.resumeNow_keeps {s₀ s : State} {a1} (h : s₀.Keeps s) : s₀.Keeps (State.resumeNow s a1) := by
  unfold State.resumeNow
  repeat' first | with_reducible assumption | with_reducible apply State.modCtx_keeps | with_reducible apply State.notify_keeps | with_reducible apply State.cmdDone_keeps | split | (extract_lets +onlyGivenNames x; refine State.Keeps.cut (p := s₀.Keeps x) ?_ ?_ <;> [(revert x; dsimp only); (intro hx; clear_value x; rename' x => y, hx => hy)])
theorem State.resumeIfFree_keeps {s₀ s : State} {a1} (h : s₀.Keeps s) : s₀.Keeps (State.resumeIfFree s a1) := by
  unfold State.resumeIfFree
  repeat' first | with_reducible assumption | with_reducible apply State.sendAll_keeps | with_reducible apply State.modCtx_keeps | with_reducible apply State.beginRestart_keeps | with_reducible apply State.resumeNow_keeps | split
theorem execResume_keeps {s₀ s : State} {a0 a1 a2 a3} (h : s₀.Keeps s) : s₀.KeepsO (execResume a0 a1 a2 a3 s) := by
  unfold execResume
  repeat' first | with_reducible assumption | with_reducible apply State.KeepsO.next | with_reducible apply State.command_keeps | with_reducible apply State.cmdDone_keeps | with_reducible apply State.modCtx_keeps | with_reducible apply State.initialBoundary_keeps | with_reducible apply State.resumeIfFree_keeps | with_reducible apply State.endSource_keeps | (with_reducible intro) | split | (extract_lets +onlyGivenNames x; refine State.Keeps.cut (p := s₀.Keeps x) ?_ ?_ <;> [(revert x; dsimp only); (intro hx; clear_value x; rename' x => y, hx => hy)]) | (extract_lets +onlyGivenNames x; clear_value x; rename' x => y)
theorem execYield_keeps {s₀ s : State} {a0 a1 a2 a3} (h : s₀.Keeps s) : s₀.KeepsO (execYield a0 a1 a2 a3 s) := by
  unfold execYield
  repeat' first | with_reducible assumption | with_reducible apply State.KeepsO.next | with_reducible apply State.command_keeps | with_reducible apply State.cmdDone_keeps | with_reducible apply State.yieldRequest_keeps | (with_reducible intro) | split
theorem execYieldNFall_keeps {s₀ s : State} (h : s₀.Keeps s) : s₀.KeepsO (execYieldNFall s) := by
  unfold execYieldNFall
  repeat' first | with_reducible assumption | with_reducible apply State.KeepsO.next | with_reducible apply State.yieldRequest_keeps | with_reducible apply State.Keeps.foldl | (with_reducible intro) | split | (extract_lets +onlyGivenNames x; clear_value x; rename' x => y) | fail_if_no_progress (with_reducible refine State.Keeps.put ?_ (by with_reducible rfl))
theorem execYieldNRise_keeps {s₀ s : State} (h : s₀.Keeps s) : s₀.KeepsO (execYieldNRise s) := by
  unfold execYieldNRise
  repeat' first | with_reducible assumption | with_reducible apply State.KeepsO.next | with_reducible apply State.resumeIfFree_keeps | with_reducible apply State.endSource_keeps | with_reducible apply State.modCtx_keeps | with_reducible apply State.Keeps.foldl | (with_reducible intro) | (extract_lets +onlyGivenNames x; clear_value x; rename' x => y) | fail_if_no_progress (with_reducible refine State.Keeps.put ?_ (by with_reducible rfl))
theorem execYieldMessage_keeps {s₀ s : State} {a0 a1 a2 a3 a4 a5} (h : s₀.Keeps s) : s₀.KeepsO (execYieldMessage a0 a1 a2 a3 a4 a5 s) := by
  unfold execYieldMessage
  repeat' first | with_reducible assumption | with_reducible apply State.KeepsO.next | with_reducible apply State.discard_keeps | with_reducible apply State.modCtx_keeps | with_reducible apply State.setPoint_keeps | split | (extract_lets +onlyGivenNames x; refine State.Keeps.cut (p := s₀.Keeps x) ?_ ?_ <;> [(revert x; dsimp only); (intro hx; clear_value x; rename' x => y, hx => hy)])
theorem execResumeMessage_keeps {s₀ s : State} {a0 a1 a2} (h : s₀.Keeps s) : s₀.KeepsO (execResumeMessage a0 a1 a2 s) := by
  unfold execResumeMessage
  repeat' first | with_reducible assumption | with_reducible apply State.KeepsO.next | with_reducible apply State.discard_keeps | with_reducible apply State.resumeIfFree_keeps | with_reducible apply State.endSource_keeps | with_reducible apply State.modCtx_keeps | split
theorem execYieldHoldDeadline_keeps {s₀ s : State} {a0} (h : s₀.Keeps s) : s₀.KeepsO (execYieldHoldDeadline a0 s) := by
  unfold execYieldHoldDeadline
  repeat' first | with_reducible assumption | with_reducible apply State.KeepsO.next | with_reducible apply State.tellYield_keeps | with_reducible apply State.originate_keeps | with_reducible apply State.startDrain_keeps | (with_reducible intro) | split
theorem State.doEvict_keeps {s₀ s : State} {a1 a2} (h : s₀.Keeps s) : s₀.Keeps (State.doEvict s a1 a2) := by
  unfold State.doEvict
  repeat' first | with_reducible assumption | with_reducible apply State.modCtx_keeps | with_reducible apply State.sendAll_keeps | with_reducible apply State.startUnload_keeps | with_reducible apply State.allocRun_keeps | with_reducible apply State.cmdDone_keeps | with_reducible apply State.devWrite_keeps | with_reducible refine State.KeepsQ.map ?_ ?_ | (with_reducible intro) | split | (extract_lets +onlyGivenNames x; refine State.Keeps.cut (p := s₀.Keeps x) ?_ ?_ <;> [(revert x; dsimp only); (intro hx; clear_value x; rename' x => y, hx => hy)]) | (extract_lets +onlyGivenNames x; clear_value x; rename' x => y) | with_reducible refine State.KeepsQ.get (by with_reducible assumption) ?_
theorem execEvict_keeps {s₀ s : State} {a0 a1 a2 a3} (h : s₀.Keeps s) : s₀.KeepsO (execEvict a0 a1 a2 a3 s) := by
  unfold execEvict
  repeat' first | with_reducible assumption | with_reducible apply State.KeepsO.next | with_reducible apply State.command_keeps | with_reducible apply State.cmdDone_keeps | with_reducible apply State.doEvict_keeps | with_reducible apply State.yieldRequest_keeps | with_reducible apply State.modCtx_keeps | (with_reducible intro) | split
theorem State.enterYielded_keeps {s₀ s : State} {a1} (h : s₀.Keeps s) : s₀.Keeps (State.enterYielded s a1) := by
  unfold State.enterYielded
  repeat' first | with_reducible assumption | with_reducible apply State.finishUnload_keeps | with_reducible apply State.notify_keeps | with_reducible apply State.modCtx_keeps | with_reducible apply State.doEvict_keeps | with_reducible apply State.cmdDone_keeps | with_reducible apply State.resumeIfFree_keeps | split | (extract_lets +onlyGivenNames x; refine State.Keeps.cut (p := s₀.Keeps x) ?_ ?_ <;> [(revert x; dsimp only); (intro hx; clear_value x; rename' x => y, hx => hy)])
theorem execYieldDrainComplete_keeps {s₀ s : State} {a0} (h : s₀.Keeps s) : s₀.KeepsO (execYieldDrainComplete a0 s) := by
  unfold execYieldDrainComplete
  repeat' first | with_reducible assumption | with_reducible apply State.KeepsO.next | with_reducible apply State.enterYielded_keeps | split
theorem execRestart_keeps {s₀ s : State} {a0 a1 a2 a3} (h : s₀.Keeps s) : s₀.KeepsO (execRestart a0 a1 a2 a3 s) := by
  unfold execRestart
  repeat' first | with_reducible assumption | with_reducible apply State.KeepsO.next | with_reducible apply State.command_keeps | with_reducible apply State.cmdDone_keeps | with_reducible apply State.modCtx_keeps | with_reducible apply State.beginRestart_keeps | (with_reducible intro) | split
theorem execJoin_keeps {s₀ s : State} {a0 a1 a2 a3} (h : s₀.Keeps s) : s₀.KeepsO (execJoin a0 a1 a2 a3 s) := by
  unfold execJoin
  repeat' first | with_reducible assumption | with_reducible apply State.KeepsO.next | with_reducible apply State.command_keeps | with_reducible apply State.cmdDone_keeps | with_reducible apply State.modCtx_keeps | (with_reducible intro) | split | (extract_lets +onlyGivenNames x; clear_value x; rename' x => y)
theorem execLeave_keeps {s₀ s : State} {a0 a1 a2 a3} (h : s₀.Keeps s) : s₀.KeepsO (execLeave a0 a1 a2 a3 s) := by
  unfold execLeave
  repeat' first | with_reducible assumption | with_reducible apply State.KeepsO.next | with_reducible apply State.command_keeps | with_reducible apply State.cmdDone_keeps | with_reducible apply State.modCtx_keeps | (with_reducible intro) | split | (extract_lets +onlyGivenNames x; clear_value x; rename' x => y)
theorem execVerOpen_keeps {s₀ s : State} {a0 a1 a2 a3} (h : s₀.Keeps s) : s₀.KeepsO (execVerOpen a0 a1 a2 a3 s) := by
  unfold execVerOpen
  repeat' first | with_reducible assumption | with_reducible apply State.KeepsO.next | with_reducible apply State.command_keeps | with_reducible apply State.cmdDone_keeps | with_reducible apply State.openVersion_keeps | (with_reducible intro) | with_reducible apply State.KeepsP.getD | split | (extract_lets +onlyGivenNames x; clear_value x; rename' x => y) | with_reducible refine State.KeepsP.get (by with_reducible assumption) ?_
theorem execVerPublish_keeps {s₀ s : State} {a0 a1 a2 a3} (h : s₀.Keeps s) : s₀.KeepsO (execVerPublish a0 a1 a2 a3 s) := by
  unfold execVerPublish
  repeat' first | with_reducible assumption | with_reducible apply State.KeepsO.next | with_reducible apply State.command_keeps | with_reducible apply State.cmdDone_keeps | with_reducible apply State.setRegion_keeps | (with_reducible intro) | split | (extract_lets +onlyGivenNames x; clear_value x; rename' x => y)
theorem execPublishComplete_keeps {s₀ s : State} {a0 a1} (h : s₀.Keeps s) : s₀.KeepsO (execPublishComplete a0 a1 s) := by
  unfold execPublishComplete
  repeat' first | with_reducible assumption | with_reducible apply State.KeepsO.next | with_reducible apply State.abortCtx_keeps | with_reducible apply State.copyFault_keeps | with_reducible apply State.publish_keeps | with_reducible apply State.cmdDone_keeps | with_reducible apply State.Keeps.foldl | (with_reducible intro) | split
theorem execVersionRelease_keeps {s₀ s : State} {a0 a1} (h : s₀.Keeps s) : s₀.KeepsO (execVersionRelease a0 a1 s) := by
  unfold execVersionRelease
  repeat' first | with_reducible assumption | with_reducible apply State.KeepsO.next | with_reducible apply State.releaseSlot_keeps | split
theorem execEvalBind_keeps {s₀ s : State} {a0 a1 a2 a3} (h : s₀.Keeps s) : s₀.KeepsO (execEvalBind a0 a1 a2 a3 s) := by
  unfold execEvalBind
  repeat' first | with_reducible assumption | with_reducible apply State.KeepsO.next | with_reducible apply State.command_keeps | with_reducible apply State.cmdDone_keeps | with_reducible apply State.modCtx_keeps | (with_reducible intro) | split | (extract_lets +onlyGivenNames x; clear_value x; rename' x => y)
theorem State.makeBindings_keeps {s₀ s : State} {a1} (h : s₀.Keeps s) : s₀.KeepsL (State.makeBindings s a1) := by
  unfold State.makeBindings
  repeat' first | with_reducible assumption | with_reducible apply State.KeepsL.proj | with_reducible apply State.KeepsL.foldl | with_reducible apply State.modCtx_keeps | with_reducible apply State.grantAll_keeps | with_reducible apply State.cmdDone_keeps | with_reducible apply State.Keeps.foldl | (with_reducible intro) | split | (extract_lets +onlyGivenNames x; refine State.Keeps.cut (p := s₀.Keeps x) ?_ ?_ <;> [(revert x; dsimp only); (intro hx; clear_value x; rename' x => y, hx => hy)]) | (extract_lets +onlyGivenNames x; clear_value x; rename' x => y) | with_reducible apply State.KeepsL.mk
theorem execEvalRelease_keeps {s₀ s : State} {a0 a1 a2 a3} (h : s₀.Keeps s) : s₀.KeepsO (execEvalRelease a0 a1 a2 a3 s) := by
  unfold execEvalRelease
  repeat' first | with_reducible assumption | with_reducible apply State.KeepsO.next | with_reducible apply State.command_keeps | with_reducible apply State.cmdDone_keeps | with_reducible apply State.revoke_keeps | with_reducible apply State.modCtx_keeps | with_reducible apply State.releaseSlot_keeps | with_reducible apply State.Keeps.foldl | (with_reducible intro) | split
theorem State.keepRecord_keeps {s₀ s : State} {a1 a2 a3} (h : s₀.Keeps s) : s₀.Keeps (State.keepRecord s a1 a2 a3) := by
  unfold State.keepRecord
  repeat' first | with_reducible assumption | with_reducible apply State.memWrite_keeps | split | (extract_lets +onlyGivenNames x; refine State.Keeps.cut (p := s₀.Keeps x) ?_ ?_ <;> [(revert x; dsimp only); (intro hx; clear_value x; rename' x => y, hx => hy)]) | (extract_lets +onlyGivenNames x; clear_value x; rename' x => y) | fail_if_no_progress (with_reducible refine State.Keeps.put ?_ (by with_reducible rfl))
theorem execCommitRecordWrite_keeps {s₀ s : State} {a0 a1} (h : s₀.Keeps s) : s₀.KeepsO (execCommitRecordWrite a0 a1 s) := by
  unfold execCommitRecordWrite
  repeat' first | with_reducible assumption | with_reducible apply State.KeepsO.next | with_reducible apply State.keepRecord_keeps | with_reducible apply State.send_keeps | with_reducible apply State.sendAll_keeps | with_reducible apply State.modCtx_keeps | with_reducible apply State.Keeps.foldl | (with_reducible intro) | split | (extract_lets +onlyGivenNames x; refine State.Keeps.cut (p := s₀.Keeps x) ?_ ?_ <;> [(revert x; dsimp only); (intro hx; clear_value x; rename' x => y, hx => hy)]) | (extract_lets +onlyGivenNames x; clear_value x; rename' x => y) | fail_if_no_progress (with_reducible refine State.Keeps.put ?_ (by with_reducible rfl))
theorem execCommitReport_keeps {s₀ s : State} {a0 a1 a2} (h : s₀.Keeps s) : s₀.KeepsO (execCommitReport a0 a1 a2 s) := by
  unfold execCommitReport
  repeat' first | with_reducible assumption | with_reducible apply State.KeepsO.next | with_reducible apply State.modCtx_keeps | with_reducible apply State.send_keeps | split | (extract_lets +onlyGivenNames x; refine State.Keeps.cut (p := s₀.Keeps x) ?_ ?_ <;> [(revert x; dsimp only); (intro hx; clear_value x; rename' x => y, hx => hy)]) | (extract_lets +onlyGivenNames x; clear_value x; rename' x => y)
theorem State.commitStep_keeps {s₀ s : State} {a1} (h : s₀.Keeps s) : s₀.Keeps (State.commitStep s a1) := by
  unfold State.commitStep
  repeat' first | with_reducible assumption | with_reducible apply State.modCtx_keeps | with_reducible apply State.notify_keeps | with_reducible apply State.cmdDone_keeps | with_reducible apply State.setRegion_keeps | with_reducible apply State.count_keeps | with_reducible apply State.Keeps.foldl | (with_reducible intro) | split | (extract_lets +onlyGivenNames x; refine State.Keeps.cut (p := s₀.Keeps x) ?_ ?_ <;> [(revert x; dsimp only); (intro hx; clear_value x; rename' x => y, hx => hy)])
theorem State.storeReceipt_keeps {s₀ s : State} {a1 a2 a3} (h : s₀.Keeps s) : s₀.Keeps (State.storeReceipt s a1 a2 a3) := by
  unfold State.storeReceipt
  repeat' first | with_reducible assumption | with_reducible apply State.devWrite_keeps | with_reducible apply State.count_keeps | with_reducible apply State.modCtx_keeps | split | (extract_lets +onlyGivenNames x; clear_value x; rename' x => y) | fail_if_no_progress (with_reducible refine State.Keeps.put ?_ (by with_reducible rfl))
theorem State.drainReceipts_keeps {s₀ s : State} {a0 a1} (h : s₀.Keeps s) : s₀.Keeps (State.drainReceipts a0 a1 s) := by
  induction a1 generalizing s  with
  | zero =>
    unfold State.drainReceipts
    repeat' first | with_reducible assumption
  | succ x ih =>
    unfold State.drainReceipts
    repeat' first | with_reducible assumption | with_reducible apply ih | with_reducible apply State.modCtx_keeps | with_reducible apply State.storeReceipt_keeps | split | (extract_lets +onlyGivenNames x; clear_value x; rename' x => y)
theorem execReceiptSigned_keeps {s₀ s : State} (h : s₀.Keeps s) : s₀.KeepsO (execReceiptSigned s) := by
  unfold execReceiptSigned
  repeat' first | with_reducible assumption | with_reducible apply State.KeepsO.next | with_reducible apply State.count_keeps | with_reducible apply State.devWrite_keeps | split | (extract_lets +onlyGivenNames x; refine State.Keeps.cut (p := s₀.Keeps x) ?_ ?_ <;> [(revert x; dsimp only); (intro hx; clear_value x; rename' x => y, hx => hy)]) | (extract_lets +onlyGivenNames x; clear_value x; rename' x => y) | fail_if_no_progress (with_reducible refine State.Keeps.put ?_ (by with_reducible rfl))
theorem State.doLeaves_keeps {s₀ s : State} {a1} (h : s₀.Keeps s) : s₀.Keeps (State.doLeaves s a1) := by
  unfold State.doLeaves
  repeat' first | with_reducible assumption | with_reducible apply State.setFrame_keeps | with_reducible apply State.zeroFrame_keeps | with_reducible apply State.invalidate_keeps | with_reducible apply State.modCtx_keeps | with_reducible apply State.Keeps.foldl | (with_reducible intro) | split
theorem State.doJoins_keeps {s₀ s : State} {a1} (h : s₀.Keeps s) : s₀.KeepsL (s.doJoins a1) := by
  unfold State.doJoins
  extract_lets k
  clear_value k
  refine State.KeepsL.mk (State.KeepsL.proj (State.KeepsL.foldl (fun p x hp => ?_) (State.KeepsL.mk h)))
  dsimp only
  split
  · exact hp
  · split
    · exact hp
    · next e => exact State.KeepsL.mk <| State.modCtx_keeps (State.KeepsQ.get e (State.allocRun_keeps hp))
theorem State.admitSeqs_keeps {s₀ s : State} {a1} (h : s₀.Keeps s) : s₀.Keeps (State.admitSeqs s a1) := by
  unfold State.admitSeqs
  repeat' first | with_reducible assumption | with_reducible apply State.doLeaves_keeps | with_reducible apply State.doJoins_keeps | with_reducible apply State.modCtx_keeps | with_reducible apply State.devWrite_keeps | with_reducible apply State.sendSignal_keeps | split | (extract_lets +onlyGivenNames x; refine State.Keeps.cut (p := s₀.Keeps x) ?_ ?_ <;> [(revert x; dsimp only); (intro hx; clear_value x; rename' x => y, hx => hy)]) | (extract_lets +onlyGivenNames x; refine State.Keeps.cut (p := s₀.KeepsL x) ?_ ?_ <;> [(revert x; dsimp only); (intro hx; clear_value x; rename' x => y, hx => hy)]) | (extract_lets +onlyGivenNames x; clear_value x; rename' x => y) | with_reducible apply State.KeepsL.proj
theorem State.passStep_keeps {s₀ s : State} {a1} (h : s₀.Keeps s) : s₀.Keeps (State.passStep s a1) := by
  unfold State.passStep
  repeat' first | with_reducible assumption | with_reducible apply State.modCtx_keeps | with_reducible apply State.admitSeqs_keeps | with_reducible apply State.takeSnapshot_keeps | split | fail_if_no_progress (with_reducible refine State.Keeps.put ?_ (by with_reducible rfl))
theorem State.updateView_keeps {s₀ s : State} {a1} (h : s₀.Keeps s) : s₀.Keeps (State.updateView s a1) := by
  unfold State.updateView
  repeat' first | with_reducible assumption | with_reducible apply State.modCtx_keeps
theorem State.leaveBoundary_keeps {s₀ s : State} {a1} (h : s₀.Keeps s) : s₀.Keeps (State.leaveBoundary s a1) := by
  unfold State.leaveBoundary
  dsimp only
  repeat' first | with_reducible assumption | with_reducible apply State.modCtx_keeps | with_reducible apply State.startDrain_keeps | with_reducible apply State.enterYielded_keeps | with_reducible apply State.notify_keeps | split | fail_if_no_progress (with_reducible refine State.Keeps.put ?_ (by with_reducible rfl))
theorem State.switchAtBoundary_keeps {s₀ s : State} {a1} (h : s₀.Keeps s) : s₀.KeepsL (State.switchAtBoundary s a1) := by
  unfold State.switchAtBoundary
  repeat' first | with_reducible assumption | with_reducible apply State.stopCtx_keeps | with_reducible apply State.record_keeps | with_reducible apply State.loadSched_keeps | split | with_reducible apply State.KeepsL.mk
theorem State.boundaryFrom4_keeps {s₀ s : State} {a1} (h : s₀.Keeps s) : s₀.Keeps (State.boundaryFrom4 s a1) := by
  unfold State.boundaryFrom4
  repeat' first | with_reducible assumption | with_reducible apply State.openCommitPub_keeps | with_reducible apply State.modCtx_keeps | with_reducible apply State.makeBindings_keeps | with_reducible apply State.switchAtBoundary_keeps | with_reducible apply State.leaveBoundary_keeps | split | (extract_lets +onlyGivenNames x; refine State.Keeps.cut (p := s₀.KeepsL x) ?_ ?_ <;> [(revert x; dsimp only); (intro hx; clear_value x; rename' x => y, hx => hy)]) | with_reducible apply State.KeepsL.proj
theorem State.boundaryFrom2_keeps {s₀ s : State} {a1} (h : s₀.Keeps s) : s₀.Keeps (State.boundaryFrom2 s a1) := by
  unfold State.boundaryFrom2
  repeat' first | with_reducible assumption | with_reducible apply State.boundaryFrom4_keeps | with_reducible apply State.updateView_keeps | with_reducible apply State.passStep_keeps
theorem State.boundaryFrom1_keeps {s₀ s : State} {a1} (h : s₀.Keeps s) : s₀.Keeps (State.boundaryFrom1 s a1) := by
  unfold State.boundaryFrom1
  repeat' first | with_reducible assumption | with_reducible apply State.drainReceipts_keeps | with_reducible apply State.boundaryFrom2_keeps | with_reducible apply State.modCtx_keeps | split | (extract_lets +onlyGivenNames x; refine State.Keeps.cut (p := s₀.Keeps x) ?_ ?_ <;> [(revert x; dsimp only); (intro hx; clear_value x; rename' x => y, hx => hy)])
theorem execStepBoundary_keeps {s₀ s : State} {a0} (h : s₀.Keeps s) : s₀.KeepsO (execStepBoundary a0 s) := by
  unfold execStepBoundary
  repeat' first | with_reducible assumption | with_reducible apply State.KeepsO.next | with_reducible apply State.openCommitPub_keeps | with_reducible apply State.modCtx_keeps | with_reducible apply State.boundaryFrom1_keeps | with_reducible apply State.boundaryFrom4_keeps | with_reducible apply State.leaveBoundary_keeps | (with_reducible intro) | split | (extract_lets +onlyGivenNames x; refine State.Keeps.cut (p := s₀.Keeps x) ?_ ?_ <;> [(revert x; dsimp only); (intro hx; clear_value x; rename' x => y, hx => hy)]) | (extract_lets +onlyGivenNames x; refine State.Keeps.cut (p := s₀.KeepsL x) ?_ ?_ <;> [(revert x; dsimp only); (intro hx; clear_value x; rename' x => y, hx => hy)]) | (extract_lets +onlyGivenNames x; refine State.Keeps.cut (p := s₀.KeepsR x) ?_ ?_ <;> [(revert x; dsimp only); (intro hx; clear_value x; rename' x => y, hx => hy)]) | (extract_lets +onlyGivenNames x; clear_value x; rename' x => y) | with_reducible apply State.KeepsL.proj | with_reducible apply State.KeepsR.proj | with_reducible refine State.KeepsL.fst (by with_reducible assumption) ?_ | with_reducible refine State.KeepsR.snd (by with_reducible assumption) ?_ | with_reducible apply State.KeepsL.mk | with_reducible apply State.KeepsR.mk | fail_if_no_progress (with_reducible refine State.Keeps.put ?_ (by with_reducible rfl))

end Sys2Proof.Machine
end

