-- ==== Sys2Proof/Laws/KeepsRec.lean ====
section
/-! SUPPORT. What the operations of recovery and collectives leave as they were. -/

namespace Sys2Proof.Machine

theorem State.tellCoordinator_keeps {s₀ s : State} {a1 a2 a3} (h : s₀.Keeps s) : s₀.Keeps (State.tellCoordinator s a1 a2 a3) := by
  unfold State.tellCoordinator
  repeat' first | with_reducible assumption | with_reducible apply State.send_keeps | split | (extract_lets +onlyGivenNames x; clear_value x; rename' x => y)
theorem State.stopHere_keeps {s₀ s : State} {a1 a2 a3} (h : s₀.Keeps s) : s₀.Keeps (State.stopHere s a1 a2 a3) := by
  unfold State.stopHere
  repeat' first | with_reducible assumption | with_reducible apply State.stopCtx_keeps | with_reducible apply State.record_keeps
theorem State.noteLost_keeps {s₀ s : State} {a1 a2} (h : s₀.Keeps s) : s₀.Keeps (State.noteLost s a1 a2) := by
  unfold State.noteLost
  repeat' first | with_reducible assumption | with_reducible apply State.modCtx_keeps | with_reducible apply State.sendAll_keeps | split | (extract_lets +onlyGivenNames x; refine State.Keeps.cut (p := s₀.Keeps x) ?_ ?_ <;> [(revert x; dsimp only); (intro hx; clear_value x; rename' x => y, hx => hy)]) | (extract_lets +onlyGivenNames x; clear_value x; rename' x => y)
theorem State.memberLost_keeps {s₀ s : State} {a1 a2 a3} (h : s₀.Keeps s) : s₀.Keeps (State.memberLost s a1 a2 a3) := by
  unfold State.memberLost
  repeat' first | with_reducible assumption | with_reducible apply State.modCtx_keeps | with_reducible apply State.noteLost_keeps | with_reducible apply State.stopJob_keeps | with_reducible apply State.tellCoordinator_keeps | with_reducible apply State.abortWith_keeps | split | (extract_lets +onlyGivenNames x; refine State.Keeps.cut (p := s₀.Keeps x) ?_ ?_ <;> [(revert x; dsimp only); (intro hx; clear_value x; rename' x => y, hx => hy)]) | (extract_lets +onlyGivenNames x; clear_value x; rename' x => y)
theorem State.relinquish_keeps {s₀ s : State} {a1} (h : s₀.Keeps s) : s₀.Keeps (State.relinquish s a1) := by
  unfold State.relinquish
  repeat' first | with_reducible assumption | with_reducible apply State.startUnload_keeps | with_reducible apply State.sendAll_keeps
theorem State.buddyLost_keeps {s₀ s : State} {a1} (h : s₀.Keeps s) : s₀.Keeps (State.buddyLost s a1) := by
  unfold State.buddyLost
  repeat' first | with_reducible assumption | with_reducible apply State.record_keeps | with_reducible apply State.Keeps.foldl | (with_reducible intro) | split | (extract_lets +onlyGivenNames x; refine State.Keeps.cut (p := s₀.Keeps x) ?_ ?_ <;> [(revert x; dsimp only); (intro hx; clear_value x; rename' x => y, hx => hy)]) | (extract_lets +onlyGivenNames x; clear_value x; rename' x => y) | fail_if_no_progress (with_reducible refine State.Keeps.put ?_ (by with_reducible rfl))
theorem State.splitJobs_keeps {s₀ s : State} {a1 a2} (h : s₀.Keeps s) : s₀.Keeps (State.splitJobs s a1 a2) := by
  unfold State.splitJobs
  repeat' first | with_reducible assumption | with_reducible apply State.stopJob_keeps | with_reducible apply State.Keeps.foldl | (with_reducible intro) | split
theorem State.deviceLost_keeps {s₀ s : State} {a1} (h : s₀.Keeps s) : s₀.Keeps (State.deviceLost s a1) := by
  unfold State.deviceLost
  repeat' first | with_reducible assumption | with_reducible apply State.goOffline_keeps | with_reducible apply State.buddyLost_keeps | with_reducible apply State.fillRoutes_keeps | with_reducible apply State.memberLost_keeps | with_reducible apply State.evalCab_keeps | with_reducible apply State.splitJobs_keeps | with_reducible apply State.Keeps.foldl | (with_reducible intro) | split | (extract_lets +onlyGivenNames x; clear_value x; rename' x => y) | fail_if_no_progress (with_reducible refine State.Keeps.put ?_ (by with_reducible rfl))
theorem State.abortFrom_keeps {s₀ s : State} {a1 a2} (h : s₀.Keeps s) : s₀.Keeps (State.abortFrom s a1 a2) := by
  unfold State.abortFrom
  repeat' first | with_reducible assumption | with_reducible apply State.stopJob_keeps | with_reducible apply State.tellCoordinator_keeps | with_reducible apply State.modCtx_keeps | with_reducible apply State.abortWith_keeps | (with_reducible intro) | split | (extract_lets +onlyGivenNames x; refine State.Keeps.cut (p := s₀.Keeps x) ?_ ?_ <;> [(revert x; dsimp only); (intro hx; clear_value x; rename' x => y, hx => hy)]) | (extract_lets +onlyGivenNames x; clear_value x; rename' x => y) | fail_if_no_progress (with_reducible refine State.Keeps.put ?_ (by with_reducible rfl))
theorem execAbortNotice_keeps {s₀ s : State} {a0 a1} (h : s₀.Keeps s) : s₀.KeepsO (execAbortNotice a0 a1 s) := by
  unfold execAbortNotice
  repeat' first | with_reducible assumption | with_reducible apply State.KeepsO.next | with_reducible apply State.send_keeps | with_reducible apply State.discard_keeps | with_reducible apply State.stopHere_keeps | with_reducible apply State.memberLost_keeps | with_reducible apply State.stopJob_keeps | with_reducible apply State.abortFrom_keeps | split | (extract_lets +onlyGivenNames x; refine State.Keeps.cut (p := s₀.Keeps x) ?_ ?_ <;> [(revert x; dsimp only); (intro hx; clear_value x; rename' x => y, hx => hy)]) | (extract_lets +onlyGivenNames x; clear_value x; rename' x => y)
theorem State.passCommitted_keeps {s₀ s : State} {a1} (h : s₀.Keeps s) : s₀.Keeps (State.passCommitted s a1) := by
  unfold State.passCommitted
  repeat' first | with_reducible assumption | with_reducible apply State.publish_keeps | with_reducible apply State.modCtx_keeps | with_reducible apply State.updateView_keeps | with_reducible apply State.passStep_keeps | with_reducible apply State.drainReceipts_keeps | with_reducible apply State.Keeps.foldl | (with_reducible intro) | split
theorem State.adoptRegions_keeps {s₀ s : State} {a1 a2 a3} (h : s₀.Keeps s) : s₀.Keeps (State.adoptRegions s a1 a2 a3) := by
  unfold State.adoptRegions
  repeat' first | with_reducible assumption | with_reducible apply State.drawn_keeps | with_reducible apply State.modFrames_keeps | with_reducible apply State.modCtx_keeps | with_reducible apply State.setRegion_keeps | with_reducible apply State.Keeps.foldl | (with_reducible intro)
theorem State.adoptFrom_keeps {s₀ s : State} {a1 a2} (h : s₀.Keeps s) : s₀.KeepsP (State.adoptFrom s a1 a2) := by
  unfold State.adoptFrom
  repeat' first | with_reducible assumption | with_reducible apply State.releaseSlot_keeps | exact State.KeepsP.none | with_reducible apply State.KeepsP.some | with_reducible apply State.adoptRegions_keeps | with_reducible apply State.placeRegions_keeps | with_reducible apply State.placeShards_keeps | with_reducible apply State.takeSnapshot_keeps | with_reducible apply State.writeCounters_keeps | with_reducible apply State.record_keeps | with_reducible apply State.Keeps.foldl | (with_reducible intro) | with_reducible refine State.KeepsP.map ?_ ?_ | (with_reducible intro) | with_reducible apply State.KeepsP.getD | split | (extract_lets +onlyGivenNames x; refine State.Keeps.cut (p := s₀.Keeps x) ?_ ?_ <;> [(revert x; dsimp only); (intro hx; clear_value x; rename' x => y, hx => hy)]) | (extract_lets +onlyGivenNames x; clear_value x; rename' x => y) | with_reducible refine State.KeepsP.get (by with_reducible assumption) ?_
theorem State.adoptFailed_keeps {s₀ s : State} {a1 a2} (h : s₀.Keeps s) : s₀.Keeps (State.adoptFailed s a1 a2) := by
  unfold State.adoptFailed
  repeat' first | with_reducible assumption | with_reducible apply State.stopJob_keeps | with_reducible apply State.tellCoordinator_keeps | split
theorem State.restartSched_keeps {s₀ s : State} {a1} (h : s₀.Keeps s) : s₀.Keeps (State.restartSched s a1) := by
  unfold State.restartSched
  repeat' first | with_reducible assumption | with_reducible apply State.relinquish_keeps | with_reducible apply State.loadSched_keeps | with_reducible apply State.modCtx_keeps | with_reducible apply State.endTest_keeps | split | (extract_lets +onlyGivenNames x; refine State.Keeps.cut (p := s₀.Keeps x) ?_ ?_ <;> [(revert x; dsimp only); (intro hx; clear_value x; rename' x => y, hx => hy)])
theorem State.adoptAll_keeps {s₀ s : State} {a0 a1} (h : s₀.Keeps s) : s₀.KeepsR (State.adoptAll a0 a1 s) := by
  induction a1 generalizing s  with
  | nil =>
    unfold State.adoptAll
    repeat' first | with_reducible assumption | with_reducible apply State.adoptFrom_keeps | with_reducible apply State.KeepsP.getD | split | with_reducible refine State.KeepsP.get (by with_reducible assumption) ?_ | with_reducible apply State.KeepsR.mk
  | cons x xs ih =>
    unfold State.adoptAll
    repeat' first | with_reducible assumption | with_reducible apply ih | with_reducible apply State.adoptFrom_keeps | with_reducible apply State.KeepsP.getD | split | with_reducible refine State.KeepsP.get (by with_reducible assumption) ?_ | with_reducible apply State.KeepsR.mk
theorem State.comeBack_keeps {s₀ s : State} {a1 a2} (h : s₀.Keeps s) : s₀.Keeps (State.comeBack s a1 a2) := by
  unfold State.comeBack
  repeat' first | with_reducible assumption | with_reducible apply State.passCommitted_keeps | with_reducible apply State.resetPartition_keeps | with_reducible apply State.modCtx_keeps | with_reducible apply State.discardPending_keeps | with_reducible apply State.restoreState_keeps | with_reducible apply State.adoptAll_keeps | with_reducible apply State.adoptFailed_keeps | with_reducible apply State.openCommitPub_keeps | with_reducible apply State.restartSched_keeps | with_reducible apply State.KeepsL.foldl | with_reducible apply State.KeepsR.foldl | with_reducible apply State.Keeps.foldl | (with_reducible intro) | split | (extract_lets +onlyGivenNames x; refine State.Keeps.cut (p := s₀.Keeps x) ?_ ?_ <;> [(revert x; dsimp only); (intro hx; clear_value x; rename' x => y, hx => hy)]) | (extract_lets +onlyGivenNames x; refine State.Keeps.cut (p := s₀.KeepsL x) ?_ ?_ <;> [(revert x; dsimp only); (intro hx; clear_value x; rename' x => y, hx => hy)]) | (extract_lets +onlyGivenNames x; refine State.Keeps.cut (p := s₀.KeepsR x) ?_ ?_ <;> [(revert x; dsimp only); (intro hx; clear_value x; rename' x => y, hx => hy)]) | (extract_lets +onlyGivenNames x; clear_value x; rename' x => y) | with_reducible apply State.KeepsL.proj | with_reducible apply State.KeepsR.proj | with_reducible refine State.KeepsL.fst (by with_reducible assumption) ?_ | with_reducible refine State.KeepsR.snd (by with_reducible assumption) ?_ | with_reducible apply State.KeepsL.mk | with_reducible apply State.KeepsR.mk | fail_if_no_progress (with_reducible refine State.Keeps.put ?_ (by with_reducible rfl))
theorem State.takeRelease_keeps {s₀ s : State} {a1} (h : s₀.Keeps s) : s₀.Keeps (State.takeRelease s a1) := by
  unfold State.takeRelease
  repeat' first | with_reducible assumption | with_reducible apply State.commitStep_keeps | with_reducible apply State.comeBack_keeps | with_reducible apply State.modCtx_keeps | (with_reducible intro) | split | (extract_lets +onlyGivenNames x; refine State.Keeps.cut (p := s₀.Keeps x) ?_ ?_ <;> [(revert x; dsimp only); (intro hx; clear_value x; rename' x => y, hx => hy)]) | (extract_lets +onlyGivenNames x; clear_value x; rename' x => y) | fail_if_no_progress (with_reducible refine State.Keeps.put ?_ (by with_reducible rfl))
theorem State.passRelease_keeps {s₀ s : State} {a1 a2} (h : s₀.Keeps s) : s₀.Keeps (State.passRelease s a1 a2) := by
  unfold State.passRelease
  repeat' first | with_reducible assumption | with_reducible apply State.sendAll_keeps | with_reducible apply State.takeRelease_keeps | (with_reducible intro)
theorem execAbortDrainComplete_keeps {s₀ s : State} {a0 a1} (h : s₀.Keeps s) : s₀.KeepsO (execAbortDrainComplete a0 a1 s) := by
  unfold execAbortDrainComplete
  repeat' first | with_reducible assumption | with_reducible apply State.KeepsO.next | with_reducible apply State.modCtx_keeps | with_reducible apply State.comeBack_keeps | (with_reducible intro) | split | (extract_lets +onlyGivenNames x; refine State.Keeps.cut (p := s₀.Keeps x) ?_ ?_ <;> [(revert x; dsimp only); (intro hx; clear_value x; rename' x => y, hx => hy)]) | (extract_lets +onlyGivenNames x; clear_value x; rename' x => y) | fail_if_no_progress (with_reducible refine State.Keeps.put ?_ (by with_reducible rfl))
theorem execCommitRelease_keeps {s₀ s : State} {a0 a1} (h : s₀.Keeps s) : s₀.KeepsO (execCommitRelease a0 a1 s) := by
  unfold execCommitRelease
  repeat' first | with_reducible assumption | with_reducible apply State.KeepsO.next | with_reducible apply State.passRelease_keeps | with_reducible apply State.takeRelease_keeps | (with_reducible intro) | split | (extract_lets +onlyGivenNames x; refine State.Keeps.cut (p := s₀.Keeps x) ?_ ?_ <;> [(revert x; dsimp only); (intro hx; clear_value x; rename' x => y, hx => hy)]) | (extract_lets +onlyGivenNames x; clear_value x; rename' x => y)
theorem State.applyPlacement_keeps {s₀ s : State} {a1 a2 a3} (h : s₀.Keeps s) : s₀.Keeps (State.applyPlacement s a1 a2 a3) := by
  unfold State.applyPlacement
  repeat' first | with_reducible assumption | with_reducible apply State.modCtx_keeps | with_reducible apply State.writeFwds_keeps | with_reducible apply State.Keeps.foldl | (with_reducible intro)
theorem State.sendPlacement_keeps {s₀ s : State} {a1} (h : s₀.Keeps s) : s₀.Keeps (State.sendPlacement s a1) := by
  unfold State.sendPlacement
  repeat' first | with_reducible assumption | with_reducible apply State.sendAll_keeps | with_reducible apply State.modCtx_keeps | with_reducible apply State.applyPlacement_keeps | split | (extract_lets +onlyGivenNames x; clear_value x; rename' x => y)
theorem execMemberReadyReport_keeps {s₀ s : State} {a0 a1 a2} (h : s₀.Keeps s) : s₀.KeepsO (execMemberReadyReport a0 a1 a2 s) := by
  unfold execMemberReadyReport
  repeat' first | with_reducible assumption | with_reducible apply State.KeepsO.next | with_reducible apply step_keeps | with_reducible apply State.modCtx_keeps | with_reducible apply State.sendPlacement_keeps | with_reducible apply State.tellCoordinator_keeps | with_reducible apply State.passRelease_keeps | (with_reducible intro) | split | (extract_lets +onlyGivenNames x; refine State.Keeps.cut (p := s₀.Keeps x) ?_ ?_ <;> [(revert x; dsimp only); (intro hx; clear_value x; rename' x => y, hx => hy)]) | (extract_lets +onlyGivenNames x; clear_value x; rename' x => y) | fail_if_no_progress (with_reducible refine State.Keeps.put ?_ (by with_reducible rfl))
theorem State.runAgain_keeps {s₀ s : State} {a1 a2} (h : s₀.Keeps s) : s₀.Keeps (State.runAgain s a1 a2) := by
  unfold State.runAgain
  repeat' first | with_reducible assumption | with_reducible apply State.modCtx_keeps | with_reducible apply State.enterYielded_keeps | with_reducible apply State.cmdDone_keeps | with_reducible apply State.resumeNow_keeps | with_reducible apply State.initialBoundary_keeps | split | (extract_lets +onlyGivenNames x; refine State.Keeps.cut (p := s₀.Keeps x) ?_ ?_ <;> [(revert x; dsimp only); (intro hx; clear_value x; rename' x => y, hx => hy)]) | (extract_lets +onlyGivenNames x; clear_value x; rename' x => y)
theorem State.settleRun_keeps {s₀ s : State} {a1 a2} (h : s₀.Keeps s) : s₀.Keeps (State.settleRun s a1 a2) := by
  unfold State.settleRun
  repeat' first | with_reducible assumption | with_reducible apply State.modCtx_keeps | with_reducible apply State.comeBack_keeps | with_reducible apply State.runAgain_keeps | (with_reducible intro) | split | (extract_lets +onlyGivenNames x; refine State.Keeps.cut (p := s₀.Keeps x) ?_ ?_ <;> [(revert x; dsimp only); (intro hx; clear_value x; rename' x => y, hx => hy)]) | (extract_lets +onlyGivenNames x; clear_value x; rename' x => y) | fail_if_no_progress (with_reducible refine State.Keeps.put ?_ (by with_reducible rfl))
theorem execRestartRelease_keeps {s₀ s : State} {a0 a1} (h : s₀.Keeps s) : s₀.KeepsO (execRestartRelease a0 a1 s) := by
  unfold execRestartRelease
  repeat' first | with_reducible assumption | with_reducible apply State.KeepsO.next | with_reducible apply State.sendAll_keeps | with_reducible apply State.settleRun_keeps | (with_reducible intro) | split | (extract_lets +onlyGivenNames x; refine State.Keeps.cut (p := s₀.Keeps x) ?_ ?_ <;> [(revert x; dsimp only); (intro hx; clear_value x; rename' x => y, hx => hy)]) | (extract_lets +onlyGivenNames x; clear_value x; rename' x => y)
theorem execCoordinatorStateRequest_keeps {s₀ s : State} {a0 a1} (h : s₀.Keeps s) : s₀.KeepsO (execCoordinatorStateRequest a0 a1 s) := by
  unfold execCoordinatorStateRequest
  repeat' first | with_reducible assumption | with_reducible apply State.KeepsO.next | with_reducible apply State.send_keeps | with_reducible apply State.modCtx_keeps | split
theorem execPlacementMessage_keeps {s₀ s : State} {a0} (h : s₀.Keeps s) : s₀.KeepsO (execPlacementMessage a0 s) := by
  unfold execPlacementMessage
  repeat' first | with_reducible assumption | with_reducible apply State.KeepsO.next | with_reducible apply State.applyPlacement_keeps | split
theorem State.writeFenceCtrl_keeps {s₀ s : State} {a1 a2} (h : s₀.Keeps s) : s₀.Keeps (State.writeFenceCtrl s a1 a2) := by
  unfold State.writeFenceCtrl
  repeat' first | with_reducible assumption | with_reducible apply State.blkErr_keeps | with_reducible apply State.fenceCore_keeps | split | with_reducible apply State.Keeps.fuses | with_reducible refine State.Keeps.putRoot ?_ (by with_reducible assumption) | fail_if_no_progress (with_reducible refine State.Keeps.put ?_ (by with_reducible rfl))
theorem execFenceRequest_keeps {s₀ s : State} {a0 a1} (h : s₀.Keeps s) : s₀.KeepsO (execFenceRequest a0 a1 s) := by
  unfold execFenceRequest
  repeat' first | with_reducible assumption | with_reducible apply State.KeepsO.next | with_reducible apply State.writeFenceCtrl_keeps
theorem execUnfenceRequest_keeps {s₀ s : State} {a0 a1} (h : s₀.Keeps s) : s₀.KeepsO (execUnfenceRequest a0 a1 s) := by
  unfold execUnfenceRequest
  repeat' first | with_reducible assumption | with_reducible apply State.KeepsO.next | with_reducible apply State.writeFenceCtrl_keeps
theorem execInFieldTestPeriod_keeps {s₀ s : State} (h : s₀.Keeps s) : s₀.KeepsO (execInFieldTestPeriod s) := by
  unfold execInFieldTestPeriod
  repeat' first | with_reducible assumption | with_reducible apply State.KeepsO.next | split | (extract_lets +onlyGivenNames x; refine State.Keeps.cut (p := s₀.Keeps x) ?_ ?_ <;> [(revert x; dsimp only); (intro hx; clear_value x; rename' x => y, hx => hy)]) | (extract_lets +onlyGivenNames x; clear_value x; rename' x => y) | fail_if_no_progress (with_reducible refine State.Keeps.put ?_ (by with_reducible rfl))
theorem execInFieldTestStart_keeps {s₀ s : State} (h : s₀.Keeps s) : s₀.KeepsO (execInFieldTestStart s) := by
  unfold execInFieldTestStart
  repeat' first | with_reducible assumption | with_reducible apply State.KeepsO.next | with_reducible apply State.setCore_keeps | split | (extract_lets +onlyGivenNames x; refine State.Keeps.cut (p := s₀.Keeps x) ?_ ?_ <;> [(revert x; dsimp only); (intro hx; clear_value x; rename' x => y, hx => hy)]) | (extract_lets +onlyGivenNames x; clear_value x; rename' x => y) | fail_if_no_progress (with_reducible refine State.Keeps.put ?_ (by with_reducible rfl))
theorem execInFieldTestEnd_keeps {s₀ s : State} {a0 a1 a2} (h : s₀.Keeps s) : s₀.KeepsO (execInFieldTestEnd a0 a1 a2 s) := by
  unfold execInFieldTestEnd
  repeat' first | with_reducible assumption | with_reducible apply State.KeepsO.next | with_reducible apply State.endTest_keeps | with_reducible apply State.count_keeps | with_reducible apply State.record_keeps | with_reducible apply State.fenceCore_keeps | split
theorem State.modCq_keeps {s₀ s : State} {a1 a2 a3} (h : s₀.Keeps s) : s₀.Keeps (State.modCq s a1 a2 a3) := by
  unfold State.modCq
  repeat' first | with_reducible assumption | with_reducible apply State.modCtx_keeps
theorem State.collPop_keeps {s₀ s : State} {a1 a2 a3} (h : s₀.Keeps s) : s₀.Keeps (State.collPop s a1 a2 a3) := by
  unfold State.collPop
  repeat' first | with_reducible assumption | with_reducible apply State.devWrite_keeps | with_reducible apply State.modCq_keeps | split
theorem State.collNotify_keeps {s₀ s : State} {a1 a2 a3} (h : s₀.Keeps s) : s₀.Keeps (State.collNotify s a1 a2 a3) := by
  unfold State.collNotify
  repeat' first | with_reducible assumption | with_reducible apply State.sendAll_keeps
theorem State.collRec_keeps {s₀ s : State} {a1 a2 a3 a4 a5} (h : s₀.Keeps s) : s₀.Keeps (State.collRec s a1 a2 a3 a4 a5) := by
  unfold State.collRec
  repeat' first | with_reducible assumption | with_reducible apply State.record_keeps
theorem State.collStop_keeps {s₀ s : State} {a1 a2 a3} (h : s₀.Keeps s) : s₀.Keeps (State.collStop s a1 a2 a3) := by
  unfold State.collStop
  repeat' first | with_reducible assumption | with_reducible apply State.stopCtx_keeps | with_reducible apply State.collPop_keeps
theorem State.collAbort_keeps {s₀ s : State} {a1 a2 a3} (h : s₀.Keeps s) : s₀.Keeps (State.collAbort s a1 a2 a3) := by
  unfold State.collAbort
  repeat' first | with_reducible assumption | with_reducible apply State.abortCtx_keeps | with_reducible apply State.collPop_keeps
theorem State.collRefused_keeps {s₀ s : State} {a1 a2 a3 a4 a5} (h : s₀.Keeps s) : s₀.Keeps (State.collRefused s a1 a2 a3 a4 a5) := by
  unfold State.collRefused
  repeat' first | with_reducible assumption | with_reducible apply State.record_keeps | with_reducible apply State.stopCtx_keeps | with_reducible apply State.collPop_keeps | with_reducible apply State.collNotify_keeps
theorem State.collDone_keeps {s₀ s : State} {a1 a2 a3 a4} (h : s₀.Keeps s) : s₀.Keeps (State.collDone s a1 a2 a3 a4) := by
  unfold State.collDone
  repeat' first | with_reducible assumption | with_reducible apply State.foldFlags_keeps | with_reducible apply State.collPop_keeps | with_reducible apply State.sendSignal_keeps | with_reducible apply State.Keeps.foldl | (with_reducible intro) | split
theorem State.collResults_keeps {s₀ s : State} {a1 a2} (h : s₀.Keeps s) : s₀.Keeps (State.collResults s a1 a2) := by
  unfold State.collResults
  repeat' first | with_reducible assumption | with_reducible apply State.collRefused_keeps | with_reducible apply State.devWrite_keeps | with_reducible apply State.modCq_keeps | with_reducible apply State.Keeps.foldl | (with_reducible intro) | split | (extract_lets +onlyGivenNames x; clear_value x; rename' x => y)
theorem State.collPass_keeps {s₀ s : State} {a1 a2 a3 a4} (h : s₀.Keeps s) : s₀.Keeps (State.collPass s a1 a2 a3 a4) := by
  unfold State.collPass
  repeat' first | with_reducible assumption | with_reducible apply State.modCq_keeps | with_reducible apply State.sendAll_keeps | (with_reducible intro) | split | (extract_lets +onlyGivenNames x; refine State.Keeps.cut (p := s₀.Keeps x) ?_ ?_ <;> [(revert x; dsimp only); (intro hx; clear_value x; rename' x => y, hx => hy)]) | (extract_lets +onlyGivenNames x; clear_value x; rename' x => y) | fail_if_no_progress (with_reducible refine State.Keeps.put ?_ (by with_reducible rfl))
theorem State.collFollow_keeps {s₀ s : State} {a1 a2 a3 a4 a5} (h : s₀.Keeps s) : s₀.Keeps (State.collFollow s a1 a2 a3 a4 a5) := by
  induction a4 generalizing s a1 a2 a3 a5 with
  | zero =>
    unfold State.collFollow
    repeat' first | with_reducible assumption | with_reducible apply ih | with_reducible apply State.collPass_keeps | (with_reducible intro) | split | fail_if_no_progress (with_reducible refine State.Keeps.put ?_ (by with_reducible rfl))
  | succ x ih =>
    unfold State.collFollow
    repeat' first | with_reducible assumption | with_reducible apply ih | with_reducible apply State.collPass_keeps | (with_reducible intro) | split | fail_if_no_progress (with_reducible refine State.Keeps.put ?_ (by with_reducible rfl))
theorem State.askAgain_keeps {s₀ s : State} {a1 a2 a3 a4} (h : s₀.Keeps s) : s₀.Keeps (State.askAgain s a1 a2 a3 a4) := by
  unfold State.askAgain
  repeat' first | with_reducible assumption | with_reducible apply State.send_keeps
theorem State.collMismatch_keeps {s₀ s : State} {a1 a2 a3} (h : s₀.Keeps s) : s₀.Keeps (State.collMismatch s a1 a2 a3) := by
  unfold State.collMismatch
  repeat' first | with_reducible assumption | with_reducible apply State.collRec_keeps | with_reducible apply State.collStop_keeps
theorem State.collNotified_keeps {s₀ s : State} {a1 a2 a3} (h : s₀.Keeps s) : s₀.Keeps (State.collNotified s a1 a2 a3) := by
  unfold State.collNotified
  repeat' first | with_reducible assumption | with_reducible apply State.collRec_keeps | with_reducible apply State.collAbort_keeps
theorem State.ceFault_keeps {s₀ s : State} {a1} (h : s₀.Keeps s) : s₀.Keeps (State.ceFault s a1) := by
  unfold State.ceFault
  repeat' first | with_reducible assumption | with_reducible apply State.lockstepRec_keeps | with_reducible apply State.abortCtx_keeps | with_reducible apply State.Keeps.foldl | (with_reducible intro) | split | (extract_lets +onlyGivenNames x; clear_value x; rename' x => y) | fail_if_no_progress (with_reducible refine State.Keeps.put ?_ (by with_reducible rfl))
theorem State.collTake_keeps {s₀ s : State} {a1 a2 a3 a4 a5} (h : s₀.Keeps s) : s₀.Keeps (State.collTake s a1 a2 a3 a4 a5) := by
  unfold State.collTake
  repeat' first | with_reducible assumption | with_reducible apply State.ceFault_keeps | with_reducible apply State.modCq_keeps | with_reducible apply State.askAgain_keeps | with_reducible apply State.count_keeps | with_reducible apply State.collRec_keeps | with_reducible apply State.collNotify_keeps | with_reducible apply State.collAbort_keeps | with_reducible apply State.collMismatch_keeps | with_reducible apply State.collFollow_keeps | with_reducible apply State.collResults_keeps | (with_reducible intro) | split | (extract_lets +onlyGivenNames x; refine State.Keeps.cut (p := s₀.Keeps x) ?_ ?_ <;> [(revert x; dsimp only); (intro hx; clear_value x; rename' x => y, hx => hy)]) | (extract_lets +onlyGivenNames x; clear_value x; rename' x => y) | fail_if_no_progress (with_reducible refine State.Keeps.put ?_ (by with_reducible rfl))
theorem State.collMessage_keeps {s₀ s : State} {a1 a2 a3} (h : s₀.Keeps s) : s₀.Keeps (State.collMessage s a1 a2 a3) := by
  unfold State.collMessage
  repeat' first | with_reducible assumption | with_reducible apply State.discard_keeps | with_reducible apply State.collTake_keeps | with_reducible apply State.modCq_keeps | split
theorem State.collCheck_keeps {s₀ s : State} {a1 a2 a3} (h : s₀.Keeps s) : s₀.KeepsP (State.collCheck s a1 a2 a3) := by
  unfold State.collCheck
  repeat' first | with_reducible assumption | exact State.KeepsP.none | with_reducible apply State.KeepsP.some | with_reducible apply State.collStop_keeps | with_reducible apply State.collRec_keeps | with_reducible apply State.count_keeps | split
theorem execCollectiveHeadCheck_keeps {s₀ s : State} {a0 a1} (h : s₀.Keeps s) : s₀.KeepsO (execCollectiveHeadCheck a0 a1 s) := by
  unfold execCollectiveHeadCheck
  repeat' first | with_reducible assumption | with_reducible apply State.KeepsO.next | with_reducible apply State.collCheck_keeps | with_reducible apply State.KeepsP.getD | split
theorem State.collOpen_keeps {s₀ s : State} {a1 a2 a3} (h : s₀.Keeps s) : s₀.Keeps (State.collOpen s a1 a2 a3) := by
  unfold State.collOpen
  repeat' first | with_reducible assumption | with_reducible apply State.collPass_keeps | with_reducible apply State.collFollow_keeps | with_reducible apply State.Keeps.foldl | (with_reducible intro)
theorem State.collBegin_keeps {s₀ s : State} {a1 a2 a3 a4} (h : s₀.Keeps s) : s₀.Keeps (State.collBegin s a1 a2 a3 a4) := by
  unfold State.collBegin
  repeat' first | with_reducible assumption | with_reducible apply State.collDone_keeps | with_reducible apply State.modCq_keeps | with_reducible apply State.collNotified_keeps | with_reducible apply State.collRefused_keeps | with_reducible apply State.collPop_keeps | with_reducible apply State.containLine_keeps | with_reducible apply State.collOpen_keeps | with_reducible apply State.sendAll_keeps | with_reducible apply State.collResults_keeps | with_reducible apply State.collMessage_keeps | with_reducible apply State.Keeps.foldl | (with_reducible intro) | split | (extract_lets +onlyGivenNames x; refine State.Keeps.cut (p := s₀.Keeps x) ?_ ?_ <;> [(revert x; dsimp only); (intro hx; clear_value x; rename' x => y, hx => hy)]) | (extract_lets +onlyGivenNames x; clear_value x; rename' x => y) | fail_if_no_progress (with_reducible refine State.Keeps.put ?_ (by with_reducible rfl))
theorem execCollectiveStart_keeps {s₀ s : State} {a0 a1} (h : s₀.Keeps s) : s₀.KeepsO (execCollectiveStart a0 a1 s) := by
  unfold execCollectiveStart
  repeat' first | with_reducible assumption | with_reducible apply State.KeepsO.next | with_reducible apply State.collCheck_keeps | with_reducible apply State.collBegin_keeps | with_reducible apply State.KeepsP.getD | split | with_reducible refine State.KeepsP.get (by with_reducible assumption) ?_
theorem execCollectiveMessageReceive_keeps {s₀ s : State} {a0 a1 a2} (h : s₀.Keeps s) : s₀.KeepsO (execCollectiveMessageReceive a0 a1 a2 s) := by
  unfold execCollectiveMessageReceive
  repeat' first | with_reducible assumption | with_reducible apply State.KeepsO.next | with_reducible apply State.collMessage_keeps | split
theorem State.answerRefused_keeps {s₀ s : State} {a1 a2 a3 a4 a5} (h : s₀.Keeps s) : s₀.Keeps (State.answerRefused s a1 a2 a3 a4 a5) := by
  unfold State.answerRefused
  repeat' first | with_reducible assumption | with_reducible apply State.record_keeps | with_reducible apply State.collNotify_keeps | fail_if_no_progress (with_reducible refine State.Keeps.put ?_ (by with_reducible rfl))
theorem State.answerColl_keeps {s₀ s : State} {a1 a2 a3 a4} (h : s₀.Keeps s) : s₀.Keeps (State.answerColl s a1 a2 a3 a4) := by
  unfold State.answerColl
  repeat' first | with_reducible assumption | with_reducible apply State.discard_keeps | with_reducible apply State.collMismatch_keeps | with_reducible apply State.collRefused_keeps | with_reducible apply State.answerRefused_keeps | with_reducible apply State.collPop_keeps | with_reducible apply State.containLine_keeps | with_reducible apply State.send_keeps | with_reducible apply State.sendAll_keeps | (with_reducible intro) | split | (extract_lets +onlyGivenNames x; refine State.Keeps.cut (p := s₀.Keeps x) ?_ ?_ <;> [(revert x; dsimp only); (intro hx; clear_value x; rename' x => y, hx => hy)]) | (extract_lets +onlyGivenNames x; clear_value x; rename' x => y) | fail_if_no_progress (with_reducible refine State.Keeps.put ?_ (by with_reducible rfl))
theorem execCollectiveRetransmitRequest_keeps {s₀ s : State} {a0 a1 a2} (h : s₀.Keeps s) : s₀.KeepsO (execCollectiveRetransmitRequest a0 a1 a2 s) := by
  unfold execCollectiveRetransmitRequest
  repeat' first | with_reducible assumption | with_reducible apply State.KeepsO.next | with_reducible apply State.answerColl_keeps | split
theorem execCollectiveContributionRequest_keeps {s₀ s : State} {a0 a1 a2} (h : s₀.Keeps s) : s₀.KeepsO (execCollectiveContributionRequest a0 a1 a2 s) := by
  unfold execCollectiveContributionRequest
  repeat' first | with_reducible assumption | with_reducible apply State.KeepsO.next | with_reducible apply State.answerColl_keeps | split
theorem execCollectiveFailureNotice_keeps {s₀ s : State} {a0 a1 a2} (h : s₀.Keeps s) : s₀.KeepsO (execCollectiveFailureNotice a0 a1 a2 s) := by
  unfold execCollectiveFailureNotice
  repeat' first | with_reducible assumption | with_reducible apply State.KeepsO.next | with_reducible apply State.discard_keeps | with_reducible apply State.collNotified_keeps | with_reducible apply State.modCq_keeps | (with_reducible intro) | split | fail_if_no_progress (with_reducible refine State.Keeps.put ?_ (by with_reducible rfl))
theorem execCollectiveTimeout_keeps {s₀ s : State} {a0 a1} (h : s₀.Keeps s) : s₀.KeepsO (execCollectiveTimeout a0 a1 s) := by
  unfold execCollectiveTimeout
  repeat' first | with_reducible assumption | with_reducible apply State.KeepsO.next | with_reducible apply State.collAbort_keeps | with_reducible apply State.collNotify_keeps | with_reducible apply State.collRec_keeps | with_reducible apply State.Keeps.foldl | (with_reducible intro) | split | (extract_lets +onlyGivenNames x; clear_value x; rename' x => y)
theorem execCollectiveCompletion_keeps {s₀ s : State} {a0 a1} (h : s₀.Keeps s) : s₀.KeepsO (execCollectiveCompletion a0 a1 s) := by
  unfold execCollectiveCompletion
  repeat' first | with_reducible assumption | with_reducible apply State.KeepsO.next | with_reducible apply State.collDone_keeps | split

end Sys2Proof.Machine
end

