-- ==== Sys2Proof/Laws/KeepsLink.lean ====
section
/-! SUPPORT. What the operations of links, the Cabinet and bring-up leave as they were. -/

namespace Sys2Proof.Machine

theorem State.linkTo_keeps {s₀ s : State} {a1 a2} (h : s₀.Keeps s) : s₀.Keeps (State.linkTo s a1 a2) := by
  unfold State.linkTo
  repeat' first | with_reducible assumption | with_reducible apply State.setLink_keeps
theorem State.enterIdent_keeps {s₀ s : State} {a1} (h : s₀.Keeps s) : s₀.Keeps (State.enterIdent s a1) := by
  unfold State.enterIdent
  repeat' first | with_reducible assumption | with_reducible apply State.emit_keeps | with_reducible apply State.linkTo_keeps
theorem State.enterNegotiate_keeps {s₀ s : State} {a1} (h : s₀.Keeps s) : s₀.Keeps (State.enterNegotiate s a1) := by
  unfold State.enterNegotiate
  repeat' first | with_reducible assumption | with_reducible apply State.emit_keeps | with_reducible apply State.linkTo_keeps
theorem State.resend_keeps {s₀ s : State} {a1 a2} (h : s₀.Keeps s) : s₀.Keeps (State.resend s a1 a2) := by
  unfold State.resend
  repeat' first | with_reducible assumption | with_reducible apply State.setLink_keeps | with_reducible apply State.sendPiece_keeps | with_reducible apply State.Keeps.foldl | (with_reducible intro) | split | (extract_lets +onlyGivenNames x; clear_value x; rename' x => y)
theorem State.floodPort_keeps {s₀ s : State} {a1 a2 a3} (h : s₀.Keeps s) : s₀.Keeps (State.floodPort s a1 a2 a3) := by
  unfold State.floodPort
  repeat' first | with_reducible assumption | with_reducible apply State.sendSync_keeps | with_reducible apply State.Keeps.foldl | (with_reducible intro) | split | fail_if_no_progress (with_reducible refine State.Keeps.put ?_ (by with_reducible rfl))
theorem State.portLost_keeps {s₀ s : State} {a1} (h : s₀.Keeps s) : s₀.Keeps (State.portLost s a1) := by
  unfold State.portLost
  repeat' first | with_reducible assumption | with_reducible apply State.record_keeps | with_reducible apply State.floodPort_keeps | with_reducible apply State.fillRoutes_keeps | with_reducible apply State.splitJobs_keeps | split | (extract_lets +onlyGivenNames x; refine State.Keeps.cut (p := s₀.Keeps x) ?_ ?_ <;> [(revert x; dsimp only); (intro hx; clear_value x; rename' x => y, hx => hy)]) | (extract_lets +onlyGivenNames x; refine State.Keeps.cut (p := s₀.root.fuses.Kept x.fuses) ?_ ?_ <;> [(revert x; dsimp only); (intro hx; clear_value x; rename' x => y, hx => hy)]) | (extract_lets +onlyGivenNames x; clear_value x; rename' x => y) | with_reducible apply State.Keeps.fuses | with_reducible refine State.Keeps.putRoot ?_ (by with_reducible assumption) | fail_if_no_progress (with_reducible refine State.Keeps.put ?_ (by with_reducible rfl))
theorem State.leaveService_keeps {s₀ s : State} {a1 a2} (h : s₀.Keeps s) : s₀.Keeps (State.leaveService s a1 a2) := by
  unfold State.leaveService
  repeat' first | with_reducible assumption | with_reducible apply State.linkTo_keeps | with_reducible apply State.resend_keeps | with_reducible apply State.evalCab_keeps | with_reducible apply State.portLost_keeps | split | (extract_lets +onlyGivenNames x; refine State.Keeps.cut (p := s₀.Keeps x) ?_ ?_ <;> [(revert x; dsimp only); (intro hx; clear_value x; rename' x => y, hx => hy)]) | (extract_lets +onlyGivenNames x; clear_value x; rename' x => y)
theorem State.linkFault_keeps {s₀ s : State} {a1 a2} (h : s₀.Keeps s) : s₀.Keeps (State.linkFault s a1 a2) := by
  unfold State.linkFault
  repeat' first | with_reducible assumption | with_reducible apply State.leaveService_keeps | with_reducible apply State.setLink_keeps | with_reducible apply State.record_keeps
theorem State.retrain_keeps {s₀ s : State} {a1} (h : s₀.Keeps s) : s₀.Keeps (State.retrain s a1) := by
  unfold State.retrain
  repeat' first | with_reducible assumption | with_reducible apply State.linkFault_keeps | with_reducible apply State.leaveService_keeps | with_reducible apply State.setLink_keeps | split | (extract_lets +onlyGivenNames x; clear_value x; rename' x => y)
theorem State.trainLink_keeps {s₀ s : State} {a1} (h : s₀.Keeps s) : s₀.Keeps (State.trainLink s a1) := by
  unfold State.trainLink
  repeat' first | with_reducible assumption | with_reducible apply State.leaveService_keeps | with_reducible apply State.setLink_keeps | split
theorem execLinkSignalDetect_keeps {s₀ s : State} {a0} (h : s₀.Keeps s) : s₀.KeepsO (execLinkSignalDetect a0 s) := by
  unfold execLinkSignalDetect
  repeat' first | with_reducible assumption | with_reducible apply State.KeepsO.next | with_reducible apply State.linkTo_keeps | split
theorem execLinkEqualizeDone_keeps {s₀ s : State} {a0} (h : s₀.Keeps s) : s₀.KeepsO (execLinkEqualizeDone a0 s) := by
  unfold execLinkEqualizeDone
  repeat' first | with_reducible assumption | with_reducible apply State.KeepsO.next | with_reducible apply State.linkTo_keeps | split
theorem execLinkAlignDone_keeps {s₀ s : State} {a0} (h : s₀.Keeps s) : s₀.KeepsO (execLinkAlignDone a0 s) := by
  unfold execLinkAlignDone
  repeat' first | with_reducible assumption | with_reducible apply State.KeepsO.next | with_reducible apply State.enterIdent_keeps | split
theorem execIdentMessage_keeps {s₀ s : State} {a0 a1} (h : s₀.Keeps s) : s₀.KeepsO (execIdentMessage a0 a1 s) := by
  unfold execIdentMessage
  repeat' first | with_reducible assumption | with_reducible apply State.KeepsO.next | with_reducible apply State.setLink_keeps | with_reducible apply State.linkFault_keeps | with_reducible apply State.enterNegotiate_keeps | split | (extract_lets +onlyGivenNames x; refine State.Keeps.cut (p := s₀.Keeps x) ?_ ?_ <;> [(revert x; dsimp only); (intro hx; clear_value x; rename' x => y, hx => hy)]) | (extract_lets +onlyGivenNames x; clear_value x; rename' x => y)
theorem State.linkActive_keeps {s₀ s : State} {a1 a2} (h : s₀.Keeps s) : s₀.Keeps (State.linkActive s a1 a2) := by
  unfold State.linkActive
  repeat' first | with_reducible assumption | with_reducible apply State.setLink_keeps | with_reducible apply State.sendPiece_keeps | with_reducible apply State.floodPort_keeps | with_reducible apply State.fillRoutes_keeps | with_reducible apply State.retryNotices_keeps | with_reducible apply State.evalCab_keeps | with_reducible apply State.sendAsm_keeps | with_reducible apply State.Keeps.foldl | (with_reducible intro) | split | (extract_lets +onlyGivenNames x; refine State.Keeps.cut (p := s₀.Keeps x) ?_ ?_ <;> [(revert x; dsimp only); (intro hx; clear_value x; rename' x => y, hx => hy)]) | (extract_lets +onlyGivenNames x; refine State.Keeps.cut (p := s₀.root.fuses.Kept x.fuses) ?_ ?_ <;> [(revert x; dsimp only); (intro hx; clear_value x; rename' x => y, hx => hy)]) | (extract_lets +onlyGivenNames x; clear_value x; rename' x => y) | with_reducible apply State.Keeps.fuses | with_reducible refine State.Keeps.putRoot ?_ (by with_reducible assumption) | fail_if_no_progress (with_reducible refine State.Keeps.put ?_ (by with_reducible rfl))
theorem execNegotiateMessage_keeps {s₀ s : State} {a0 a1} (h : s₀.Keeps s) : s₀.KeepsO (execNegotiateMessage a0 a1 s) := by
  unfold execNegotiateMessage
  repeat' first | with_reducible assumption | with_reducible apply State.KeepsO.next | with_reducible apply State.setLink_keeps | with_reducible apply State.linkFault_keeps | with_reducible apply State.linkActive_keeps | split | (extract_lets +onlyGivenNames x; refine State.Keeps.cut (p := s₀.Keeps x) ?_ ?_ <;> [(revert x; dsimp only); (intro hx; clear_value x; rename' x => y, hx => hy)]) | (extract_lets +onlyGivenNames x; clear_value x; rename' x => y)
theorem execLinkTrainingTimeout_keeps {s₀ s : State} {a0} (h : s₀.Keeps s) : s₀.KeepsO (execLinkTrainingTimeout a0 s) := by
  unfold execLinkTrainingTimeout
  repeat' first | with_reducible assumption | with_reducible apply State.KeepsO.next | with_reducible apply State.linkTo_keeps | with_reducible apply State.linkFault_keeps | with_reducible apply State.setLink_keeps | with_reducible apply State.drawn_keeps | split
theorem execCodewordLockLoss_keeps {s₀ s : State} {a0} (h : s₀.Keeps s) : s₀.KeepsO (execCodewordLockLoss a0 s) := by
  unfold execCodewordLockLoss
  repeat' first | with_reducible assumption | with_reducible apply State.KeepsO.next | with_reducible apply State.retrain_keeps
theorem execUncorrectableCodewordLimit_keeps {s₀ s : State} {a0 a1 a2} (h : s₀.Keeps s) : s₀.KeepsO (execUncorrectableCodewordLimit a0 a1 a2 s) := by
  unfold execUncorrectableCodewordLimit
  repeat' first | with_reducible assumption | with_reducible apply State.KeepsO.next | with_reducible apply State.count_keeps | with_reducible apply State.retrain_keeps | split
theorem execLnkCtrlRetrain_keeps {s₀ s : State} {a0 a1} (h : s₀.Keeps s) : s₀.KeepsO (execLnkCtrlRetrain a0 a1 s) := by
  unfold execLnkCtrlRetrain
  repeat' first | with_reducible assumption | with_reducible apply State.KeepsO.next | with_reducible apply State.blkErr_keeps | with_reducible apply State.trainLink_keeps | split
theorem State.nak_keeps {s₀ s : State} {a1 a2} (h : s₀.Keeps s) : s₀.Keeps (State.nak s a1 a2) := by
  unfold State.nak
  repeat' first | with_reducible assumption | with_reducible apply State.setLink_keeps | with_reducible apply State.retrain_keeps | with_reducible apply State.emit_keeps | with_reducible apply State.Keeps.foldl | (with_reducible intro) | split | (extract_lets +onlyGivenNames x; clear_value x; rename' x => y)
theorem execAckReceive_keeps {s₀ s : State} {a0 a1} (h : s₀.Keeps s) : s₀.KeepsO (execAckReceive a0 a1 s) := by
  unfold execAckReceive
  repeat' first | with_reducible assumption | with_reducible apply State.KeepsO.next | with_reducible apply State.setLink_keeps | split
theorem execNakReceive_keeps {s₀ s : State} {a0 a1} (h : s₀.Keeps s) : s₀.KeepsO (execNakReceive a0 a1 s) := by
  unfold execNakReceive
  repeat' first | with_reducible assumption | with_reducible apply State.KeepsO.next | with_reducible apply State.nak_keeps
theorem State.sendAck_keeps {s₀ s : State} {a1} (h : s₀.Keeps s) : s₀.Keeps (State.sendAck s a1) := by
  unfold State.sendAck
  repeat' first | with_reducible assumption | with_reducible apply State.emit_keeps | with_reducible apply State.setLink_keeps
theorem State.emitNak_keeps {s₀ s : State} {a1} (h : s₀.Keeps s) : s₀.Keeps (State.emitNak s a1) := by
  unfold State.emitNak
  repeat' first | with_reducible assumption | with_reducible apply State.emit_keeps | with_reducible apply State.count_keeps
theorem State.sendNak_keeps {s₀ s : State} {a1} (h : s₀.Keeps s) : s₀.Keeps (State.sendNak s a1) := by
  unfold State.sendNak
  repeat' first | with_reducible assumption | with_reducible apply State.setLink_keeps | with_reducible apply State.emitNak_keeps | split | fail_if_no_progress (with_reducible refine State.Keeps.put ?_ (by with_reducible rfl))
theorem execAckTimer_keeps {s₀ s : State} {a0} (h : s₀.Keeps s) : s₀.KeepsO (execAckTimer a0 s) := by
  unfold execAckTimer
  repeat' first | with_reducible assumption | with_reducible apply State.KeepsO.next | with_reducible apply State.sendAck_keeps | with_reducible apply State.emitNak_keeps | split | (extract_lets +onlyGivenNames x; refine State.Keeps.cut (p := s₀.Keeps x) ?_ ?_ <;> [(revert x; dsimp only); (intro hx; clear_value x; rename' x => y, hx => hy)]) | (extract_lets +onlyGivenNames x; clear_value x; rename' x => y)
theorem State.deliverSlot_keeps {s₀ s : State} {a1 a2 a3} (h : s₀.Keeps s) : s₀.Keeps (State.deliverSlot s a1 a2 a3) := by
  unfold State.deliverSlot
  repeat' first | with_reducible assumption | with_reducible apply State.returnCredits_keeps | (with_reducible intro) | split | (extract_lets +onlyGivenNames x; refine State.Keeps.cut (p := s₀.Keeps x) ?_ ?_ <;> [(revert x; dsimp only); (intro hx; clear_value x; rename' x => y, hx => hy)]) | (extract_lets +onlyGivenNames x; clear_value x; rename' x => y) | fail_if_no_progress (with_reducible refine State.Keeps.put ?_ (by with_reducible rfl))
theorem State.deliverFlow_keeps {s₀ s : State} {a1 a2 a3 a4} (h : s₀.Keeps s) : s₀.Keeps (State.deliverFlow s a1 a2 a3 a4) := by
  induction a4 generalizing s a1 a2 a3 with
  | zero =>
    unfold State.deliverFlow
    repeat' first | with_reducible assumption | with_reducible apply ih | with_reducible apply State.deliverSlot_keeps | (with_reducible intro) | split | (extract_lets +onlyGivenNames x; refine State.Keeps.cut (p := s₀.Keeps x) ?_ ?_ <;> [(revert x; dsimp only); (intro hx; clear_value x; rename' x => y, hx => hy)]) | (extract_lets +onlyGivenNames x; clear_value x; rename' x => y) | fail_if_no_progress (with_reducible refine State.Keeps.put ?_ (by with_reducible rfl))
  | succ x ih =>
    unfold State.deliverFlow
    repeat' first | with_reducible assumption | with_reducible apply ih | with_reducible apply State.deliverSlot_keeps | (with_reducible intro) | split | (extract_lets +onlyGivenNames x; refine State.Keeps.cut (p := s₀.Keeps x) ?_ ?_ <;> [(revert x; dsimp only); (intro hx; clear_value x; rename' x => y, hx => hy)]) | (extract_lets +onlyGivenNames x; clear_value x; rename' x => y) | fail_if_no_progress (with_reducible refine State.Keeps.put ?_ (by with_reducible rfl))
theorem State.placePiece_keeps {s₀ s : State} {a1 a2 a3} (h : s₀.Keeps s) : s₀.Keeps (State.placePiece s a1 a2 a3) := by
  unfold State.placePiece
  repeat' first | with_reducible assumption | with_reducible apply State.deliverFlow_keeps | (with_reducible intro) | split | (extract_lets +onlyGivenNames x; refine State.Keeps.cut (p := s₀.Keeps x) ?_ ?_ <;> [(revert x; dsimp only); (intro hx; clear_value x; rename' x => y, hx => hy)]) | (extract_lets +onlyGivenNames x; clear_value x; rename' x => y) | fail_if_no_progress (with_reducible refine State.Keeps.put ?_ (by with_reducible rfl))
theorem State.openArrive_keeps {s₀ s : State} {a1 a2 a3} (h : s₀.Keeps s) : s₀.Keeps (State.openArrive s a1 a2 a3) := by
  unfold State.openArrive
  repeat' first | with_reducible assumption | with_reducible apply State.emit_keeps | with_reducible apply State.returnCredits_keeps | with_reducible apply State.enqueueOpen_keeps | with_reducible apply State.leaveBuffer_keeps | with_reducible apply State.discardOpen_keeps | split | (extract_lets +onlyGivenNames x; refine State.Keeps.cut (p := s₀.Keeps x) ?_ ?_ <;> [(revert x; dsimp only); (intro hx; clear_value x; rename' x => y, hx => hy)]) | (extract_lets +onlyGivenNames x; clear_value x; rename' x => y)
theorem State.pieceAt_keeps {s₀ s : State} {a1 a2 a3} (h : s₀.Keeps s) : s₀.Keeps (State.pieceAt s a1 a2 a3) := by
  unfold State.pieceAt
  repeat' first | with_reducible assumption | with_reducible apply State.placePiece_keeps | with_reducible apply State.openArrive_keeps | split
theorem State.takePiece_keeps {s₀ s : State} {a1 a2 a3} (h : s₀.Keeps s) : s₀.Keeps (State.takePiece s a1 a2 a3) := by
  unfold State.takePiece
  dsimp only
  repeat' first | with_reducible assumption | with_reducible apply State.sendAck_keeps | with_reducible apply State.pieceAt_keeps | with_reducible apply State.setLink_keeps | split
theorem execPiecePacketReceive_keeps {s₀ s : State} {a0 a1 a2} (h : s₀.Keeps s) : s₀.KeepsO (execPiecePacketReceive a0 a1 a2 s) := by
  unfold execPiecePacketReceive
  repeat' first | with_reducible assumption | with_reducible apply State.KeepsO.next | with_reducible apply State.retrain_keeps | with_reducible apply State.sendNak_keeps | with_reducible apply State.takePiece_keeps | split | (extract_lets +onlyGivenNames x; refine State.Keeps.cut (p := s₀.Keeps x) ?_ ?_ <;> [(revert x; dsimp only); (intro hx; clear_value x; rename' x => y, hx => hy)]) | (extract_lets +onlyGivenNames x; clear_value x; rename' x => y)
theorem State.creditBack_keeps {s₀ s : State} {a1 a2 a3} (h : s₀.Keeps s) : s₀.Keeps (State.creditBack s a1 a2 a3) := by
  unfold State.creditBack
  repeat' first | with_reducible assumption | with_reducible apply State.written_keeps | with_reducible apply State.sendSync_keeps | with_reducible apply State.Keeps.foldl | (with_reducible intro) | split | (extract_lets +onlyGivenNames x; refine State.Keeps.cut (p := s₀.Keeps x) ?_ ?_ <;> [(revert x; dsimp only); (intro hx; clear_value x; rename' x => y, hx => hy)]) | (extract_lets +onlyGivenNames x; clear_value x; rename' x => y) | fail_if_no_progress (with_reducible refine State.Keeps.put ?_ (by with_reducible rfl))
theorem State.creditsReturn_keeps {s₀ s : State} {a1 a2 a3 a4} (h : s₀.Keeps s) : s₀.Keeps (State.creditsReturn s a1 a2 a3 a4) := by
  induction a3 generalizing s a1 a2 a4 with
  | zero =>
    unfold State.creditsReturn
    repeat' first | with_reducible assumption | with_reducible apply ih | with_reducible apply State.creditBack_keeps | split
  | succ x ih =>
    unfold State.creditsReturn
    repeat' first | with_reducible assumption | with_reducible apply ih | with_reducible apply State.creditBack_keeps | split
theorem execControlPacketReceive_keeps {s₀ s : State} {a0 a1} (h : s₀.Keeps s) : s₀.KeepsO (execControlPacketReceive a0 a1 s) := by
  unfold execControlPacketReceive
  repeat' first | with_reducible assumption | with_reducible apply State.KeepsO.next | with_reducible apply State.setLink_keeps | with_reducible apply State.nak_keeps | with_reducible apply State.creditsReturn_keeps | with_reducible apply State.returnCredits_keeps | with_reducible apply State.send_keeps | (with_reducible intro) | split | (extract_lets +onlyGivenNames x; refine State.Keeps.cut (p := s₀.Keeps x) ?_ ?_ <;> [(revert x; dsimp only); (intro hx; clear_value x; rename' x => y, hx => hy)]) | (extract_lets +onlyGivenNames x; clear_value x; rename' x => y) | fail_if_no_progress (with_reducible refine State.Keeps.put ?_ (by with_reducible rfl))
theorem execHeartbeatSend_keeps {s₀ s : State} (h : s₀.Keeps s) : s₀.KeepsO (execHeartbeatSend s) := by
  unfold execHeartbeatSend
  repeat' first | with_reducible assumption | with_reducible apply State.KeepsO.next | with_reducible apply State.send_keeps | with_reducible apply State.Keeps.foldl | (with_reducible intro) | split | (extract_lets +onlyGivenNames x; clear_value x; rename' x => y) | fail_if_no_progress (with_reducible refine State.Keeps.put ?_ (by with_reducible rfl))
theorem execHeartbeatReceive_keeps {s₀ s : State} {a0 a1} (h : s₀.Keeps s) : s₀.KeepsO (execHeartbeatReceive a0 a1 s) := by
  unfold execHeartbeatReceive
  repeat' first | with_reducible assumption | with_reducible apply State.KeepsO.next | with_reducible apply State.relinquish_keeps | with_reducible apply State.Keeps.foldl | (with_reducible intro) | split | (extract_lets +onlyGivenNames x; refine State.Keeps.cut (p := s₀.Keeps x) ?_ ?_ <;> [(revert x; dsimp only); (intro hx; clear_value x; rename' x => y, hx => hy)]) | (extract_lets +onlyGivenNames x; clear_value x; rename' x => y) | fail_if_no_progress (with_reducible refine State.Keeps.put ?_ (by with_reducible rfl))
theorem execLossTimeout_keeps {s₀ s : State} {a0} (h : s₀.Keeps s) : s₀.KeepsO (execLossTimeout a0 s) := by
  unfold execLossTimeout
  repeat' first | with_reducible assumption | with_reducible apply State.KeepsO.next | with_reducible apply State.record_keeps | with_reducible apply State.deviceLost_keeps | with_reducible apply State.floodLost_keeps | split
theorem State.portNotice_keeps {s₀ s : State} {a1 a2 a3} (h : s₀.Keeps s) : s₀.Keeps (State.portNotice s a1 a2 a3) := by
  unfold State.portNotice
  repeat' first | with_reducible assumption | with_reducible apply State.floodPort_keeps | with_reducible apply State.fillRoutes_keeps | with_reducible apply State.retryNotices_keeps | (with_reducible intro) | split | (extract_lets +onlyGivenNames x; refine State.Keeps.cut (p := s₀.Keeps x) ?_ ?_ <;> [(revert x; dsimp only); (intro hx; clear_value x; rename' x => y, hx => hy)]) | (extract_lets +onlyGivenNames x; clear_value x; rename' x => y) | fail_if_no_progress (with_reducible refine State.Keeps.put ?_ (by with_reducible rfl))
theorem execDeviceLostNotice_keeps {s₀ s : State} {a0 a1 a2 a3} (h : s₀.Keeps s) : s₀.KeepsO (execDeviceLostNotice a0 a1 a2 a3 s) := by
  unfold execDeviceLostNotice
  repeat' first | with_reducible assumption | with_reducible apply State.KeepsO.next | with_reducible apply State.portNotice_keeps | with_reducible apply State.floodLost_keeps | with_reducible apply State.deviceLost_keeps | split
theorem State.startAssembly_keeps {s₀ s : State} (h : s₀.Keeps s) : s₀.Keeps (State.startAssembly s) := by
  unfold State.startAssembly
  repeat' first | with_reducible assumption | with_reducible apply State.grant_keeps | with_reducible apply State.sendAsm_keeps | with_reducible apply State.evalCab_keeps | with_reducible apply State.Keeps.foldl | (with_reducible intro) | (extract_lets +onlyGivenNames x; clear_value x; rename' x => y) | fail_if_no_progress (with_reducible refine State.Keeps.put ?_ (by with_reducible rfl))
theorem State.markPresent_keeps {s₀ s : State} {a1} (h : s₀.Keeps s) : s₀.Keeps (State.markPresent s a1) := by
  unfold State.markPresent
  repeat' first | with_reducible assumption | with_reducible apply State.evalCab_keeps | with_reducible apply State.retryNotices_keeps | with_reducible apply State.fillRoutes_keeps | split | (extract_lets +onlyGivenNames x; clear_value x; rename' x => y) | fail_if_no_progress (with_reducible refine State.Keeps.put ?_ (by with_reducible rfl))
theorem execAssemblyMessage_keeps {s₀ s : State} {a0} (h : s₀.Keeps s) : s₀.KeepsO (execAssemblyMessage a0 s) := by
  unfold execAssemblyMessage
  repeat' first | with_reducible assumption | with_reducible apply State.KeepsO.next | with_reducible apply State.count_keeps | with_reducible apply State.floodAsm_keeps | with_reducible apply State.sendAsm_keeps | with_reducible apply State.markPresent_keeps | split | (extract_lets +onlyGivenNames x; refine State.Keeps.cut (p := s₀.Keeps x) ?_ ?_ <;> [(revert x; dsimp only); (intro hx; clear_value x; rename' x => y, hx => hy)]) | (extract_lets +onlyGivenNames x; clear_value x; rename' x => y) | fail_if_no_progress (with_reducible refine State.Keeps.put ?_ (by with_reducible rfl))
theorem execAssemblyTimeout_keeps {s₀ s : State} (h : s₀.Keeps s) : s₀.KeepsO (execAssemblyTimeout s) := by
  unfold execAssemblyTimeout
  repeat' first | with_reducible assumption | with_reducible apply State.KeepsO.next | with_reducible apply State.evalCab_keeps
theorem State.setMainPg_keeps {s₀ s : State} {a1} (h : s₀.Keeps s) : s₀.Keeps (State.setMainPg s a1) := by
  unfold State.setMainPg
  repeat' first | with_reducible assumption | with_reducible apply State.emit_keeps | split | fail_if_no_progress (with_reducible refine State.Keeps.put ?_ (by with_reducible rfl))
theorem State.setThermtrip_keeps {s₀ s : State} {a1} (h : s₀.Keeps s) : s₀.Keeps (State.setThermtrip s a1) := by
  unfold State.setThermtrip
  repeat' first | with_reducible assumption | with_reducible apply State.emit_keeps | split | fail_if_no_progress (with_reducible refine State.Keeps.put ?_ (by with_reducible rfl))
theorem State.unloadAll_keeps {s₀ s : State} (h : s₀.Keeps s) : s₀.Keeps (State.unloadAll s) := by
  unfold State.unloadAll
  repeat' first | with_reducible assumption | with_reducible apply State.finishUnload_keeps | with_reducible apply State.startUnload_keeps | with_reducible apply State.Keeps.foldl | (with_reducible intro)
theorem State.mainOff_keeps {s₀ s : State} (h : s₀.Keeps s) : s₀.Keeps s.mainOff :=
  have k := State.setMainPg_keeps (a1 := false) (State.unloadAll_keeps h)
  ⟨k.pending, fun _ => rfl, k.free, k.out, k.fuses⟩
theorem State.failStart_keeps {s₀ s : State} {a1 a2} (h : s₀.Keeps s) : s₀.Keeps (State.failStart s a1 a2) := by
  unfold State.failStart
  repeat' first | with_reducible assumption | with_reducible apply State.goOffline_keeps | with_reducible apply State.Keeps.fuses | with_reducible refine State.Keeps.putRoot ?_ (by with_reducible assumption) | fail_if_no_progress (with_reducible refine State.Keeps.put ?_ (by with_reducible rfl))
theorem execStandbyValid_keeps {s₀ s : State} (h : s₀.Keeps s) : s₀.KeepsO (execStandbyValid s) := by
  unfold execStandbyValid
  repeat' first | with_reducible assumption | with_reducible apply State.KeepsO.next | with_reducible apply State.Keeps.fuses | with_reducible refine State.Keeps.putRoot ?_ (by with_reducible assumption) | fail_if_no_progress (with_reducible refine State.Keeps.put ?_ (by with_reducible rfl))
theorem State.hostDegraded_keeps {s₀ s : State} (h : s₀.Keeps s) : s₀.Keeps (State.hostDegraded s) := by
  unfold State.hostDegraded
  repeat' first | with_reducible assumption | with_reducible apply State.record_keeps | split
theorem State.startPcie_keeps {s₀ s : State} {a1 a2 a3} (h : s₀.Keeps s) : s₀.Keeps (State.startPcie s a1 a2 a3) := by
  unfold State.startPcie
  repeat' first | with_reducible assumption | with_reducible apply State.hostDegraded_keeps | split | fail_if_no_progress (with_reducible refine State.Keeps.put ?_ (by with_reducible rfl))
theorem execPowerOnResetEnd_keeps {s₀ s : State} {a0 a1 a2} (h : s₀.Keeps s) : s₀.KeepsO (execPowerOnResetEnd a0 a1 a2 s) := by
  unfold execPowerOnResetEnd
  repeat' first | with_reducible assumption | with_reducible apply State.KeepsO.next | with_reducible apply State.startPcie_keeps | split | with_reducible apply State.Keeps.fuses | with_reducible refine State.Keeps.putRoot ?_ (by with_reducible assumption) | fail_if_no_progress (with_reducible refine State.Keeps.put ?_ (by with_reducible rfl))
theorem State.writePorts_keeps {s₀ s : State} (h : s₀.Keeps s) : s₀.Keeps (State.writePorts s) := by
  unfold State.writePorts
  repeat' first | with_reducible assumption | with_reducible apply State.Keeps.foldl | (with_reducible intro) | split | (extract_lets +onlyGivenNames x; clear_value x; rename' x => y) | fail_if_no_progress (with_reducible refine State.Keeps.put ?_ (by with_reducible rfl))
theorem State.planFault_keeps {s₀ s : State} (h : s₀.Keeps s) : s₀.Keeps (State.planFault s) := by
  unfold State.planFault
  repeat' first | with_reducible assumption | with_reducible apply State.record_keeps | with_reducible apply State.alert_keeps | (extract_lets +onlyGivenNames x; refine State.Keeps.cut (p := s₀.root.fuses.Kept x.fuses) ?_ ?_ <;> [(revert x; dsimp only); (intro hx; clear_value x; rename' x => y, hx => hy)]) | (extract_lets +onlyGivenNames x; clear_value x; rename' x => y) | with_reducible apply State.Keeps.fuses | with_reducible refine State.Keeps.putRoot ?_ (by with_reducible assumption)
theorem State.startBureau_keeps {s₀ s : State} {a1 a2} (h : s₀.Keeps s) : s₀.Keeps (State.startBureau s a1 a2) := by
  unfold State.startBureau
  repeat' first | with_reducible assumption | with_reducible apply State.record_keeps | with_reducible apply State.writePorts_keeps | with_reducible apply State.planFault_keeps | split | (extract_lets +onlyGivenNames x; refine State.Keeps.cut (p := s₀.Keeps x) ?_ ?_ <;> [(revert x; dsimp only); (intro hx; clear_value x; rename' x => y, hx => hy)]) | (extract_lets +onlyGivenNames x; refine State.Keeps.cut (p := s₀.root.fuses.Kept x.fuses) ?_ ?_ <;> [(revert x; dsimp only); (intro hx; clear_value x; rename' x => y, hx => hy)]) | (extract_lets +onlyGivenNames x; clear_value x; rename' x => y) | with_reducible apply State.Keeps.fuses | with_reducible refine State.Keeps.putRoot ?_ (by with_reducible assumption)
theorem execBootImageVerified_keeps {s₀ s : State} (h : s₀.Keeps s) : s₀.KeepsO (execBootImageVerified s) := by
  unfold execBootImageVerified
  dsimp only
  repeat' first | with_reducible assumption | with_reducible apply State.KeepsO.next | with_reducible apply State.alert_keeps | with_reducible apply State.startBureau_keeps | split | with_reducible apply State.Keeps.fuses | with_reducible refine State.Keeps.putRoot ?_ (by with_reducible assumption) | fail_if_no_progress (with_reducible refine State.Keeps.put ?_ (by with_reducible rfl))
theorem execMainInputInRange_keeps {s₀ s : State} (h : s₀.Keeps s) : s₀.KeepsO (execMainInputInRange s) := by
  unfold execMainInputInRange
  repeat' first | with_reducible assumption | with_reducible apply State.KeepsO.next | split | with_reducible apply State.Keeps.fuses | with_reducible refine State.Keeps.putRoot ?_ (by with_reducible assumption) | fail_if_no_progress (with_reducible refine State.Keeps.put ?_ (by with_reducible rfl))
theorem execMainDomainUp_keeps {s₀ s : State} (h : s₀.Keeps s) : s₀.KeepsO (execMainDomainUp s) := by
  unfold execMainDomainUp
  repeat' first | with_reducible assumption | with_reducible apply State.KeepsO.next | with_reducible apply State.setMainPg_keeps | with_reducible apply State.trainLink_keeps | with_reducible apply State.Keeps.foldl | (with_reducible intro) | split | (extract_lets +onlyGivenNames x; refine State.Keeps.cut (p := s₀.root.fuses.Kept x.fuses) ?_ ?_ <;> [(revert x; dsimp only); (intro hx; clear_value x; rename' x => y, hx => hy)]) | with_reducible apply State.Keeps.fuses | with_reducible refine State.Keeps.putRoot ?_ (by with_reducible assumption)
theorem execMainDomainPowerUpLimit_keeps {s₀ s : State} {a0} (h : s₀.Keeps s) : s₀.KeepsO (execMainDomainPowerUpLimit a0 s) := by
  unfold execMainDomainPowerUpLimit
  repeat' first | with_reducible assumption | with_reducible apply State.KeepsO.next | with_reducible apply State.failStart_keeps | split
theorem execCrossingsTrained_keeps {s₀ s : State} {a0 a1} (h : s₀.Keeps s) : s₀.KeepsO (execCrossingsTrained a0 a1 s) := by
  unfold execCrossingsTrained
  repeat' first | with_reducible assumption | with_reducible apply State.KeepsO.next | with_reducible apply State.failStart_keeps | split | with_reducible apply State.Keeps.fuses | with_reducible refine State.Keeps.putRoot ?_ (by with_reducible assumption) | fail_if_no_progress (with_reducible refine State.Keeps.put ?_ (by with_reducible rfl))
theorem execStackTrainingComplete_keeps {s₀ s : State} {a0 a1 a2} (h : s₀.Keeps s) : s₀.KeepsO (execStackTrainingComplete a0 a1 a2 s) := by
  unfold execStackTrainingComplete
  repeat' first | with_reducible assumption | with_reducible apply State.KeepsO.next | with_reducible apply State.failStart_keeps | with_reducible apply State.record_keeps | with_reducible apply State.drawn_keeps | with_reducible apply State.Keeps.foldl | (with_reducible intro) | split | (extract_lets +onlyGivenNames x; refine State.Keeps.cut (p := s₀.Keeps x) ?_ ?_ <;> [(revert x; dsimp only); (intro hx; clear_value x; rename' x => y, hx => hy)]) | (extract_lets +onlyGivenNames x; refine State.Keeps.cut (p := s₀.root.fuses.Kept x.fuses) ?_ ?_ <;> [(revert x; dsimp only); (intro hx; clear_value x; rename' x => y, hx => hy)]) | (extract_lets +onlyGivenNames x; clear_value x; rename' x => y) | with_reducible apply State.Keeps.fuses | with_reducible refine State.Keeps.putRoot ?_ (by with_reducible assumption)
theorem State.seedCores_keeps {s₀ s : State} {a1} (h : s₀.Keeps s) : s₀.Keeps (State.seedCores s a1) := by
  unfold State.seedCores
  repeat' first | with_reducible assumption | with_reducible apply State.seedLanes_keeps | with_reducible apply State.Keeps.foldl
theorem State.seedAll_keeps_of {s₀ s : State} (l : List Nat) (h : s₀.Keeps s) : s₀.Keeps (have s := s.seedCores l; { s with root := { s.root with seeded := true } }) :=
  State.Keeps.put (State.seedCores_keeps h) rfl
theorem State.seedAll_keeps {s₀ s : State} (h : s₀.Keeps s) : s₀.Keeps s.seedAll := by
  delta State.seedAll
  exact State.seedAll_keeps_of _ h
theorem execCoreSelfTestEnd_keeps {s₀ s : State} {a0 a1 a2 a3} (h : s₀.Keeps s) : s₀.KeepsO (execCoreSelfTestEnd a0 a1 a2 a3 s) := by
  unfold execCoreSelfTestEnd
  repeat' first | with_reducible assumption | with_reducible apply State.KeepsO.next | with_reducible apply State.fenceCore_keeps | with_reducible apply State.record_keeps | with_reducible apply State.ceFault_keeps | with_reducible apply State.copyFault_keeps | with_reducible apply State.seedAll_keeps | with_reducible apply State.Keeps.foldl | (with_reducible intro) | split | (extract_lets +onlyGivenNames x; refine State.Keeps.cut (p := s₀.Keeps x) ?_ ?_ <;> [(revert x; dsimp only); (intro hx; clear_value x; rename' x => y, hx => hy)]) | (extract_lets +onlyGivenNames x; refine State.Keeps.cut (p := s₀.root.fuses.Kept x.fuses) ?_ ?_ <;> [(revert x; dsimp only); (intro hx; clear_value x; rename' x => y, hx => hy)]) | with_reducible apply State.Keeps.fuses | with_reducible refine State.Keeps.putRoot ?_ (by with_reducible assumption)
theorem State.entropyRec_keeps {s₀ s : State} {a1} (h : s₀.Keeps s) : s₀.Keeps (State.entropyRec s a1) := by
  unfold State.entropyRec
  repeat' first | with_reducible assumption | with_reducible apply State.record_keeps
theorem execEntropyHealthChange_keeps {s₀ s : State} {a0} (h : s₀.Keeps s) : s₀.KeepsO (execEntropyHealthChange a0 s) := by
  unfold execEntropyHealthChange
  repeat' first | with_reducible assumption | with_reducible apply State.KeepsO.next | with_reducible apply State.seedAll_keeps | with_reducible apply State.count_keeps | with_reducible apply State.entropyRec_keeps | split | (extract_lets +onlyGivenNames x; refine State.Keeps.cut (p := s₀.Keeps x) ?_ ?_ <;> [(revert x; dsimp only); (intro hx; clear_value x; rename' x => y, hx => hy)]) | (extract_lets +onlyGivenNames x; refine State.Keeps.cut (p := s₀.root.fuses.Kept x.fuses) ?_ ?_ <;> [(revert x; dsimp only); (intro hx; clear_value x; rename' x => y, hx => hy)]) | with_reducible apply State.Keeps.fuses | with_reducible refine State.Keeps.putRoot ?_ (by with_reducible assumption)
theorem execEntropyWaitTimeout_keeps {s₀ s : State} (h : s₀.Keeps s) : s₀.KeepsO (execEntropyWaitTimeout s) := by
  unfold execEntropyWaitTimeout
  repeat' first | with_reducible assumption | with_reducible apply State.KeepsO.next | with_reducible apply State.entropyRec_keeps | split | with_reducible apply State.Keeps.fuses | with_reducible refine State.Keeps.putRoot ?_ (by with_reducible assumption) | fail_if_no_progress (with_reducible refine State.Keeps.put ?_ (by with_reducible rfl))
theorem execEntropyRecordRepeat_keeps {s₀ s : State} (h : s₀.Keeps s) : s₀.KeepsO (execEntropyRecordRepeat s) := by
  unfold execEntropyRecordRepeat
  repeat' first | with_reducible assumption | with_reducible apply State.KeepsO.next | with_reducible apply State.entropyRec_keeps | split | with_reducible apply State.Keeps.fuses | with_reducible refine State.Keeps.putRoot ?_ (by with_reducible assumption) | fail_if_no_progress (with_reducible refine State.Keeps.put ?_ (by with_reducible rfl))
theorem execLinkTrainingConcluded_keeps {s₀ s : State} (h : s₀.Keeps s) : s₀.KeepsO (execLinkTrainingConcluded s) := by
  unfold execLinkTrainingConcluded
  repeat' first | with_reducible assumption | with_reducible apply State.KeepsO.next | split | (extract_lets +onlyGivenNames x; refine State.Keeps.cut (p := s₀.root.fuses.Kept x.fuses) ?_ ?_ <;> [(revert x; dsimp only); (intro hx; clear_value x; rename' x => y, hx => hy)]) | with_reducible apply State.Keeps.fuses | with_reducible refine State.Keeps.putRoot ?_ (by with_reducible assumption)
theorem blowSvn_testBit (v n i : Nat) (h : v.testBit i = true) : (blowSvn v n).testBit i = true := by
  unfold blowSvn
  generalize List.range 64 = l
  induction l generalizing v with
  | nil => exact h
  | cons j l ih =>
    refine ih _ ?_
    dsimp only
    split
    · rw [Nat.testBit_or, h, Bool.true_or]
    · exact h
theorem execDeviceReady_keeps {s₀ s : State} (h : s₀.Keeps s) : s₀.KeepsO (execDeviceReady s) := by
  unfold execDeviceReady
  apply State.KeepsO.next
  split
  · exact h
  · have k : s₀.Keeps (s.drawBytes 8).2 := State.KeepsR.proj (State.drawBytes_keeps h)
    refine State.startAssembly_keeps ?_
    refine State.Keeps.putRoot k ?_
    dsimp only
    split
    · exact ⟨k.fuses.rootHash, k.fuses.revoke, k.fuses.uds, k.fuses.serial, k.fuses.debugPolicy, fun i hi => blowSvn_testBit _ _ _ (k.fuses.svn i hi)⟩
    · exact k.fuses
theorem State.resetFunctions_keeps {s₀ s : State} (h : s₀.Keeps s) : s₀.Keeps (State.resetFunctions s) := by
  unfold State.resetFunctions
  repeat' first | with_reducible assumption | fail_if_no_progress (with_reducible refine State.Keeps.put ?_ (by with_reducible rfl))
theorem State.afterReset_keeps {s₀ s : State} (h : s₀.Keeps s) : s₀.Keeps s.afterReset :=
  ⟨h.pending, fun _ => rfl, h.free, h.out, h.fuses⟩
theorem State.moduleReset_keeps {s₀ s : State} (h : s₀.Keeps s) : s₀.Keeps (State.moduleReset s) := by
  unfold State.moduleReset
  repeat' first | with_reducible assumption | with_reducible apply State.floodLost_keeps | with_reducible apply State.alert_keeps | with_reducible apply State.resetFunctions_keeps | with_reducible apply State.setThermtrip_keeps | with_reducible apply State.afterReset_keeps | with_reducible apply State.mainOff_keeps | split
theorem execBuReset_keeps {s₀ s : State} {a0 a1} (h : s₀.Keeps s) : s₀.KeepsO (execBuReset a0 a1 s) := by
  unfold execBuReset
  repeat' first | with_reducible assumption | with_reducible apply State.KeepsO.next | with_reducible apply State.blkErr_keeps | with_reducible apply State.moduleReset_keeps | split
theorem execMctpResetMessage_keeps {s₀ s : State} {a0} (h : s₀.Keeps s) : s₀.KeepsO (execMctpResetMessage a0 s) := by
  unfold execMctpResetMessage
  repeat' first | with_reducible assumption | with_reducible apply State.KeepsO.next | with_reducible apply State.moduleReset_keeps | split
theorem execStandbyPowerLoss_keeps {s₀ s : State} (h : s₀.Keeps s) : s₀.KeepsO (execStandbyPowerLoss s) := by
  unfold execStandbyPowerLoss
  apply State.KeepsO.next
  split
  · exact h
  · have k := State.setMainPg_keeps (a1 := false) h
    exact ⟨k.pending, fun _ => rfl, k.free, k.out, h.fuses⟩
theorem execBureauFault_keeps {s₀ s : State} {a0} (h : s₀.Keeps s) : s₀.KeepsO (execBureauFault a0 s) := by
  unfold execBureauFault
  repeat' first | with_reducible assumption | with_reducible apply State.KeepsO.next | with_reducible apply State.goOffline_keeps | with_reducible apply State.record_keeps | split

end Sys2Proof.Machine
end

