-- ==== Sys2Proof/Laws/KeepsReg.lean ====
section
/-! SUPPORT. What the operations of the registers leave as they were. -/

namespace Sys2Proof.Machine

theorem State.writeField_keeps {s₀ s : State} {a1 a2 a3 a4} (h : s₀.Keeps s) : s₀.Keeps (State.writeField s a1 a2 a3 a4) := by
  unfold State.writeField
  repeat' first | with_reducible assumption | with_reducible apply State.blkErr_keeps | split | (extract_lets +onlyGivenNames x; clear_value x; rename' x => y) | fail_if_no_progress (with_reducible refine State.Keeps.put ?_ (by with_reducible rfl))
theorem State.writeStored_keeps {s₀ s : State} {a1 a2 a3 a4} (h : s₀.Keeps s) : s₀.Keeps (State.writeStored s a1 a2 a3 a4) := by
  unfold State.writeStored
  repeat' first | with_reducible assumption | with_reducible apply State.writeField_keeps | with_reducible apply State.Keeps.foldl | (with_reducible intro)
theorem State.dropShadows_keeps {s₀ s : State} {a1} (h : s₀.Keeps s) : s₀.Keeps (State.dropShadows s a1) := by
  unfold State.dropShadows
  repeat' first | with_reducible assumption | fail_if_no_progress (with_reducible refine State.Keeps.put ?_ (by with_reducible rfl))
theorem State.commitAcl_keeps {s₀ s : State} {a1} (h : s₀.Keeps s) : s₀.Keeps (State.commitAcl s a1) := by
  unfold State.commitAcl
  repeat' first | with_reducible assumption | with_reducible apply State.Keeps.foldl | (with_reducible intro) | fail_if_no_progress (with_reducible refine State.Keeps.put ?_ (by with_reducible rfl))
theorem State.committed_keeps {s₀ s : State} {a1 a2} (h : s₀.Keeps s) : s₀.Keeps (State.committed s a1 a2) := by
  unfold State.committed
  repeat' first | with_reducible assumption | with_reducible apply State.setCore_keeps | with_reducible apply State.seedLanes_keeps | with_reducible apply State.leaveService_keeps | with_reducible apply State.trainLink_keeps | with_reducible apply State.yieldRequest_keeps | with_reducible apply State.Keeps.foldl | (with_reducible intro) | split | (extract_lets +onlyGivenNames x; refine State.Keeps.cut (p := s₀.Keeps x) ?_ ?_ <;> [(revert x; dsimp only); (intro hx; clear_value x; rename' x => y, hx => hy)]) | (extract_lets +onlyGivenNames x; clear_value x; rename' x => y) | fail_if_no_progress (with_reducible refine State.Keeps.put ?_ (by with_reducible rfl))
theorem State.takeEffect_keeps {s₀ s : State} {a1} (h : s₀.Keeps s) : s₀.Keeps (State.takeEffect s a1) := by
  unfold State.takeEffect
  repeat' first | with_reducible assumption | with_reducible apply State.count_keeps | with_reducible apply State.modBlk_keeps | with_reducible apply State.blkErr_keeps | with_reducible apply State.dropShadows_keeps | with_reducible apply State.committed_keeps | with_reducible apply State.Keeps.foldl | (with_reducible intro) | split | (extract_lets +onlyGivenNames x; refine State.Keeps.cut (p := s₀.Keeps x) ?_ ?_ <;> [(revert x; dsimp only); (intro hx; clear_value x; rename' x => y, hx => hy)]) | (extract_lets +onlyGivenNames x; clear_value x; rename' x => y) | fail_if_no_progress (with_reducible refine State.Keeps.put ?_ (by with_reducible rfl))
theorem State.commitWrite_keeps {s₀ s : State} {a1 a2} (h : s₀.Keeps s) : s₀.Keeps (State.commitWrite s a1 a2) := by
  unfold State.commitWrite
  repeat' first | with_reducible assumption | with_reducible apply State.blkErr_keeps | with_reducible apply State.modBlk_keeps | with_reducible apply State.commitAcl_keeps | split
theorem execBlkCommit_keeps {s₀ s : State} {a0 a1} (h : s₀.Keeps s) : s₀.KeepsO (execBlkCommit a0 a1 s) := by
  unfold execBlkCommit
  repeat' first | with_reducible assumption | with_reducible apply State.KeepsO.next | with_reducible apply State.commitWrite_keeps | split
theorem execCommitEffectPoint_keeps {s₀ s : State} {a0} (h : s₀.Keeps s) : s₀.KeepsO (execCommitEffectPoint a0 s) := by
  unfold execCommitEffectPoint
  repeat' first | with_reducible assumption | with_reducible apply State.KeepsO.next | with_reducible apply State.takeEffect_keeps | split
theorem State.reloadGroups_keeps {s₀ s : State} {a1 a2} (h : s₀.Keeps s) : s₀.Keeps (State.reloadGroups s a1 a2) := by
  unfold State.reloadGroups
  repeat' first | with_reducible assumption | with_reducible apply State.Keeps.foldl | (with_reducible intro) | split | (extract_lets +onlyGivenNames x; clear_value x; rename' x => y) | fail_if_no_progress (with_reducible refine State.Keeps.put ?_ (by with_reducible rfl))
theorem State.lockWrite_keeps {s₀ s : State} {a1 a2 a3} (h : s₀.Keeps s) : s₀.Keeps (State.lockWrite s a1 a2 a3) := by
  unfold State.lockWrite
  repeat' first | with_reducible assumption | with_reducible apply State.blkErr_keeps | with_reducible apply State.reloadGroups_keeps | with_reducible apply State.modBlk_keeps | split
theorem execBlkLock_keeps {s₀ s : State} {a0 a1 a2} (h : s₀.Keeps s) : s₀.KeepsO (execBlkLock a0 a1 a2 s) := by
  unfold execBlkLock
  repeat' first | with_reducible assumption | with_reducible apply State.KeepsO.next | with_reducible apply State.lockWrite_keeps | split
theorem State.thaw_keeps {s₀ s : State} {a1} (h : s₀.Keeps s) : s₀.Keeps (State.thaw s a1) := by
  unfold State.thaw
  repeat' first | with_reducible assumption | with_reducible apply State.Keeps.foldl | (with_reducible intro) | split | (extract_lets +onlyGivenNames x; clear_value x; rename' x => y) | fail_if_no_progress (with_reducible refine State.Keeps.put ?_ (by with_reducible rfl))
theorem State.ctrlWrite_keeps {s₀ s : State} {a1 a2 a3} (h : s₀.Keeps s) : s₀.Keeps (State.ctrlWrite s a1 a2 a3) := by
  unfold State.ctrlWrite
  repeat' first | with_reducible assumption | with_reducible apply State.modBlk_keeps | with_reducible apply State.blkErr_keeps | with_reducible apply State.thaw_keeps | split | (extract_lets +onlyGivenNames x; clear_value x; rename' x => y)
theorem execStatFreeze_keeps {s₀ s : State} {a0 a1 a2} (h : s₀.Keeps s) : s₀.KeepsO (execStatFreeze a0 a1 a2 s) := by
  unfold execStatFreeze
  repeat' first | with_reducible assumption | with_reducible apply State.KeepsO.next | with_reducible apply State.ctrlWrite_keeps | split
theorem State.watchCap_keeps {s₀ s : State} (h : s₀.Keeps s) : s₀.Keeps (State.watchCap s) := by
  unfold State.watchCap
  repeat' first | with_reducible assumption | split | fail_if_no_progress (with_reducible refine State.Keeps.put ?_ (by with_reducible rfl))
theorem execPowerMeasurement_keeps {s₀ s : State} {a0 a1} (h : s₀.Keeps s) : s₀.KeepsO (execPowerMeasurement a0 a1 s) := by
  unfold execPowerMeasurement
  repeat' first | with_reducible assumption | with_reducible apply State.KeepsO.next | with_reducible apply State.watchCap_keeps | split | (extract_lets +onlyGivenNames x; clear_value x; rename' x => y) | fail_if_no_progress (with_reducible refine State.Keeps.put ?_ (by with_reducible rfl))
theorem execLimiterThresholdTimer_keeps {s₀ s : State} (h : s₀.Keeps s) : s₀.KeepsO (execLimiterThresholdTimer s) := by
  unfold execLimiterThresholdTimer
  repeat' first | with_reducible assumption | with_reducible apply State.KeepsO.next | split | (extract_lets +onlyGivenNames x; clear_value x; rename' x => y) | fail_if_no_progress (with_reducible refine State.Keeps.put ?_ (by with_reducible rfl))
theorem execLimiterSustained_keeps {s₀ s : State} (h : s₀.Keeps s) : s₀.KeepsO (execLimiterSustained s) := by
  unfold execLimiterSustained
  repeat' first | with_reducible assumption | with_reducible apply State.KeepsO.next | with_reducible apply State.record_keeps | split | fail_if_no_progress (with_reducible refine State.Keeps.put ?_ (by with_reducible rfl))
theorem State.writeCap_keeps {s₀ s : State} {a1 a2} (h : s₀.Keeps s) : s₀.Keeps (State.writeCap s a1 a2) := by
  unfold State.writeCap
  repeat' first | with_reducible assumption | with_reducible apply State.writeStored_keeps | with_reducible apply State.watchCap_keeps | split | (extract_lets +onlyGivenNames x; clear_value x; rename' x => y) | fail_if_no_progress (with_reducible refine State.Keeps.put ?_ (by with_reducible rfl))
theorem execPwrCtrl_keeps {s₀ s : State} {a0 a1} (h : s₀.Keeps s) : s₀.KeepsO (execPwrCtrl a0 a1 s) := by
  unfold execPwrCtrl
  repeat' first | with_reducible assumption | with_reducible apply State.KeepsO.next | with_reducible apply State.writeCap_keeps
theorem State.setClock_keeps {s₀ s : State} {a1 a2} (h : s₀.Keeps s) : s₀.Keeps (State.setClock s a1 a2) := by
  unfold State.setClock
  repeat' first | with_reducible assumption | fail_if_no_progress (with_reducible refine State.Keeps.put ?_ (by with_reducible rfl))
theorem execClockControllerAdjust_keeps {s₀ s : State} (h : s₀.Keeps s) : s₀.KeepsO (execClockControllerAdjust s) := by
  unfold execClockControllerAdjust
  repeat' first | with_reducible assumption | with_reducible apply State.KeepsO.next | with_reducible apply State.setClock_keeps | with_reducible apply State.drawn_keeps | with_reducible apply State.Keeps.foldl | (with_reducible intro) | split
theorem execInputVoltageFault_keeps {s₀ s : State} (h : s₀.Keeps s) : s₀.KeepsO (execInputVoltageFault s) := by
  unfold execInputVoltageFault
  repeat' first | with_reducible assumption | with_reducible apply State.KeepsO.next | with_reducible apply State.record_keeps | with_reducible apply State.mainOff_keeps | with_reducible apply State.goOffline_keeps | split
theorem State.judgeSensor_keeps {s₀ s : State} {a1} (h : s₀.Keeps s) : s₀.Keeps (State.judgeSensor s a1) := by
  unfold State.judgeSensor
  repeat' first | with_reducible assumption | with_reducible apply State.record_keeps | with_reducible apply State.setClock_keeps | split | (extract_lets +onlyGivenNames x; refine State.Keeps.cut (p := s₀.Keeps x) ?_ ?_ <;> [(revert x; dsimp only); (intro hx; clear_value x; rename' x => y, hx => hy)]) | (extract_lets +onlyGivenNames x; clear_value x; rename' x => y) | fail_if_no_progress (with_reducible refine State.Keeps.put ?_ (by with_reducible rfl))
theorem State.throttleRec_keeps {s₀ s : State} {a1} (h : s₀.Keeps s) : s₀.Keeps (State.throttleRec s a1) := by
  unfold State.throttleRec
  repeat' first | with_reducible assumption | with_reducible apply State.record_keeps | split | (extract_lets +onlyGivenNames x; clear_value x; rename' x => y) | fail_if_no_progress (with_reducible refine State.Keeps.put ?_ (by with_reducible rfl))
theorem State.throttle_keeps {s₀ s : State} {a1} (h : s₀.Keeps s) : s₀.Keeps (State.throttle s a1) := by
  unfold State.throttle
  repeat' first | with_reducible assumption | with_reducible apply State.setClock_keeps | with_reducible apply State.drawn_keeps | with_reducible apply State.throttleRec_keeps | split | (extract_lets +onlyGivenNames x; refine State.Keeps.cut (p := s₀.Keeps x) ?_ ?_ <;> [(revert x; dsimp only); (intro hx; clear_value x; rename' x => y, hx => hy)]) | (extract_lets +onlyGivenNames x; clear_value x; rename' x => y) | fail_if_no_progress (with_reducible refine State.Keeps.put ?_ (by with_reducible rfl))
theorem State.cooled_keeps {s₀ s : State} {a1} (h : s₀.Keeps s) : s₀.Keeps (State.cooled s a1) := by
  unfold State.cooled
  repeat' first | with_reducible assumption | fail_if_no_progress (with_reducible refine State.Keeps.put ?_ (by with_reducible rfl))
theorem State.unthrottle_keeps {s₀ s : State} {a1} (h : s₀.Keeps s) : s₀.Keeps (State.unthrottle s a1) := by
  unfold State.unthrottle
  repeat' first | with_reducible assumption | with_reducible apply State.cooled_keeps | split | (extract_lets +onlyGivenNames x; refine State.Keeps.cut (p := s₀.Keeps x) ?_ ?_ <;> [(revert x; dsimp only); (intro hx; clear_value x; rename' x => y, hx => hy)]) | (extract_lets +onlyGivenNames x; clear_value x; rename' x => y) | fail_if_no_progress (with_reducible refine State.Keeps.put ?_ (by with_reducible rfl))
theorem execSensorReading_keeps {s₀ s : State} {a0 a1 a2} (h : s₀.Keeps s) : s₀.KeepsO (execSensorReading a0 a1 a2 s) := by
  unfold execSensorReading
  repeat' first | with_reducible assumption | with_reducible apply State.KeepsO.next | with_reducible apply State.judgeSensor_keeps | with_reducible apply State.throttle_keeps | with_reducible apply State.unthrottle_keeps | with_reducible apply State.Keeps.foldl | (with_reducible intro) | split | (extract_lets +onlyGivenNames x; refine State.Keeps.cut (p := s₀.Keeps x) ?_ ?_ <;> [(revert x; dsimp only); (intro hx; clear_value x; rename' x => y, hx => hy)]) | (extract_lets +onlyGivenNames x; clear_value x; rename' x => y) | fail_if_no_progress (with_reducible refine State.Keeps.put ?_ (by with_reducible rfl))
theorem execThrottleRecordRepeat_keeps {s₀ s : State} {a0} (h : s₀.Keeps s) : s₀.KeepsO (execThrottleRecordRepeat a0 s) := by
  unfold execThrottleRecordRepeat
  repeat' first | with_reducible assumption | with_reducible apply State.KeepsO.next | with_reducible apply State.throttleRec_keeps | split
theorem execThermalTrip_keeps {s₀ s : State} {a0} (h : s₀.Keeps s) : s₀.KeepsO (execThermalTrip a0 s) := by
  unfold execThermalTrip
  repeat' first | with_reducible assumption | with_reducible apply State.KeepsO.next | with_reducible apply State.setThermtrip_keeps | with_reducible apply State.alert_keeps | with_reducible apply State.mainOff_keeps | with_reducible apply State.goOffline_keeps | with_reducible apply State.record_keeps | split | (extract_lets +onlyGivenNames x; clear_value x; rename' x => y) | fail_if_no_progress (with_reducible refine State.Keeps.put ?_ (by with_reducible rfl))
theorem State.pageRefused_keeps {s₀ s : State} {a1 a2 a3 a4} (h : s₀.Keeps s) : s₀.Keeps (State.pageRefused s a1 a2 a3 a4) := by
  unfold State.pageRefused
  repeat' first | with_reducible assumption | with_reducible apply State.record_keeps
theorem State.readWord_keeps {s₀ s : State} {a1 a2 a3 a4} (h : s₀.Keeps s) : s₀.KeepsR (State.readWord s a1 a2 a3 a4) := by
  unfold State.readWord
  repeat' first | with_reducible assumption | with_reducible apply State.blkErr_keeps | split | (extract_lets +onlyGivenNames x; clear_value x; rename' x => y) | with_reducible apply State.KeepsR.mk | fail_if_no_progress (with_reducible refine State.Keeps.put ?_ (by with_reducible rfl))
theorem State.readRegs_keeps {s₀ s : State} {a1 a2 a3 a4} (h : s₀.Keeps s) : s₀.KeepsR (State.readRegs s a1 a2 a3 a4) := by
  unfold State.readRegs
  repeat' first | with_reducible assumption | with_reducible apply State.KeepsL.proj | with_reducible apply State.KeepsL.foldl | with_reducible apply State.blkErr_keeps | with_reducible apply State.readWord_keeps | split | (extract_lets +onlyGivenNames x; refine State.Keeps.cut (p := s₀.KeepsR x) ?_ ?_ <;> [(revert x; dsimp only); (intro hx; clear_value x; rename' x => y, hx => hy)]) | (extract_lets +onlyGivenNames x; clear_value x; rename' x => y) | with_reducible apply State.KeepsR.proj | with_reducible refine State.KeepsR.snd (by with_reducible assumption) ?_ | with_reducible apply State.KeepsL.mk | with_reducible apply State.KeepsR.mk
theorem State.readDrawn_keeps {s₀ s : State} {a1 a2} (h : s₀.Keeps s) : s₀.Keeps (State.readDrawn s a1 a2) := by
  unfold State.readDrawn
  repeat' first | with_reducible assumption | with_reducible apply State.drawn_keeps | split
theorem State.regRead_keeps {s₀ s : State} {a1 a2 a3} (h : s₀.Keeps s) : s₀.KeepsR (s.regRead a1 a2 a3) := by
  rw [State.regRead]
  generalize a2 / 4096 % 16384 = page
  dsimp only
  generalize s.pageRefuses _ _ _ = o
  cases o with
  | some c => exact State.KeepsR.mk (State.pageRefused_keeps h)
  | none => exact State.KeepsR.mk (State.readDrawn_keeps (State.KeepsR.proj (State.readRegs_keeps h)))
theorem nextOf_keeps {s₀ s : State} {o : Host.Outcome State Fault Refusal} (h : s₀.Keeps s) (ho : s₀.KeepsO o) : s₀.Keeps (nextOf o s) := by
  cases o with
  | next t => exact ho t rfl
  | _ => exact h
theorem State.collectWO_keeps {s₀ s : State} {a1 a2 a3 a4 f5} (h : s₀.Keeps s) (hf5 : ∀ x s, s₀.Keeps s → s₀.Keeps (f5 x s)) : s₀.Keeps (State.collectWO s a1 a2 a3 a4 f5) := by
  unfold State.collectWO
  repeat' first | with_reducible assumption | with_reducible apply hf5 | (with_reducible intro) | split | (extract_lets +onlyGivenNames x; refine State.Keeps.cut (p := s₀.Keeps x) ?_ ?_ <;> [(revert x; dsimp only); (intro hx; clear_value x; rename' x => y, hx => hy)]) | (extract_lets +onlyGivenNames x; clear_value x; rename' x => y) | fail_if_no_progress (with_reducible refine State.Keeps.put ?_ (by with_reducible rfl))
theorem State.writeHeader_keeps {s₀ s : State} {a1 a2 a3 a4} (h : s₀.Keeps s) : s₀.Keeps (State.writeHeader s a1 a2 a3 a4) := by
  unfold State.writeHeader
  repeat' first | with_reducible assumption | with_reducible apply State.ctrlWrite_keeps | with_reducible apply State.modBlk_keeps | with_reducible apply State.commitWrite_keeps | with_reducible apply State.lockWrite_keeps | split
theorem State.writeAcl_keeps {s₀ s : State} {a1 a2 a3 a4} (h : s₀.Keeps s) : s₀.Keeps (State.writeAcl s a1 a2 a3 a4) := by
  unfold State.writeAcl
  repeat' first | with_reducible assumption | with_reducible apply State.modBlk_keeps | with_reducible apply State.blkErr_keeps | split | (extract_lets +onlyGivenNames x; clear_value x; rename' x => y) | fail_if_no_progress (with_reducible refine State.Keeps.put ?_ (by with_reducible rfl))
theorem State.runCommand_keeps {s₀ s : State} {a1 a2 a3} (h : s₀.Keeps s) : s₀.Keeps (State.runCommand s a1 a2 a3) := by
  unfold State.runCommand
  repeat' first | with_reducible assumption | with_reducible apply nextOf_keeps | with_reducible apply execLoadBegin_keeps | with_reducible apply execLoad_keeps | with_reducible apply execRestore_keeps | with_reducible apply execUnload_keeps | with_reducible apply execResume_keeps | with_reducible apply execYield_keeps | with_reducible apply execRestart_keeps | with_reducible apply execEvict_keeps | with_reducible apply execJoin_keeps | with_reducible apply execLeave_keeps | with_reducible apply execVerOpen_keeps | with_reducible apply execVerPublish_keeps | with_reducible apply execEvalBind_keeps | with_reducible apply execEvalRelease_keeps | with_reducible apply State.command_keeps | with_reducible apply State.cmdDone_keeps | (with_reducible intro) | split
theorem State.stoppedWrite_keeps {s₀ s : State} {a1 a2 f3} (h : s₀.Keeps s) (hf3 : ∀ s, s₀.Keeps s → s₀.Keeps (f3 s)) : s₀.Keeps (State.stoppedWrite s a1 a2 f3) := by
  unfold State.stoppedWrite
  repeat' first | with_reducible assumption | with_reducible apply hf3 | with_reducible apply State.blkErr_keeps | (with_reducible intro) | split
theorem State.writeDiglog_keeps {s₀ s : State} {a1 a2} (h : s₀.Keeps s) : s₀.Keeps (State.writeDiglog s a1 a2) := by
  unfold State.writeDiglog
  repeat' first | with_reducible assumption | with_reducible apply State.blkErr_keeps | split | (extract_lets +onlyGivenNames x; refine State.Keeps.cut (p := s₀.Keeps x) ?_ ?_ <;> [(revert x; dsimp only); (intro hx; clear_value x; rename' x => y, hx => hy)]) | (extract_lets +onlyGivenNames x; clear_value x; rename' x => y) | fail_if_no_progress (with_reducible refine State.Keeps.put ?_ (by with_reducible rfl))
theorem State.writeRcpt_keeps {s₀ s : State} {a1 a2} (h : s₀.Keeps s) : s₀.Keeps (State.writeRcpt s a1 a2) := by
  unfold State.writeRcpt
  repeat' first | with_reducible assumption | with_reducible apply State.blkErr_keeps | split | (extract_lets +onlyGivenNames x; clear_value x; rename' x => y) | fail_if_no_progress (with_reducible refine State.Keeps.put ?_ (by with_reducible rfl))
theorem State.writeCtx_keeps {s₀ s : State} {a1 a2 a3 a4} (h : s₀.Keeps s) : s₀.Keeps (State.writeCtx s a1 a2 a3 a4) := by
  unfold State.writeCtx
  repeat' first | with_reducible assumption | with_reducible apply State.stoppedWrite_keeps | with_reducible apply State.modCtx_keeps | with_reducible apply nextOf_keeps | with_reducible apply execCollectiveQueueTail_keeps | with_reducible apply State.collectWO_keeps | with_reducible apply execCtxDoorbell_keeps | with_reducible apply State.runCommand_keeps | with_reducible apply execCtxSig_keeps | with_reducible apply State.writeStored_keeps | with_reducible apply State.external_keeps | with_reducible apply State.writeDiglog_keeps | with_reducible apply State.writeRcpt_keeps | with_reducible apply execCtxRcptReadAdvance_keeps | with_reducible apply State.Keeps.foldl | (with_reducible intro) | split
theorem State.writeFwd_keeps {s₀ s : State} {a1 a2 a3 a4} (h : s₀.Keeps s) : s₀.Keeps (State.writeFwd s a1 a2 a3 a4) := by
  unfold State.writeFwd
  repeat' first | with_reducible assumption | split | (extract_lets +onlyGivenNames x; clear_value x; rename' x => y) | fail_if_no_progress (with_reducible refine State.Keeps.put ?_ (by with_reducible rfl))
theorem State.writeWatch_keeps {s₀ s : State} {a1 a2 a3 a4} (h : s₀.Keeps s) : s₀.Keeps (State.writeWatch s a1 a2 a3 a4) := by
  unfold State.writeWatch
  repeat' first | with_reducible assumption | with_reducible apply State.writeStored_keeps | with_reducible apply State.blkErr_keeps | with_reducible apply State.Keeps.foldl | (with_reducible intro) | split | (extract_lets +onlyGivenNames x; refine State.Keeps.cut (p := s₀.Keeps x) ?_ ?_ <;> [(revert x; dsimp only); (intro hx; clear_value x; rename' x => y, hx => hy)]) | fail_if_no_progress (with_reducible refine State.Keeps.put ?_ (by with_reducible rfl))
theorem State.writeLnkCtrl_keeps {s₀ s : State} {a1 a2 a3} (h : s₀.Keeps s) : s₀.Keeps (State.writeLnkCtrl s a1 a2 a3) := by
  unfold State.writeLnkCtrl
  repeat' first | with_reducible assumption | with_reducible apply State.writeStored_keeps | with_reducible apply nextOf_keeps | with_reducible apply execLnkCtrlRetrain_keeps | split
theorem State.clearConflict_keeps {s₀ s : State} {a1 a2} (h : s₀.Keeps s) : s₀.Keeps (State.clearConflict s a1 a2) := by
  unfold State.clearConflict
  repeat' first | with_reducible assumption | split | fail_if_no_progress (with_reducible refine State.Keeps.put ?_ (by with_reducible rfl))
theorem State.writeReg_keeps {s₀ s : State} {a1 a2 a3 a4} (h : s₀.Keeps s) : s₀.Keeps (State.writeReg s a1 a2 a3 a4) := by
  unfold State.writeReg
  repeat' first | with_reducible assumption | with_reducible apply State.writeHeader_keeps | with_reducible apply State.writeAcl_keeps | with_reducible apply State.writeCtx_keeps | with_reducible apply State.writeFenceCtrl_keeps | with_reducible apply nextOf_keeps | with_reducible apply execBuReset_keeps | with_reducible apply State.writeStored_keeps | with_reducible apply State.writeCap_keeps | with_reducible apply State.clearConflict_keeps | with_reducible apply execSyncDbgSel_keeps | with_reducible apply State.writeFwd_keeps | with_reducible apply State.writeWatch_keeps | with_reducible apply State.writeLnkCtrl_keeps | with_reducible apply State.Keeps.foldl | (with_reducible intro) | split | (extract_lets +onlyGivenNames x; clear_value x; rename' x => y)
theorem State.writeImem_keeps {s₀ s : State} {a1 a2 a3 a4} (h : s₀.Keeps s) : s₀.Keeps (State.writeImem s a1 a2 a3 a4) := by
  unfold State.writeImem
  repeat' first | with_reducible assumption | with_reducible apply State.blkErr_keeps | with_reducible apply State.setCore_keeps | split | (extract_lets +onlyGivenNames x; clear_value x; rename' x => y)
theorem State.writeOne_keeps {s₀ s : State} {a1 a2 a3 a4} (h : s₀.Keeps s) : s₀.Keeps (State.writeOne s a1 a2 a3 a4) := by
  unfold State.writeOne
  repeat' first | with_reducible assumption | with_reducible apply State.blkErr_keeps | with_reducible apply State.writeReg_keeps | split
theorem State.writeRegs_keeps {s₀ s : State} {a1 a2 a3 a4} (h : s₀.Keeps s) : s₀.Keeps (State.writeRegs s a1 a2 a3 a4) := by
  unfold State.writeRegs
  repeat' first | with_reducible assumption | with_reducible apply State.blkErr_keeps | with_reducible apply State.writeImem_keeps | with_reducible apply State.writeOne_keeps | with_reducible apply State.writeReg_keeps | split | (extract_lets +onlyGivenNames x; clear_value x; rename' x => y)
theorem State.regWrite_keeps {s₀ s : State} {a1 a2 a3} (h : s₀.Keeps s) : s₀.KeepsR (s.regWrite a1 a2 a3) := by
  rw [State.regWrite]
  generalize a2 / 4096 % 16384 = page
  generalize s.pageRefuses _ _ _ = o
  cases o with
  | some c => exact State.KeepsR.mk (State.pageRefused_keeps h)
  | none => exact State.KeepsR.mk (State.writeRegs_keeps h)
theorem execRegisterWrite_keeps {s₀ s : State} {a0 a1 a2} (h : s₀.Keeps s) : s₀.KeepsO (execRegisterWrite a0 a1 a2 s) := by
  unfold execRegisterWrite
  repeat' first | with_reducible assumption | with_reducible apply State.KeepsO.next | with_reducible apply State.regWrite_keeps | split | with_reducible apply State.KeepsR.proj
theorem execRegisterReadLatch_keeps {s₀ s : State} {a0 a1 a2} (h : s₀.Keeps s) : s₀.KeepsO (execRegisterReadLatch a0 a1 a2 s) := by
  unfold execRegisterReadLatch
  repeat' first | with_reducible assumption | with_reducible apply State.KeepsO.next | with_reducible apply State.regRead_keeps | with_reducible apply State.hostAnswer_keeps | with_reducible apply State.hostRefused_keeps | split | (extract_lets +onlyGivenNames x; refine State.Keeps.cut (p := s₀.KeepsR x) ?_ ?_ <;> [(revert x; dsimp only); (intro hx; clear_value x; rename' x => y, hx => hy)]) | with_reducible apply State.KeepsR.proj

end Sys2Proof.Machine
end

