-- ==== Sys2Proof/Laws/KeepsMgmt.lean ====
section
/-! SUPPORT. What the operations of management and the host port leave as they were. -/

namespace Sys2Proof.Machine

theorem State.updateResult_keeps {s₀ s : State} {a1 a2} (h : s₀.Keeps s) : s₀.Keeps (State.updateResult s a1 a2) := by
  unfold State.updateResult
  repeat' first | with_reducible assumption | with_reducible apply State.emit_keeps | with_reducible apply State.record_keeps
theorem State.updateFailed_keeps {s₀ s : State} {a1} (h : s₀.Keeps s) : s₀.Keeps (State.updateFailed s a1) := by
  unfold State.updateFailed
  repeat' first | with_reducible assumption | with_reducible apply State.drawn_keeps | with_reducible apply State.updateResult_keeps
theorem execFirmwareUpdate_keeps {s₀ s : State} {a0 a1 a2} (h : s₀.Keeps s) : s₀.KeepsO (execFirmwareUpdate a0 a1 a2 s) := by
  unfold execFirmwareUpdate
  repeat' first | with_reducible assumption | with_reducible apply State.KeepsO.next | with_reducible apply State.updateFailed_keeps | with_reducible apply State.updateResult_keeps | split | (extract_lets +onlyGivenNames x; refine State.Keeps.cut (p := s₀.Keeps x) ?_ ?_ <;> [(revert x; dsimp only); (intro hx; clear_value x; rename' x => y, hx => hy)]) | (extract_lets +onlyGivenNames x; refine State.Keeps.cut (p := s₀.root.fuses.Kept x.fuses) ?_ ?_ <;> [(revert x; dsimp only); (intro hx; clear_value x; rename' x => y, hx => hy)]) | with_reducible apply State.Keeps.fuses | with_reducible refine State.Keeps.putRoot ?_ (by with_reducible assumption)
theorem execRecoveryImageReceive_keeps {s₀ s : State} {a0} (h : s₀.Keeps s) : s₀.KeepsO (execRecoveryImageReceive a0 s) := by
  unfold execRecoveryImageReceive
  repeat' first | with_reducible assumption | with_reducible apply State.KeepsO.next | with_reducible apply State.moduleReset_keeps | split | with_reducible apply State.Keeps.fuses | with_reducible refine State.Keeps.putRoot ?_ (by with_reducible assumption) | fail_if_no_progress (with_reducible refine State.Keeps.put ?_ (by with_reducible rfl))
theorem execMctpControl_keeps {s₀ s : State} {a0 a1} (h : s₀.Keeps s) : s₀.KeepsO (execMctpControl a0 a1 s) := by
  unfold execMctpControl
  repeat' first | with_reducible assumption | with_reducible apply State.KeepsO.next | with_reducible apply State.emit_keeps | split | (extract_lets +onlyGivenNames x; clear_value x; rename' x => y) | fail_if_no_progress (with_reducible refine State.Keeps.put ?_ (by with_reducible rfl))
theorem execPldmBase_keeps {s₀ s : State} {a0 a1} (h : s₀.Keeps s) : s₀.KeepsO (execPldmBase a0 a1 s) := by
  unfold execPldmBase
  repeat' first | with_reducible assumption | with_reducible apply State.KeepsO.next | with_reducible apply State.emit_keeps | with_reducible apply State.drawn_keeps | split | (extract_lets +onlyGivenNames x; clear_value x; rename' x => y) | fail_if_no_progress (with_reducible refine State.Keeps.put ?_ (by with_reducible rfl))
theorem execPldmMonitoring_keeps {s₀ s : State} {a0 a1} (h : s₀.Keeps s) : s₀.KeepsO (execPldmMonitoring a0 a1 s) := by
  unfold execPldmMonitoring
  repeat' first | with_reducible assumption | with_reducible apply State.KeepsO.next | with_reducible apply State.emit_keeps | split | (extract_lets +onlyGivenNames x; clear_value x; rename' x => y) | (dsimp only [id_eq]) | fail_if_no_progress (with_reducible refine State.Keeps.put ?_ (by with_reducible rfl))
theorem execPldmFruData_keeps {s₀ s : State} {a0 a1} (h : s₀.Keeps s) : s₀.KeepsO (execPldmFruData a0 a1 s) := by
  unfold execPldmFruData
  repeat' first | with_reducible assumption | with_reducible apply State.KeepsO.next | with_reducible apply State.emit_keeps | split
theorem State.spdm_keeps {s₀ s : State} {a1} (h : s₀.Keeps s) : s₀.Keeps (State.spdm s a1) := by
  unfold State.spdm
  repeat' first | with_reducible assumption | with_reducible apply State.emit_keeps
theorem State.spdmError_keeps {s₀ s : State} {a1} (h : s₀.Keeps s) : s₀.Keeps (State.spdmError s a1) := by
  unfold State.spdmError
  repeat' first | with_reducible assumption | with_reducible apply State.spdm_keeps
theorem execGetVersion_keeps {s₀ s : State} (h : s₀.Keeps s) : s₀.KeepsO (execGetVersion s) := by
  unfold execGetVersion
  repeat' first | with_reducible assumption | with_reducible apply State.KeepsO.next | with_reducible apply State.spdm_keeps | split | (extract_lets +onlyGivenNames x; clear_value x; rename' x => y) | fail_if_no_progress (with_reducible refine State.Keeps.put ?_ (by with_reducible rfl))
theorem execGetCapabilities_keeps {s₀ s : State} {a0 a1} (h : s₀.Keeps s) : s₀.KeepsO (execGetCapabilities a0 a1 s) := by
  unfold execGetCapabilities
  repeat' first | with_reducible assumption | with_reducible apply State.KeepsO.next | with_reducible apply State.spdmError_keeps | with_reducible apply State.spdm_keeps | split | (extract_lets +onlyGivenNames x; clear_value x; rename' x => y) | fail_if_no_progress (with_reducible refine State.Keeps.put ?_ (by with_reducible rfl))
theorem execNegotiateAlgorithms_keeps {s₀ s : State} {a0} (h : s₀.Keeps s) : s₀.KeepsO (execNegotiateAlgorithms a0 s) := by
  unfold execNegotiateAlgorithms
  repeat' first | with_reducible assumption | with_reducible apply State.KeepsO.next | with_reducible apply State.spdmError_keeps | with_reducible apply State.spdm_keeps | split | (extract_lets +onlyGivenNames x; clear_value x; rename' x => y) | fail_if_no_progress (with_reducible refine State.Keeps.put ?_ (by with_reducible rfl))
theorem State.spdmReady_keeps {s₀ s : State} {f1} (h : s₀.Keeps s) (hf1 : ∀ s, s₀.Keeps s → s₀.Keeps (f1 s)) : s₀.Keeps (State.spdmReady s f1) := by
  unfold State.spdmReady
  repeat' first | with_reducible assumption | with_reducible apply hf1 | with_reducible apply State.spdmError_keeps | (with_reducible intro) | split
theorem execGetDigests_keeps {s₀ s : State} (h : s₀.Keeps s) : s₀.KeepsO (execGetDigests s) := by
  unfold execGetDigests
  repeat' first | with_reducible assumption | with_reducible apply State.KeepsO.next | with_reducible apply State.spdmReady_keeps | with_reducible apply State.spdm_keeps | (with_reducible intro) | (extract_lets +onlyGivenNames x; clear_value x; rename' x => y) | fail_if_no_progress (with_reducible refine State.Keeps.put ?_ (by with_reducible rfl))
theorem execGetCertificate_keeps {s₀ s : State} {a0 a1 a2} (h : s₀.Keeps s) : s₀.KeepsO (execGetCertificate a0 a1 a2 s) := by
  unfold execGetCertificate
  repeat' first | with_reducible assumption | with_reducible apply State.KeepsO.next | with_reducible apply State.spdmReady_keeps | with_reducible apply State.spdmError_keeps | with_reducible apply State.spdm_keeps | (with_reducible intro) | split | (extract_lets +onlyGivenNames x; clear_value x; rename' x => y) | fail_if_no_progress (with_reducible refine State.Keeps.put ?_ (by with_reducible rfl))
theorem execChallenge_keeps {s₀ s : State} {a0 a1 a2} (h : s₀.Keeps s) : s₀.KeepsO (execChallenge a0 a1 a2 s) := by
  unfold execChallenge
  repeat' first | with_reducible assumption | with_reducible apply State.KeepsO.next | with_reducible apply State.spdmReady_keeps | with_reducible apply State.spdmError_keeps | with_reducible apply State.drawBytes_keeps | with_reducible apply State.spdm_keeps | (with_reducible intro) | split | (extract_lets +onlyGivenNames x; clear_value x; rename' x => y) | with_reducible apply State.KeepsR.proj | with_reducible refine State.KeepsR.snd (by with_reducible assumption) ?_ | fail_if_no_progress (with_reducible refine State.Keeps.put ?_ (by with_reducible rfl))
theorem execGetMeasurements_keeps {s₀ s : State} {a0 a1 a2 a3} (h : s₀.Keeps s) : s₀.KeepsO (execGetMeasurements a0 a1 a2 a3 s) := by
  unfold execGetMeasurements
  repeat' first | with_reducible assumption | with_reducible apply State.KeepsO.next | with_reducible apply State.spdmReady_keeps | with_reducible apply State.spdmError_keeps | with_reducible apply State.drawBytes_keeps | with_reducible apply State.spdm_keeps | (with_reducible intro) | split | (extract_lets +onlyGivenNames x; clear_value x; rename' x => y) | with_reducible apply State.KeepsR.proj | with_reducible refine State.KeepsR.snd (by with_reducible assumption) ?_ | fail_if_no_progress (with_reducible refine State.Keeps.put ?_ (by with_reducible rfl))
theorem State.lectern_keeps {s₀ s : State} {a1 a2} (h : s₀.Keeps s) : s₀.Keeps (State.lectern s a1 a2) := by
  unfold State.lectern
  repeat' first | with_reducible assumption | with_reducible apply State.emit_keeps
theorem execLecternNonceRequest_keeps {s₀ s : State} (h : s₀.Keeps s) : s₀.KeepsO (execLecternNonceRequest s) := by
  unfold execLecternNonceRequest
  repeat' first | with_reducible assumption | with_reducible apply State.KeepsO.next | with_reducible apply State.drawBytes_keeps | with_reducible apply State.lectern_keeps | split | (extract_lets +onlyGivenNames x; clear_value x; rename' x => y) | with_reducible apply State.KeepsR.proj | with_reducible refine State.KeepsR.snd (by with_reducible assumption) ?_ | fail_if_no_progress (with_reducible refine State.Keeps.put ?_ (by with_reducible rfl))
theorem execLecternUnlock_keeps {s₀ s : State} {a0} (h : s₀.Keeps s) : s₀.KeepsO (execLecternUnlock a0 s) := by
  unfold execLecternUnlock
  repeat' first | with_reducible assumption | with_reducible apply State.KeepsO.next | with_reducible apply State.record_keeps | with_reducible apply State.drawn_keeps | split | (extract_lets +onlyGivenNames x; clear_value x; rename' x => y) | fail_if_no_progress (with_reducible refine State.Keeps.put ?_ (by with_reducible rfl))
theorem State.lecternShut_keeps {s₀ s : State} (h : s₀.Keeps s) : s₀.Keeps (State.lecternShut s) := by
  unfold State.lecternShut
  repeat' first | with_reducible assumption | fail_if_no_progress (with_reducible refine State.Keeps.put ?_ (by with_reducible rfl))
theorem execLecternClose_keeps {s₀ s : State} (h : s₀.Keeps s) : s₀.KeepsO (execLecternClose s) := by
  unfold execLecternClose
  repeat' first | with_reducible assumption | with_reducible apply State.KeepsO.next | with_reducible apply State.lecternShut_keeps | split
theorem execLecternExpiry_keeps {s₀ s : State} (h : s₀.Keeps s) : s₀.KeepsO (execLecternExpiry s) := by
  unfold execLecternExpiry
  repeat' first | with_reducible assumption | with_reducible apply State.KeepsO.next | with_reducible apply State.lecternShut_keeps | split
theorem State.byLectern_keeps {s₀ s : State} {a1 f2} (h : s₀.Keeps s) (hf2 : ∀ s, s₀.Keeps s → s₀.Keeps (f2 s)) : s₀.Keeps (State.byLectern s a1 f2) := by
  unfold State.byLectern
  repeat' first | with_reducible assumption | with_reducible apply hf2 | (with_reducible intro) | split
theorem execLecternHalt_keeps {s₀ s : State} {a0} (h : s₀.Keeps s) : s₀.KeepsO (execLecternHalt a0 s) := by
  unfold execLecternHalt
  repeat' first | with_reducible assumption | with_reducible apply State.KeepsO.next | with_reducible apply State.byLectern_keeps | with_reducible apply State.setCore_keeps | (with_reducible intro) | split
theorem execLecternSingleStep_keeps {s₀ s : State} {a0} (h : s₀.Keeps s) : s₀.KeepsO (execLecternSingleStep a0 s) := by
  unfold execLecternSingleStep
  repeat' first | with_reducible assumption | with_reducible apply State.KeepsO.next | with_reducible apply State.byLectern_keeps | with_reducible apply State.setCore_keeps | (with_reducible intro) | split | (extract_lets +onlyGivenNames x; clear_value x; rename' x => y)
theorem execLecternRead_keeps {s₀ s : State} {a0 a1} (h : s₀.Keeps s) : s₀.KeepsO (execLecternRead a0 a1 s) := by
  unfold execLecternRead
  repeat' first | with_reducible assumption | with_reducible apply State.KeepsO.next | with_reducible apply State.byLectern_keeps | with_reducible apply State.regRead_keeps | with_reducible apply State.lectern_keeps | with_reducible apply State.record_keeps | with_reducible apply State.containLine_keeps | (with_reducible intro) | split | (extract_lets +onlyGivenNames x; refine State.Keeps.cut (p := s₀.KeepsR x) ?_ ?_ <;> [(revert x; dsimp only); (intro hx; clear_value x; rename' x => y, hx => hy)]) | with_reducible apply State.KeepsR.proj
theorem execLecternWrite_keeps {s₀ s : State} {a0 a1} (h : s₀.Keeps s) : s₀.KeepsO (execLecternWrite a0 a1 s) := by
  unfold execLecternWrite
  repeat' first | with_reducible assumption | with_reducible apply State.KeepsO.next | with_reducible apply State.byLectern_keeps | with_reducible apply State.regWrite_keeps | with_reducible apply State.record_keeps | with_reducible apply State.external_keeps | with_reducible apply State.devWrite_keeps | with_reducible apply State.notifyWaiters_keeps | with_reducible apply State.setCtr_keeps | with_reducible apply State.setCore_keeps | with_reducible apply State.modCtx_keeps | with_reducible apply State.Keeps.foldl | with_reducible apply State.KeepsR.foldl | (with_reducible intro) | split | (extract_lets +onlyGivenNames x; clear_value x; rename' x => y) | with_reducible apply State.KeepsR.proj
theorem State.jtagSelect_keeps {s₀ s : State} {a1} (h : s₀.Keeps s) : s₀.Keeps (State.jtagSelect s a1) := by
  unfold State.jtagSelect
  repeat' first | with_reducible assumption | with_reducible apply State.emit_keeps | split | (extract_lets +onlyGivenNames x; refine State.Keeps.cut (p := s₀.Keeps x) ?_ ?_ <;> [(revert x; dsimp only); (intro hx; clear_value x; rename' x => y, hx => hy)]) | (extract_lets +onlyGivenNames x; clear_value x; rename' x => y) | fail_if_no_progress (with_reducible refine State.Keeps.put ?_ (by with_reducible rfl))
theorem execJtagBypass_keeps {s₀ s : State} {a0} (h : s₀.Keeps s) : s₀.KeepsO (execJtagBypass a0 s) := by
  unfold execJtagBypass
  repeat' first | with_reducible assumption | with_reducible apply State.KeepsO.next | with_reducible apply State.jtagSelect_keeps | with_reducible apply State.emit_keeps | split | (extract_lets +onlyGivenNames x; clear_value x; rename' x => y) | fail_if_no_progress (with_reducible refine State.Keeps.put ?_ (by with_reducible rfl))
theorem execJtagIdcode_keeps {s₀ s : State} (h : s₀.Keeps s) : s₀.KeepsO (execJtagIdcode s) := by
  unfold execJtagIdcode
  repeat' first | with_reducible assumption | with_reducible apply State.KeepsO.next | with_reducible apply State.emit_keeps | with_reducible apply State.jtagSelect_keeps | split
theorem execJtagSamplePreload_keeps {s₀ s : State} {a0} (h : s₀.Keeps s) : s₀.KeepsO (execJtagSamplePreload a0 s) := by
  unfold execJtagSamplePreload
  repeat' first | with_reducible assumption | with_reducible apply State.KeepsO.next | with_reducible apply State.jtagSelect_keeps | with_reducible apply State.emit_keeps | split | (extract_lets +onlyGivenNames x; refine State.Keeps.cut (p := s₀.Keeps x) ?_ ?_ <;> [(revert x; dsimp only); (intro hx; clear_value x; rename' x => y, hx => hy)]) | (extract_lets +onlyGivenNames x; clear_value x; rename' x => y) | fail_if_no_progress (with_reducible refine State.Keeps.put ?_ (by with_reducible rfl))
theorem execJtagExtest_keeps {s₀ s : State} (h : s₀.Keeps s) : s₀.KeepsO (execJtagExtest s) := by
  unfold execJtagExtest
  repeat' first | with_reducible assumption | with_reducible apply State.KeepsO.next | with_reducible apply State.emit_keeps | with_reducible apply State.jtagSelect_keeps | split
theorem execJtagTestLogicReset_keeps {s₀ s : State} (h : s₀.Keeps s) : s₀.KeepsO (execJtagTestLogicReset s) := by
  unfold execJtagTestLogicReset
  repeat' first | with_reducible assumption | with_reducible apply State.KeepsO.next | with_reducible apply State.jtagSelect_keeps | (extract_lets +onlyGivenNames x; refine State.Keeps.cut (p := s₀.Keeps x) ?_ ?_ <;> [(revert x; dsimp only); (intro hx; clear_value x; rename' x => y, hx => hy)]) | (extract_lets +onlyGivenNames x; clear_value x; rename' x => y) | fail_if_no_progress (with_reducible refine State.Keeps.put ?_ (by with_reducible rfl))
theorem execPerstNFall_keeps {s₀ s : State} (h : s₀.Keeps s) : s₀.KeepsO (execPerstNFall s) := by
  unfold execPerstNFall
  repeat' first | with_reducible assumption | with_reducible apply State.KeepsO.next | with_reducible apply State.resetFunctions_keeps | with_reducible apply State.sendNotices_keeps | with_reducible apply State.startUnload_keeps | with_reducible apply State.Keeps.foldl | (with_reducible intro) | split | (extract_lets +onlyGivenNames x; clear_value x; rename' x => y) | fail_if_no_progress (with_reducible refine State.Keeps.put ?_ (by with_reducible rfl))
theorem execPerstNRise_keeps {s₀ s : State} {a0 a1 a2} (h : s₀.Keeps s) : s₀.KeepsO (execPerstNRise a0 a1 a2 s) := by
  unfold execPerstNRise
  repeat' first | with_reducible assumption | with_reducible apply State.KeepsO.next | with_reducible apply State.startPcie_keeps | fail_if_no_progress (with_reducible refine State.Keeps.put ?_ (by with_reducible rfl))
theorem execShelfUnloadNotice_keeps {s₀ s : State} {a0} (h : s₀.Keeps s) : s₀.KeepsO (execShelfUnloadNotice a0 s) := by
  unfold execShelfUnloadNotice
  repeat' first | with_reducible assumption | with_reducible apply State.KeepsO.next | with_reducible apply State.startUnload_keeps | with_reducible apply State.Keeps.foldl | (with_reducible intro) | split | (extract_lets +onlyGivenNames x; refine State.Keeps.cut (p := s₀.Keeps x) ?_ ?_ <;> [(revert x; dsimp only); (intro hx; clear_value x; rename' x => y, hx => hy)]) | (extract_lets +onlyGivenNames x; refine State.Keeps.cut (p := s₀.root.fuses.Kept x.fuses) ?_ ?_ <;> [(revert x; dsimp only); (intro hx; clear_value x; rename' x => y, hx => hy)]) | (extract_lets +onlyGivenNames x; clear_value x; rename' x => y) | with_reducible apply State.Keeps.fuses | with_reducible refine State.Keeps.putRoot ?_ (by with_reducible assumption) | fail_if_no_progress (with_reducible refine State.Keeps.put ?_ (by with_reducible rfl))
theorem State.functionReset_keeps {s₀ s : State} {a1} (h : s₀.Keeps s) : s₀.Keeps (State.functionReset s a1) := by
  unfold State.functionReset
  repeat' first | with_reducible assumption | with_reducible apply State.sendNotices_keeps | with_reducible apply State.startUnload_keeps | (with_reducible intro) | split | (extract_lets +onlyGivenNames x; refine State.Keeps.cut (p := s₀.Keeps x) ?_ ?_ <;> [(revert x; dsimp only); (intro hx; clear_value x; rename' x => y, hx => hy)]) | (extract_lets +onlyGivenNames x; clear_value x; rename' x => y) | fail_if_no_progress (with_reducible refine State.Keeps.put ?_ (by with_reducible rfl))
theorem execFunctionLevelReset_keeps {s₀ s : State} {a0} (h : s₀.Keeps s) : s₀.KeepsO (execFunctionLevelReset a0 s) := by
  unfold execFunctionLevelReset
  repeat' first | with_reducible assumption | with_reducible apply State.KeepsO.next | with_reducible apply State.functionReset_keeps | split
theorem execPcieLaneFailure_keeps {s₀ s : State} {a0 a1} (h : s₀.Keeps s) : s₀.KeepsO (execPcieLaneFailure a0 a1 s) := by
  unfold execPcieLaneFailure
  repeat' first | with_reducible assumption | with_reducible apply State.KeepsO.next | with_reducible apply State.hostDegraded_keeps | split | (extract_lets +onlyGivenNames x; clear_value x; rename' x => y) | fail_if_no_progress (with_reducible refine State.Keeps.put ?_ (by with_reducible rfl))
theorem State.msixFlush_keeps {s₀ s : State} {a1} (h : s₀.Keeps s) : s₀.Keeps (State.msixFlush s a1) := by
  unfold State.msixFlush
  repeat' first | with_reducible assumption | with_reducible apply State.sendAll_keeps | (with_reducible intro) | (extract_lets +onlyGivenNames x; refine State.Keeps.cut (p := s₀.Keeps x) ?_ ?_ <;> [(revert x; dsimp only); (intro hx; clear_value x; rename' x => y, hx => hy)]) | (extract_lets +onlyGivenNames x; clear_value x; rename' x => y) | fail_if_no_progress (with_reducible refine State.Keeps.put ?_ (by with_reducible rfl))
theorem State.maskVector_keeps {s₀ s : State} {a1 a2 a3} (h : s₀.Keeps s) : s₀.Keeps (State.maskVector s a1 a2 a3) := by
  unfold State.maskVector
  repeat' first | with_reducible assumption | with_reducible apply State.msixFlush_keeps | (with_reducible intro) | split | (extract_lets +onlyGivenNames x; refine State.Keeps.cut (p := s₀.Keeps x) ?_ ?_ <;> [(revert x; dsimp only); (intro hx; clear_value x; rename' x => y, hx => hy)]) | (extract_lets +onlyGivenNames x; clear_value x; rename' x => y) | fail_if_no_progress (with_reducible refine State.Keeps.put ?_ (by with_reducible rfl))
theorem State.cfgWrite_keeps {s₀ s : State} {a1 a2 a3} (h : s₀.Keeps s) : s₀.Keeps (State.cfgWrite s a1 a2 a3) := by
  unfold State.cfgWrite
  repeat' first | with_reducible assumption | with_reducible apply State.maskVector_keeps | with_reducible apply State.msixFlush_keeps | with_reducible apply State.functionReset_keeps | split | (extract_lets +onlyGivenNames x; refine State.Keeps.cut (p := s₀.Keeps x) ?_ ?_ <;> [(revert x; dsimp only); (intro hx; clear_value x; rename' x => y, hx => hy)]) | (extract_lets +onlyGivenNames x; clear_value x; rename' x => y) | fail_if_no_progress (with_reducible refine State.Keeps.put ?_ (by with_reducible rfl))
theorem execPcieConfigRequest_keeps {s₀ s : State} {a0 a1 a2 a3} (h : s₀.Keeps s) : s₀.KeepsO (execPcieConfigRequest a0 a1 a2 a3 s) := by
  unfold execPcieConfigRequest
  repeat' first | with_reducible assumption | with_reducible apply State.KeepsO.next | with_reducible apply State.hostAnswer_keeps | with_reducible apply State.cfgWrite_keeps | split
theorem State.hostMem_keeps {s₀ s : State} {a1 a2 a3 a4 a5 a6} (h : s₀.Keeps s) : s₀.Keeps (State.hostMem s a1 a2 a3 a4 a5 a6) := by
  unfold State.hostMem
  repeat' first | with_reducible assumption | with_reducible apply State.hostRefused_keeps | with_reducible apply State.record_keeps | with_reducible apply State.applyWrite_keeps | with_reducible apply State.eccWrite_keeps | with_reducible apply State.hostWrote_keeps | with_reducible apply State.eccRead_keeps | with_reducible apply State.containLine_keeps | with_reducible apply State.hostAnswer_keeps | split | (extract_lets +onlyGivenNames x; refine State.Keeps.cut (p := s₀.Keeps x) ?_ ?_ <;> [(revert x; dsimp only); (intro hx; clear_value x; rename' x => y, hx => hy)]) | (extract_lets +onlyGivenNames x; refine State.Keeps.cut (p := s₀.root.fuses.Kept x.fuses) ?_ ?_ <;> [(revert x; dsimp only); (intro hx; clear_value x; rename' x => y, hx => hy)]) | (extract_lets +onlyGivenNames x; clear_value x; rename' x => y) | with_reducible apply State.Keeps.fuses | with_reducible refine State.Keeps.putRoot ?_ (by with_reducible assumption) | fail_if_no_progress (with_reducible refine State.Keeps.put ?_ (by with_reducible rfl))
theorem State.hostReg_keeps {s₀ s : State} {a1 a2 a3 a4} (h : s₀.Keeps s) : s₀.Keeps (State.hostReg s a1 a2 a3 a4) := by
  unfold State.hostReg
  repeat' first | with_reducible assumption | with_reducible apply State.regWrite_keeps | with_reducible apply State.hostRefused_keeps | with_reducible apply State.regRead_keeps | with_reducible apply State.hostAnswer_keeps | split | (extract_lets +onlyGivenNames x; refine State.Keeps.cut (p := s₀.KeepsR x) ?_ ?_ <;> [(revert x; dsimp only); (intro hx; clear_value x; rename' x => y, hx => hy)]) | with_reducible apply State.KeepsR.proj
theorem State.hostForward_keeps {s₀ s : State} {a1 a2 a3 a4 a5} (h : s₀.Keeps s) : s₀.Keeps (State.hostForward s a1 a2 a3 a4 a5) := by
  unfold State.hostForward
  repeat' first | with_reducible assumption | with_reducible apply State.hostRefused_keeps | with_reducible apply State.send_keeps | split | (extract_lets +onlyGivenNames x; clear_value x; rename' x => y)
theorem execHostBarRequest_keeps {s₀ s : State} {a0 a1 a2 a3 a4 a5} (h : s₀.Keeps s) : s₀.KeepsO (execHostBarRequest a0 a1 a2 a3 a4 a5 s) := by
  unfold execHostBarRequest
  repeat' first | with_reducible assumption | with_reducible apply State.KeepsO.next | with_reducible apply State.hostRefused_keeps | with_reducible apply State.record_keeps | with_reducible apply State.hostReg_keeps | with_reducible apply State.hostForward_keeps | with_reducible apply State.hostMem_keeps | split

end Sys2Proof.Machine
end

