-- ==== Sys2Proof/Laws/KeepsCmd.lean ====
section
/-! SUPPORT. What the operations of the cores' commands leave as they were. -/

namespace Sys2Proof.Machine

theorem execSAdd_keeps {s₀ s : State} {a0 a1} (h : s₀.Keeps s) : s₀.KeepsO (execSAdd a0 a1 s) := by
  unfold execSAdd
  repeat' first | with_reducible assumption | with_reducible apply State.KeepsO.next | with_reducible apply State.issueOp_keeps
theorem execSSub_keeps {s₀ s : State} {a0 a1} (h : s₀.Keeps s) : s₀.KeepsO (execSSub a0 a1 s) := by
  unfold execSSub
  repeat' first | with_reducible assumption | with_reducible apply State.KeepsO.next | with_reducible apply State.issueOp_keeps
theorem execSMul_keeps {s₀ s : State} {a0 a1} (h : s₀.Keeps s) : s₀.KeepsO (execSMul a0 a1 s) := by
  unfold execSMul
  repeat' first | with_reducible assumption | with_reducible apply State.KeepsO.next | with_reducible apply State.issueOp_keeps
theorem execSAnd_keeps {s₀ s : State} {a0 a1} (h : s₀.Keeps s) : s₀.KeepsO (execSAnd a0 a1 s) := by
  unfold execSAnd
  repeat' first | with_reducible assumption | with_reducible apply State.KeepsO.next | with_reducible apply State.issueOp_keeps
theorem execSOr_keeps {s₀ s : State} {a0 a1} (h : s₀.Keeps s) : s₀.KeepsO (execSOr a0 a1 s) := by
  unfold execSOr
  repeat' first | with_reducible assumption | with_reducible apply State.KeepsO.next | with_reducible apply State.issueOp_keeps
theorem execSXor_keeps {s₀ s : State} {a0 a1} (h : s₀.Keeps s) : s₀.KeepsO (execSXor a0 a1 s) := by
  unfold execSXor
  repeat' first | with_reducible assumption | with_reducible apply State.KeepsO.next | with_reducible apply State.issueOp_keeps
theorem execSShl_keeps {s₀ s : State} {a0 a1} (h : s₀.Keeps s) : s₀.KeepsO (execSShl a0 a1 s) := by
  unfold execSShl
  repeat' first | with_reducible assumption | with_reducible apply State.KeepsO.next | with_reducible apply State.issueOp_keeps
theorem execSShr_keeps {s₀ s : State} {a0 a1} (h : s₀.Keeps s) : s₀.KeepsO (execSShr a0 a1 s) := by
  unfold execSShr
  repeat' first | with_reducible assumption | with_reducible apply State.KeepsO.next | with_reducible apply State.issueOp_keeps
theorem execSSar_keeps {s₀ s : State} {a0 a1} (h : s₀.Keeps s) : s₀.KeepsO (execSSar a0 a1 s) := by
  unfold execSSar
  repeat' first | with_reducible assumption | with_reducible apply State.KeepsO.next | with_reducible apply State.issueOp_keeps
theorem execSSlt_keeps {s₀ s : State} {a0 a1} (h : s₀.Keeps s) : s₀.KeepsO (execSSlt a0 a1 s) := by
  unfold execSSlt
  repeat' first | with_reducible assumption | with_reducible apply State.KeepsO.next | with_reducible apply State.issueOp_keeps
theorem execSSltu_keeps {s₀ s : State} {a0 a1} (h : s₀.Keeps s) : s₀.KeepsO (execSSltu a0 a1 s) := by
  unfold execSSltu
  repeat' first | with_reducible assumption | with_reducible apply State.KeepsO.next | with_reducible apply State.issueOp_keeps
theorem execSAddi_keeps {s₀ s : State} {a0 a1} (h : s₀.Keeps s) : s₀.KeepsO (execSAddi a0 a1 s) := by
  unfold execSAddi
  repeat' first | with_reducible assumption | with_reducible apply State.KeepsO.next | with_reducible apply State.issueOp_keeps
theorem execSAndi_keeps {s₀ s : State} {a0 a1} (h : s₀.Keeps s) : s₀.KeepsO (execSAndi a0 a1 s) := by
  unfold execSAndi
  repeat' first | with_reducible assumption | with_reducible apply State.KeepsO.next | with_reducible apply State.issueOp_keeps
theorem execSOri_keeps {s₀ s : State} {a0 a1} (h : s₀.Keeps s) : s₀.KeepsO (execSOri a0 a1 s) := by
  unfold execSOri
  repeat' first | with_reducible assumption | with_reducible apply State.KeepsO.next | with_reducible apply State.issueOp_keeps
theorem execSXori_keeps {s₀ s : State} {a0 a1} (h : s₀.Keeps s) : s₀.KeepsO (execSXori a0 a1 s) := by
  unfold execSXori
  repeat' first | with_reducible assumption | with_reducible apply State.KeepsO.next | with_reducible apply State.issueOp_keeps
theorem execSLui_keeps {s₀ s : State} {a0 a1} (h : s₀.Keeps s) : s₀.KeepsO (execSLui a0 a1 s) := by
  unfold execSLui
  repeat' first | with_reducible assumption | with_reducible apply State.KeepsO.next | with_reducible apply State.issueOp_keeps
theorem execKSig_keeps {s₀ s : State} {a0 a1} (h : s₀.Keeps s) : s₀.KeepsO (execKSig a0 a1 s) := by
  unfold execKSig
  repeat' first | with_reducible assumption | with_reducible apply State.KeepsO.next | with_reducible apply State.issueOp_keeps
theorem execKLoop_keeps {s₀ s : State} {a0 a1} (h : s₀.Keeps s) : s₀.KeepsO (execKLoop a0 a1 s) := by
  unfold execKLoop
  repeat' first | with_reducible assumption | with_reducible apply State.KeepsO.next | with_reducible apply State.issueOp_keeps
theorem execKBr_keeps {s₀ s : State} {a0 a1} (h : s₀.Keeps s) : s₀.KeepsO (execKBr a0 a1 s) := by
  unfold execKBr
  repeat' first | with_reducible assumption | with_reducible apply State.KeepsO.next | with_reducible apply State.issueOp_keeps
theorem execKEnd_keeps {s₀ s : State} {a0 a1} (h : s₀.Keeps s) : s₀.KeepsO (execKEnd a0 a1 s) := by
  unfold execKEnd
  repeat' first | with_reducible assumption | with_reducible apply State.KeepsO.next | with_reducible apply State.issueOp_keeps
theorem execVadd_keeps {s₀ s : State} {a0 a1} (h : s₀.Keeps s) : s₀.KeepsO (execVadd a0 a1 s) := by
  unfold execVadd
  repeat' first | with_reducible assumption | with_reducible apply State.KeepsO.next | with_reducible apply State.issueOp_keeps
theorem execVsub_keeps {s₀ s : State} {a0 a1} (h : s₀.Keeps s) : s₀.KeepsO (execVsub a0 a1 s) := by
  unfold execVsub
  repeat' first | with_reducible assumption | with_reducible apply State.KeepsO.next | with_reducible apply State.issueOp_keeps
theorem execVmul_keeps {s₀ s : State} {a0 a1} (h : s₀.Keeps s) : s₀.KeepsO (execVmul a0 a1 s) := by
  unfold execVmul
  repeat' first | with_reducible assumption | with_reducible apply State.KeepsO.next | with_reducible apply State.issueOp_keeps
theorem execVfma_keeps {s₀ s : State} {a0 a1} (h : s₀.Keeps s) : s₀.KeepsO (execVfma a0 a1 s) := by
  unfold execVfma
  repeat' first | with_reducible assumption | with_reducible apply State.KeepsO.next | with_reducible apply State.issueOp_keeps
theorem execVaddH_keeps {s₀ s : State} {a0 a1} (h : s₀.Keeps s) : s₀.KeepsO (execVaddH a0 a1 s) := by
  unfold execVaddH
  repeat' first | with_reducible assumption | with_reducible apply State.KeepsO.next | with_reducible apply State.issueOp_keeps
theorem execVsubH_keeps {s₀ s : State} {a0 a1} (h : s₀.Keeps s) : s₀.KeepsO (execVsubH a0 a1 s) := by
  unfold execVsubH
  repeat' first | with_reducible assumption | with_reducible apply State.KeepsO.next | with_reducible apply State.issueOp_keeps
theorem execVmulH_keeps {s₀ s : State} {a0 a1} (h : s₀.Keeps s) : s₀.KeepsO (execVmulH a0 a1 s) := by
  unfold execVmulH
  repeat' first | with_reducible assumption | with_reducible apply State.KeepsO.next | with_reducible apply State.issueOp_keeps
theorem execVfmaH_keeps {s₀ s : State} {a0 a1} (h : s₀.Keeps s) : s₀.KeepsO (execVfmaH a0 a1 s) := by
  unfold execVfmaH
  repeat' first | with_reducible assumption | with_reducible apply State.KeepsO.next | with_reducible apply State.issueOp_keeps
theorem execVaddB_keeps {s₀ s : State} {a0 a1} (h : s₀.Keeps s) : s₀.KeepsO (execVaddB a0 a1 s) := by
  unfold execVaddB
  repeat' first | with_reducible assumption | with_reducible apply State.KeepsO.next | with_reducible apply State.issueOp_keeps
theorem execVsubB_keeps {s₀ s : State} {a0 a1} (h : s₀.Keeps s) : s₀.KeepsO (execVsubB a0 a1 s) := by
  unfold execVsubB
  repeat' first | with_reducible assumption | with_reducible apply State.KeepsO.next | with_reducible apply State.issueOp_keeps
theorem execVmulB_keeps {s₀ s : State} {a0 a1} (h : s₀.Keeps s) : s₀.KeepsO (execVmulB a0 a1 s) := by
  unfold execVmulB
  repeat' first | with_reducible assumption | with_reducible apply State.KeepsO.next | with_reducible apply State.issueOp_keeps
theorem execVfmaB_keeps {s₀ s : State} {a0 a1} (h : s₀.Keeps s) : s₀.KeepsO (execVfmaB a0 a1 s) := by
  unfold execVfmaB
  repeat' first | with_reducible assumption | with_reducible apply State.KeepsO.next | with_reducible apply State.issueOp_keeps
theorem execVmin_keeps {s₀ s : State} {a0 a1} (h : s₀.Keeps s) : s₀.KeepsO (execVmin a0 a1 s) := by
  unfold execVmin
  repeat' first | with_reducible assumption | with_reducible apply State.KeepsO.next | with_reducible apply State.issueOp_keeps
theorem execVmax_keeps {s₀ s : State} {a0 a1} (h : s₀.Keeps s) : s₀.KeepsO (execVmax a0 a1 s) := by
  unfold execVmax
  repeat' first | with_reducible assumption | with_reducible apply State.KeepsO.next | with_reducible apply State.issueOp_keeps
theorem execVceq_keeps {s₀ s : State} {a0 a1} (h : s₀.Keeps s) : s₀.KeepsO (execVceq a0 a1 s) := by
  unfold execVceq
  repeat' first | with_reducible assumption | with_reducible apply State.KeepsO.next | with_reducible apply State.issueOp_keeps
theorem execVclt_keeps {s₀ s : State} {a0 a1} (h : s₀.Keeps s) : s₀.KeepsO (execVclt a0 a1 s) := by
  unfold execVclt
  repeat' first | with_reducible assumption | with_reducible apply State.KeepsO.next | with_reducible apply State.issueOp_keeps
theorem execVcle_keeps {s₀ s : State} {a0 a1} (h : s₀.Keeps s) : s₀.KeepsO (execVcle a0 a1 s) := by
  unfold execVcle
  repeat' first | with_reducible assumption | with_reducible apply State.KeepsO.next | with_reducible apply State.issueOp_keeps
theorem execVminH_keeps {s₀ s : State} {a0 a1} (h : s₀.Keeps s) : s₀.KeepsO (execVminH a0 a1 s) := by
  unfold execVminH
  repeat' first | with_reducible assumption | with_reducible apply State.KeepsO.next | with_reducible apply State.issueOp_keeps
theorem execVmaxH_keeps {s₀ s : State} {a0 a1} (h : s₀.Keeps s) : s₀.KeepsO (execVmaxH a0 a1 s) := by
  unfold execVmaxH
  repeat' first | with_reducible assumption | with_reducible apply State.KeepsO.next | with_reducible apply State.issueOp_keeps
theorem execVminB_keeps {s₀ s : State} {a0 a1} (h : s₀.Keeps s) : s₀.KeepsO (execVminB a0 a1 s) := by
  unfold execVminB
  repeat' first | with_reducible assumption | with_reducible apply State.KeepsO.next | with_reducible apply State.issueOp_keeps
theorem execVmaxB_keeps {s₀ s : State} {a0 a1} (h : s₀.Keeps s) : s₀.KeepsO (execVmaxB a0 a1 s) := by
  unfold execVmaxB
  repeat' first | with_reducible assumption | with_reducible apply State.KeepsO.next | with_reducible apply State.issueOp_keeps
theorem execVand_keeps {s₀ s : State} {a0 a1} (h : s₀.Keeps s) : s₀.KeepsO (execVand a0 a1 s) := by
  unfold execVand
  repeat' first | with_reducible assumption | with_reducible apply State.KeepsO.next | with_reducible apply State.issueOp_keeps
theorem execVor_keeps {s₀ s : State} {a0 a1} (h : s₀.Keeps s) : s₀.KeepsO (execVor a0 a1 s) := by
  unfold execVor
  repeat' first | with_reducible assumption | with_reducible apply State.KeepsO.next | with_reducible apply State.issueOp_keeps
theorem execVxor_keeps {s₀ s : State} {a0 a1} (h : s₀.Keeps s) : s₀.KeepsO (execVxor a0 a1 s) := by
  unfold execVxor
  repeat' first | with_reducible assumption | with_reducible apply State.KeepsO.next | with_reducible apply State.issueOp_keeps
theorem execVsel_keeps {s₀ s : State} {a0 a1} (h : s₀.Keeps s) : s₀.KeepsO (execVsel a0 a1 s) := by
  unfold execVsel
  repeat' first | with_reducible assumption | with_reducible apply State.KeepsO.next | with_reducible apply State.issueOp_keeps
theorem execViadd_keeps {s₀ s : State} {a0 a1} (h : s₀.Keeps s) : s₀.KeepsO (execViadd a0 a1 s) := by
  unfold execViadd
  repeat' first | with_reducible assumption | with_reducible apply State.KeepsO.next | with_reducible apply State.issueOp_keeps
theorem execVisub_keeps {s₀ s : State} {a0 a1} (h : s₀.Keeps s) : s₀.KeepsO (execVisub a0 a1 s) := by
  unfold execVisub
  repeat' first | with_reducible assumption | with_reducible apply State.KeepsO.next | with_reducible apply State.issueOp_keeps
theorem execVimul_keeps {s₀ s : State} {a0 a1} (h : s₀.Keeps s) : s₀.KeepsO (execVimul a0 a1 s) := by
  unfold execVimul
  repeat' first | with_reducible assumption | with_reducible apply State.KeepsO.next | with_reducible apply State.issueOp_keeps
theorem execVshl_keeps {s₀ s : State} {a0 a1} (h : s₀.Keeps s) : s₀.KeepsO (execVshl a0 a1 s) := by
  unfold execVshl
  repeat' first | with_reducible assumption | with_reducible apply State.KeepsO.next | with_reducible apply State.issueOp_keeps
theorem execVshr_keeps {s₀ s : State} {a0 a1} (h : s₀.Keeps s) : s₀.KeepsO (execVshr a0 a1 s) := by
  unfold execVshr
  repeat' first | with_reducible assumption | with_reducible apply State.KeepsO.next | with_reducible apply State.issueOp_keeps
theorem execVsar_keeps {s₀ s : State} {a0 a1} (h : s₀.Keeps s) : s₀.KeepsO (execVsar a0 a1 s) := by
  unfold execVsar
  repeat' first | with_reducible assumption | with_reducible apply State.KeepsO.next | with_reducible apply State.issueOp_keeps
theorem execVbcast_keeps {s₀ s : State} {a0 a1} (h : s₀.Keeps s) : s₀.KeepsO (execVbcast a0 a1 s) := by
  unfold execVbcast
  repeat' first | with_reducible assumption | with_reducible apply State.KeepsO.next | with_reducible apply State.issueOp_keeps
theorem execVlane_keeps {s₀ s : State} {a0 a1} (h : s₀.Keeps s) : s₀.KeepsO (execVlane a0 a1 s) := by
  unfold execVlane
  repeat' first | with_reducible assumption | with_reducible apply State.KeepsO.next | with_reducible apply State.issueOp_keeps
theorem execVcvt_keeps {s₀ s : State} {a0 a1} (h : s₀.Keeps s) : s₀.KeepsO (execVcvt a0 a1 s) := by
  unfold execVcvt
  repeat' first | with_reducible assumption | with_reducible apply State.KeepsO.next | with_reducible apply State.issueOp_keeps
theorem execVf2i_keeps {s₀ s : State} {a0 a1} (h : s₀.Keeps s) : s₀.KeepsO (execVf2i a0 a1 s) := by
  unfold execVf2i
  repeat' first | with_reducible assumption | with_reducible apply State.KeepsO.next | with_reducible apply State.issueOp_keeps
theorem execVi2f_keeps {s₀ s : State} {a0 a1} (h : s₀.Keeps s) : s₀.KeepsO (execVi2f a0 a1 s) := by
  unfold execVi2f
  repeat' first | with_reducible assumption | with_reducible apply State.KeepsO.next | with_reducible apply State.issueOp_keeps
theorem execVrcp_keeps {s₀ s : State} {a0 a1} (h : s₀.Keeps s) : s₀.KeepsO (execVrcp a0 a1 s) := by
  unfold execVrcp
  repeat' first | with_reducible assumption | with_reducible apply State.KeepsO.next | with_reducible apply State.issueOp_keeps
theorem execVrsqrt_keeps {s₀ s : State} {a0 a1} (h : s₀.Keeps s) : s₀.KeepsO (execVrsqrt a0 a1 s) := by
  unfold execVrsqrt
  repeat' first | with_reducible assumption | with_reducible apply State.KeepsO.next | with_reducible apply State.issueOp_keeps
theorem execVsqrt_keeps {s₀ s : State} {a0 a1} (h : s₀.Keeps s) : s₀.KeepsO (execVsqrt a0 a1 s) := by
  unfold execVsqrt
  repeat' first | with_reducible assumption | with_reducible apply State.KeepsO.next | with_reducible apply State.issueOp_keeps
theorem execVdiv_keeps {s₀ s : State} {a0 a1} (h : s₀.Keeps s) : s₀.KeepsO (execVdiv a0 a1 s) := by
  unfold execVdiv
  repeat' first | with_reducible assumption | with_reducible apply State.KeepsO.next | with_reducible apply State.issueOp_keeps
theorem execVexp2_keeps {s₀ s : State} {a0 a1} (h : s₀.Keeps s) : s₀.KeepsO (execVexp2 a0 a1 s) := by
  unfold execVexp2
  repeat' first | with_reducible assumption | with_reducible apply State.KeepsO.next | with_reducible apply State.issueOp_keeps
theorem execVlog2_keeps {s₀ s : State} {a0 a1} (h : s₀.Keeps s) : s₀.KeepsO (execVlog2 a0 a1 s) := by
  unfold execVlog2
  repeat' first | with_reducible assumption | with_reducible apply State.KeepsO.next | with_reducible apply State.issueOp_keeps
theorem execVtanh_keeps {s₀ s : State} {a0 a1} (h : s₀.Keeps s) : s₀.KeepsO (execVtanh a0 a1 s) := by
  unfold execVtanh
  repeat' first | with_reducible assumption | with_reducible apply State.KeepsO.next | with_reducible apply State.issueOp_keeps
theorem execVrngW_keeps {s₀ s : State} {a0 a1} (h : s₀.Keeps s) : s₀.KeepsO (execVrngW a0 a1 s) := by
  unfold execVrngW
  repeat' first | with_reducible assumption | with_reducible apply State.KeepsO.next | with_reducible apply State.issueOp_keeps
theorem execVrngU_keeps {s₀ s : State} {a0 a1} (h : s₀.Keeps s) : s₀.KeepsO (execVrngU a0 a1 s) := by
  unfold execVrngU
  repeat' first | with_reducible assumption | with_reducible apply State.KeepsO.next | with_reducible apply State.issueOp_keeps
theorem execVrngB_keeps {s₀ s : State} {a0 a1} (h : s₀.Keeps s) : s₀.KeepsO (execVrngB a0 a1 s) := by
  unfold execVrngB
  repeat' first | with_reducible assumption | with_reducible apply State.KeepsO.next | with_reducible apply State.issueOp_keeps
theorem execVrngN_keeps {s₀ s : State} {a0 a1} (h : s₀.Keeps s) : s₀.KeepsO (execVrngN a0 a1 s) := by
  unfold execVrngN
  repeat' first | with_reducible assumption | with_reducible apply State.KeepsO.next | with_reducible apply State.issueOp_keeps
theorem execVfrl_keeps {s₀ s : State} {a0 a1} (h : s₀.Keeps s) : s₀.KeepsO (execVfrl a0 a1 s) := by
  unfold execVfrl
  repeat' first | with_reducible assumption | with_reducible apply State.KeepsO.next | with_reducible apply State.issueOp_keeps
theorem execVld_keeps {s₀ s : State} {a0 a1} (h : s₀.Keeps s) : s₀.KeepsO (execVld a0 a1 s) := by
  unfold execVld
  repeat' first | with_reducible assumption | with_reducible apply State.KeepsO.next | with_reducible apply State.issueOp_keeps
theorem execVst_keeps {s₀ s : State} {a0 a1} (h : s₀.Keeps s) : s₀.KeepsO (execVst a0 a1 s) := by
  unfold execVst
  repeat' first | with_reducible assumption | with_reducible apply State.KeepsO.next | with_reducible apply State.issueOp_keeps
theorem execVacc_keeps {s₀ s : State} {a0 a1} (h : s₀.Keeps s) : s₀.KeepsO (execVacc a0 a1 s) := by
  unfold execVacc
  repeat' first | with_reducible assumption | with_reducible apply State.KeepsO.next | with_reducible apply State.issueOp_keeps
theorem execVflg_keeps {s₀ s : State} {a0 a1} (h : s₀.Keeps s) : s₀.KeepsO (execVflg a0 a1 s) := by
  unfold execVflg
  repeat' first | with_reducible assumption | with_reducible apply State.KeepsO.next | with_reducible apply State.issueOp_keeps
theorem execMma1_keeps {s₀ s : State} {a0 a1} (h : s₀.Keeps s) : s₀.KeepsO (execMma1 a0 a1 s) := by
  unfold execMma1
  repeat' first | with_reducible assumption | with_reducible apply State.KeepsO.next | with_reducible apply State.issueOp_keeps
theorem execMma4_keeps {s₀ s : State} {a0 a1} (h : s₀.Keeps s) : s₀.KeepsO (execMma4 a0 a1 s) := by
  unfold execMma4
  repeat' first | with_reducible assumption | with_reducible apply State.KeepsO.next | with_reducible apply State.issueOp_keeps
theorem execOcv_keeps {s₀ s : State} {a0 a1} (h : s₀.Keeps s) : s₀.KeepsO (execOcv a0 a1 s) := by
  unfold execOcv
  repeat' first | with_reducible assumption | with_reducible apply State.KeepsO.next | with_reducible apply State.issueOp_keeps
theorem State.landCore_keeps {s₀ s : State} {a1} (h : s₀.Keeps s) : s₀.Keeps (State.landCore s a1) := by
  unfold State.landCore
  repeat' first | with_reducible assumption | with_reducible apply State.coreResult_keeps | split
theorem execOcvTileVisible_keeps {s₀ s : State} {a0 a1} (h : s₀.Keeps s) : s₀.KeepsO (execOcvTileVisible a0 a1 s) := by
  unfold execOcvTileVisible
  repeat' first | with_reducible assumption | with_reducible apply State.KeepsO.next | with_reducible apply State.endTask_keeps | with_reducible apply State.endTaskBy_keeps | with_reducible apply State.setCore_keeps | split
theorem execOperationLanding_keeps {s₀ s : State} {a0 a1} (h : s₀.Keeps s) : s₀.KeepsO (execOperationLanding a0 a1 s) := by
  unfold execOperationLanding
  repeat' first | with_reducible assumption | with_reducible apply State.KeepsO.next | with_reducible apply State.coreUpset_keeps | with_reducible apply State.landCore_keeps | split
theorem State.countDrops_keeps {s₀ s : State} {a1} (h : s₀.Keeps s) : s₀.Keeps (State.countDrops s a1) := by
  unfold State.countDrops
  repeat' first | with_reducible assumption | with_reducible apply State.count_keeps | with_reducible apply State.setCore_keeps | split | (extract_lets +onlyGivenNames x; refine State.Keeps.cut (p := s₀.Keeps x) ?_ ?_ <;> [(revert x; dsimp only); (intro hx; clear_value x; rename' x => y, hx => hy)]) | (extract_lets +onlyGivenNames x; clear_value x; rename' x => y) | fail_if_no_progress (with_reducible refine State.Keeps.put ?_ (by with_reducible rfl))
theorem execLaneGeneratorAdvance_keeps {s₀ s : State} {a0} (h : s₀.Keeps s) : s₀.KeepsO (execLaneGeneratorAdvance a0 s) := by
  unfold execLaneGeneratorAdvance
  repeat' first | with_reducible assumption | with_reducible apply State.KeepsO.next | with_reducible apply State.setCore_keeps | with_reducible apply State.coreResult_keeps | with_reducible apply State.countDrops_keeps | split | (extract_lets +onlyGivenNames x; refine State.Keeps.cut (p := s₀.Keeps x) ?_ ?_ <;> [(revert x; dsimp only); (intro hx; clear_value x; rename' x => y, hx => hy)]) | (extract_lets +onlyGivenNames x; clear_value x; rename' x => y)

end Sys2Proof.Machine
end

