-- ==== Sys2Proof/Tests/Slice0.lean ====
section
/-! SUPPORT. Tests of single steps against the spec, ill-formed terms for each check of WellFormed, and for each statement states that meet its hypotheses. -/

namespace Sys2Proof.Tests

open Sys2Proof Sys2Proof.Machine

set_option Elab.async false

/-! ### Small states -/

/-- A root die whose module has come up. -/
def tRoot : Root := { Root.reset with standby := true, por := true, bureauUp := true, mainEn := true, mainUp := true, crossings := true, testDone := true, linksDone := true, ready := true, healthy := true }
/-- A running context with one shard, windows of 16 counters on die 0, and an instruction window of 64 bytes on core 0. -/
def tCtx : Ctx := { Ctx.reset with state := 2, windows := [(0, (0, 64))], shards := [(0, ⟨5, 7, 0⟩)], wins := [(0, (0, 16))] }
/-- A module that has come up with context 0 loaded. -/
def tDev : State := { State.reset with root := tRoot, ctxs := [(0, tCtx)] }
/-- A task of context 0. -/
def tTask : TaskRun := ⟨0, 0, 0, 0, [], false, false⟩
/-- The bytes of a word at a place of the instruction memory. -/
def tImem (at' : Nat) (w : W32) : Tab Byte := (List.range 4).foldl (fun m i => tput 0 m (at' + i) (BitVec.ofNat 8 (w.toNat / 2 ^ (8 * i)))) []
/-- A core whose task presents word `w` in `slot` of its first bundle. -/
def tCore (slot : Nat) (w : W32) : Core := { Core.reset with run := some tTask, imem := tImem (4 * slot) w }
/-- The module with core 0 as given. -/
def tOn (k : Core) : State := { tDev with cores := [(0, k)] }
/-- What `State.Presents` asks, as a check. -/
def presentsNow (s : State) (c slot : Nat) (w : W32) (k : Core) : Bool :=
  decide (c < 128) && decide ((s.core c).landDue = .ok k) && k.mayIssue (s.env c) slot w && !badWord slot w

theorem presents_of_check {s : State} {c slot : Nat} {w : W32} {k : Core} (h : presentsNow s c slot w k = true) : s.Presents c slot w k := by
  simp only [presentsNow, Bool.and_eq_true, decide_eq_true_eq, Bool.not_eq_true'] at h
  exact ⟨h.1.1.1, h.1.1.2, h.1.2, h.2⟩

/-- Core 0 presents word `w` in `slot`. -/
def shows (slot : Nat) (w : W32) : Bool := presentsNow (tOn (tCore slot w)) 0 slot w (tCore slot w)

/-- A C-slot word: op, sd, sa, sb. -/
def cWord (op sd sa sb : Nat) : W32 := BitVec.ofNat 32 (op + sd * 2 ^ 8 + sa * 2 ^ 13 + sb * 2 ^ 18)
/-- A V-slot word: op, vd, va, vb, vc. -/
def vWord (op vd va vb vc : Nat) : W32 := BitVec.ofNat 32 (op + vd * 2 ^ 8 + va * 2 ^ 14 + vb * 2 ^ 20 + vc * 2 ^ 26)

theorem witness_ScalarOperations :
    (∀ op ∈ [0xC0, 0xC1, 0xC2, 0xC3, 0xC4, 0xC5, 0xC6, 0xC7, 0xC8, 0xC9, 0xCA], shows 3 (cWord op 31 0 31) = true ∧ cOp (cWord op 31 0 31) = op ∧ bitsOf (cWord op 31 0 31).toNat 31 23 = 0) ∧
    (∀ op ∈ [0xD0, 0xD1, 0xD2, 0xD3, 0xD4], shows 3 (BitVec.ofNat 32 (op + 2 ^ 32 - 2 ^ 18)) = true ∧ cOp (BitVec.ofNat 32 (op + 2 ^ 32 - 2 ^ 18)) = op) ∧
    (∀ op ∈ [0xC0, 0xCA], shows 3 (BitVec.ofNat 32 (op + 2 ^ 31)) = true ∧ bitsOf (BitVec.ofNat 32 (op + 2 ^ 31)).toNat 31 23 ≠ 0 ∧ cOp (BitVec.ofNat 32 (op + 2 ^ 31)) = op) := by
  decide +kernel

/-- Core 0 in the state given presents word `w` in `slot`. -/
def showsOn (k : Core) (slot : Nat) (w : W32) : Bool := presentsNow (tOn k) 0 slot w k

theorem witness_ScalarRegisters : (5 : Nat) ≠ 31 ∧ (5 : Nat) ≠ 6 ∧ (7 : Nat) < 8 ∧ 8 ≤ (8 : Nat) := by decide

/-- Core 0 with s1 = 1. -/
def tCore1 (slot : Nat) (w : W32) : Core := { tCore slot w with sregs := [(1, 1)] }

theorem witness_ControlOperations :
    (∀ body ∈ [1, 16383], let w := BitVec.ofNat 32 (0xE4 + 31 * 2 ^ 8 + body * 2 ^ 14); shows 3 w = true ∧ cOp w = 0xE4 ∧ bitOf w.toNat 13 = false ∧ bitsOf w.toNat 31 28 = 0 ∧
      bitsOf w.toNat 27 14 ≠ 0 ∧ bodyFits [] (0 + bitsOf w.toNat 27 14) = true ∧ (tCore 3 w).sreg (bitsOf w.toNat 12 8) = 0) ∧
    (∀ body ∈ [1, 16383], let w := BitVec.ofNat 32 (0xE4 + 1 * 2 ^ 8 + body * 2 ^ 14); showsOn (tCore1 3 w) 3 w = true ∧ (tCore1 3 w).sreg (bitsOf w.toNat 12 8) ≠ 0 ∧ bitsOf w.toNat 27 14 ≠ 0) ∧
    (let w := BitVec.ofNat 32 (0xE8 + 1 * 2 ^ 8 + 1 * 2 ^ 10); showsOn (tCore1 3 w) 3 w = true ∧ cOp w = 0xE8 ∧ bitsOf w.toNat 31 29 = 0 ∧
      brTaken (bitsOf w.toNat 9 8) ((tCore1 3 w).sreg (bitsOf w.toNat 14 10)) = false) ∧
    (∀ tgt ∈ [0, 16383], let w := BitVec.ofNat 32 (0xE8 + 2 * 2 ^ 8 + 1 * 2 ^ 10 + tgt * 2 ^ 15); showsOn (tCore1 3 w) 3 w = true ∧ bitsOf w.toNat 31 29 = 0 ∧
      brTaken (bitsOf w.toNat 9 8) ((tCore1 3 w).sreg (bitsOf w.toNat 14 10)) = true ∧ targetFits [] (bitsOf w.toNat 28 15) = true) ∧
    (shows 3 0xFF = true ∧ cOp 0xFF = 0xFF ∧ bitsOf (0xFF : W32).toNat 31 8 = 0) ∧
    (∀ op ∈ [1, 2], let w := BitVec.ofNat 32 (0xE0 + op * 2 ^ 8 + 1 * 2 ^ 10); showsOn (tCore1 3 w) 3 w = true ∧ cOp w = 0xE0 ∧ bitsOf w.toNat 31 20 = 0 ∧ bitsOf w.toNat 9 8 = op ∧
      ((tCore1 3 w).sreg (bitsOf w.toNat 14 10)).toNat < 2 ^ 18 ∧ inWindow ((tOn (tCore1 3 w)).env 0).wins ((tCore1 3 w).sreg (bitsOf w.toNat 14 10)).toNat = true ∧ (tCore1 3 w).sigCount < 16) := by
  decide +kernel

theorem witness_VectorArithmeticResults :
    ∀ op ∈ [1, 2, 3, 4, 5, 6, 7, 8, 9, 10, 11, 12], shows 1 (vWord op 63 0 63 0) = true ∧ vOp (vWord op 63 0 63 0) = op ∧ vVc (vWord op 63 0 63 0) = 0 := by decide +kernel

theorem witness_VectorIntegerAndCompare :
    (∀ op ∈ [0x10, 0x11, 0x12, 0x13, 0x14, 0x15, 0x16, 0x17, 0x18, 0x20, 0x21, 0x22, 0x24, 0x25, 0x26, 0x27, 0x28, 0x29, 0x23],
      shows 1 (vWord op 63 0 63 0) = true ∧ vOp (vWord op 63 0 63 0) = op ∧ vVc (vWord op 63 0 63 0) = 0) ∧
    (shows 1 (vWord 0x2A 63 31 0 0) = true ∧ vVa (vWord 0x2A 63 31 0 0) < 32) ∧ shows 1 (vWord 0x2B 63 0 0 0) = true ∧
    (encNaN fmtB32 0x7F800001 = true ∧ (0x7F800001 : Nat) < 2 ^ fmtB32.width ∧ encNaN fmtB32 0xFF800000 = false ∧ encNaN fmtB32 0x80000000 = false ∧
      encNaN fmtF16 0x7C01 = true ∧ encNaN fmtF16 0xFC00 = false ∧ encNaN fmtBf16 0x7F81 = true ∧ encNaN fmtBf16 0xFF80 = false) := by decide +kernel

theorem witness_VectorFunctionsAndConversion :
    (∀ op ∈ [0x31, 0x32, 0x40, 0x41, 0x42, 0x44, 0x45, 0x46, 0x43], shows 1 (vWord op 63 63 0 0) = true ∧ vOp (vWord op 63 63 0 0) = op ∧ vVb (vWord op 63 63 0 0) = 0 ∧ vVc (vWord op 63 63 0 0) = 0) ∧
    (∀ p ∈ [(0, 1, 1, 1), (5, 3, 0, 0), (0, 4, 0, 3)], let w := BitVec.ofNat 32 (0x30 + p.1 * 2 ^ 20 + p.2.1 * 2 ^ 24 + p.2.2.1 * 2 ^ 28 + p.2.2.2 * 2 ^ 30); shows 1 w = true ∧ vOp w = 0x30 ∧
      cvtLegal (bitsOf w.toNat 23 20) (bitsOf w.toNat 27 24) (bitsOf w.toNat 29 28) (bitsOf w.toNat 31 30) = true) := by decide +kernel

theorem witness_RandomDrawResults :
    (∀ op ∈ [0x50, 0x51, 0x52, 0x53], shows 1 (vWord op 63 0 63 31) = true ∧ vOp (vWord op 63 0 63 31) = op ∧ vVc (vWord op 63 0 63 31) < 32) ∧
    (shows 1 (vWord 0x58 63 0 0 0) = true ∧ (tOn (tCore 1 (vWord 0x58 63 0 0 0))).regs.strictActive = true) := by decide +kernel

/-- The device with strict mode off. -/
def tLax (s : State) : State := { s with regs := { s.regs with strictActive := false } }

theorem witness_LaneGenerators :
    (tDev.core 127).run = none ∧ (tDev.core 127).test = false ∧ (tOn (tCore 3 0)).core 0 = tCore 3 0 ∧
    (match (tCore 3 0).advanceLanes.cycle ((tOn (tCore 3 0)).env 0) with | .ok _ => true | .err _ _ => false) = true ∧
    presentsNow (tLax (tOn (tCore 1 (vWord 0x58 63 0 0 0)))) 0 1 (vWord 0x58 63 0 0 0) (tCore 1 (vWord 0x58 63 0 0 0)) = true := by decide +kernel

/-- Core 0 with the first scratchpad lines valid. -/
def tSpad (slot : Nat) (w : W32) : Core := { tCore slot w with spad := (List.range 9).map (fun i => (i, zeroLine)) }

theorem witness_VectorMemoryResults :
    (∀ imm ∈ [0, 16], let w := BitVec.ofNat 32 (0x60 + imm * 2 ^ 19); showsOn (tSpad 1 w) 1 w = true ∧ vOp w = 0x60 ∧ vAddr (tSpad 1 w) w % 4 = 0 ∧ ((tSpad 1 w).spadRead (vAddr (tSpad 1 w) w) 512).isSome = true) ∧
    (shows 1 0x60 = true ∧ (tCore 1 0x60).spadRead 0 512 = none) ∧ (shows 1 0x61 = true ∧ vOp 0x61 = 0x61) ∧
    (∀ imm ∈ [0, 4094], let w := BitVec.ofNat 32 (0x62 + imm * 2 ^ 19); shows 1 w = true ∧ vOp w = 0x62 ∧ ((tCore 1 w).sreg (vSa w)).toNat + vImm w ≤ 4094) ∧
    (shows 1 0x63 = true ∧ vSa 0x63 = 0 ∧ vImm 0x63 = 0) := by decide +kernel

theorem witness_SlotOperationsTouchOnlyTheirCore : slotCore (.sAdd 0 (cWord 0xC0 1 1 1)) = some 0 ∧ ∃ t, exec (.sAdd 0 (cWord 0xC0 1 1 1)) (tOn (tCore1 3 (cWord 0xC0 1 1 1))) = .next t := ⟨rfl, _, rfl⟩

/-- Core 0 presents word `w` in `slot`, with record 1 of its window (bytes 32 to 63) as given. -/
def tRec (slot : Nat) (w : W32) (r : Nat) : Core :=
  { tCore slot w with imem := (List.range 32).foldl (fun m i => tput 0 m (32 + i) (BitVec.ofNat 8 (r / 2 ^ (8 * i)))) (tImem (4 * slot) w) }
/-- What `fetchRecord` gives for record 1 on core 0. -/
def recOf (k : Core) : Option Nat := fetchRecord k ((tOn k).env 0) 1
/-- An MMA record: format codes 0, M = 1, K and N[0] as given, tile slot 0. -/
def mmaRec (kk n : Nat) : Nat := 2 ^ 12 + kk * 2 ^ 23 + n * 2 ^ 40
/-- An OCV record of `rows` rows and one column. -/
def ocvRec (rows : Nat) : Nat := 2 ^ 29 + rows * 2 ^ 32 + 2 ^ 39

theorem witness_MatrixAndConversionIssue :
    (∀ p ∈ [(1, 0, 64), (2, 0, 64), (1, 1, 1), (2, 1, 1)], let w := BitVec.ofNat 32 (p.1 + 16 + 31 * 2 ^ 17 + 31 * 2 ^ 22 + 31 * 2 ^ 27); let r := mmaRec p.2.1 p.2.2;
      let k := { tRec 0 w r with halves := [(0, 2)] };
      showsOn k 0 w = true ∧ recOf k = some r ∧ mmaPairing (mmaFields k w r).fmtA (mmaFields k w r).fmtW = some pairing32 ∧ (mmaFields k w r).legal pairing32 = true ∧ k.streamBusy = false ∧ k.convs = [] ∧
        ((mmaFields k w r).k = 0 ∨ k.chunkStaged (mmaFields k w r) pairing32 0 ≠ 2)) ∧
    (∀ rows ∈ [1, 64], let w := BitVec.ofNat 32 (3 + 16 + 31 * 2 ^ 17 + 31 * 2 ^ 22 + 31 * 2 ^ 27); let k := tRec 0 w (ocvRec rows);
      showsOn k 0 w = true ∧ recOf k = some (ocvRec rows) ∧ (ocvFields k w (ocvRec rows)).legal = true ∧ tfind k.convs (ocvFields k w (ocvRec rows)).conv = none) ∧
    (let w := BitVec.ofNat 32 (3 + 16 + 31 * 2 ^ 17 + 31 * 2 ^ 22 + 31 * 2 ^ 27); let k := tRec 0 w (ocvRec 1); let v : ConvRun := ⟨ocvFields k w (ocvRec 1), 0, []⟩; let k := { k with convs := [(0, v)] };
      showsOn k 0 w = true ∧ recOf k = some (ocvRec 1) ∧ (ocvFields k w (ocvRec 1)).legal = true ∧ tfind k.convs (ocvFields k w (ocvRec 1)).conv = some v ∧ v.reserved k.icyc = true) := by
  decide +kernel

theorem witness_ResultsLand :
    collides (State.reset.core 127).dueLands = false ∧
    collides ((tOn { tCore 3 0 with lands := [⟨0, 0, .sreg 1 1⟩, ⟨0, 0, .sreg 1 2⟩] }).core 0).dueLands = true := by decide +kernel

theorem witness_CoreCyclePasses :
    (let w : W32 := 2; let k := tCore 2 w;
      (tOn k).core 0 = k ∧ k.run.isSome = true ∧ k.halted = false ∧ k.test = false ∧ k.advanceLanes.landDue = .ok k) ∧
    (let w : W32 := BitVec.ofNat 32 (3 + 7 * 2 ^ 7); let k := tCore 2 w; k.advanceLanes.landDue = .ok k ∧ k.holding ((tOn k).env 0) = true) ∧
    (let k := { tCore 3 0xFF with issued := 8 }; k.advanceLanes.landDue = .ok k ∧ k.holding ((tOn k).env 0) = false ∧ k.canFetch = true ∧
      (∀ i, i < 4 → badWord i (k.slotWord ((tOn k).env 0) i) = false) ∧ k.bundleDone ((tOn k).env 0) = true ∧
      (match k.passCycle ((tOn k).env 0) true with | .ok _ => true | .err _ _ => false) = true) := by decide +kernel

/-- A shared region of context 0 in frame 0 with a current version and, where `pend` is below 3, a pending one. -/
def tRegion (pend : Nat) : Region :=
  { version := 0, bases := [0, 65536, 131072], size := 65536, owner := 0, cacheable := false, commitPub := false, shared := true, win := 0, stack := 0, pend := pend, cur := 0,
    states := [2, if pend < 3 then 1 else 0, 0], digests := [[], [], []], mapped := [0], mirrored := false, modelState := false, shard := 0, publishing := false }
/-- A task that binds region 0. -/
def tTaskB : TaskRun := { tTask with bound := [some 0] }
/-- The module with region 0, its frames allotted to context 0, and core 0 as given. -/
def tMem (k : Core) (pend : Nat) : State := { tOn k with frames := [(0, 1), (1, 1), (2, 1)], regions := [(0, tRegion pend)] }
/-- A WFILL record: one tile, format 0. -/
def fillRec : Nat := 2 ^ 6

/-- A program with one schedule: flow 3 from core 1's endpoint 0 to ring 2, read by core 0 at endpoint 1. -/
def tProg : Prog :=
  { profile := 1, arrays := 4, lanes := 128, shards := 1, members := 1, h0 := 4, hmax := 4, maxLen := 0, features := 0, descVers := 1, planDigest := [], imageDigest := [], shardBytes := 0, streams := [7],
    windows := [], scheds := [⟨4, 0, 0, [[0]], [], [⟨3, 1, 1, 0, 2, 0⟩, ⟨4, 2, 0, 1, 2, 0⟩], [⟨2, 0, 12, 1, 0, 1, [1]⟩], [], [], [[0, 1, 2]]⟩],
    ctrs := [⟨0, 0, 0, none, true⟩], barriers := [], forwards := [], groups := [], regions := [], replay := [], mirrorFrames := 0, spareFrames := 0, admCtr := 0, maxSeq := 0, admBytes := 0 }
/-- The job of one member on this module. -/
def tMan : Manifest := { jobId := [1], members := [0], hosts := [0] }
/-- Context 0 running that program. -/
def tCtxP : Ctx := { tCtx with job := { CtxJob.reset with prog := some tProg, man := some tMan } }
/-- The module with that context. -/
def tDevP : State := { tDev with ctxs := [(0, tCtxP)] }

/-- Its schedule with slots for the flows of core 0: fills from region field 0 in flow 5, reads of ring 2 in flow 4. -/
def tSlotted : Ctx := { tCtxP with job := { tCtxP.job with prog := some { tProg with scheds := tProg.scheds.map (fun d => { d with slots := [⟨0, 23, 0, 5⟩, ⟨0, 30, 4, 4⟩], flows := d.flows ++ [⟨5, 0, 0, 0, 0, 0⟩] }) } } }

theorem witness_WeightFills :
    (let w := BitVec.ofNat 32 (1 + 16 + 31 * 2 ^ 17 + 31 * 2 ^ 22 + 31 * 2 ^ 27); let k := { tRec 2 w fillRec with run := some tTaskB }; let s := tMem k 3;
      presentsNow s 0 2 w k = true ∧ bitsOf w.toNat 3 0 = 1 ∧ fetchRecord k (s.env 0) (bitsOf w.toNat 16 4) = some fillRec ∧ pairingOf (wfillFields fillRec 0 0).fmt = some pairing32 ∧
      (s.env 0).regSize.getD (wfillFields fillRec 0 0).sel none = some 65536 ∧ bitsOf w.toNat 26 22 = 31 ∧ (wfillFields fillRec 0 0).legal pairing32 65536 = true) ∧
    (let k := { tCore 2 0 with run := some tTaskB, fills := [⟨fillRec, 0, 0, 0, 0, []⟩] }; let s := tMem k 3;
      (s.core 0).run = some tTaskB ∧ s.boundBase tTaskB (wfillFields fillRec 0 0).sel = some 0 ∧ ((s.ctx 0).fillFlow 0 (wfillFields fillRec 0 0).sel).isSome = false ∧
      ∀ r ∈ (wfillFields fillRec 0 0).ranges pairing32, s.rangeCheck .r (coreMaster 0) tTaskB.ctx (0 + r.1) r.2 = none ∧ s.devBad (0 + r.1) r.2 = false) ∧
    (let f := wfillFields fillRec 0 0; (tSlotted.fillFlow 0 f.sel).isSome = true ∧ 0 < f.total pairing32 ∧ f.total pairing32 ≤ f.total pairing32) := by decide +kernel

theorem witness_StreamsAndEndpoints :
    (let w : W32 := 2; let k := tSpad 2 w; showsOn k 2 w = true ∧ sLegal k w = true ∧ (k.spadRead (sAddr k w) (sLen w)).isSome = true) ∧
    (let w : W32 := 3; let k := { tCore 2 w with inEps := [(0, zeroLine)] }; showsOn k 2 w = true ∧ sLegal k w = true ∧ sLen w ≤ (tget [] k.inEps (sEp w)).length ∧ ((tOn k).core 0).inEps = k.inEps) ∧
    (let s := { tDevP with net := { Net.reset with rings := [(ringKey 0 2, ⟨0, 0, 4096, 0, [1, 2, 3], 1, 0, [(0, 0)]⟩)] } };
      (s.endpointOwner 2 0 1).isSome = true ∧ (tfind s.net.rings (ringKey 0 2)).isSome = true ∧ (s.ctx 0).slotted 4 = false ∧ tSlotted.slotted 4 = true) ∧
    (tDevP.endpointOwner 1 1 0).isSome = true := by decide +kernel

/-- A COPY record: 4 bytes from device address 0 to device address 64. -/
def copyRec : Nat := 64 * 2 ^ 72
/-- An ATOM record: operation 1 on one element, index at 0, value at 4. -/
def atomRec : Nat := 1 + 4 * 2 ^ 123

theorem witness_CopiesIssueAndComplete :
    (let w := BitVec.ofNat 32 (4 + 16 + 511 * 2 ^ 17 + 31 * 2 ^ 26 % 2 ^ 31); let k := tRec 2 w copyRec; showsOn k 2 w = true ∧ recOf k = some copyRec ∧ bitOf w.toNat 31 = false ∧
      (copyFields copyRec (copyAdd k (bitsOf w.toNat 30 26))).legal (((tOn k).env 0).regSize.getD (copyFields copyRec (copyAdd k (bitsOf w.toNat 30 26))).srcSel none)
        (((tOn k).env 0).regPend.getD (copyFields copyRec (copyAdd k (bitsOf w.toNat 30 26))).dstSel none) = true ∧ (copyFields copyRec 0).hash = 0 ∧ ((tOn k).core 0).copies = k.copies) ∧
    (let w := BitVec.ofNat 32 (5 + 16 + 31 * 2 ^ 26); let k := { tRec 2 w atomRec with spad := [(0, zeroLine)] }; showsOn k 2 w = true ∧ recOf k = some atomRec ∧ bitOf w.toNat 31 = false ∧
      (atomFields atomRec 0).legal = true ∧ (atomFields atomRec 0).aop ≠ 10 ∧ (k.spadRead 0 4).isSome = true ∧ (k.spadRead 4 4).isSome = true) ∧
    (let w := BitVec.ofNat 32 (6 + 16 + 31 * 2 ^ 17); let k := tRec 2 w (1023 * 2 ^ 48); showsOn k 2 w = true ∧ recOf k = some (1023 * 2 ^ 48) ∧ prefRange k w (1023 * 2 ^ 48) = some (0, 1024)) ∧
    (let w := BitVec.ofNat 32 (7 + 511 * 2 ^ 4 + 31 * 2 ^ 17); shows 2 w = true ∧ bitsOf w.toNat 16 13 = 0 ∧ bitsOf w.toNat 31 22 = 0) ∧
    (let s := tOn { tCore 2 0 with copies := [⟨0, true, atomRec, 0, 0, 0, [], [], false, none⟩, ⟨511, false, copyRec, 0, 0, 0, [], [], false, none⟩] };
      (s.core 0).run = some tTask ∧ (s.core 0).copies.find? (fun x => decide (x.tag = 0)) = some ⟨0, true, atomRec, 0, 0, 0, [], [], false, none⟩ ∧
      (s.core 0).copies.find? (fun x => decide (x.tag = 511)) = some ⟨511, false, copyRec, 0, 0, 0, [], [], false, none⟩) ∧
    (let k : CopyRun := ⟨510, false, copyRec, 0, 0, 0, [], [], true, some 4⟩; k.atom = false ∧ k.done = some 4) ∧
    (∀ dst ∈ [64, 2 ^ 46 + 5 * 2 ^ 40], let k : CopyRun := ⟨511, false, dst * 2 ^ 72 + 2, 0, 0, 0, [], [], false, none⟩; let s := tMem { tCore 2 0 with copies := [k], spad := [(0, zeroLine)] } 3;
      let f := copyFields k.record k.add; f.gather = false ∧ f.srcKind = 2 ∧ f.hash = 0 ∧ s.goesFar dst 4 = decide (dst ≠ 64) ∧
      (match State.copyReads 0 (s.copyMaster 0) 0 f.rowBytes k.got (s.copySrc 0 tTask f []) [] [] s with
      | (s1, some rows) => (State.copyWrites 0 (s.copyMaster 0) 0 ((f.deliver rows).1.mapIdx (fun i (bs : List Byte) => (rowAt f.dstKind
          ((s1.pendBase tTask f.dstSel).getD 0) ((s.env 0).pendSize f.dstSel) ((f.dst + i * f.dstStride : Nat) : Int) bs.length, bs))) s1).2
      | _ => false) = true) := by decide +kernel

/-- Access entries: host function 0 and device 1 for context 0 at stack 0, die 0's cache and counters, and port 0. -/
def tAcl : Tab Nat :=
  [(aclKey 3 0 1, aclEntry 0x4000 0x42FF none 0 0 [.r, .w, .a, .s] false),
   (aclKey (syncPage 0) 0 1, aclEntry 0x4200 0x42FF none 0 16383 [.s] false),
   (aclKey (dieCachePage 0) 0 1, aclEntry 0x4000 0x42FF none 0 786303 [.r, .w, .a] false),
   (aclKey (stackPage 0) 0 1, aclEntry 0x4000 0x8000 none 0 786303 [.r, .w] false)]
/-- The memory state with those entries. -/
def tShared : State := { tMem (tCore 3 0) 3 with regs := { Regs.reset with acl := tAcl } }

theorem witness_StackRequests :
    (∀ p ∈ [(0, 64), (63, 1), (65535, 1)], ∀ m ∈ [0, 0x4001], let r : MemReq := ⟨m, 0, 0, some 0, p.1, p.2, some (List.replicate p.2 1), 0⟩; tShared.hostShut r.master = false ∧ r.bad = 0 ∧ tShared.decodeAddr r.addr = some (tShared.cab, 0, p.1) ∧ r.len ≠ 0 ∧ p.1 % 64 + r.len ≤ 64 ∧
      (masterKind r.master = 4 → tShared.portAdmits 0 m 0 .r = true) ∧ tShared.memCheck .w r.master r.ctx 0 p.1 r.len = none) ∧
    (let s := { tShared with pcie := { Pcie.reset with shut := true } }; s.hostShut 0x8000 = true ∧ s.hostShut 0x1000 = false) ∧ tShared.hostShut 0x8000 = false ∧ masterKind 0x1000 = 1 ∧
    (∀ m ∈ [0, 0x1000, 0x4001, 0x8000], tShared.memCheck .r m 0 0 0 64 = none ∧ (masterKind m = 4 → tShared.portAdmits 0 m 0 .r = true)) ∧
    (tShared.devBad 0 64 = false ∧ feMirror (tShared.frame 0) = false ∧ tShared.memCheck .r 0 0 0 (65536 * 3) 64 = some 0x38 ∧ tShared.memCheck .w 0 1 0 0 64 = some 0x38) ∧
    tShared.decodeAddr 0x010000000000 = none := by decide +kernel

/-- Context 0 with device 1 as a buddy of the mirror map entry 0 of stack 0, from frame 0 on. -/
def tMirror : State := { tDevP with regs := { Regs.reset with live := [((stackPage 0) * 4096 + 0x800, 0x81)] } }

theorem witness_MirrorsAndDieCaches :
    (((List.range 256).map (tMirror.mirrorEntry 0)).find? (fun e => (mirrorBuddies e).contains 1 && decide (bitsOf e 55 36 ≤ frameOf 0))).isSome = true ∧
    ((tShared.core 0).run = some tTask ∧ tShared.decodeAddr 0 = some (tShared.cab, 0, 0) ∧ tShared.memCheck .r (tShared.copyMaster 0) 0 0 0 64 = none ∧ feStable (tShared.frame 0) = false) ∧
    (let s := { tShared with frames := [(0, 513)] }; s.memCheck .r (s.copyMaster 0) 0 0 0 64 = none ∧ feStable (s.frame 0) = true ∧ (0, memKey 0 0) ∉ s.care.cache ∧ s.devBad 0 64 = false ∧ tDev.decodeAddr (64 * 0) = some (tDev.cab, 0, 0)) ∧
    (let s := { tShared with frames := [(0, 513)], care := { Care.reset with cache := [(0, memKey 0 0)] } }; feStable (s.frame 0) = true ∧ (0, memKey 0 0) ∈ s.care.cache ∧ symbols 1 < 2) ∧
    tShared.memCheck .r (tShared.copyMaster 0) 0 0 (65536 * 3) 64 = some 0x38 := by decide +kernel

theorem witness_AtomicOperations :
    (let s := { tShared with care := { Care.reset with linebufs := [(0, 0)] } };
      (∀ aop ∈ [1, 10], s.decodeAddr 0 = some (s.cab, 0, 0) ∧ 0 % atomWidth aop = 0 ∧ (0, 0) ∈ s.care.linebufs ∧ s.memCheckAt (dieCachePage 0) .a 0x4001 0 0 (atomWidth aop) = none) ∧ s.devBad 0 64 = false) ∧
    (let x : CopyRun := ⟨3, true, atomRec, 0, 0, 0, [(0, 5)], [], false, none⟩; let s := { tMem { tCore 2 0 with copies := [x] } 3 with care := { Care.reset with linebufs := [(0, 0)] } };
      (s.core 0).run = some tTask ∧ (s.core 0).copies.find? (fun y => decide (y.tag = 3) && y.atom) = some x ∧ x.todo[0]? = some (0, 5) ∧ s.devBad 0 64 = false ∧
      s.memCheckAt (dieCachePage 0) .a (s.copyMaster 0) 0 0 (atomWidth (atomFields x.record x.add).aop) = none) := by decide +kernel

theorem witness_FrameMaintenance :
    (∀ f ∈ [0, 786431], tDev.entryOk f 1 = true) ∧ State.entryOk { tDev with regs := { Regs.reset with live := [((stackPage 0) * 4096 + 0x800, 5 * 2 ^ 16)] } } 4 (1 + 2 ^ 11) = false ∧
    (let s := { tDev with frames := [(5, 2 ^ 13)] }; feZeroing (s.frame 5) = true ∧ feAlloc (s.frame 5) = false) ∧ (1 ≤ tDev.regs.field (stackPage 15) 0x80 15 8) := by decide +kernel

/-- Counter 0 of context 0 in ADD mode, counter 1 in MAX mode. -/
def tCtrs : State := { tDevP with ctrs := [(0, ⟨3, 0, false, 0, 0, 0⟩), (1, ⟨3, 1, false, 0, 0, 0⟩)], regs := { Regs.reset with acl := tAcl } }

theorem witness_SignalsTravel :
    (let s := { tCtrs with cores := [(0, { tCore 3 0 with sigs := [⟨0, 0, 1, 2⟩], icyc := 1 })] }; (s.core 0).run = some tTask ∧ (s.core 0).settledUpTo 0 = true ∧ s.sentUpTo 0 0 0 = true ∧ s.deviceCtr 0 0 = some 0) ∧
    (tCtrs.mayCommand 0 0x8000 = true ∧ (tCtrs.ctx 0).hostInput 0 = true ∧ bitsOf (BitVec.ofNat 64 (2 ^ 18)).toNat 19 18 = 1 ∧ bitsOf (BitVec.ofNat 64 (2 ^ 19)).toNat 19 18 = 2) ∧
    (tCtrs.deviceCtr 0 15 = some 15 ∧ tCtrs.deviceCtr 0 16 = none ∧ tCtrs.portAdmitsSync 0 0x4201 0 = true ∧ tCtrs.admits (syncPage 0) 0 0x4201 0 15 15 .s = true ∧ (0 : Nat) = (tCtrs.ctx 0).job.gen ∧
      (1 : Nat) ≠ (tCtrs.ctx 0).job.gen) := by decide +kernel

theorem witness_SignalsApply :
    tCtrs.ctrOwner 0 = some 0 ∧ (tCtrs.ctr 0).proxy = false ∧ (tCtrs.ctr 0).mode = 0 ∧ tCtrs.ctrOwner 1 = some 0 ∧ (tCtrs.ctr 1).proxy = false ∧ (tCtrs.ctr 1).mode = 1 ∧ (tCtrs.ctx 0).state ≠ 0 := by decide +kernel

/-- A member's barrier node with child 1. -/
def tBar : BarNode := ⟨0, 0, 0, true, 1, 0, 1, none, [], [], 0, 0⟩

theorem witness_BarrierMessages :
    let s := { tCtrs with bars := [(barKey 0 0, tBar)] }
    tfind s.bars (barKey 0 0) = some tBar ∧ (0 : Nat) = (s.ctx 0).job.gen ∧ tBar.released < 1 ∧ tBar.children = [] ∧ tBar.member = true ∧ { tBar with children := [1], member := false }.children = [1] ∧ (7 : Nat) ≠ (s.ctx 0).job.gen := by decide +kernel

/-- A queue of context 0 with one entry in frame 0, whose stall has lasted 11 units under a limit of 10. -/
def tQueue : Queue := { ctx := 0, base := 0, lg := 4, head := 0, tail := 1, mask := 255, step := true, descVer := 1, paused := false, running := [], stall := 11, stallLimit := 10, stepHead := 0 }
/-- Memory in which the descriptor at address 0 waits for counter 0 to reach 9. -/
def tWaitMem : Tab Byte := [(26, 4), (32, 9)]
/-- A collective queue likewise. -/
def tCq : Cq := { engine := 0, linkDie := 0, base := 0, lg := 4, head := 0, tail := 1, run := none, again := false, early := [], notes := [], stall := 11, stallLimit := 10, stepHead := 0 }

theorem witness_WaitWatchdogAndSnapshot :
    (let s := { tCtrs with queues := [(0, tQueue)], mem := tWaitMem }; s.queue 0 = some tQueue ∧ tQueue.stallLimit < tQueue.stall ∧ (s.ctx tQueue.ctx).state = 2 ∧ s.stalled 0 tQueue = true) ∧
    (let s := { tCtrs with ctxs := [(0, { tCtxP with cqs := [(15, tCq)] })], mem := [(14, 4), (16, 9)] }; tfind (s.ctx 0).cqs 15 = some tCq ∧ (s.ctx 0).state = 2 ∧ s.cqReady 0 tCq = false) ∧
    (tCtrs.ctrOwner (0 * 16384 + 15) = some 0 ∧ (tCtrs.ctr 15).proxy = false) := by decide +kernel

/-- A tile-task's descriptor: version 1, kind 1, shard 0, no regions, no waits. -/
def tDesc : Nat := 1 + 1 * 2 ^ 4 + (2 ^ 64 - 1) * 2 ^ 128
/-- The module with queue 0 holding that descriptor. -/
def tQueued : State := { tDev with queues := [(0, { tQueue with stall := 0 })], mem := (List.range 128).foldl (fun m i => tput 0 m i (BitVec.ofNat 8 (tDesc / 2 ^ (8 * i)))) [] }

theorem witness_DispatchOfTileTasks :
    (tQueued.coreFree 0 = true ∧ tQueued.candidate 0 0 { tQueue with stall := 0 } = true) ∧
    (let s := { tQueued with arbs := [(0, { Arb.reset with chosen := some (0, 0) })] }; (s.arb 0).chosen = some (0, 0) ∧ (s.queue 0).isSome = true ∧ (s.ctx 0).state = 2 ∧ (s.ctx 0).st.hold = 0 ∧
      s.fencedCore 0 = false ∧ (s.core 0).run = none) ∧
    (let q := { tQueue with stall := 0 }; let d := tQueued.headDesc q; (tQueued.takeHead 0 q d).descLegal q d = true ∧ tQueued.devBad (q.entry q.head) 128 = false ∧ tQueued.replayable 0 0 d = false ∧
      (tQueued.core 0).fsPending = none) := by decide +kernel

theorem witness_TileTaskEnds :
    (let s := tOn { tCore 3 0 with ended := true }; (s.core 0).run = some tTask ∧ (s.landedNow 0).taskSettled 0 tTask = true) ∧
    (((tOn (tCore 3 0)).landedNow 0).taskSettled 0 tTask = false ∧ (tCore 3 0).landDue = .ok (tCore 3 0) ∧ (tOn (tCore 3 0)).core 0 = tCore 3 0) ∧
    (let s := tOn { tCore 3 0 with wd := 4000 * 1200 + 1 }; (s.core 0).wdLimit * 1200 < (s.core 0).wd) ∧ ((tOn (tCore 3 0)).core 0).wd ≤ ((tOn (tCore 3 0)).core 0).wdLimit * 1200 := by decide +kernel

/-- A sample of a chunk of one product 1.0 × 1.0 of bfloat16, of exact mode or of a watch entry. -/
def tSample (entry : Option Nat) (delivered : Nat) : FsSample := ⟨0, entry, false, 0, false, [fmtBf16.decode 0x3F80], [], [], [fmtBf16.decode 0x3F80], 0, 0, 0, none, 0, 0, delivered, 0⟩
/-- The module with a sample in the Footstool of core 0, the master weight 1.0 at address 0, and a replay of core 0 pending. -/
def tFs (x : FsSample) : State := { tMem { Core.reset with fsBuf := [x] } 3 with ctxs := [(0, tCtxP)], mem := [(2, 0x80), (3, 0x3F)], care := { Care.reset with replays := [⟨0, tTask, 9, []⟩] } }

theorem witness_FootstoolAndReplay :
    (∀ d ∈ [0, 0x3F800000], let s := tFs (tSample none d); let x := tSample none d; (s.core 0).fsBuf.find? (fun y => y.entry.isNone) = some x ∧ bitOf (2 ^ 36) 36 = true ∧ bitOf 0 36 = false ∧
      (recompute (x.faulty 0)).1 = 0x3F800000 ∧ (recompute (x.faulty 0)).2.toNat = (x.faulty 0).flags ∧ (x.faulty 0).delivered = d ∧ (s.core 0).run = none) ∧
    (let s := tFs (tSample (some 15) 0); let x := tSample (some 15) 0; (s.core 0).fsBuf.find? (fun y => y.entry.isSome) = some x ∧ s.masterWeights 0 15 x = some [0x3F800000] ∧
      absB32 (wideSum x.a0 [0x3F800000]) ≠ 0 ∧ absB32 (wideSum x.a0 [0x3F800000]) < 0x7F800000) ∧
    (let s := tFs (tSample none 0); let r : Replay := ⟨0, tTask, 9, []⟩; s.care.replays.find? (fun x => decide (x.core = 0)) = some r ∧ s.replayOn r = some 1 ∧ s.mayReplay 1 r = true) ∧
    (∀ rs ∈ [[(1, 9)], [(1, 4), (2, 4)], [(1, 4), (2, 9)]], let r : Replay := ⟨0, tTask, 9, rs⟩; let s := { tFs (tSample none 0) with care := { Care.reset with replays := [r] } };
      s.care.replays.find? (fun x => decide (x.core = 0) && !x.results.isEmpty) = some r ∧ (4 : Nat) ≠ r.digest) := by decide +kernel

/-- The module with slot 5 of channel 33 of die 15, and of channel 11 of die 18, scheduled for flow 4095 of context 63. -/
def tSlots : State := { tDev with regs := { Regs.reset with live := [((slotTable 15 33).getD (0, 0)).1 * 4096 + ((slotTable 15 33).getD (0, 0)).2 + 20, ((slotTable 18 11).getD (0, 0)).1 * 4096 + ((slotTable 18 11).getD (0, 0)).2 + 20].map (fun a => (a, BitVec.ofNat 32 (1 + 63 * 4 + 4095 * 256))) } }

theorem witness_ScheduledSlots :
    (∀ p ∈ [(15, 33), (18, 11)], (slotTable p.1 p.2).isSome = true ∧ tSlots.slotEntry p.1 p.2 5 % 4 = 1 ∧ bitsOf (tSlots.slotEntry p.1 p.2 5) 7 2 = 63 ∧ bitsOf (tSlots.slotEntry p.1 p.2 5) 19 8 = 4095 ∧
      tSlots.slotEntry p.1 p.2 255 % 4 ≠ 1 ∧ tSlots.dueFlits p.1 p.2 255 = []) ∧ nextRouter 15 33 255 = some (15, 3, 33) ∧ nextRouter 18 0 5 = some (12, 17, 18) ∧ tSlots.root.crossings = true ∧
    bitOf (tget 0 tSlots.net.conflict 0) 63 = false ∧ bitOf (conflictWord 63 255 0 63 4095 0x7FE) 63 = true ∧ bitsOf (conflictWord 63 255 0 63 4095 0x7FE) 62 52 < 0x7FF ∧ (0 : Nat) ≠ 1 := by decide +kernel

theorem witness_CrossingsAndOpenTraffic :
    (tDev.root.crossings = true ∧ tDev.net.latency = 8 ∧ (9 : Nat) ≠ tDev.net.latency ∧ tDev.root.mainUp = true) ∧
    (tSlots.slotEntry 15 33 5 % 4 = 1 ∧ { tSlots.regs with live := [(routerPage 15 * 4096 + 0x80, 0)] }.field (routerPage 15) 0x80 20 20 = 0 ∧ tSlots.slotEntry 15 33 6 % 4 ≠ 1) ∧
    (let s := { tDev with care := { Care.reset with transit := [tDev.mkRec 0x30 2] } }; s.care.transit = [tDev.mkRec 0x30 2] ∧ s.root.bureauUp = true) := by decide +kernel

/-- Context 0 with queue 0 and collective queue 15. -/
def tQs : State := { tCtrs with queues := [(0, tQueue)], ctxs := [(0, { tCtxP with cqs := [(15, tCq)] })] }

theorem witness_QueueDoorbells :
    (∀ tail ∈ [1, 16], let v : W64 := BitVec.ofNat 64 (tail * 2 ^ 16); tQs.mayCommand 0 0x8000 = true ∧ tQs.queue (bitsOf v.toNat 15 0) = some tQueue ∧ tQueue.ctx = 0 ∧ tailOk 0 1 (bitsOf v.toNat 31 16) 4 = true) ∧
    (∀ tail ∈ [0, 17], tailOk 0 1 tail 4 = false) ∧ tfind (tQs.ctx 0).cqs 15 = some tCq ∧ tQs.mayCommand 0 0x8001 = false := by decide +kernel

/-- Context 0 with a group of its one shard, and a legal reduction of one block at the head of collective queue 15. -/
def tCollDesc : Nat := 1 + 2 * 16 + 64 * 2 ^ 64
/-- An eager one. -/
def tEagerDesc : Nat := 1 + 4 * 16 + 64 * 2 ^ 64
/-- The module with such a descriptor. -/
def tColl (d : Nat) : State :=
  { tCtrs with ctxs := [(0, { tCtx with cqs := [(15, tCq)], job := { CtxJob.reset with prog := some { tProg with groups := [(0, [0])] }, man := some tMan } })], frames := [(0, 1)], mem := (List.range 64).foldl (fun m i => tput 0 m i (BitVec.ofNat 8 (d / 2 ^ (8 * i)))) [] }
/-- The collective in progress. -/
def tRun : CollRun := { collOf tCollDesc 10 with waited := 11 }
/-- A message of it. -/
def tMsg : CollMsg := ⟨0, 0, 0, 0, 0, 0, 2, 64, 0, 0, 0, 0, 1, 0, false, 0, [0]⟩
/-- With its CRC as a message of a kind. -/
def tMsgOf (kind : Nat) : CollMsg := { tMsg with crc := collCrc kind (collHeader tMsg) tMsg.payload }
/-- The module with it in progress. -/
def tCollRuns : State := { tColl tCollDesc with ctxs := [(0, { tCtx with cqs := [(15, { tCq with run := some tRun })], job := { CtxJob.reset with prog := some { tProg with groups := [(0, [0])] }, man := some tMan } })] }

theorem witness_Collectives :
    ((tColl 0).collHead 0 15 = some (tCq, 0) ∧ (tColl 0).collLegal 0 0 = false) ∧
    ((tColl tEagerDesc).collHead 0 15 = some (tCq, tEagerDesc) ∧ (tColl tEagerDesc).collLegal 0 tEagerDesc = true ∧ bitsOf tEagerDesc 7 4 = 4 ∧ (tColl tEagerDesc).regs.strictActive = true) ∧
    ((tColl tCollDesc).collHead 0 15 = some (tCq, tCollDesc) ∧ (tColl tCollDesc).collLegal 0 tCollDesc = true ∧ bitsOf tCollDesc 7 4 ≠ 4 ∧ (tColl tCollDesc).cqReady 0 tCq = true) ∧
    (let d := tCollDesc + 2 ^ 114 + 9 * 2 ^ 128; (tColl d).collHead 0 15 = some (tCq, d) ∧ (tColl d).collLegal 0 d = true ∧ (tColl d).cqReady 0 tCq = false) ∧
    (tMsg.gen = (tCollRuns.ctx 0).job.gen ∧ (1 : Nat) ≠ (tCollRuns.ctx 0).job.gen ∧ (∀ k ∈ [0, 1, 2], collCrcOk k (tMsgOf k) = true) ∧ collCrcOk 0 tMsg = false ∧ tCq.run = none ∧
      tCollRuns.collMatches 0 tRun tMsg = true ∧ tCollRuns.collPassed 0 tCq tMsg = false ∧ tget 0 tRun.retries (heldKey 1 0 0 0) < 2 ∧ tRun.differs tMsg = false ∧ { tRun with op := 1 }.differs tMsg = true ∧
      tfind tRun.held (heldKey 1 0 0 0) = none ∧ (tfind { tRun with held := [(heldKey 1 0 0 0, [])] }.held (heldKey 1 0 0 0)).isSome = true ∧ tMsg.shard ∈ (tCollRuns.ctx 0).groupShards tRun.group ∧
      tMsg.part < tRun.parts ∧ tMsg.block < tRun.count ∧ tMsg.payload.length = passLen tMsg.pass) ∧
    (tMsg.step = (tCollRuns.ctx 0).st.step ∧ (tCollRuns.ctx 0).loaded = true ∧
      (∃ r, tCollRuns.findColl { tCq with run := some tRun } tMsg = some r ∧ r.differs tMsg = false ∧ tCollRuns.collSrcCheck 0 tCq r = none ∧ tCollRuns.collBadLine 0 r = none ∧
        (tCollRuns.groupHere 0 r.group).contains 0 = true ∧ 0 < r.parts ∧ 0 < r.count)) ∧
    (tRun.limit < tRun.waited ∧ tCollRuns.collMissing 0 tRun ≠ [] ∧ { tRun with done := true }.done = true) := by
  refine ⟨by decide +kernel, by decide +kernel, by decide +kernel, by decide +kernel, by decide +kernel, ⟨by decide +kernel, by decide +kernel, collOf tCollDesc 0, by decide +kernel⟩, by decide +kernel⟩

theorem witness_AlignedReductionOrderFree : ([[1], [2]] : List (List Nat)).Perm [[2], [1]] := by decide

/-- A module of plan 1 (16 modules), index 0, with link 0 in a state. -/
def tLink (k : Link) : State := { tDev with root := { tRoot with straps := 1 * 2 ^ 7 }, links := [(0, k)], regs := { Regs.reset with live := [(3 * 4096 + 0x104 + 16, 5)] }, now := 900000000000 }
/-- The identity that link 0 expects. -/
def tIdent : IdentMsg := ⟨((tLink Link.reset).portFar ((((tLink Link.reset).portOf 0)).getD 0)).getD 0, (farLink 0).getD 0, 1, false, 0, 0x10, 0⟩

theorem witness_LinkTrainingAndRetrain :
    (∀ st ∈ [1, 2, 3, 4, 5, 6], ((tLink { Link.reset with state := st }).link 0).state = st ∧ ((tLink { Link.reset with state := st }).link 0).again = false ∧
      ((tLink { Link.reset with state := st }).link 0).enteredAt + trainLimit st ≤ (tLink { Link.reset with state := st }).now ∧ { Link.reset with state := st }.short = false) ∧
    (let s := tLink { Link.reset with state := 4 }; (s.portOf 0).bind s.portFar = some (tIdent.index % 128) ∧ farLink 0 = some (tIdent.link % 32) ∧ tIdent.plan % 8 = s.plan ∧ (2 : Nat) % 8 ≠ s.plan ∧
      (s.portOf 0).bind s.portFar ≠ some ((tIdent.index + 1) % 128)) ∧
    (0x1F / 16 = tDev.protoMax / 16 ∧ 0x20 / 16 ≠ tDev.protoMax / 16 ∧ (0x20 : Nat) < 256) ∧
    (tDev.now < (tDev.link 31).enteredAt + trainLimit (tDev.link 31).state) ∧
    (let s := tLink { Link.reset with state := 6, retrainAt := [900000000000 - 1, 900000000000 - 2, 900000000000 - 3] }; (s.link 0).state = 6 ∧ 3 ≤ ((s.link 0).retrainAt.filter (fun t => decide (s.now ≤ t + 6000000000))).length) := by decide +kernel

/-- The first 264 bytes of a piece packet of a class and a sequence number. -/
def tPiece (cls seq : Nat) : List Byte := (piecePacket [cls, 63, 4095, 255, 15, 65535] seq (List.replicate 256 1)).take 264

theorem witness_LinkPackets :
    let s := tLink { Link.reset with state := 6, rxSeq := 4095, rxCount := 62 }
    (s.link 0).state = 6 ∧ (∀ p ∈ [(0, 4095), (3, 4095), (1, 0), (2, 4094)], (tPiece p.1 p.2).length = 264 ∧ (pieceFields (tPiece p.1 p.2)).1.getD 0 0 = p.1 ∧ (pieceFields (tPiece p.1 p.2)).1.getD 6 0 = p.2) ∧
      (s.link 0).rxSeq = 4095 ∧ (s.link 0).rxCount < 63 ∧ 0 < (s.link 0).rxCount ∧ seqDist (s.link 0).rxSeq 0 < 2048 ∧ 2048 ≤ seqDist (s.link 0).rxSeq 4094 ∧ ([] : List Byte).length ≠ 268 ∧
      { s.link 0 with nakOut := true, rxCount := 0 }.nakOut = true ∧ leNat ((List.replicate 28 (0 : Byte)).take 1) = 0 := by decide +kernel

/-- The module of plan 1 with its neighbour on port 0 present, heartbeats due, and link 0 active. -/
def tCab : State := { tLink { Link.reset with state := 6 } with care := { Care.reset with present := [tIdent.index], lostDevs := [9], forwarded := [(3, 77)] } }

theorem witness_CabinetEvents :
    tCab.root.ready = true ∧ tCab.root.bureauUp = true ∧ tCab.root.offline = false ∧ tCab.care.hbAt + tCab.regs.field 1 0x138 23 16 * ms ≤ tCab.now ∧ tIdent.index ∈ tCab.care.present ∧ 0 ∉ tCab.ports.lost ∧
    (∃ p, p < 8 ∧ tCab.portFar p = some tIdent.index) ∧ tIdent.index ≠ tCab.cab ∧ tget 0 tCab.care.heard tIdent.index + tCab.regs.field 1 0x138 15 0 * ms ≤ tCab.now ∧ 3 ∉ tCab.care.lostDevs ∧
    (3 : Nat) < planModules tCab.plan ∧ 9 ∈ tCab.care.lostDevs ∧ (tCab.link 0).state = 6 ∧ (2 : Nat) ≠ tCab.plan ∧ (1 : Nat) = tCab.plan ∧ (3, 77) ∈ tCab.care.forwarded ∧ (3, 77) ∉ tCab.care.seen ∧ tCab.nonceOf 3 = 0 ∧ (∀ k ∈ [1, 16], 1 ≤ k ∧ k ≤ (16 : Nat)) ∧  (3 : Nat) ≠ tCab.cab := by decide +kernel

/-! ### The system -/

/-- Context 0, loaded, has no command in progress. -/
theorem tAccepts_loaded : tCtrs.Accepts 0x8000 0 := ⟨by decide, by decide +kernel, by decide +kernel, by decide +kernel, by decide +kernel, by decide +kernel⟩
/-- Context 0 of state `k`. -/
def tIn (k : Nat) : State := { tCtrs with ctxs := [(0, { tCtxP with state := k })] }
/-- It accepts commands in every state. -/
theorem tAccepts_in (k : Nat) : (tIn k).Accepts 0x8000 0 := ⟨(by omega : 0 < 64), rfl, rfl, rfl, rfl, rfl⟩

theorem witness_CommandBlock :
    tCtrs.hostShut 0x8000 = false ∧ tCtrs.hostShut 0x8001 = false ∧ ({ tCtrs with pcie := { Pcie.reset with shut := true } }).hostShut 0x8000 = true ∧ (13, Instr.evalBind 0x8000 63 255 []) ∈ ctxCommands 0x8000 63 255 [] ∧ tCtrs.mayCommand 0 0x8001 = false ∧ tCtrs.mayCommand 63 0x8000 = true ∧
    (let s := { tCtrs with ctxs := [(0, { tCtx with cmd := tCtx.cmd.issue 2 0 0x8000 [] })] }; (s.ctx 0).cmd.busy = true) ∧
    (let s := { tCtrs with root := { tRoot with ready := false } }; s.root.ready = false ∧ (s.ctx 0).cmd.busy = false ∧ s.mayCommand 0 0x8000 = true) ∧
    (let q := { tCtrs with regs := { tCtrs.regs with live := [(ctxPage 0 * 4096 + 0x3D4, 8)] } }; let j := q.issued 0 9 1 0x8000 [7, 262144, 8]; (q.ctx 0).state ≠ 0 ∧ j.arg 0 1 ≤ 262144 ∧ j.arg 0 2 ≤ q.quota 0 ∧ j.arg 0 0 < 2 ^ 32 ∧
      (q.issued 0 9 1 0x8000 [7, 262145, 8]).arg 0 1 = 262145 ∧ q.quota 0 < (q.issued 0 9 1 0x8000 [7, 262144, 9]).arg 0 2 ∧ 2 ^ 32 ≤ (q.issued 0 9 1 0x8000 [2 ^ 32, 0, 0]).arg 0 0) ∧
    (let c := { tCtx with mem := { tCtx.mem with joins := List.replicate 1024 ⟨9, 0, 0, 0⟩, admitted := [⟨7, 5, 0, 0⟩] } }; 1024 ≤ c.mem.joins.length ∧ c.mem.admitted.any (fun x => decide (x.id = 7)) = true) := by decide +kernel

/-- The bytes of a program of one shard, with one empty schedule, and its manifest for this device alone (R401 to R404). -/
def tImage : List Byte := leBytes 454 0x1ac000000000000000000000000000000000000000000000000000000000000000000000000000000000000000000000000000000000000ff010000000000000001000000000000000000000007000000000000018c0000002000000009000000000000018c0000000000000005000000000000016c000000200000000400000000000001640000000800000003000000000000016000000004000000020000000000000160000000000000000100000000000000000000000000000000000000000000000000000000000000000000000000000000000000000000000000000000000000000000000000000000000000000000000000000000000000000000000000000000000000000000000000000000000000000000000000000000000000000000000000000000000000000000000000000000000000000000000000000000000000000000000000000000000000000000000000000000000000000000000000000000000000000000000055b852781b9995a44c939b64e441ae2724b96f99c8f4fb9a141cfc9842c4b0e300000000000600020000000000000000010100010001008004010100314e5a54
/-- The bytes of a save record of it (Table 12.16), whose closing digest was computed apart. -/
def tSave : List Byte := leBytes 166 0xe4ea4fee47ea28ce10621ca767e3856e13bfc00c878f926ab1418a0c97efd7c30000000000000000000000000000000000000001000000000000000000000000000000000000000000000000000000000000000000000000000000000000000000000000000000000000000000000000000000000000000000000000000055b852781b9995a44c939b64e441ae2724b96f99c8f4fb9a141cfc9842c4b0e30004008000000001
/-- The listed bytes of a run that starts at offset 0 of stack 0. -/
def tBytesAt (b : List Byte) (o : Nat) : Tab Byte := ((List.zip (List.range b.length) b).filter (fun x => decide (x.2 ≠ 0))).map (fun x => (o + x.1, x.2))
/-- The module with nothing loaded, a quota of 16 frames for context 0, its image area in frame 0, and these bytes of memory. -/
def tUnl (image : Option (Nat × Nat)) (b : Tab Byte) : State :=
  { State.reset with root := tRoot, regs := { Regs.reset with live := [(ctxPage 0 * 4096 + 0x3D4, 16)] }, ctxs := [(0, { Ctx.reset with mem := { Ctx.reset.mem with image := image } })], mem := b }
/-- With the program in the image area. -/
def tLoad : State := tUnl (some (0x200000000000, 454)) (tBytesAt tImage 0)
/-- With the program in the image area and the save record 512 bytes on. -/
def tRestore : State := tUnl (some (0x200000000000, 454)) (tBytesAt tImage 0 ++ tBytesAt tSave 512)

theorem witness_LoadingOfContexts :
    ((tUnl none []).Accepts 0x8000 0 ∧ ((tUnl none []).ctx 0).state = 0 ∧ ((tUnl none []).ctx 0).mem.image = none ∧ versionFrames 1 (16 * 2 ^ 20) ≤ (tUnl none []).quota 0 ∧
      ((tUnl none []).findRun (versionFrames 1 (16 * 2 ^ 20))).isSome = true) ∧
    (tLoad.Accepts 0x8000 0 ∧ (tLoad.ctx 0).state = 0 ∧ (tLoad.ctx 0).mem.image ≠ none ∧
      (match (tLoad.issued 0 2 1 0x8000 []).image 0 with | some (p, m) => decide ((tLoad.issued 0 2 1 0x8000 []).loadChecks 0 p m = 0) | none => false) = true ∧
      (let q := { tLoad with frames := [(1, 1)], regs := { Regs.reset with live := [(ctxPage 0 * 4096 + 0x3D4, 0)] } }; match (q.issued 0 2 1 0x8000 []).image 0 with | some (p, m) => decide ((q.issued 0 2 1 0x8000 []).loadChecks 0 p m ≠ 0) | none => false) = true) ∧
    ((tUnl (some (0, 64)) []).Accepts 0x8000 0 ∧ (((tUnl (some (0, 64)) []).issued 0 2 1 0x8000 []).image 0).isNone = true) ∧
    (tRestore.Accepts 0x8000 0 ∧ (let i := tRestore.issued 0 3 1 0x8000 [0x200000000000 + 512]; match i.image 0 with
      | some (p, m) => (match parseSave (i.devRead (i.arg 0 0) (p.saveLength (m.shardsOf i.cab).length)) (((List.range 16).filter (fun d => decide (p.ctrCount d ≠ 0))).length) p.regions.length with
        | some r => decide (r.lanes = 128 ∧ r.arrays = 4 ∧ r.plan = p.planDigest ∧
          firstCode [i.checkProfile p, p.checkLanes, 0, i.checkStrict p, p.checkLength, i.checkPlace 0 p m, i.checkResources 0 p m, p.checkDesc] = 0)
        | none => false)
      | none => false) = true) := by
  refine ⟨⟨⟨by decide, by decide +kernel, by decide +kernel, by decide +kernel, by decide +kernel, by decide +kernel⟩, by decide +kernel⟩, ⟨⟨by decide, by decide +kernel, by decide +kernel, by decide +kernel, by decide +kernel, by decide +kernel⟩, by decide +kernel⟩,
    ⟨⟨by decide, by decide +kernel, by decide +kernel, by decide +kernel, by decide +kernel, by decide +kernel⟩, by decide +kernel⟩, ⟨⟨by decide, by decide +kernel, by decide +kernel, by decide +kernel, by decide +kernel, by decide +kernel⟩, by decide +kernel⟩⟩

/-- A shared region of 64 bytes whose fetched version is pending, and the context that declares it with the digest of those bytes. -/
def tFetched : State :=
  { tMem (tCore 3 0) 3 with regions := [(0, { tRegion 1 with size := 64 })], ctxs := [(0, { tCtx with job := { CtxJob.reset with prog := some { tProg with regions := [⟨0, true, false, false, false, false, 0, 0xFFFF, 64, versionDigest 64 zeroLine⟩] }, man := some { tMan with members := [0, 5] }, peers := [(5, 63)] } })] }

theorem witness_SharedRegionAndAnnouncement :
    (∃ g, tFetched.region 0 = some g ∧ g.shared = true ∧ g.pend < 3 ∧ zeroLine.length = g.size ∧ 0 ∈ g.mapped ∧ tFetched.declaredDigest 0 = some (versionDigest g.size zeroLine)) ∧
    (∃ k, (tFetched.ctx 0).job.man = some k ∧ k.jobId = [1] ∧ 5 ∈ k.members ∧ 5 ≠ tFetched.cab ∧ (tFetched.ctx 0).state ≠ 0 ∧ (tfind (tFetched.ctx 0).job.peers 5).isSome = true) :=
  ⟨⟨{ tRegion 1 with size := 64 }, by decide +kernel⟩, ⟨{ tMan with members := [0, 5] }, by decide +kernel⟩⟩

theorem witness_LifeOfContexts :
    (tIn 0).Accepts 0x8000 0 ∧ (∀ k ∈ [0, 2, 4, 5], ((tIn k).ctx 0).state = k ∧ ((tIn k).ctx 0).job.seedDigest = none ∧ ((tIn k).ctx 0).errStop = false ∧ ((tIn k).ctx 0).ysrc = 0) ∧
    (let s := { tCtrs with ctxs := [(0, { tCtxP with state := 4, ysrc := 1 })] }; (s.ctx 0).state = 4 ∧ (s.ctx 0).ysrc = 1) ∧
    (let s := { tCtrs with ctxs := [(0, { tCtxP with state := 5, errStop := true })] }; (s.ctx 0).errStop = true) ∧
    (∀ y ∈ [0, 1, 2], let s := { tCtrs with ctxs := [(0, { tCtxP with state := 5, ysrc := y })] }; (s.ctx 0).st.hold < 4 ∧ (s.ctx 0).job.held = false ∧
      (((s.issued 0 5 1 0x8000 []).endSource 0 0).ctx 0).ysrc = y / 2 * 2) ∧
    (let s := { tCtrs with now := 4000000, ctxs := [(0, { tCtxP with st := { tCtxP.st with unloadAt := some 0 } })] }; (s.ctx 0).st.unloadAt = some 0 ∧ 0 + 4000000 ≤ s.now ∧ s.runningOn 0 = []) ∧
    (∀ a ∈ [0, 1], ∀ b ∈ [0, 50], ((tIn 2).issued 0 6 1 0x8000 [a, b]).arg 0 0 ≤ 1 ∧ ((tIn 2).issued 0 6 1 0x8000 [a, b]).arg 0 1 ≤ 50) ∧
    50 < ((tIn 2).issued 0 6 1 0x8000 [0, 51]).arg 0 1 := by
  refine ⟨tAccepts_in 0, by decide +kernel⟩

/-- Region 0 as given, mapped by contexts 0 and 1, which are loaded. -/
def tVer (g : Region) : State := { tMem (tCore 3 0) 3 with regs := { Regs.reset with acl := tAcl }, regions := [(0, { g with mapped := [0, 1] })], ctxs := [(0, tCtxP), (1, tCtxP)], cores := [] }

theorem witness_VersionsAndEvaluation :
    ((tVer (tRegion 3)).mayCommand 0 0x8000 = true ∧ ((tVer (tRegion 3)).ctx 0).cmd.busy = false ∧ ((tVer (tRegion 3)).ctx 0).mem.imageDone = false ∧ ((tVer (tRegion 3)).ctx 0).state ≠ 0) ∧
    (let i := (tVer (tRegion 3)).issued 0 11 1 0x8000 [0]; i.mayName 0 (i.arg 0 0) = true ∧ (i.region (i.arg 0 0)).isSome = true ∧ (i.openVersion (i.arg 0 0)).isSome = true) ∧
    (let i := (tVer (tRegion 1)).issued 0 12 1 0x8000 [0]; i.mayName 0 (i.arg 0 0) = true ∧ (tRegion 1).pend < 3) ∧
    (let i := (tVer (tRegion 3)).issued 0 13 1 0x8000 [1, 0, 0xFFFF, 0xFFFF, 0xFFFF, 1]; i.arg 0 0 < 64 ∧ i.arg 0 0 ≠ 0 ∧ i.arg 0 5 ≤ 1 ∧ ((tVer (tRegion 3)).ctx (i.arg 0 0)).state ≠ 0 ∧
      (∀ r ∈ ((List.range 4).map (fun k => i.arg 0 (1 + k))).filter (fun r => decide (r ≠ 0xFFFF)), i.mayName (i.arg 0 0) r = true)) ∧
    (let s := { tVer (tRegion 3) with ctxs := [(0, { tCtxP with mem := { tCtxP.mem with evals := [⟨1, [0], true, false, []⟩] } })] }; (s.ctx 0).mem.evals ≠ [] ∧ evalSlots (s.ctx 0).mem.evals = []) ∧
    (let g := { tRegion 1 with publishing := true }; (tVer g).writesDone 0 g = true ∧ (∀ c ∈ ((tVer g).publish 0).ctxs, c.2.cmd.busy = false)) ∧
    (let g := { tRegion 3 with states := [2, 3, 0] }; g.slot 1 = 3 ∧ (tVer g).slotHeld 0 1 = false ∧
      ({ tVer g with ctxs := [(0, { tCtxP with mem := { tCtxP.mem with evals := [⟨1, [0], false, true, [(0, 1)]⟩] } })] }).slotHeld 0 1 = true) := by decide +kernel

theorem witness_PublishedVersion :
    (tVer (tRegion 1)).region 0 = some { tRegion 1 with mapped := [0, 1] } ∧ (tRegion 1).pend < 3 ∧ (tRegion 1).cur < 3 ∧ (tRegion 1).pend ≠ (tRegion 1).cur ∧ (tRegion 1).states.length = 3 ∧ (tRegion 1).slot (tRegion 1).cur = 2 := by
  decide +kernel

/-- The module of index 5 of plan 1 when `me` is 5, with a context of members 0 and 5 that awaits its initial boundary. -/
def tCom (me : Nat) (j : CtxJob) (m : CtxMem) : State :=
  { tDev with root := { tRoot with straps := 1 * 2 ^ 7 + me * 2 ^ 11 }, ctxs := [(0, { tCtx with st := { tCtx.st with hold := 4 }, mem := m, job := { j with prog := some tProg, man := some { tMan with members := [0, 5] } } })] }
/-- The module with context 0 held at its boundary as `h` says. -/
def tHold (h : Nat) (released : Bool) : State :=
  { tDev with ctxs := [(0, { Ctx.reset with state := 2, st := { Ctx.reset.st with hold := h }, job := { CtxJob.reset with released := released } })] }

theorem witness_StepsCommit :
    (let s := tCom 0 CtxJob.reset tCtx.mem; s.commitDue 0 = true ∧ (s.ctx 0).job.recWritten = false ∧ s.buddiesOf 0 = [] ∧ 5 ∈ s.peersOf 0) ∧
    (let s := tCom 0 { CtxJob.reset with recWritten := true } tCtx.mem; (s.ctx 0).state ≠ 0 ∧ s.commitDue 0 = true ∧ (s.ctx 0).job.reported = false ∧ (s.ctx 0).mem.unackedSum = 0 ∧ s.linesHeld 0 = false ∧ s.coordinatorOf 0 = s.cab ∧ s.cab ∉ (s.ctx 0).job.reports) ∧
    (let s := tCom 0 CtxJob.reset { tCtx.mem with unacked := [(1, 1)] }; (s.ctx 0).mem.unackedSum ≠ 0) ∧
    (let s := { tCom 0 CtxJob.reset tCtx.mem with frames := [(0, frameEntry 0 false (some 1))], care := { Care.reset with linebufs := [(0, 0)] } }; s.linesHeld 0 = true) ∧
    (∀ u ∈ [true, false], let s := tCom 5 { CtxJob.reset with reported := true, unsettled := u } tCtx.mem; s.commitDue 0 = true ∧ (s.ctx 0).job.reported = true ∧ (s.ctx 0).job.unsettled = u ∧ s.coordinatorOf 0 ≠ s.cab) ∧
    (let s := tCom 0 { CtxJob.reset with reported := true } tCtx.mem; s.coordinatorOf 0 = s.cab ∧ 5 ∈ s.liveMembers 0 ∧ 5 ∉ (s.ctx 0).job.reports) ∧
    (let s := tCom 0 { CtxJob.reset with reported := true, reports := [0], lost := [5] } tCtx.mem; s.coordinatorOf 0 = s.cab ∧ (∀ d ∈ s.liveMembers 0, d ∈ (s.ctx 0).job.reports) ∧ s.peersOf 0 = [] ∧ (s.ctx 0).job.unsettled = false) ∧
    (∀ h ∈ [0, 1, 2, 3], ∀ r ∈ [true, false], ((tHold h r).ctx 0).state = 2 ∧ ((tHold h r).ctx 0).st.hold = h ∧ (tHold h r).evalHolds 0 = false ∧ ((tHold h r).ctx 0).job.released = r ∧ ((tHold h r).ctx 0).hosted = [] ∧
      ((tHold h r).ctx 0).mem.rcptWait = [] ∧ (tHold h r).ownRegions 0 = []) ∧
    (tCtrs.mayCommand 0 0x8000 = true ∧ ((tCtrs.ctx 0).mem.rcptWr + 2 ^ 32 - 0) % 2 ^ 32 ≤ 2 ^ tCtrs.regs.field (ctxPage 0) 0x884 23 16) ∧
    (let s := { tMem (tCore 3 0) 3 with mgmt := { Mgmt.reset with signQ := [(0, 0)] } }; s.mgmt.signQ = [(0, 0)] ∧ s.decodeAddr 0 = some (s.cab, 0, 0) ∧ feOwner (s.frame (frameOf 0)) = 0 ∧ feAlloc (s.frame (frameOf 0)) = true) := by
  refine ⟨?_, ?_, ?_, ?_, ?_, ?_, ?_, ?_, ?_, ?_⟩ <;> decide +kernel

/-- The module with context 0, of members 0 and 5, in a state. -/
def tJob (me st : Nat) (j : CtxJob) : State :=
  { tDev with root := { tRoot with straps := 1 * 2 ^ 7 + me * 2 ^ 11 }, ctxs := [(0, { Ctx.reset with state := st, job := { j with man := some { tMan with members := [0, 5], hosts := [0, 1] } } })] }

theorem witness_YieldSources :
    (let s := { tDev with pins := { Pins.reset with yieldFiltered := true } }; s.pins.yieldFiltered = true) ∧ ({ tDev with pins := { Pins.reset with yieldFiltered := false } }).pins.yieldFiltered = false ∧
    (5 ∈ (tJob 0 2 CtxJob.reset).peersOf 0 ∧ ((tJob 0 2 CtxJob.reset).ctx 0).state = 2 ∧ ((tJob 0 4 CtxJob.reset).ctx 0).state ≠ 2 ∧ (1 : Nat) ≠ ((tJob 0 2 CtxJob.reset).ctx 0).job.gen) ∧
    ((let u := (tJob 0 2 CtxJob.reset).modCtx 0 (fun c => { c with ysrc := c.ysrc ||| 4 }); u.inCommit 0 = false) ∧
      (let s := { tJob 0 2 CtxJob.reset with ctxs := [(0, { (tJob 0 2 CtxJob.reset).ctx 0 with st := { Ctx.reset.st with hold := 1, step := 9 } })] }; let u := s.modCtx 0 (fun c => { c with ysrc := c.ysrc ||| 4 });
        5 ∈ s.peersOf 0 ∧ (s.ctx 0).state = 2 ∧ 8 < (s.ctx 0).st.step ∧ u.inCommit 0 = true)) ∧
    (let s := { tDev with ctxs := [(0, { tCtx with ysrc := 4, st := { tCtx.st with deadlines := [(2, 9)], point := 2 } })] }; bitOf (s.ctx 0).ysrc 2 = true ∧ (s.ctx 0).st.deadlines = [(2, 9)] ∧ (s.ctx 0).state = 2 ∧ (s.ctx 0).st.point = 2 ∧ s.now ≤ 9 ∧
      9 < ({ s with now := 10 }).now) ∧
    (((tJob 0 3 CtxJob.reset).ctx 0).state = 3 ∧ (tJob 0 3 CtxJob.reset).drained 0 = true) := by decide +kernel

theorem witness_JobRestarts :
    (let s := tJob 0 2 CtxJob.reset; (s.ctx 0).state ≠ 0 ∧ (s.ctx 0).st.unloadAt = none ∧ 5 ∈ s.peersOf 0 ∧ (0 : Nat) = (s.ctx 0).job.gen ∧ (s.ctx 0).state ≠ 5 ∧ (s.ctx 0).restarting = false) ∧
    (∀ r ∈ [true, false], let s := tJob 0 6 { CtxJob.reset with prog := some tProg, reported := r }; (s.ctx 0).restarting = true ∧ (s.ctx 0).state = 6 ∧ (s.ctx 0).job.drained = false ∧ s.abortDrained 0 = true ∧ s.sharedReady 0 = true ∧
      s.fillsReady 0 [] = true ∧ (s.ctx 0).job.resetPend = false ∧ (s.ctx 0).job.adopt = [] ∧ s.outcomeOpen 0 = r ∧ 5 ∈ s.peersOf 0 ∧ (0 : Nat) = (s.ctx 0).job.gen) ∧
    (let s := tJob 5 6 { CtxJob.reset with drained := true }; (s.ctx 0).restarting = true ∧ (s.ctx 0).job.readySent = false ∧ s.coordinatorOf 0 ≠ s.cab) ∧
    (let s := tJob 5 6 { CtxJob.reset with drained := true, readySent := true }; (s.ctx 0).restarting = true ∧ (s.ctx 0).job.unsettled = false ∧ s.coordinatorOf 0 ≠ s.cab) ∧
    (let s := tJob 0 6 { CtxJob.reset with drained := true, readySent := true }; s.coordinatorOf 0 = s.cab ∧ 5 ∈ s.liveMembers 0 ∧ 5 ∉ (s.ctx 0).job.ready) ∧
    (tJob 0 2 CtxJob.reset).ctxs = [(0, (tJob 0 2 CtxJob.reset).ctx 0)] := by decide +kernel

/-- The module with in-field test on, as `c` says. -/
def tIft (c : Care) : State := { tDev with ctxs := [], now := 10 ^ 18, regs := { Regs.reset with live := [(1 * 4096 + 0x140, BitVec.ofNat 32 (2 ^ 24 + 255 * 2 ^ 16 + 65535))] }, care := c }

theorem witness_FencingAndTests :
    (pfOrBureau 0xF000 = true ∧ pfOrBureau 0x8001 = false ∧ bitOf (0x3FF : W32).toNat 8 = true ∧ bitOf (0x7F : W32).toNat 8 = false ∧
      (let s := { tDev with root := { tRoot with flashFence := 2 ^ 127 } }; bitOf s.root.flashFence ((0x7F : W32).toNat % 128) = true)) ∧
    (let s := tIft { Care.reset with iftNext := 127 }; s.regs.field 1 0x140 24 24 ≠ 0 ∧ s.root.ready = true ∧ s.care.iftPhase = 0 ∧ s.care.iftPeriodAt + s.iftTurn ≤ s.now ∧ s.care.wantTest = [] ∧ s.loadedCtxs = [] ∧ s.fencedCore s.care.iftNext = false) ∧
    (let s := tIft { Care.reset with iftPhase := 1, iftCand := 127 }; s.care.iftPhase = 1 ∧ s.loadedCtxs = [] ∧ (s.core s.care.iftCand).run = none ∧ s.fencedCore s.care.iftCand = false) ∧
    (let s := tIft { Care.reset with iftPhase := 2 }; s.care.iftPhase = 2 ∧ s.care.iftStart + s.regs.field 1 0x140 23 16 * 10000000 ≤ s.now) := by decide +kernel

/-! ### The module: power, boot, host, management -/

/-- A test key (RSA-3072, exponent 65537) made apart: 384 bytes of modulus, then 4 of exponent. -/
def tKey : List Byte := beBytes 388 0xb3440f696bc36d47a444ee3e9ef4233a66313baac888231b2477751aa904039f3b60db0195d18814ef8059fb96b80b1a37e527251d17dbd583023b389d6f0f8be4c010670b96d2327b99abee9293303026d434869bd23e367fe5527539e44cac58cafa624606de01cf0f5bbf59b4a6d87427d5f1950ff371e4a3e2fff7397c6367b14e51a5fda2a57fa808d9205bf567ce014ca6ff1a66aa9938af674fff4ed3ba862234cae825c36e3ab5ce509d2d1634d1848b2f18c88b94ab9824b425e4aff3724f4d95fec42acf0fa32331b45da56723a01a468a498e6cd91372664561e99b4ab487a749bc1be50167f21e44b419f10a281e9d02c95ea063d2d5128ea20f3ccfa9a3eb62c904992237f7683b001917196e611ca2cd9cd06f3b635ce81712dacb09b5cd76e57fbe026e5a7c6b09f9cf634959edf4ba7cc4339f667e00e7da27f0ee234d6c3acf43f8473dfa504151bbc66949433abb12fb9430943e397a1eb9e4bb84f1d00b5b2911587a7f629fcde6c8c565088bbe687f33f11a76b58d9d00010001
/-- Its SHA-256 digest, computed apart. -/
def tKeyHash : List Byte := beBytes 32 0x8372c4fb317b68cf9e61417cc0e4a462d6a58ffed530495052195f9c067b242e
/-- The signature of the key by itself. -/
def tCert : List Byte := beBytes 384 0x4d2a4b72a894cb72af145aa60277375c8823cd92520c4e3f04693ec1c8b82f5526c63a3da5a6641b633b7a17750225e7acd03591bd2f34751a11a647520f65431ff84973262b51e5a524dd08de94154c52f324b035648d37896a514377ffc8049d14eecbbac18228d9cb59f06ac8a336da8ae7b7ed00e4ac67f7024fef9898745c200c4f34ad58dcb070014b50858b9094afaa5846bb2b45607c6330635a0fe99c473a1cd884128887d7ddb935b234c4aaccc066d1cb395f7ab28730848070fc30f3110024f6dc766d296c891b3fa6140180af3736bbdf719678df563c0f6d0d15e55ac18e7fb3fb6f023966f79ca8dacbc572b392d9175a58ead9236faa0ad88e1b65ad47df525f9dedb5e9f25878edfce78bcab673c34fb7dd43ad44724ea3310af3edc86c434c73dcd106395440b6294590cde27ea50328baa9260b5ac39169af486d638206f38aa42022d35419c10110ed42da1d4d7a50dd0a3f7fe7a9f8ea72101a87ea84e440cd3331f5112d08f8a2f3678976dbe528003c4da8045339
/-- The header of an image of version 3 without a body. -/
def tHeader : List Byte := leBytes 256 (0x58543230 + 3 * 2 ^ 64)
/-- The image with that header (R345): root key, signing key, certificate and signature. -/
@[irreducible] def tImg : List Byte := tHeader ++ tKey ++ tKey ++ tCert ++ beBytes 384 0xafe64b38c8cd089e17ded93dcd9f4e479e6ef8b5934c98bff865a3892f94ba1390c16b4d2b632ea4cdac5f2d06c18aa81828a865ea9bbb61e45b019b56a7b25adea91ee0cf45e7c2db2ebe6d80435a22d571e1d297f6486dd63695cc7d0c76b4e5ec61766a6baf334e212a0e903d191fd1bdaa3486b96a3932ba19e949646b31e17af00377a7ac6e776443875352b7c990829c75f758cebcb088115b6e744950cdeb0546c61183f25364b3befcbe8187cbc46c21495dd2b45c2fa57ed559598717908c57bdf3f3c9b988791c671c3545d9b651d68d2746e4b4e0cf7b08b585f0afb9ca1f253e763b37193c44fabbf0e8edfac0c1a5de041cf5fcd71efc5456471a043a4ad1c4d12860887e997562cdf29f957d0987eba57eeeeb0a4aa7755369818d0883f4737ef00c0f7a764a8581b428ff50740a70dcaf46a8af44ad73b6e6a1165a96da809d9d86db507bb1adc4b89aa7cffb313a04f66fa85a84ccb959b778814c955d9fdcf7e6316b43f81283e93b0fd953bb9c99ada7577653fcd8059e
/-- An unlock token for nonce 5 and device 0: scope 7, 86,400 s (R379). -/
def tToken : List Byte := bytesOf [7] ++ leBytes 4 86400 ++ tKey ++ tCert ++ tKey ++ beBytes 384 0x63a8d915f8f20f79eef7c2877d91f43d30d3a35bf87a9db98b0a4948fab4b02947a385f0d3d7c2d518d610253e084c457d56ab6b2623cfb0222286048bcf6941b4ff4667007cbc3b5dfb12741a93ead3f4a85d7618fcb08563ceb3dfa94b06b362b2194ad26a8f40857f77b30f6eb902c299d9d1ab78d067994ffdf0dbc112e11d5839a842a8931ec12b42d78239d50cb060d96b2aaa8a62760c8f1477889d1d2aeb97c0215c8fa21dcb3f83cc899ad4a77024cd9fe9a7b1177f70d7c1415dafd413e46c26a83a6eb6a0db6dc4af03f7172db63bca95adc74f9e85e575cc0a1177343219da26dba531a8fe10cc42523c5068cbf3249824e4f40d57b1d3cb0f055c445faa335a7c4ea2e0ceeda016be03e83ee57be6d513629ee2a4b1899fa9d327c68e0a9720b6b74bcb3a7314ef32a88457a0394b55caa44d6575f35e03958aa5f9dc2d3b2891d69cf56eddd2f907f8ccb5271742c51aacb6617aaf52d21d82583a0598115914c0e33d2b1330d28fb01cce88b2ec03cb57e108e616b2fa5bb5
/-- Fuses that name the test key. -/
def tFuses : Fuses := { Fuses.reset with rootHash := [tKeyHash], debugPolicy := 1 }

theorem test_rsa_signature_of_the_key : rsaKeyVerify tKey tKey tCert = true := by decide +kernel
theorem test_image_verifies : imageFault tFuses tImg = 0 := by decide +kernel
theorem test_image_of_another_root_fails : imageFault { tFuses with rootHash := [List.replicate 32 0] } tImg = 3 := by decide +kernel

theorem tbytes_of_put (t : Tab Byte) (a : Nat) (bs : List Byte) (n : Nat) : ∀ i, i + n ≤ bs.length → tbytes (tputBytes t a bs) (a + i) n = (bs.drop i).take n := by
  induction n with
  | zero => intro i _; simp [tbytes]
  | succ n ih =>
    intro i h
    rw [tbytes, tget_tputBytes_same t a i bs (by omega), Nat.add_assoc, ih (i + 1) (by omega), List.drop_eq_getElem_cons (by omega : i < bs.length), List.take_succ_cons]

/-- The image in an area of the flash is what the area's check reads. -/
theorem areaFault_of_put (s : State) (x : Nat) (t : Tab Byte) (h : s.root.flash = tputBytes t (imageBase x) tImg) : s.areaFault x = imageFault s.root.fuses tImg := by
  have l : tImg.length = 0x708 := by decide +kernel
  have body : tbytes s.root.flash (imageBase x + 0x14) 4 = [0, 0, 0, 0] := by
    rw [h, tbytes_of_put _ _ _ _ _ (by omega)]; decide +kernel
  have z : 0x708 + leNat ([0, 0, 0, 0] : List Byte) = 0x708 := by decide
  have w : tbytes (tputBytes t (imageBase x) tImg) (imageBase x) 0x708 = tImg := by
    have := tbytes_of_put t (imageBase x) tImg 0x708 0 (by omega)
    simpa [← l] using this
  simp only [State.areaFault, imageBytes, body, z]
  rw [if_neg (by decide), h, w]

/-- The module at the end of its power-on reset with a flash. -/
def tBoot (f : Tab Byte) : State := { State.reset with root := { Root.reset with standby := true, por := true, fuses := tFuses, flash := f } }
theorem areaFault_boot (t : Tab Byte) (x : Nat) : (tBoot (tputBytes t (imageBase x) tImg)).areaFault x = 0 := by
  have e : (tBoot (tputBytes t (imageBase x) tImg)).root.flash = tputBytes t (imageBase x) tImg := by simp only [tBoot]
  rw [areaFault_of_put _ x t e]
  have f : (tBoot (tputBytes t (imageBase x) tImg)).root.fuses = tFuses := by simp only [tBoot]
  rw [f, test_image_verifies]
/-- The check of an area without an image body reads the area's first 1800 bytes alone. -/
theorem area_congr (f g : Tab Byte) (x : Nat) (h : ∀ j, imageBase x ≤ j → j < imageBase x + 0x708 → tget 0 f j = tget 0 g j) (z : tbytes g (imageBase x + 0x14) 4 = [0, 0, 0, 0]) :
    (tBoot f).areaFault x = (tBoot g).areaFault x := by
  have b := tbytes_congr f g (imageBase x + 0x14) 4 (fun j a b => h j (by omega) (by omega))
  have w := tbytes_congr f g (imageBase x) 0x708 h
  have y : 0x708 + leNat ([0, 0, 0, 0] : List Byte) = 0x708 := by decide
  simp only [State.areaFault, imageBytes, tBoot, b, z, y, w]
theorem blank_area (x : Nat) : (tBoot []).areaFault x = 1 := by
  have n : ∀ (k a : Nat), tbytes [] a k = List.replicate k 0 := by
    intro k; induction k with
    | zero => intro a; rfl
    | succ k ih => intro a; rw [tbytes, ih]; rfl
  have y : 0x708 + leNat (List.replicate 4 (0 : Byte)) = 0x708 := by decide
  simp only [State.areaFault, imageBytes, tBoot, n, y]
  decide +kernel
/-- What area 0 reads does not depend on what stands in area 1. -/
theorem area0_alone (t : Tab Byte) (j : Nat) (b : j < imageBase 0 + 0x708) : tget 0 (tputBytes t (imageBase 1) tImg) j = tget 0 t j :=
  tget_tputBytes_other _ _ _ _ (Or.inl (by simp only [imageBase] at *; omega))
theorem tImg_length : tImg.length = 0x708 := by decide +kernel
theorem tImg_body : (tImg.drop 0x14).take 4 = [0, 0, 0, 0] := by decide +kernel
theorem tImg_version (t : Tab Byte) (x : Nat) : leNat (tbytes (tputBytes t (imageBase x) tImg) (imageBase x + 8) 8) = 3 := by
  rw [tbytes_of_put _ _ _ _ _ (by rw [tImg_length]; omega)]; decide +kernel

theorem witness_BootImages :
    ((tBoot []).root.por = true ∧ (tBoot []).root.bureauUp = false ∧ (tBoot []).root.recovery = false ∧ (tBoot []).areaFault 0 ≠ 0 ∧ (tBoot []).areaFault 1 ≠ 0) ∧
    (∃ f, (tBoot f).areaFault 0 = 0 ∧ (tBoot f).areaFault 1 ≠ 0) ∧
    (∃ f, (tBoot f).areaFault 1 = 0 ∧ leNat (tbytes (tBoot f).root.flash (imageBase 0 + 8) 8) < leNat (tbytes (tBoot f).root.flash (imageBase 1 + 8) 8)) ∧
    (∃ f, (tBoot f).areaFault 0 = 0 ∧ (tBoot f).areaFault 1 = 0 ∧ leNat (tbytes (tBoot f).root.flash (imageBase 1 + 8) 8) ≤ leNat (tbytes (tBoot f).root.flash (imageBase 0 + 8) 8)) := by
  refine ⟨⟨rfl, rfl, rfl, ?_, ?_⟩, ⟨tputBytes [] (imageBase 0) tImg, areaFault_boot _ _, ?_⟩, ⟨tputBytes [] (imageBase 1) tImg, areaFault_boot _ _, ?_⟩,
    ⟨tputBytes (tputBytes [] (imageBase 1) tImg) (imageBase 0) tImg, areaFault_boot _ _, ?_, ?_⟩⟩
  · rw [blank_area]; decide
  · rw [blank_area]; decide
  · rw [area_congr _ [] 1 (fun j a b => tget_tputBytes_other _ _ _ _ (Or.inr (by rw [tImg_length]; simp only [imageBase] at *; omega))) rfl, blank_area]; decide
  · simp only [tBoot]
    have e := tbytes_congr (tputBytes [] (imageBase 1) tImg) [] (imageBase 0 + 8) 8 (fun j _ b => area0_alone [] j (by simp only [imageBase] at *; omega))
    rw [tImg_version, e]; decide
  · have b3 := tbytes_of_put [] (imageBase 1) tImg 4 0x14 (by rw [tImg_length]; omega)
    rw [tImg_body] at b3
    rw [area_congr _ _ 1 (fun j a _ => tget_tputBytes_other _ _ _ _ (Or.inr (by rw [tImg_length]; simp only [imageBase] at *; omega))) b3, areaFault_boot]
  · simp only [tBoot]
    rw [tImg_version, tbytes_congr _ _ (imageBase 1 + 8) 8 (fun j a _ => tget_tputBytes_other _ _ _ _ (Or.inr (by rw [tImg_length]; simp only [imageBase] at *; omega))), tImg_version]

/-- The module as it comes up: this much of its root die. -/
def tUp (r : Root) : State := { State.reset with root := { r with standby := true, por := true, bureauUp := true } }

theorem witness_PowerUpAndBoot :
    (let s := { State.reset with root := { Root.reset with standby := true } }; s.root.standby = true ∧ s.root.por = false) ∧
    (let s := tUp Root.reset; s.root.bureauUp = true ∧ s.root.mainEn = false ∧ s.root.offline = false ∧ s.root.boot.firstFail = 0) ∧
    (let s := tUp { Root.reset with mainEn := true }; s.root.mainEn = true ∧ s.root.mainUp = false ∧ s.now ≤ s.root.mainSince + 50 * ms ∧ (∀ l, (s.link l).state ≠ 6)) ∧
    (let s := { tUp { Root.reset with mainEn := true } with now := 50 * ms }; s.now ≤ s.root.mainSince + 50 * ms ∧ s.root.mainSince + 50 * ms ≤ s.now) ∧
    (let s := tUp { Root.reset with mainEn := true, mainUp := true }; s.root.mainUp = true ∧ s.root.crossings = false ∧ s.root.offline = false ∧ s.now ≤ s.root.mainSince + 20 * ms) ∧
    (let s := { tUp { Root.reset with mainEn := true, mainUp := true } with now := 20 * ms + 1 }; s.root.mainSince + 20 * ms < s.now) :=
  ⟨by decide, by decide, ⟨by decide, by decide, by decide, fun _ => by show Link.reset.state ≠ 6; decide⟩, by decide, by decide, by decide⟩

/-- The module with every condition of R390 met. -/
def tReadyNow : State := tUp { tRoot with ready := false, seeded := true, stackUp := List.range 16 }

theorem witness_Readiness :
    (let s := tUp tRoot; s.root.crossings = true ∧ s.root.offline = false ∧ 15 ∉ s.root.stackUp ∧ s.root.withheld.length ≤ 1024 ∧ 15 ∉ s.root.stackFail ∧ 3 ∈ ({ s.root with stackFail := [3] }).stackFail) ∧
    (let s := tUp { tRoot with testDone := false, healthy := false }; s.root.crossings = true ∧ s.root.testDone = false ∧ s.root.healthy = false) ∧
    (let s := { tUp { tRoot with linksDone := false } with links := (List.range 32).map (fun l => (l, { Link.reset with state := 6 + l % 2 })) }; s.root.mainUp = true ∧ s.root.linksDone = false ∧ (∀ l, l < 32 → s.linkPlanned l = true → (s.link l).state = 6 ∨ (s.link l).state = 7)) ∧
    tDev.mayBeReady = false ∧ tReadyNow.mayBeReady = true ∧ (tUp { tRoot with ready := false }).root.healthy = true ∧
    (let s := { tUp { tRoot with ready := false, healthy := false } with now := 1000 * ms }; s.root.testDone = true ∧ s.root.seeded = false ∧ s.root.healthy = false ∧ s.root.fail ≠ 7 ∧ s.root.testDoneAt + 1000 * ms ≤ s.now) ∧
    (tUp { tRoot with ready := false, healthy := false }).now < 0 + 1000 * ms ∧
    (let s := { tUp { tRoot with healthy := false } with now := 60000 * ms }; s.root.ready = true ∧ s.root.healthy = false ∧ s.root.entropyRecAt + 60000 * ms ≤ s.now) := by decide +kernel

theorem witness_ResetsAndPowerLoss :
    tDev.root.bureauUp = true ∧ pfOrBureau 0x8000 = true ∧ pfOrBureau 0x8001 = false ∧ (0xC1D0 : W32).toNat % 65536 = 0xC1D0 ∧ (0xC1D1 : W32).toNat % 65536 ≠ 0xC1D0 ∧ tDev.root.standby = true ∧ tDev.root.offline = false := by
  decide +kernel

theorem witness_PowerAndThermalEvents :
    tDev.cap < 65535 % 65536 ∧ 0 % 65536 ≤ tDev.cap ∧
    (let s := { tDev with power := { Power.reset with aboveAt := some 0, withheldAt := some 0 }, now := 1000 * ms + 1 }; s.power.aboveAt = some 0 ∧ 0 + 10 * ms ≤ s.now ∧ s.power.withheldAt = some 0 ∧ s.power.sustained = false ∧ 0 + 1000 * ms < s.now) ∧
    (let s := { tDev with power := { Power.reset with belowAt := some 0, withheldAt := some 0 }, now := 10 * ms }; s.power.aboveAt = none ∧ s.power.belowAt = some 0 ∧ 0 + 10 * ms ≤ s.now ∧ s.now ≤ 0 + 1000 * ms) ∧
    tDev.root.mainUp = true ∧ tDev.root.mainEn = true ∧
    (let s := { tDev with power := { Power.reset with excluded := [86], throttled := [86] }, now := 60000 * ms }; 86 ∈ s.power.excluded ∧ 86 ∈ s.power.throttled ∧ tget 0 s.power.throttleAt (sensorDie 86) + 60000 * ms ≤ s.now) ∧
    (tDev.power.tripped = false ∧ tDev.reading 86 < 460 ∧ 460 ≤ ({ tDev with power := { Power.reset with temps := [(86, 460)] } }).reading 86) := by decide +kernel

/-- The bridge module of a one-module cabinet, its host link up at 16 lanes, two virtual functions on. -/
def tBridge : State := { tShared with root := { tRoot with straps := 2 ^ 10 }, pcie := { Pcie.reset with linkUp := true, rate := 6, width := 16, vfs := 2 } }

theorem witness_HostPortEvents :
    tDev.bridge = false ∧ tBridge.bridge = true ∧ tBridge.pcie.linkUp = true ∧ tBridge.root.bureauUp = true ∧ 2 ≤ tBridge.pcie.vfs ∧ 16 ≤ tBridge.pcie.width ∧ tBridge.root.por = true ∧ tBridge.pcie.vfs < 3 ∧
    (∀ up ∈ [true, false], let s := { tBridge with root := { tBridge.root with bureauUp := up }, ctxs := [] }; s.bridge = true ∧ s.root.por = true ∧ s.root.bureauUp = up ∧ s.loadedCtxs = []) ∧ hardwarePath 3 true = false ∧ hardwarePath 1 true = true ∧
    tBridge.cab / 8 * 8 < planModules tBridge.plan ∧ tBridge.cab % 8 = 0 ∧
    (∃ a, barTarget 0 0 0x1000 = .reg 0 a) ∧ (∃ k o, barTarget 2 2 (15 * 2 ^ 36 + 51531218943) = .mem 0 k o) ∧ (∃ a, barTarget 2 0 (2 ^ 12 - 1) = .reg 0 a) ∧ barTarget 0 0 (2 ^ 29) = .none ∧ barTarget 2 1 0 = .none :=
  ⟨by decide +kernel, by decide +kernel, by decide +kernel, by decide +kernel, by decide +kernel, by decide +kernel, by decide +kernel, by decide +kernel, by decide +kernel, by decide +kernel, by decide +kernel, by decide +kernel, by decide +kernel,
    ⟨_, rfl⟩, ⟨_, _, rfl⟩, ⟨_, rfl⟩, by decide +kernel, by decide +kernel⟩

theorem witness_RegisterBlocks :
    hasHeader 1 = true ∧ hasHeader (corePage 127) = true ∧ (tDev.blk 1).hold = false ∧ ((tDev.modBlk 1 (fun b => { b with hold := true })).blk 1).hold = true ∧
    (let s := tDev.modBlk (corePage 0) (fun b => { b with pending := true }); (s.blk (corePage 0)).pending = true ∧ s.atEffectPoint (corePage 0) = true) ∧
    (let s := (tOn (tCore 3 0)).modBlk (corePage 0) (fun b => { b with pending := true }); s.atEffectPoint (corePage 0) = false) ∧
    ({ tDev with regs := { Regs.reset with strictActive := false } }).commitFault 1 = some 8 ∧ pfOrBureau 0x8001 = false ∧
    (bitOf (3 : W32).toNat 0 = true ∧ bitOf (1 : W32).toNat 1 = (tDev.blk 1).hold) ∧
    tDev.hostShut 0x8000 = false ∧ ({ tDev with pcie := { Pcie.reset with shut := true } }).hostShut 0x8000 = true ∧
    (tDev.pageRefuses 0x8000 1 .w = none ∧ tDev.pageRefuses 0x8000 1 .r = none ∧ tDev.pageRefuses 0x4000 1 .w = some 0x38 ∧ tDev.root.bureauUp = true) := by decide +kernel

theorem witness_ManagementMessages :
    (let s := tUp { Root.reset with fuses := tFuses }; s.root.bureauUp = true ∧ s.idleArea = 1 ∧ tImg.length ≤ imageRoom ∧
      (let t : State := { s with root := { s.root with flash := tputBytes s.root.flash (imageBase s.idleArea) tImg } }; t.areaFault s.idleArea = 0) ∧
      (let t : State := { s with root := { s.root with flash := tputBytes s.root.flash (imageBase s.idleArea) [] } }; t.areaFault s.idleArea ≠ 0)) ∧
    (let s := { tBoot [] with root := { (tBoot []).root with recovery := true } }; s.root.recovery = true ∧ imageFault s.root.fuses tImg = 0 ∧ imageFault s.root.fuses [] ≠ 0) ∧ 86 ∉ tDev.power.excluded := by
  have idle : (tUp { Root.reset with fuses := tFuses }).idleArea = 1 := by decide
  refine ⟨⟨by decide, idle, by rw [tImg_length]; decide, ?_, ?_⟩, ⟨by decide, test_image_verifies, by decide +kernel⟩, by decide⟩
  · simp only [idle]
    rw [areaFault_of_put _ 1 [] (by simp only [tUp, Root.reset])]
    exact test_image_verifies
  · simp only [idle]
    show (tBoot []).areaFault 1 ≠ 0
    rw [blank_area]; decide

theorem witness_AttestationMessages :
    tDev.root.bureauUp = true ∧ tDev.mgmt.spdmVersion = 0 ∧ tDev.mgmt.spdmAlgs = false ∧
    (let s := { tDev with mgmt := { Mgmt.reset with spdmVersion := 0x12, spdmCaps := true } }; s.mgmt.spdmVersion ≠ 0 ∧ s.mgmt.spdmCaps = true ∧ s.mgmt.spdmAlgs = false ∧
      (let d := bytesOf [0, 0, 0, 0, 4, 0, 0, 0, 1, 0, 0, 0]; bitOf (leNat ((d.drop 4).take 4)) 2 = true ∧ bitOf (leNat ((d.drop 8).take 4)) 0 = true)) ∧
    (let s := { tDev with root := { tRoot with flashChain := zeroLine }, mgmt := { Mgmt.reset with spdmVersion := 0x12, spdmCaps := true, spdmAlgs := true } }; s.mgmt.spdmAlgs = true ∧ 63 < s.root.flashChain.length ∧
      (zeroLine.take 32).length = 32) := by decide +kernel

/-- The module with its Lectern open for everything, and core 0 as given. -/
def tLec (k : Core) : State := { tOn k with mgmt := { Mgmt.reset with lecOpen := true, lecScope := 7, lecUntil := 10 } }

theorem witness_LecternCommands :
    (let s := { tDev with root := { tRoot with fuses := tFuses }, mgmt := { Mgmt.reset with lecNonce := some (5, 60000 * ms) } }; s.root.bureauUp = true ∧ s.tokenOk tToken = true ∧ s.tokenOk [] = false ∧
      ({ s with now := 60000 * ms }).tokenOk tToken = false) ∧
    ((tLec (tCore 3 0)).mgmt.lecOpen = true ∧ (tLec (tCore 3 0)).now < (tLec (tCore 3 0)).mgmt.lecUntil ∧ (let s := { tLec (tCore 3 0) with now := 10 }; s.mgmt.lecUntil ≠ 0 ∧ s.mgmt.lecUntil ≤ s.now)) ∧
    tDev.mgmt.lecOpen = false ∧ bitOf (tLec (tCore 3 0)).mgmt.lecScope 0 = true ∧ bitOf (tLec (tCore 3 0)).mgmt.lecScope 1 = true ∧ bitOf (tLec (tCore 3 0)).mgmt.lecScope 2 = true ∧
    (let k := { tCore 3 0 with spad := [(98303, zeroLine)] }; tfind ((tLec k).core 0).spad 98303 = some zeroLine ∧ tfind ((tLec k).core 0).spad 0 = none) ∧
    (tLec (tCore 3 0)).root.mainUp = true ∧ ((tLec (tCore 3 0)).core 0).halted = false ∧
    (let s := tLec { tCore 3 0 with halted := true }; (s.core 0).halted = true ∧ (s.core 0).run = some tTask ∧ (s.core 0).ended = false) := by decide +kernel

theorem witness_JtagAndHolderQuery :
    tDev.root.standby = true ∧ tDev.pins.jtagIr ≠ 3 ∧ ({ tDev with pins := { Pins.reset with jtagIr := 3 } }).pins.jtagIr = 3 ∧ tDev.root.mainUp = true ∧ (let s := tUp Root.reset; s.root.standby = true ∧ s.pins.jtagIr ≠ 3 ∧ s.root.mainEn = false ∧ s.root.mainUp = false) ∧
    (let s := { tDev with regions := [(0, { tRegion 3 with digests := [[1], [], []] })] }; s.root.ready = true ∧ s.regions = [(0, { tRegion 3 with digests := [[1], [], []] })] ∧ (tRegion 3).shared = true ∧ (tRegion 3).slot (tRegion 3).cur = 2 ∧
      ({ tRegion 3 with digests := [[1], [], []] }).digests.getD (tRegion 3).cur [] = [1]) := by decide +kernel

theorem witness_StepRunsFrontCommand :
    ({ tDev with pending := [.standbyValid, .jtagIdcode] }).pending = .standbyValid :: [.jtagIdcode] ∧ tDev.pending = [] := by decide

theorem witness_ExecLeavesQueueAndOutput : ∃ t, exec .standbyValid tDev = .next t := ⟨_, rfl⟩
theorem witness_StepKeepsMemoryCanonical : Memory.wf tFetched.mem = true ∧ ∃ t, step { tFetched with pending := [.sharedRegionFetchComplete 0 0 [] zeroLine] } = .next t := ⟨by decide +kernel, _, rfl⟩
theorem witness_StepKeepsFuses : ∃ t, step { tReadyNow with pending := [.deviceReady] } = .next t := ⟨_, rfl⟩

/-! ### Ill-formed terms: one for each check of WellFormed -/

theorem test_wf_checks :
    Instr.wf (.mma1 128 0) = false ∧ Instr.wf (.stepBoundary 64) = false ∧ Instr.wf (.collectiveTimeout 0 16) = false ∧ Instr.wf (.ocvTileVisible 0 4) = false ∧ Instr.wf (.creditReturn 0 8 1) = false ∧
    Instr.wf (.buReset 65536 0) = false ∧ Instr.wf (.linkSignalDetect 32) = false ∧ Instr.wf (.lossTimeout 8) = false ∧ Instr.wf (.scrubPass 16 []) = false ∧ Instr.wf (.thermalTrip 87) = false ∧
    Instr.wf (.load 0x8000 0 0 [2 ^ 64]) = false ∧ Instr.wf (.load 0x8000 0 0 [0, 0, 0, 0, 0, 0, 0, 0]) = false ∧ Instr.wf (.blkCommit 0x8000 16384) = false ∧ Instr.wf (.flitPassesChannel 0 64 0 [] 0) = false ∧
    Instr.wf (.frameMarkerCheck 64 0) = false ∧ Instr.wf (.stackRequest ⟨0, 0, 0, none, 0, 4097, none, 0⟩) = false ∧ Instr.wf (.stackRequest ⟨0, 0, 0, none, 0, 2, some [1], 0⟩) = false ∧
    Instr.wf (.collectiveFailureNotice 0 0 { tMsg with dev := 128 }) = false ∧ Instr.wf (.crossDeviceSignal ⟨0, 0, 0, 0, 2 ^ 18, 0, 0⟩) = false ∧ Instr.wf (.piecePacketReceive 32 [] false) = false ∧
    Instr.wf (.deviceLostNotice 128 0 0 0) = false ∧ Instr.wf (.restartRelease 0 65536) = false ∧ Instr.wf (.publishComplete 65536 false) = false ∧ Instr.wf (.frameZeroingComplete 786432) = false ∧
    Instr.wf (.waitWatchdogExpiry 66560) = false ∧ Instr.wf (.pcieConfigRequest 0 1024 false 0) = false ∧ Instr.wf (.perstNRise 7 16 true) = false ∧ Instr.wf (.copyComplete 0 512 [] 0) = false ∧
    Instr.wf (.dieStopsAnswering 19) = false ∧ Instr.wf (.mctpControl 256 []) = false ∧ Instr.wf (.functionLevelReset 65) = false := by decide

/-! ### Values that the spec works out -/

/-- Table 3.6, row by row. -/
theorem test_conversions :
    convertVal fmtBf16 (fmtB32.decode 0x3F808000) 0 none = (0x3F80, 4) ∧ convertVal fmtBf16 (fmtB32.decode 0x3F80A000) 0 (some 0x6000) = (0x3F81, 4) ∧
    convertVal fmtBf16 (fmtB32.decode 0x3F80A000) 0 (some 0x5FFF) = (0x3F80, 4) ∧ convertVal fmtE4m3i (fmtB32.decode 0x43740000) 0 none = (0x77, 4) ∧
    convertVal fmtE4m3i (fmtB32.decode 0x43780000) 0 none = (0x78, 6) ∧ convertVal fmtF16 (fmtB32.decode 0x33400000) 0 none = (0x0001, 12) ∧
    convertVal fmtF16 (fmtB32.decode 0xB3000000) 0 none = (0x8000, 12) ∧ convertVal fmtE4m3i (decodeOcp 0x70) 0 none = (0x70, 0) ∧
    convertVal fmtE4m3i (decodeOcp 0x7E) 0 none = (0x78, 6) ∧ convertVal fmtB32 (decodeB4 0xFE 4) 0 none = (0x7F800000, 6) ∧ convertVal fmtE5m2 (fmtF16.decode 0x7E01) 0 none = (0x7E, 1) := by decide +kernel

/-- Products of bfloat16 encodings. -/
def tPairs (l : List (Nat × Nat)) : List (FVal × FVal) := l.map (fun p => (fmtBf16.decode p.1, fmtBf16.decode p.2))
/-- The chunk of Table 4.3, in its order and in reverse. -/
theorem test_chunk_cancellation :
    chunkSum (tPairs ([(0x4200, 0x4200), (0xC200, 0x4200), (0x3640, 0x3580), (0xB580, 0x3300)] ++ List.replicate 60 (0, 0))) = (0xAC800000, 4) ∧
    chunkSum (tPairs (List.replicate 60 (0, 0) ++ [(0xB580, 0x3300), (0x3640, 0x3580), (0xC200, 0x4200), (0x4200, 0x4200)])) = (0xAC800000, 4) := by decide +kernel
/-- The chunk with a subnormal result after Table 4.3. -/
theorem test_chunk_subnormal : chunkSum (tPairs [(0x1E40, 0x1D80), (0x1C80, 0x1C80), (0x9000, 0x1000)]) = (0x00006200, 12) := by decide +kernel
/-- Special values in a chunk: −0 alone, −0 with +0, infinities of both signs. -/
theorem test_chunk_special :
    chunkSum (tPairs [(0x8000, 0x3F80)]) = (0x80000000, 0) ∧ chunkSum (tPairs [(0x8000, 0x3F80), (0, 0)]) = (0, 0) ∧ chunkSum (tPairs [(0x7F80, 0x3F80), (0xFF80, 0x3F80)]) = (0x7FC00000, 1) := by decide +kernel

/-- The rescaled E4M3i tile after R84: 300, −1,000 and 2.5. -/
theorem test_rescaled_tile :
    let f : OcvF := ⟨0, 4, 0, 0, true, 0, 1, 1, 3, 0, 0, 64, 0, 0, 0, 0⟩
    let r := ocvRetry f (tDev.env 0) [[0x43960000, 0xC47A0000, 0x40200000]] 3 0 0
    r = (1, -4, [[0x59, 0xE8, 0x22]], 4, false) ∧ metaWord false r.1 r.2.1 = 0x1FC := by decide +kernel

/-- The input state of Table 6.8 and the first quarter round of Table 6.9. -/
theorem test_keyed_generator :
    let st := chachaInput 0x5566778811223344C3D2E1F08796A5B44B5A69780F1E2D3C2468ACE013579BDF 62500 0x0001A701 48211 9
    st = [0x61707865, 0x3320646E, 0x79622D32, 0x6B206574, 0x13579BDF, 0x2468ACE0, 0x0F1E2D3C, 0x4B5A6978, 0x8796A5B4, 0xC3D2E1F0, 0x11223344, 0x55667788, 0x0000F424, 0x0001A701, 0x0000BC53, 0x00000009] ∧
    quarterRound st 0 4 8 12 = (((st.set 0 0x7CE24B8E).set 4 0x162B2971).set 8 0xEA366118).set 12 0x823F469C := by decide +kernel

/-- The block of Tables 10.2 and 10.3, whatever the order of the shards. -/
theorem test_aligned_block :
    let z := List.replicate 62 0
    ∀ l ∈ [[0x40400000 :: 0x30800000 :: z, 0xC0300000 :: 0x30800000 :: z, 0x3F000000 :: 0xAB800000 :: z], [0x3F000000 :: 0xAB800000 :: z, 0x40400000 :: 0x30800000 :: z, 0xC0300000 :: 0x30800000 :: z]],
      alignedBlock l = (0x3F400000 :: 0xB1000000 :: z, 4) := by decide +kernel

/-- The example of R190: the same byte in the three windows. -/
theorem test_address_windows :
    tDev.decodeAddr 0x200000123456 = some (tDev.cab, 3, 0x12456) ∧ tDev.decodeAddr 0x003000012456 = some (tDev.cab, 3, 0x12456) ∧ tDev.decodeAddr 0x653000012456 = some (37, 3, 0x12456) := by decide +kernel

/-- The route from (3, 2, 2) to (0, 0, 0) of R262: X+, C, Y−, Y−, Z−, Z−. -/
theorem test_default_route : (routeHops 4 0 10 (ofCoords 3 2 2)).map (·.2) = [0, 6, 3, 3, 5, 5] := by decide

/-- The digest of the empty string (FIPS 180-4). -/
theorem test_sha256_empty : sha256 [] = beBytes 32 0xe3b0c44298fc1c149afbf4c8996fb92427ae41e4649b934ca495991b7852b855 := by decide +kernel

/-! ### One step -/

/-- The core after the command at the front of the queue. -/
def coreAfter (i : Instr) (s : State) : Core :=
  match step { s with pending := [i] } with
  | .next t => t.core 0
  | _ => Core.reset
/-- What is in flight on core 0 after a word presented in slot 3 on two scalar values. -/
def scalarAfter (f : Nat → W32 → Instr) (w a b : W32) : List LandKind := ((coreAfter (f 0 w) (tOn { tCore 3 w with sregs := [(1, a), (2, b)] })).lands).map (·.what)

/-- The scalar operations of R446 on wrapping, signed and shifted values. -/
theorem test_scalar_results :
    scalarAfter .sAdd (cWord 0xC0 3 1 2) 0xFFFFFFFF 2 = [.sreg 3 1] ∧ scalarAfter .sSub (cWord 0xC1 3 1 2) 1 2 = [.sreg 3 0xFFFFFFFF] ∧ scalarAfter .sMul (cWord 0xC2 3 1 2) 0x10000 0x10001 = [.sreg 3 0x10000] ∧
    scalarAfter .sShl (cWord 0xC6 3 1 2) 1 33 = [.sreg 3 2] ∧ scalarAfter .sSar (cWord 0xC8 3 1 2) 0x80000000 4 = [.sreg 3 0xF8000000] ∧ scalarAfter .sShr (cWord 0xC7 3 1 2) 0x80000000 4 = [.sreg 3 0x08000000] ∧
    scalarAfter .sSlt (cWord 0xC9 3 1 2) 0xFFFFFFFF 0 = [.sreg 3 1] ∧ scalarAfter .sSltu (cWord 0xCA 3 1 2) 0xFFFFFFFF 0 = [.sreg 3 0] := by decide +kernel

/-- VMIN and VMAX order −0 below +0 (R114). -/
theorem test_vmin_zeros : minMaxVal fmtB32 false 0 0x80000000 = (0x80000000, 0) ∧ minMaxVal fmtB32 true 0x80000000 0 = (0, 0) := by decide +kernel

/-- A core has presented a word of no operation code: the task ends with class 0x10 and the rest of its work stops (R93). -/
theorem test_illegal_word : (coreAfter (.sAdd 0 (cWord 0xCB 3 1 2)) (tOn (tCore 3 (cWord 0xCB 3 1 2)))).lands = [] := by decide +kernel

/-- A doorbell moves the tail of its queue; the next command waits behind it. -/
theorem test_step_doorbell :
    (match step { tQs with pending := [.ctxDoorbell 0x8000 0 (BitVec.ofNat 64 (2 * 2 ^ 16)), .heartbeatSend] } with
    | .next t => decide ((tget tQueue t.queues 0).tail = 2 ∧ t.pending = [.heartbeatSend])
    | _ => false) = true := by decide +kernel

/-- With no command waiting a step lets 10 ns pass on a module past its power-on reset, and nothing before it. -/
theorem test_idle_step :
    (match step tDev with | .next t => decide (t.now = 1 ∧ t.out = [] ∧ t.pending = []) | _ => false) = true ∧ (match step State.reset with | .next t => decide (t = State.reset) | _ => false) = true := by decide +kernel

/-- A frame marker off its cycle is recorded as a protocol error, class 0x04 (R142, Table 13.6), on its way to the Bureau. -/
theorem test_frame_marker :
    (match step { tDev with pending := [.frameMarkerCheck 63 9] } with | .next t => (t.care.transit ++ t.care.log).map (·.cls) | _ => []) = [4] := by decide +kernel

/-- The bring-up of one module to the state in which programs can be loaded (R385 to R391): standby power, the end of the power-on reset, and no further while no image verifies. -/
theorem test_boot_without_image :
    (match step { State.reset with pending := [.standbyValid] } with
    | .next t => (match step { t with pending := [.powerOnResetEnd 6 16 true] } with
      | .next u => decide (u.root.standby = true ∧ u.root.por = true ∧ u.now = 0 ∧ u.root.bureauUp = false ∧ u.root.ready = false)
      | _ => false)
    | _ => false) = true := by decide +kernel

/-- IDCODE shifts its bit 0 first, which IEEE 1149.1 fixes at 1 (R378). -/
theorem test_idcode : bitOf tDev.idcode 0 = true := by decide +kernel

/-- A command with no row's bits is spelt by no word. -/
theorem test_no_words : decodeTableWord 32 0 = none := by decide

end Sys2Proof.Tests
end

section
/-! The issue of matrix instructions and output conversions (R73, R79, R84, R93, R94): when each of them takes the activation stream or its converter. -/

namespace Sys2Proof.Machine

/-! ### Presented words of the M slot -/

theorem exec_mma1 (c : Nat) (w : W32) (s : State) : exec (.mma1 c w) s = .next (s.issueOp c 0 (isMS 1) issueMma w) := rfl
theorem exec_mma4 (c : Nat) (w : W32) (s : State) : exec (.mma4 c w) s = .next (s.issueOp c 0 (isMS 2) issueMma w) := rfl
theorem exec_ocv (c : Nat) (w : W32) (s : State) : exec (.ocv c w) s = .next (s.issueOp c 0 (isMS 3) issueOcv w) := rfl

/-- A presented word of the M slot takes the effect of the operation that its code names (R87). -/
theorem State.issueOp_presentM {s : State} {c op : Nat} {w : W32} {k : Core} (h : s.Presents c 0 w k) (hop : bitsOf w.toNat 3 0 = op) (eff : Core → CoreEnv → W32 → CoreRes) :
    s.issueOp c 0 (isMS op) eff w = s.coreResult c ((eff (k.markIssued 0) (s.env c) w).named 0 w) :=
  State.issueOp_present h (decide_eq_true hop) eff

/-! ### Issue of a matrix instruction -/

/-- The accumulator conflict of R84 does not arise where no row that a standing reservation reads is written. -/
theorem accConflict_eq_false {convs : List (Nat × ConvRun)} {f : MmaF} {cyc : Nat}
    (h : ∀ v ∈ convs, v.2.reserved cyc = true → ∀ i, i < v.2.f.rows → f.writesRow (v.2.f.accRow + i * v.2.f.accStride) = false) :
    convs.any (fun v => v.2.reserved cyc && (List.range v.2.f.rows).any (fun i => f.writesRow (v.2.f.accRow + i * v.2.f.accStride))) = false := by
  rw [List.any_eq_false]
  intro v hv hboth
  obtain ⟨hres, hrow⟩ := Bool.and_eq_true_iff.mp hboth
  obtain ⟨i, hi, hw⟩ := List.any_eq_true.mp hrow
  exact Bool.false_ne_true ((h v hv hres i (List.mem_range.mp hi)).symm.trans hw)

/-- A matrix instruction with legal fields takes the activation stream where none of the statuses 0x12, 0x14 and 0x19 applies. -/
theorem issueMma_ok {k : Core} {e : CoreEnv} {w : W32} {r : Nat} {p : Pairing} (hrec : fetchRecord k e (bitsOf w.toNat 16 4) = some r)
    (hpair : mmaPairing (mmaFields k w r).fmtA (mmaFields k w r).fmtW = some p) (hlegal : (mmaFields k w r).legal p = true) (hfree : k.streamBusy = false)
    (hrows : ∀ v ∈ k.convs, v.2.reserved k.icyc = true → ∀ i, i < v.2.f.rows → (mmaFields k w r).writesRow (v.2.f.accRow + i * v.2.f.accStride) = false)
    (hstaged : (mmaFields k w r).k = 0 ∨ k.chunkStaged (mmaFields k w r) p 0 ≠ 2) :
    issueMma k e w = .ok { k with mma := some ⟨mmaFields k w r, k.icyc, [], none, [], []⟩ } := by
  have hconf := accConflict_eq_false hrows
  have hfull : ¬((mmaFields k w r).k ≠ 0 ∧ k.chunkStaged (mmaFields k w r) p 0 = 2) := fun ⟨hk, h2⟩ => hstaged.elim hk (· h2)
  simp only [issueMma, hrec, hpair, hlegal, hfree, hconf, if_neg hfull, Bool.not_true, Bool.false_eq_true, if_false]

/-! ### Issue of an output conversion -/

/-- Issue of an OCV whose record is inside the window and whose fields are legal: status 0x12 where its converter is reserved, and else the reservation. -/
theorem issueOcv_legal {k : Core} {e : CoreEnv} {w : W32} {r : Nat} (hrec : fetchRecord k e (bitsOf w.toNat 16 4) = some r) (hlegal : (ocvFields k w r).legal = true) :
    issueOcv k e w = if (tfind k.convs (ocvFields k w r).conv).any (·.reserved k.icyc) then .err 0x12
      else .ok { k with convs := tset k.convs (ocvFields k w r).conv ⟨ocvFields k w r, k.icyc, []⟩ } := by
  simp only [issueOcv, hrec, hlegal, Bool.not_true, Bool.false_eq_true, if_false]
  cases tfind k.convs (ocvFields k w r).conv <;> rfl

/-! ### The obligation -/

/-- Settles O11: MMA1 and MMA4 by the issue rule they share, OCV by whether its converter is reserved. That its slot is marked changes nothing an operation of the M slot reads. -/
theorem matrixAndConversionIssue : Obligations.MatrixAndConversionIssue := by
  unfold Obligations.MatrixAndConversionIssue
  constructor
  · intro s c w k r p hpres hrec hpair hlegal hfree hrows hstaged
    have hissue : issueMma (k.markIssued 0) (s.env c) w = .ok { k.markIssued 0 with mma := some ⟨mmaFields k w r, k.icyc, [], none, [], []⟩ } :=
      issueMma_ok (k := k.markIssued 0) hrec hpair hlegal hfree hrows hstaged
    constructor
    · intro hop
      rw [exec_mma1, State.issueOp_presentM hpres hop, hissue]
      rfl
    · intro hop
      rw [exec_mma4, State.issueOp_presentM hpres hop, hissue]
      rfl
  · intro s c w k r hpres hop hrec hlegal
    have hissue : issueOcv (k.markIssued 0) (s.env c) w = if (tfind k.convs (ocvFields k w r).conv).any (·.reserved k.icyc) then .err 0x12
        else .ok { k.markIssued 0 with convs := tset k.convs (ocvFields k w r).conv ⟨ocvFields k w r, k.icyc, []⟩ } :=
      issueOcv_legal (k := k.markIssued 0) hrec hlegal
    rw [exec_ocv, State.issueOp_presentM hpres hop, hissue]
    constructor
    · intro hfree
      rw [if_neg (by simpa [Option.any_eq_true] using hfree)]
      rfl
    · intro v hv hres
      have hname : opAt 0 w = (3, 0) := by simp [opAt, hop]
      rw [if_pos (by simp [hv, hres]), CoreRes.named_err, hname]
      rfl

end Sys2Proof.Machine
end

section
/-! What a slot operation touches (R87, R101): its core, or the end of that core's task. -/

namespace Sys2Proof.Machine

/-- Each operation of `slotCore` is the issue of one word on that core, and nothing besides. -/
theorem exec_eq_issueOp_of_slotCore {i : Instr} {c : Nat} (h : slotCore i = some c) (s : State) :
    ∃ slot isOp eff w, exec i s = .next (s.issueOp c slot isOp eff w) := by
  cases i <;> cases h
  all_goals exact ⟨_, _, _, _, rfl⟩

/-- Settles O10: the issue sets its core, with the frame of `setCore`, or ends that core's task. -/
theorem slotOperationsTouchOnlyTheirCore : Obligations.SlotOperationsTouchOnlyTheirCore := by
  unfold Obligations.SlotOperationsTouchOnlyTheirCore
  intro i c s t hcore hexec
  obtain ⟨slot, isOp, eff, w, hissue⟩ := exec_eq_issueOp_of_slotCore hcore s
  obtain rfl : s.issueOp c slot isOp eff w = t := Host.Outcome.next.inj (hissue.symm.trans hexec)
  rcases s.issueOp_touches c slot isOp eff w with hsame | ⟨k, hset⟩ | hend
  · exact .inl hsame
  · rw [hset]
    exact .inr (.inl (s.setCore_frame c k))
  · exact .inr (.inr hend)

end Sys2Proof.Machine
end

section
/-! The C slot (R446, R447, R171, R88 to R90): scalar operations, the scalar registers, and LOOP, BR, END and SIG. -/

namespace Sys2Proof.Machine

/-! ### Presented words of the C slot -/

/-- A presented word of the C slot takes the effect of the operation that its code names (R87). -/
theorem State.issueOp_presentC {s : State} {c op : Nat} {w : W32} {k : Core} (h : s.Presents c 3 w k) (hop : cOp w = op) (eff : Core → CoreEnv → W32 → CoreRes) :
    s.issueOp c 3 (isC op) eff w = s.coreResult c ((eff (k.markIssued 3) (s.env c) w).named 3 w) :=
  State.issueOp_present h (decide_eq_true hop) eff

/-- A presented word whose operation succeeds sets its core to what the operation gives. -/
theorem exec_C_ok {i : Instr} {s : State} {c op : Nat} {w : W32} {k k' : Core} {eff : Core → CoreEnv → W32 → CoreRes} (hexec : exec i s = .next (s.issueOp c 3 (isC op) eff w))
    (h : s.Presents c 3 w k) (hop : cOp w = op) (hok : eff (k.markIssued 3) (s.env c) w = .ok k') : exec i s = .next (s.setCore c k') := by
  rw [hexec, State.issueOp_presentC h hop, hok]
  rfl

/-! ### Scalar operations (R446) -/

section
variable {i : Instr} {s : State} {c op : Nat} {w : W32} {k : Core}

/-- An operation of two registers puts its result in flight to sd. -/
theorem exec_scalarReg {g : W32 → W32 → W32} {v : W32} (hexec : exec i s = .next (s.issueOp c 3 (isC op) (scalarReg g) w)) (h : s.Presents c 3 w k) (hrsv : bitsOf w.toNat 31 23 = 0)
    (hv : g (k.sreg (cSa w)) (k.sreg (cSb w)) = v) (hop : cOp w = op) : exec i s = .next (s.delivers c 3 k 1 (.sreg (cSd w) v)) := by
  subst hv
  exact exec_C_ok hexec h hop (if_neg (not_not_intro hrsv))

/-- An operation of two registers with a reserved bit set ends the task with status 0x10 (R90). -/
theorem exec_scalarReg_reserved {g : W32 → W32 → W32} (hexec : exec i s = .next (s.issueOp c 3 (isC op) (scalarReg g) w)) (h : s.Presents c 3 w k) (hrsv : bitsOf w.toNat 31 23 ≠ 0)
    (hop : cOp w = op) : exec i s = .next (s.endTaskBy c 0x10 (op, 3)) := by
  have herr : scalarReg g (k.markIssued 3) (s.env c) w = .err 0x10 := if_pos hrsv
  rw [hexec, State.issueOp_presentC h hop, herr, ← hop]
  rfl

/-- An operation with an immediate puts its result in flight to sd. -/
theorem exec_scalarImm {ext : BitVec 14 → W32} {g : W32 → W32 → W32} {v : W32} (hexec : exec i s = .next (s.issueOp c 3 (isC op) (scalarImm ext g) w)) (h : s.Presents c 3 w k)
    (hv : g (k.sreg (cSa w)) (ext (cImm14 w)) = v) (hop : cOp w = op) : exec i s = .next (s.delivers c 3 k 1 (.sreg (cSd w) v)) := by
  subst hv
  exact exec_C_ok hexec h hop rfl

end

/-- Settles O1: each operation is one of the three shapes `scalarReg`, `scalarImm` and `scalarLui`. -/
theorem scalarOperations : Obligations.ScalarOperations := by
  unfold Obligations.ScalarOperations
  refine ⟨fun s c w k h hrsv => ?_, fun s c w k h => ?_, fun s c w k p h hrsv hp => ?_⟩
  · and_intros
    all_goals exact exec_scalarReg rfl h hrsv rfl
  · exact ⟨exec_scalarImm rfl h rfl, exec_scalarImm rfl h rfl, exec_scalarImm rfl h rfl, exec_scalarImm rfl h rfl, fun hop => exec_C_ok (eff := scalarLui) rfl h hop rfl⟩
  · simp only [List.mem_cons, List.not_mem_nil, or_false] at hp
    rcases hp with rfl | rfl | rfl | rfl | rfl | rfl | rfl | rfl | rfl | rfl | rfl
    all_goals exact exec_scalarReg_reserved rfl h hrsv

/-! ### Scalar registers (R88) -/

@[simp] theorem Core.sreg_thirtyOne (k : Core) : k.sreg 31 = 0 := rfl

@[simp] theorem Core.setSreg_thirtyOne (k : Core) (v : W32) : k.setSreg 31 v = k := rfl

theorem Core.sreg_setSreg_same {i : Nat} (hi : i ≠ 31) (k : Core) (v : W32) : (k.setSreg i v).sreg i = v := by
  simp only [Core.sreg, Core.setSreg, if_neg hi]
  exact tget_tput_same ..

theorem Core.sreg_setSreg_other {i j : Nat} (hij : i ≠ j) (k : Core) (v : W32) : (k.setSreg i v).sreg j = k.sreg j := by
  by_cases hi : i = 31
  · subst hi
    rfl
  · simp only [Core.sreg, Core.setSreg, if_neg hi]
    rw [tget_tput_other 0 v i j k.sregs hij.symm]

/-- A table filled key by key from 0 to `n` reads as what was filled in, and as the default from `n` on. -/
theorem tget_foldl_tput_range {α : Type} [DecidableEq α] (d : α) (f : Nat → α) (n i : Nat) :
    tget d ((List.range n).foldl (fun t j => tput d t j (f j)) []) i = if i < n then f i else d := by
  induction n with
  | zero => rfl
  | succ n ih =>
    rw [List.range_succ, List.foldl_concat]
    by_cases hi : i = n
    · rw [hi, tget_tput_same, if_pos (Nat.lt_succ_self n)]
    · rw [tget_tput_other d (f n) n i _ hi, ih]
      exact if_congr (by omega) rfl rfl

/-- At dispatch s0 to s7 hold the parameters and every other register, s31 among them, reads 0. -/
theorem Core.atDispatch_sreg (k : Core) (t : TaskRun) (tp2 : Bool) (lim i : Nat) :
    (k.atDispatch t tp2 lim).sreg i = if i < 8 then BitVec.ofNat 32 (descField t.desc (607 + 32 * i) (576 + 32 * i)) else 0 := by
  by_cases hi : i = 31
  · subst hi
    rfl
  · simp only [Core.sreg, Core.atDispatch, if_neg hi]
    exact tget_foldl_tput_range ..

/-- Settles O2, by the rules for a read after a write and the registers at dispatch. -/
theorem scalarRegisters : Obligations.ScalarRegisters := by
  unfold Obligations.ScalarRegisters
  refine ⟨fun k i j v => ⟨k.sreg_thirtyOne, k.setSreg_thirtyOne v, fun hi => Core.sreg_setSreg_same hi k v, fun hij => Core.sreg_setSreg_other hij k v⟩, fun k t tp2 lim i => ⟨fun hi => ?_, fun hi => ?_⟩⟩
  · rw [Core.atDispatch_sreg, if_pos hi]
  · rw [Core.atDispatch_sreg, if_neg (Nat.not_lt.mpr hi)]

/-! ### Control (R447, R100, R171) -/

/-- A legal LOOP that fits skips its body where its count is 0, and else opens it. -/
theorem issueLoop_legal {k : Core} {w : W32} (e : CoreEnv) (h13 : bitOf w.toNat 13 = false) (hrsv : bitsOf w.toNat 31 28 = 0) (hbody : bitsOf w.toNat 27 14 ≠ 0) (hdepth : k.loops.length < 4)
    (hfits : bodyFits k.loops (k.pc + bitsOf w.toNat 27 14) = true) :
    issueLoop k e w = if k.sreg (bitsOf w.toNat 12 8) = 0 then .ok { k with next := some (k.pc + bitsOf w.toNat 27 14 + 1, 0) }
      else .ok { k with loops := ⟨k.pc + 1, k.pc + bitsOf w.toNat 27 14, (k.sreg (bitsOf w.toNat 12 8)).toNat - 1⟩ :: k.loops } := by
  have hcount : (k.sreg (bitsOf w.toNat 12 8)).toNat = 0 ↔ k.sreg (bitsOf w.toNat 12 8) = 0 := BitVec.toNat_inj (y := 0#32)
  simp [issueLoop, h13, hrsv, hbody, Nat.not_le.mpr hdepth, hfits, hcount]

/-- A legal BR goes on where its condition does not hold. -/
theorem issueBr_notTaken {k : Core} {w : W32} (e : CoreEnv) (hrsv : bitsOf w.toNat 31 29 = 0) (hcond : brTaken (bitsOf w.toNat 9 8) (k.sreg (bitsOf w.toNat 14 10)) = false) :
    issueBr k e w = .ok k := by
  simp [issueBr, hrsv, hcond]

/-- A legal BR whose condition holds goes to its target and pays the penalty. -/
theorem issueBr_taken {k : Core} {w : W32} (e : CoreEnv) (hrsv : bitsOf w.toNat 31 29 = 0) (hcond : brTaken (bitsOf w.toNat 9 8) (k.sreg (bitsOf w.toNat 14 10)) = true)
    (hfits : targetFits k.loops (bitsOf w.toNat 28 15) = true) : issueBr k e w = .ok { k with next := some (bitsOf w.toNat 28 15, branchPenalty e.tp2) } := by
  simp [issueBr, hrsv, hcond, hfits]

/-- A legal SIG waits with the counter and the value of its registers. -/
theorem issueSig_legal {k : Core} {e : CoreEnv} {w : W32} (hrsv : bitsOf w.toNat 31 20 = 0) (hop : bitsOf w.toNat 9 8 = 1 ∨ bitsOf w.toNat 9 8 = 2)
    (hnum : (k.sreg (bitsOf w.toNat 14 10)).toNat < 2 ^ 18) (hwin : inWindow e.wins (k.sreg (bitsOf w.toNat 14 10)).toNat = true) (hcount : k.sigCount < 16) :
    issueSig k e w = .ok { k with sigs := k.sigs ++ [⟨k.icyc, (k.sreg (bitsOf w.toNat 14 10)).toNat, bitsOf w.toNat 9 8, (k.sreg (bitsOf w.toNat 19 15)).toNat⟩], sigCount := k.sigCount + 1 } := by
  refine if_neg ?_
  simp only [hrsv, hwin, Bool.not_true, Bool.false_eq_true, false_or]
  omega

/-- Settles O3: each control operation succeeds under its conditions, which marking its slot does not touch. -/
theorem controlOperations : Obligations.ControlOperations := by
  unfold Obligations.ControlOperations
  intro s c w k h
  refine ⟨?_, ?_, ?_, ?_, ?_, ?_⟩
  · intro hop h13 hrsv hbody hdepth hfits hzero
    exact exec_C_ok rfl h hop ((issueLoop_legal (k := k.markIssued 3) _ h13 hrsv hbody hdepth hfits).trans (if_pos hzero))
  · intro hop h13 hrsv hbody hdepth hfits hcount
    exact exec_C_ok rfl h hop ((issueLoop_legal (k := k.markIssued 3) _ h13 hrsv hbody hdepth hfits).trans (if_neg hcount))
  · intro hop hrsv hcond
    exact exec_C_ok rfl h hop (issueBr_notTaken (k := k.markIssued 3) _ hrsv hcond)
  · intro hop hrsv hcond hfits
    exact exec_C_ok rfl h hop (issueBr_taken (k := k.markIssued 3) _ hrsv hcond hfits)
  · intro hop hrsv
    exact exec_C_ok (eff := issueEnd) rfl h hop (if_neg (not_not_intro hrsv))
  · intro hop hrsv hsig hnum hwin hcount
    exact exec_C_ok rfl h hop (issueSig_legal (k := k.markIssued 3) hrsv hsig hnum hwin hcount)

end Sys2Proof.Machine
end

section
/-! Landings and the cycle of a core (R83, R87, R92 to R94, R107, R307). -/

namespace Sys2Proof.Machine

theorem exec_operationLanding (c : Nat) (upset : Bool) (s : State) : exec (.operationLanding c upset) s = execOperationLanding c upset s := rfl
theorem exec_ocvTileVisible (c conv : Nat) (s : State) : exec (.ocvTileVisible c conv) s = execOcvTileVisible c conv s := rfl
theorem exec_laneGeneratorAdvance (c : Nat) (s : State) : exec (.laneGeneratorAdvance c) s = execLaneGeneratorAdvance c s := rfl

/-! ### Landings (R92, R93) -/

/-- Results that do not collide land in order, and the others stay in flight. -/
theorem Core.landDue_of_not_collides {k : Core} (h : collides k.dueLands = false) :
    k.landDue = .ok (k.dueLands.foldl (fun k l => k.land l.what) { k with lands := k.lands.filter (fun l => k.icyc < l.cycle) }) :=
  if_neg (by simp [h])

/-- Results that collide give status 0x13. -/
theorem Core.landDue_of_collides {k : Core} (h : collides k.dueLands = true) : k.landDue = .err 0x13 := if_pos h

/-- An operation that lands on a core of the module lands all that is due. -/
theorem exec_operationLanding_lands {c : Nat} (hc : c < 128) (s : State) : exec (.operationLanding c false) s = .next (s.coreResult c (s.core c).landDue) := by
  simp [exec_operationLanding, execOperationLanding, State.landCore, Nat.not_le.mpr hc]

/-- An error found in a memory of a core of the module is its upset. -/
theorem exec_operationLanding_upset {c : Nat} (hc : c < 128) (s : State) : exec (.operationLanding c true) s = .next (s.coreUpset c) :=
  congrArg Host.Outcome.next (if_neg (Nat.not_le.mpr hc))

/-- A tile that becomes visible lands with all that is due, and frees its converter. -/
theorem exec_ocvTileVisible_ok {c conv : Nat} {s : State} {k : Core} (hc : c < 128) (h : (s.core c).landDue = .ok k) :
    exec (.ocvTileVisible c conv) s = .next (s.setCore c (k.freeConv conv)) := by
  simp [exec_ocvTileVisible, execOcvTileVisible, Nat.not_le.mpr hc, h]

/-- A tile that becomes visible where results collide ends the task. -/
theorem exec_ocvTileVisible_err {c conv st : Nat} {op : OpAt} {s : State} (hc : c < 128) (h : (s.core c).landDue = .err st op) :
    exec (.ocvTileVisible c conv) s = .next (s.endTaskBy c st op) := by
  simp [exec_ocvTileVisible, execOcvTileVisible, Nat.not_le.mpr hc, h]

/-- Settles O12: both commands do what `Core.landDue` gives, by whether the results that are due collide. -/
theorem resultsLand : Obligations.ResultsLand := by
  unfold Obligations.ResultsLand
  refine ⟨fun s c conv hc hfree => ?_, fun s c conv hc hcol => ?_⟩
  · have hland := Core.landDue_of_not_collides hfree
    refine ⟨?_, exec_ocvTileVisible_ok hc hland, exec_operationLanding_upset hc s⟩
    rw [exec_operationLanding_lands hc, hland]
    rfl
  · have hland := Core.landDue_of_collides hcol
    refine ⟨?_, exec_ocvTileVisible_err hc hland⟩
    rw [exec_operationLanding_lands hc, hland]
    rfl

/-! ### The cycle of a core (R87, R94, R107) -/

/-- The cycle of a core that is not halted, with nothing colliding: while issue holds, only the cycle counts move. -/
theorem Core.cycle_of_holding {d k : Core} {e : CoreEnv} (hrun : d.halted = false) (hland : d.landDue = .ok k) (hhold : k.holding e = true) :
    d.cycle e = .ok { k with cyc := k.cyc + 1, wd := if k.halted then k.wd else k.wd + 1 } := by
  simp [Core.cycle, hrun, hland, hhold]

/-- Where issue does not hold and every slot of a legal bundle has issued, the cycle passes with its bundle. -/
theorem Core.cycle_of_bundleDone {d k : Core} {e : CoreEnv} (hrun : d.halted = false) (hland : d.landDue = .ok k) (hhold : k.holding e = false) (hfetch : k.canFetch = true)
    (hlegal : ∀ i, i < 4 → badWord i (k.slotWord e i) = false) (hdone : k.bundleDone e = true) : d.cycle e = k.passCycle e true := by
  have hnone : (List.range 4).find? (fun i => badWord i (k.slotWord e i)) = none :=
    List.find?_eq_none.mpr fun i hi => by simp [hlegal i (List.mem_range.mp hi)]
  simp [Core.cycle, hrun, hland, hhold, hfetch, hnone, hdone]

/-- LANE_GENERATOR_ADVANCE on a core with a running task, out of test mode: its generators advance, its cycle passes, and its dropped samples are counted. -/
theorem exec_laneGeneratorAdvance_running {s : State} {c : Nat} (hc : c < 128) (hrun : (s.core c).run.isSome = true) (htest : (s.core c).test = false) :
    exec (.laneGeneratorAdvance c) s = .next ((s.coreResult c ((s.core c).advanceLanes.cycle (s.env c))).countDrops c) := by
  have hlanes : (s.core c).laneCycle (s.env c) = (s.core c).advanceLanes := if_pos (by simp [htest])
  have hbusy : (s.core c).advanceLanes.run.isNone = false := by
    rw [← Option.not_isSome]
    exact congrArg not hrun
  simp [exec_laneGeneratorAdvance, execLaneGeneratorAdvance, Nat.not_le.mpr hc, hlanes, hbusy]

/-- Settles O13: the held cycle and the cycle of an issued bundle. A cycle that passes raises both counts (`Core.passCycle_clock`). -/
theorem coreCyclePasses : Obligations.CoreCyclePasses := by
  unfold Obligations.CoreCyclePasses
  intro s c k hc hrun hhalt htest hland
  rw [exec_laneGeneratorAdvance_running hc hrun htest]
  refine ⟨fun hhold => ?_, fun k' hhold hfetch hlegal hdone hpass => ⟨?_, (Core.passCycle_clock hpass).2⟩⟩
  · rw [Core.cycle_of_holding (d := (s.core c).advanceLanes) hhalt hland hhold]
    rfl
  · rw [Core.cycle_of_bundleDone (d := (s.core c).advanceLanes) hhalt hland hhold hfetch hlegal hdone, hpass]
    rfl

end Sys2Proof.Machine
end

section
/-! The end of a tile-task (R100, R101, R105): what its completion leaves of the cores and of the counts of a context's step. -/

namespace Sys2Proof.Machine

theorem exec_tileTaskCompletion (c : Nat) (s : State) : exec (.tileTaskCompletion c) s = execTileTaskCompletion c s := rfl
theorem exec_taskWatchdogExpiry (c : Nat) (s : State) : exec (.taskWatchdogExpiry c) s = execTaskWatchdogExpiry c s := rfl

/-! ### What a completion leaves -/

/-- Two states agree in every core and in what each context keeps of its step. -/
structure State.TasksAs (s t : State) : Prop where
  cores : t.cores = s.cores
  st : ∀ n, (t.ctx n).st = (s.ctx n).st

theorem State.TasksAs.refl (s : State) : s.TasksAs s := ⟨rfl, fun _ => rfl⟩

theorem State.TasksAs.trans {s t u : State} (h : s.TasksAs t) (g : t.TasksAs u) : s.TasksAs u := ⟨g.cores.trans h.cores, fun n => (g.st n).trans (h.st n)⟩

/-- An operation that leaves the cores and the contexts leaves what `TasksAs` compares. -/
theorem State.TasksAs.of_eq {s t : State} (hcores : t.cores = s.cores) (hctxs : t.ctxs = s.ctxs) : s.TasksAs t := ⟨hcores, fun n => by unfold State.ctx; rw [hctxs]⟩

theorem State.modCtx_tasks (s : State) (n : Nat) (f : Ctx → Ctx) (hf : ∀ k, (f k).st = k.st) : s.TasksAs (s.modCtx n f) := by
  refine ⟨s.modCtx_cores n f, fun m => ?_⟩
  by_cases hm : m = n
  · rw [hm, State.ctx_modCtx, hf]
  · rw [State.ctx_modCtx_ne s n m f hm]

/-! ### Writes to memory -/

theorem State.mirror_tasks (s : State) (n k o : Nat) (bs : List Byte) : s.TasksAs (s.mirror n k o bs) := by
  unfold State.mirror
  dsimp only
  split
  · exact .refl s
  · exact (State.TasksAs.of_eq (s.sendAll_cores _) (s.sendAll_ctxs _)).trans (State.modCtx_tasks _ n _ fun _ => rfl)

theorem State.applyWrite_tasks (s : State) (n k o : Nat) (bs : List Byte) : s.TasksAs (s.applyWrite n k o bs) :=
  State.TasksAs.trans (t := (s.memWrite k o bs).clearLines k o bs.length) (.of_eq rfl rfl) (State.mirror_tasks _ n k o bs)

theorem State.devWriteGo_tasks (n : Nat) (ps : List (Nat × Nat)) (bs : List Byte) (s : State) : s.TasksAs (State.devWriteGo n ps bs s) := by
  induction ps generalizing bs s with
  | nil => exact .refl s
  | cons p ps ih =>
    rw [State.devWriteGo]
    refine State.TasksAs.trans ?_ (ih _ _)
    split
    · exact s.applyWrite_tasks ..
    · exact .refl s

theorem State.devWrite_tasks (s : State) (n a : Nat) (bs : List Byte) : s.TasksAs (s.devWrite n a bs) := State.devWriteGo_tasks n _ bs s

/-! ### The steps of a completion (R100, steps 3 to 7) -/

theorem State.foldFlags_tasks (s : State) (n shard fl : Nat) : s.TasksAs (s.foldFlags n shard fl) := by
  refine s.modCtx_tasks n _ fun k => ?_
  split <;> rfl

theorem State.digestLog_tasks (s : State) (c : Nat) (t : TaskRun) (digest : Nat) : s.TasksAs (s.digestLog c t digest) := by
  unfold State.digestLog
  dsimp only
  split
  · exact .refl s
  · exact s.devWrite_tasks ..

theorem State.writeCompletion_tasks (s : State) (c : Nat) (t : TaskRun) (status cycles : Nat) : s.TasksAs (s.writeCompletion c t status cycles) := by
  unfold State.writeCompletion
  split
  · exact .refl s
  · exact s.devWrite_tasks ..

theorem State.queueDone_tasks (s : State) (q ring : Nat) : s.TasksAs (s.queueDone q ring) := by
  unfold State.queueDone
  split
  · exact .refl s
  · exact .of_eq rfl rfl

theorem State.descSignal_tasks (s : State) (c : Nat) (t : TaskRun) (w : Nat) : s.TasksAs (s.descSignal c t w) := by
  unfold State.descSignal
  extract_lets o op
  split
  · exact .refl s
  · exact .of_eq (s.sendSignal_cores ..) (s.sendSignal_ctxs ..)

/-- The digest of a task does not outlive it: a core with one more effect is the same core once idle. -/
theorem Core.addEffect_idle (k : Core) (bs : List Byte) : (k.addEffect bs).idle = k.idle := rfl

/-- A fold of operations that each leave the idle core as it was does so too. -/
theorem foldl_idle {α : Type} (f : Core → α → Core) (hf : ∀ k x, (f k x).idle = k.idle) (l : List α) (k : Core) : (l.foldl f k).idle = k.idle := by
  induction l generalizing k with
  | nil => rfl
  | cons x l ih => rw [List.foldl_cons, ih, hf]

/-- A context after one more of its tasks, with the records of its hashed copies. -/
def Ctx.taskDone (k : Ctx) (hs : List HashRec) : Ctx :=
  { k with st := { k.st with tasksDone := (k.st.tasksDone + 1) % 2 ^ 64 }, mem := { k.mem with hashes := k.mem.hashes ++ hs } }

/-- A completion counts the task in its context, then frees its core, and does nothing else to either. -/
theorem State.completeTask_stages (s : State) (c : Nat) (t : TaskRun) :
    ∃ u v hs, s.TasksAs u ∧ (u.modCtx t.ctx (·.taskDone hs)).TasksAs v ∧ (v.setCore c (s.core c).idle).TasksAs (s.completeTask c t) := by
  unfold State.completeTask
  extract_lets k fl kEnd folded logged counted written care replayed freed
  have hidle : kEnd.idle = (s.core c).idle := by
    refine (foldl_idle _ (fun k w => ?_) _ _).trans (k.addEffect_idle _)
    extract_lets o
    split
    · rfl
    · exact k.addEffect_idle _
  have hfolded : s.TasksAs folded := by
    unfold folded
    split
    · exact .refl s
    · exact s.foldFlags_tasks ..
  have hreplayed : written.TasksAs replayed := by
    unfold replayed
    split
    · exact .of_eq rfl rfl
    · exact .refl written
  have hfreed : (replayed.setCore c (s.core c).idle).TasksAs freed := by
    unfold freed
    rw [hidle]
    exact State.queueDone_tasks ..
  exact ⟨logged, replayed, kEnd.hashes, hfolded.trans (folded.digestLog_tasks c t kEnd.digest), (counted.writeCompletion_tasks c t 1 kEnd.cyc).trans hreplayed,
    (hfreed.trans (freed.descSignal_tasks ..)).trans (State.descSignal_tasks ..)⟩

theorem State.completeTask_core (s : State) (c : Nat) (t : TaskRun) : (s.completeTask c t).core c = (s.core c).idle := by
  obtain ⟨u, v, hs, -, -, hend⟩ := s.completeTask_stages c t
  calc (s.completeTask c t).core c = (v.setCore c (s.core c).idle).core c := congrArg (tget Core.reset · c) hend.cores
    _ = (s.core c).idle := v.core_setCore c _

theorem State.completeTask_tasksDone (s : State) (c : Nat) (t : TaskRun) :
    ((s.completeTask c t).ctx t.ctx).st.tasksDone = ((s.ctx t.ctx).st.tasksDone + 1) % 2 ^ 64 := by
  obtain ⟨u, v, hs, hbefore, hbetween, hend⟩ := s.completeTask_stages c t
  have hst : ((s.completeTask c t).ctx t.ctx).st = ((u.ctx t.ctx).taskDone hs).st :=
    calc ((s.completeTask c t).ctx t.ctx).st = (v.ctx t.ctx).st := hend.st t.ctx
      _ = ((u.modCtx t.ctx (·.taskDone hs)).ctx t.ctx).st := hbetween.st t.ctx
      _ = ((u.ctx t.ctx).taskDone hs).st := by rw [State.ctx_modCtx]
  rw [hst, ← hbefore.st t.ctx]
  rfl

/-! ### The commands -/

/-- The completion of a running task, where what is due in the cycle has landed and nothing is left of its work. -/
theorem exec_tileTaskCompletion_running {s : State} {c : Nat} {t : TaskRun} (hrun : (s.core c).run = some t) :
    exec (.tileTaskCompletion c) s = .next (if (s.landedNow c).taskSettled c t then (s.landedNow c).completeTask c t else s) := by
  simp only [exec_tileTaskCompletion, execTileTaskCompletion, hrun]

/-- The watchdog of a running task. -/
theorem exec_taskWatchdogExpiry_running {s : State} {c : Nat} {t : TaskRun} (hrun : (s.core c).run = some t) :
    exec (.taskWatchdogExpiry c) s = .next (if (s.core c).wdLimit * 1200 < (s.core c).wd then s.endTask c 0x17 else s) := by
  simp [exec_taskWatchdogExpiry, execTaskWatchdogExpiry, hrun]

/-- Settles O26: the two commands by their conditions, and the two effects of `State.completeTask`. -/
theorem tileTaskEnds : Obligations.TileTaskEnds := by
  unfold Obligations.TileTaskEnds
  intro s c t hrun
  rw [exec_tileTaskCompletion_running hrun, exec_taskWatchdogExpiry_running hrun]
  refine ⟨fun hset => ?_, fun hset => ?_, fun k hk => ?_, fun hwd => ?_, fun hwd => ?_, s.completeTask_core c t, s.completeTask_tasksDone c t⟩
  · rw [if_pos hset]
  · rw [if_neg (by simp [hset])]
  · rw [State.landedNow, hk]
  · rw [if_pos hwd]
  · rw [if_neg (Nat.not_lt.mpr hwd)]

end Sys2Proof.Machine
end

section
/-! The Footstool's checks (R106 to R108) and cross-core replay (R311, R313). -/

namespace Sys2Proof.Machine

theorem exec_footstoolExactCheck (c fault : Nat) (s : State) : exec (.footstoolExactCheck c fault) s = execFootstoolExactCheck c fault s := rfl
theorem exec_footstoolWideSample (c : Nat) (s : State) : exec (.footstoolWideSample c) s = execFootstoolWideSample c s := rfl
theorem exec_crossCoreReplay (c fault : Nat) (s : State) : exec (.crossCoreReplay c fault) s = execCrossCoreReplay c fault s := rfl
theorem exec_replayCompare (c : Nat) (s : State) : exec (.replayCompare c) s = execReplayCompare c s := rfl

/-! ### Exact mode (R106, R107) -/

section
variable {s : State} {c fault : Nat} {x : FsSample}

/-- A sample whose buffer entry fails its parity is dropped. -/
theorem exec_footstoolExactCheck_parity (hc : c < 128) (hfind : (s.core c).fsBuf.find? (fun y => y.entry.isNone) = some x) (hpar : bitOf fault 36 = true) :
    exec (.footstoolExactCheck c fault) s = .next ((s.setCore c ((s.core c).fsPop x)).count (corePage c) .fsDropped 1) := by
  simp [exec_footstoolExactCheck, execFootstoolExactCheck, State.exactCheck, Nat.not_le.mpr hc, hfind, hpar]

/-- A sample of sound parity is checked, and a difference from its recomputation is a mismatch. -/
theorem exec_footstoolExactCheck_checked (hc : c < 128) (hfind : (s.core c).fsBuf.find? (fun y => y.entry.isNone) = some x) (hpar : bitOf fault 36 = false) :
    exec (.footstoolExactCheck c fault) s =
      .next (if (recompute (x.faulty fault)).1 = (x.faulty fault).delivered ∧ (recompute (x.faulty fault)).2.toNat = (x.faulty fault).flags
        then (s.setCore c ((s.core c).fsPop x)).count (corePage c) .fsChecked 1
        else ((s.setCore c ((s.core c).fsPop x)).count (corePage c) .fsChecked 1).fsMismatch c (x.faulty fault) (recompute (x.faulty fault))) := by
  simp [exec_footstoolExactCheck, execFootstoolExactCheck, State.exactCheck, Nat.not_le.mpr hc, hfind, hpar]

/-- A mismatch with no task running waits for the core's next task. -/
theorem State.fsMismatch_of_idle {t : State} {k : Core} (r : Nat × FlagBits) (hcore : t.core c = k) (hidle : k.run = none) :
    t.fsMismatch c x r = (t.count (corePage c) .fsMismatch 1).setCore c { k with fsPending := some ⟨fsSyndrome x r, if x.conv then 4 else 3, x.unit⟩ } := by
  have hcount : (t.count (corePage c) .fsMismatch 1).core c = k := by rw [← hcore, State.core, State.count_cores, State.core]
  simp only [State.fsMismatch, hcount, hidle]

end

/-! ### Wide mode (R108) -/

theorem Regs.word_setWord_same (r : Regs) (page off v : Nat) : (r.setWord page off v).word page off = v % 2 ^ 32 := by
  simp only [Regs.word, Regs.setWord, tfind_tset_same]
  exact BitVec.toNat_ofNat v 32

theorem Regs.word_setWord_other (r : Regs) (page off v o : Nat) (h : o ≠ off) : (r.setWord page off v).word page o = r.word page o := by
  have hkey : wordKey page o ≠ wordKey page off := fun he => h (Nat.add_left_cancel he)
  simp only [Regs.word, Regs.setWord, tfind_tset_other _ _ _ _ hkey]

theorem satAdd_lt (w a b : Nat) : satAdd w a b < 2 ^ w :=
  Nat.lt_of_le_of_lt (Nat.min_le_right _ _) (Nat.sub_lt (Nat.two_pow_pos w) Nat.one_pos)

/-- The statistics of a watch entry are registers. -/
theorem State.wideStats_frame (s : State) (c n result w : Nat) : { s.wideStats c n result w with regs := s.regs } = s := by
  by_cases homit : absB32 w = 0 ∨ 0x7F800000 ≤ absB32 w
  · have hsame : s.wideStats c n result w = s := if_pos homit
    rw [hsame]
  · have hregs : s.wideStats c n result w = { s with regs := _ } := if_neg homit
    rw [hregs]

/-- A sample whose wide sum is not zero and finite adds 1 to its entry's count; its greatest and its summed difference lie in other words. -/
theorem State.wideStats_count (s : State) (c n result w : Nat) (hzero : absB32 w ≠ 0) (hfin : absB32 w < 0x7F800000) :
    (s.wideStats c n result w).regs.word (corePage c) (0x100 + 0x20 * n + 0xC) = satAdd 32 (s.regs.word (corePage c) (0x100 + 0x20 * n + 0xC)) 1 := by
  have hsat := Nat.mod_eq_of_lt (satAdd_lt 32 (s.regs.word (corePage c) (0x100 + 0x20 * n + 0xC)) 1)
  have hcounted : ¬(absB32 w = 0 ∨ 0x7F800000 ≤ absB32 w) := by omega
  simp only [State.wideStats, if_neg hcounted]
  rw [Regs.word_setWord_other _ _ _ _ _ (by omega)]
  split
  · rw [Regs.word_setWord_other _ _ _ _ _ (by omega), Regs.word_setWord_same, hsat]
  · rw [Regs.word_setWord_same, hsat]

/-- The oldest sample of wide mode leaves the buffer and goes to its entry's statistics, where its master weights can be read. -/
theorem exec_footstoolWideSample_read {s : State} {c n : Nat} {x : FsSample} {ws : List Nat} (hc : c < 128) (hfind : (s.core c).fsBuf.find? (fun y => y.entry.isSome) = some x)
    (hentry : x.entry = some n) (hws : s.masterWeights c n x = some ws) :
    exec (.footstoolWideSample c) s = .next ((s.setCore c ((s.core c).fsPop x)).wideStats c n x.delivered (wideSum x.a0 ws)) := by
  have hws' : s.masterWeights c ((some n).getD 0) x = some ws := hws
  simp only [exec_footstoolWideSample, execFootstoolWideSample, if_neg (Nat.not_le.mpr hc), hfind, hentry, hws']

/-! ### Cross-core replay (R311, R313) -/

section
variable {s : State} {c : Nat} {r : Replay}

/-- A pending replay runs on the first partner that may run it, and records its digest. -/
theorem exec_crossCoreReplay_runs {p : Nat} (fault : Nat) (hfind : s.care.replays.find? (fun x => decide (x.core = c)) = some r) (hon : s.replayOn r = some p) (hmay : s.mayReplay p r = true) :
    exec (.crossCoreReplay c fault) s = .next (({ s with care := { s.care with replays := s.care.replays.map (fun x =>
      if x = r then { r with results := r.results ++ [(p, r.digest ^^^ fault % 2 ^ 64)] } else x) } } : State).count 1 .rplReplayed 1) := by
  simp only [exec_crossCoreReplay, execCrossCoreReplay, hfind, hon, hmay, Bool.not_true, Bool.false_eq_true, if_false]

variable (hfind : s.care.replays.find? (fun x => decide (x.core = c) && !x.results.isEmpty) = some r)
include hfind

/-- A partner whose digest is the original's ends the replay without a record. -/
theorem exec_replayCompare_equal {p : Nat} (hres : r.results = [(p, r.digest)]) : exec (.replayCompare c) s = .next (s.dropReplay r) := by
  simp only [exec_replayCompare, execReplayCompare, hfind, hres, if_true]

/-- Two partners, the first of which differs from the original: the first is at fault where the second gives the original's digest, and the original core where both give one digest. -/
theorem exec_replayCompare_second {p q d d' : Nat} (hres : r.results = [(p, d), (q, d')]) (hne : d ≠ r.digest) (hd' : d' = r.digest ∨ d' = d) :
    exec (.replayCompare c) s = .next (((s.dropReplay r).count 1 .rplMismatch 1).replayFault r (if d' = r.digest then p else c) d) := by
  simp only [exec_replayCompare, execReplayCompare, hfind, hres, if_neg hne]
  split
  · rfl
  · next hother => rw [if_pos (hd'.resolve_left hother)]

end

/-- Settles O27: exact mode by its parity and its recomputation, wide mode by the words of its statistics, and the replays by their results. -/
theorem footstoolAndReplay : Obligations.FootstoolAndReplay := by
  unfold Obligations.FootstoolAndReplay
  refine ⟨fun s c x hc => ⟨fun hfind => ⟨?_, ?_, ?_⟩, ?_⟩, fun s c r => ⟨?_, fun hfind => ⟨?_, ?_, ?_⟩⟩⟩
  · exact fun fault hpar => exec_footstoolExactCheck_parity hc hfind hpar
  · intro fault hpar hval hflags
    rw [exec_footstoolExactCheck_checked hc hfind hpar, if_pos ⟨hval, hflags⟩]
  · intro fault hpar hval hidle
    have hpop : ((s.setCore c ((s.core c).fsPop x)).count (corePage c) .fsChecked 1).core c = (s.core c).fsPop x := by
      rw [State.core, State.count_cores]
      exact s.core_setCore c _
    rw [exec_footstoolExactCheck_checked hc hfind hpar, if_neg fun heq => hval heq.1, State.fsMismatch_of_idle _ hpop hidle]
    rfl
  · intro n ws hfind hentry hn hws hzero hfin
    have hframe := (s.setCore c ((s.core c).fsPop x)).wideStats_frame c n x.delivered (wideSum x.a0 ws)
    refine ⟨_, exec_footstoolWideSample_read hc hfind hentry hws, State.wideStats_count _ c n _ _ hzero hfin, ?_, ?_⟩
    · exact (congrArg (fun t => t.core c) hframe).trans (s.core_setCore c _)
    · exact congrArg (fun t : State => { t with cores := s.cores }) hframe
  · exact fun p fault hfind hon hmay => exec_crossCoreReplay_runs fault hfind hon hmay
  · exact fun p hres => exec_replayCompare_equal hfind hres
  · intro p q d hres hne
    rw [exec_replayCompare_second hfind hres hne (.inr rfl), if_neg hne]
  · intro p q d hres hne
    rw [exec_replayCompare_second hfind hres hne (.inl rfl), if_pos rfl]

end Sys2Proof.Machine
end

section
/-! The order of the floating-point values by the bits of their encodings (R38, R114): decoding, comparison, minimum and maximum. -/

namespace Sys2Proof.Machine

/-! ### Signed magnitudes -/

/-- A magnitude under a sign. -/
def signed (neg : Bool) (m : Nat) : Int := if neg then -(m : Int) else m

@[simp] theorem signed_true (m : Nat) : signed true m = -(m : Int) := rfl
@[simp] theorem signed_false (m : Nat) : signed false m = m := rfl

theorem alignedInt_eq_signed (neg : Bool) (sig : Nat) (ex e : Int) : alignedInt neg sig ex e = signed neg (sig * 2 ^ (ex - e).toNat) := rfl

theorem signed_mul (neg : Bool) (m p : Nat) : signed neg (m * p) = signed neg m * p := by
  cases neg <;> simp

/-- A strictly rising function from 0 on keeps the order of signed magnitudes. -/
theorem signed_lt_iff_of_strictMono {g : Nat → Nat} (hg : StrictMono g) (hzero : g 0 = 0) (a b : Bool) (m n : Nat) : signed a (g m) < signed b (g n) ↔ signed a m < signed b n := by
  have hmn := hg.lt_iff_lt (a := m) (b := n)
  have hnm := hg.lt_iff_lt (a := n) (b := m)
  have hm := hg.lt_iff_lt (a := 0) (b := m)
  have hn := hg.lt_iff_lt (a := 0) (b := n)
  cases a <;> cases b <;> simp only [signed_true, signed_false] <;> omega

/-- The difference of two signed magnitudes keeps its sign under a strictly rising function. -/
theorem signed_sub_sign_of_strictMono {g : Nat → Nat} (hg : StrictMono g) (hzero : g 0 = 0) (a b : Bool) (m n : Nat) :
    (signed a (g m) - signed b (g n)).sign = (signed a m - signed b n).sign := by
  have hlt := signed_lt_iff_of_strictMono hg hzero a b m n
  have hgt := signed_lt_iff_of_strictMono hg hzero b a n m
  rcases lt_trichotomy (signed a m) (signed b n) with h | h | h
  · rw [Int.sign_eq_neg_one_of_neg (sub_neg.mpr h), Int.sign_eq_neg_one_of_neg (sub_neg.mpr (hlt.mpr h))]
  · rw [Int.sign_eq_zero_iff_zero.mpr (sub_eq_zero.mpr h), Int.sign_eq_zero_iff_zero]
    omega
  · rw [Int.sign_eq_one_of_pos (sub_pos.mpr h), Int.sign_eq_one_of_pos (sub_pos.mpr (hgt.mpr h))]

/-- The greater magnitude decides by its sign. -/
theorem signed_sub_sign_of_gt {m n : Nat} (h : n < m) (a b : Bool) : (signed a m - signed b n).sign = if a then -1 else 1 := by
  cases a
  · exact Int.sign_eq_one_of_pos (by cases b <;> simp only [signed_true, signed_false] <;> omega)
  · exact Int.sign_eq_neg_one_of_neg (by cases b <;> simp only [signed_true, signed_false] <;> omega)

/-- The greater magnitude decides, here on the right. -/
theorem signed_sub_sign_of_lt {m n : Nat} (h : m < n) (a b : Bool) : (signed a m - signed b n).sign = if b then 1 else -1 := by
  rw [← neg_sub, Int.sign_neg, signed_sub_sign_of_gt h]
  cases b <;> rfl

/-- Equal magnitudes other than 0 compare by their signs. -/
theorem signed_sub_sign_same {m : Nat} (h : 0 < m) (a b : Bool) : (signed a m - signed b m).sign = if a = b then 0 else if a then -1 else 1 := by
  by_cases hab : a = b
  · rw [hab, sub_self, if_pos rfl, Int.sign_zero]
  · obtain rfl : b = !a := Bool.eq_not_of_ne (Ne.symm hab)
    rw [if_neg hab]
    cases a
    · exact Int.sign_eq_one_of_pos (by simp only [Bool.not_false, signed_true, signed_false]; omega)
    · exact Int.sign_eq_neg_one_of_neg (by simp only [Bool.not_true, signed_true, signed_false]; omega)

/-- The order of signed magnitudes in which −0 is below +0 is that of the keys, one lower under the sign. -/
theorem signed_key_lt (a b : Bool) (m n : Nat) :
    (signed a m - signed b n < 0 ∨ (signed a m - signed b n = 0 ∧ a = true) ∧ (!b) = true) ↔ signed a m - (if a then 1 else 0) < signed b n - (if b then 1 else 0) := by
  cases a <;> cases b <;> simp only [signed_true, signed_false, Bool.not_true, Bool.not_false, Bool.false_eq_true, and_true, and_false, or_false, if_true, if_false] <;> omega

/-- The comparison of two finite values, aligned at any exponent that is not above theirs. -/
theorem cmpVal_fin {a b : Bool} {m n : Nat} {e e' q : Int} (he : q ≤ e) (he' : q ≤ e') :
    cmpVal (.fin a m e) (.fin b n e') = (alignedInt a m e q - alignedInt b n e' q).sign := by
  have hshift : ∀ (c : Bool) (i : Nat) (x : Int), min e e' ≤ x → alignedInt c i x q = alignedInt c i x (min e e') * (2 ^ (min e e' - q).toNat : Nat) := by
    intro c i x hx
    have hexp : (x - q).toNat = (x - min e e').toNat + (min e e' - q).toNat := by omega
    rw [alignedInt_eq_signed, alignedInt_eq_signed, hexp, pow_add, ← mul_assoc, signed_mul]
  have hpos : (0 : Int) < (2 ^ (min e e' - q).toNat : Nat) := by positivity
  rw [hshift a m e (min_le_left e e'), hshift b n e' (min_le_right e e'), ← sub_mul, Int.sign_mul, Int.sign_eq_one_of_pos hpos, mul_one]
  simp only [cmpVal]
  split
  · next hneg => exact (Int.sign_eq_neg_one_of_neg hneg).symm
  · next hnneg =>
    split
    · next hzero => exact (Int.sign_eq_zero_iff_zero.mpr hzero).symm
    · next hnzero => exact (Int.sign_eq_one_of_pos (by omega)).symm

/-! ### Magnitude bits -/

/-- The magnitude bits of an encoding: exponent field and fraction. -/
def Fmt.mag (f : Fmt) (x : Nat) : Nat := x % 2 ^ (f.expBits + f.frac)

/-- The magnitude with bits `m`, counted in units of the smallest subnormal. -/
def Fmt.units (f : Fmt) (m : Nat) : Nat := if m / 2 ^ f.frac = 0 then m else (2 ^ f.frac + m % 2 ^ f.frac) * 2 ^ (m / 2 ^ f.frac - 1)

theorem Fmt.units_zero (f : Fmt) : f.units 0 = 0 := by simp [Fmt.units]

/-- The magnitudes of one exponent field lie below those of the next. -/
theorem Fmt.units_lt (f : Fmt) (m : Nat) : f.units m < 2 ^ f.frac * 2 ^ (m / 2 ^ f.frac) := by
  have hmod := Nat.mod_lt m (Nat.two_pow_pos f.frac)
  unfold Fmt.units
  split
  · next hsub =>
    rw [hsub, pow_zero, mul_one]
    exact (Nat.div_eq_zero_iff_lt (Nat.two_pow_pos _)).mp hsub
  · next hnorm =>
    obtain ⟨e, he⟩ := Nat.exists_eq_succ_of_ne_zero hnorm
    rw [he, Nat.succ_sub_one, Nat.pow_succ, mul_comm (2 ^ e), ← mul_assoc]
    exact Nat.mul_lt_mul_of_pos_right (by omega) (Nat.two_pow_pos e)

/-- The magnitudes of an exponent field other than 0 reach from its power of two on. -/
theorem Fmt.le_units {f : Fmt} {m e : Nat} (he : m / 2 ^ f.frac = e + 1) : 2 ^ f.frac * 2 ^ e ≤ f.units m := by
  simp only [Fmt.units, he, Nat.succ_ne_zero, if_false, Nat.add_sub_cancel]
  exact Nat.mul_le_mul_right _ (Nat.le_add_right ..)

/-- Greater magnitude bits are a greater magnitude. -/
theorem Fmt.units_strictMono (f : Fmt) : StrictMono f.units := by
  intro m n hmn
  have hm := Nat.div_add_mod m (2 ^ f.frac)
  have hn := Nat.div_add_mod n (2 ^ f.frac)
  rcases (Nat.div_le_div_right (c := 2 ^ f.frac) hmn.le).eq_or_lt with heq | hlt
  · have hmod : m % 2 ^ f.frac < n % 2 ^ f.frac := by rw [heq] at hm; omega
    unfold Fmt.units
    rw [heq]
    split
    · exact hmn
    · exact Nat.mul_lt_mul_of_pos_right (by omega) (Nat.two_pow_pos _)
  · obtain ⟨e, he⟩ := Nat.exists_eq_succ_of_ne_zero (Nat.ne_zero_of_lt hlt)
    calc f.units m < 2 ^ f.frac * 2 ^ (m / 2 ^ f.frac) := f.units_lt m
      _ ≤ 2 ^ f.frac * 2 ^ e := Nat.mul_le_mul_left _ (Nat.pow_le_pow_right two_pos (by omega))
      _ ≤ f.units n := Fmt.le_units he

/-- The place of an encoding in the order is its magnitude bits under its sign. -/
theorem encOrd_eq_signed (f : Fmt) (x : Nat) : encOrd f x = signed (bitOf x (f.expBits + f.frac)) (f.mag x) := rfl

/-- The key is the place in the order, one lower under the sign bit. -/
theorem encKey_eq (f : Fmt) (x : Nat) : encKey f x = encOrd f x - if bitOf x (f.expBits + f.frac) then 1 else 0 := by
  unfold encKey encOrd
  split
  · rfl
  · exact (sub_zero _).symm

/-! ### Decoding by the magnitude bits (R38) -/

theorem Fmt.infinity_false (f : Fmt) : f.infinity false = (2 ^ f.expBits - 1) * 2 ^ f.frac := Nat.zero_add _

/-- The exponent field fits its bits. -/
theorem Fmt.mag_div_lt (f : Fmt) (x : Nat) : f.mag x / 2 ^ f.frac < 2 ^ f.expBits := by
  refine Nat.div_lt_of_lt_mul ?_
  rw [← pow_add, add_comm]
  exact Nat.mod_lt x (Nat.two_pow_pos _)

/-- An encoding is its sign bit above its magnitude bits. -/
theorem Fmt.eq_signBit_add_mag {f : Fmt} {x : Nat} (hx : x < 2 ^ f.width) : x = f.signBit (bitOf x (f.expBits + f.frac)) + f.mag x := by
  have hone : x / 2 ^ (f.expBits + f.frac) < 2 := by
    refine Nat.div_lt_of_lt_mul (hx.trans_eq ?_)
    rw [Fmt.width, add_assoc, add_comm, pow_succ]
  rw [bitOf, Nat.testBit_eq_decide_div_mod_eq, Nat.mod_eq_of_lt hone]
  conv_lhs => rw [← Nat.div_add_mod x (2 ^ (f.expBits + f.frac))]
  rcases Nat.le_one_iff_eq_zero_or_eq_one.mp (Nat.le_of_lt_succ hone) with hbit | hbit <;> simp [hbit, Fmt.mag, Fmt.signBit]

/-- What an encoding `x` of `f` decodes to, by its magnitude bits: a NaN above those of the infinity, the infinity at them, and below them a finite value of as many units. -/
inductive Fmt.Decodes (f : Fmt) (x : Nat) : FVal → Prop
  | nan (hmag : f.infinity false < f.mag x) : f.Decodes x .nan
  | inf (hmag : f.mag x = f.infinity false) : f.Decodes x (.inf (bitOf x (f.expBits + f.frac)))
  | fin (sig : Nat) (ex : Int) (hmag : f.mag x < f.infinity false) (hex : f.emin - f.frac ≤ ex) (hunits : sig * 2 ^ (ex - (f.emin - f.frac)).toNat = f.units (f.mag x)) :
      f.Decodes x (.fin (bitOf x (f.expBits + f.frac)) sig ex)

section
variable {f : Fmt} (hexp : 0 < f.expBits)
include hexp

/-- Decoding by the exponent field and the fraction of the magnitude bits. -/
theorem Fmt.decode_mag (x : Nat) : f.decode x =
    if f.mag x / 2 ^ f.frac = 2 ^ f.expBits - 1 then (if f.mag x % 2 ^ f.frac = 0 then .inf (bitOf x (f.expBits + f.frac)) else .nan)
    else if f.mag x / 2 ^ f.frac = 0 then .fin (bitOf x (f.expBits + f.frac)) (f.mag x % 2 ^ f.frac) (f.emin - f.frac)
    else .fin (bitOf x (f.expBits + f.frac)) (2 ^ f.frac + f.mag x % 2 ^ f.frac) (((f.mag x / 2 ^ f.frac : Nat) : Int) - f.bias - f.frac) := by
  have he : bitsOf x (f.expBits + f.frac - 1) f.frac = f.mag x / 2 ^ f.frac := by
    rw [bitsOf, Nat.shiftRight_eq_div_pow, show f.expBits + f.frac - 1 - f.frac + 1 = f.expBits by omega, Fmt.mag, pow_add, Nat.mod_mul_left_div_self]
  have hm : x % 2 ^ f.frac = f.mag x % 2 ^ f.frac := by rw [Fmt.mag, pow_add, Nat.mod_mul_left_mod]
  simp only [Fmt.decode, he, hm]

/-- The magnitude bits of an infinity are not 0. -/
theorem Fmt.infinity_pos : 0 < f.infinity false := by
  have htwo : 2 ≤ 2 ^ f.expBits := Nat.le_self_pow hexp.ne' 2
  rw [Fmt.infinity_false]
  exact Nat.mul_pos (by omega) (Nat.two_pow_pos _)

/-- Every encoding decodes as its magnitude bits say. -/
theorem Fmt.decodes (x : Nat) : f.Decodes x (f.decode x) := by
  have hdiv := Nat.div_add_mod' (f.mag x) (2 ^ f.frac)
  have hmod := Nat.mod_lt (f.mag x) (Nat.two_pow_pos f.frac)
  have hfin : f.mag x / 2 ^ f.frac ≠ 2 ^ f.expBits - 1 → f.mag x < f.infinity false := by
    intro hne
    have hlt := f.mag_div_lt x
    rw [Fmt.infinity_false, ← Nat.div_lt_iff_lt_mul (Nat.two_pow_pos _)]
    omega
  rw [Fmt.decode_mag hexp]
  split
  · next htop =>
    rw [htop, ← Fmt.infinity_false] at hdiv
    split
    · next hzero => exact .inf (by omega)
    · next hfrac => exact .nan (by omega)
  · next htop =>
    split
    · next hsub =>
      refine .fin _ _ (hfin htop) le_rfl ?_
      rw [hsub] at hdiv
      rw [Fmt.units, if_pos hsub, sub_self, Int.toNat_zero, pow_zero]
      omega
    · next hnorm =>
      obtain ⟨e, he⟩ := Nat.exists_eq_succ_of_ne_zero hnorm
      refine .fin _ _ (hfin htop) ?_ ?_
      · rw [he, Fmt.emin]
        omega
      · rw [Fmt.units, if_neg hnorm, he, Fmt.emin]
        congr 2
        omega

/-! ### Comparison by the encodings -/

/-- A value is a NaN where its encoding is. -/
theorem isNanVal_decode (x : Nat) : isNanVal (f.decode x) = encNaN f x := by
  have hnan : encNaN f x = decide (f.infinity false < f.mag x) := rfl
  rw [hnan]
  have hdec := Fmt.decodes hexp x
  generalize f.decode x = v at hdec ⊢
  cases hdec with
  | nan hmag => exact (decide_eq_true hmag).symm
  | inf hmag => exact (decide_eq_false hmag.not_gt).symm
  | fin _ _ hmag => exact (decide_eq_false hmag.not_gt).symm

/-- The sign of a value that is no NaN is the sign bit of its encoding. -/
theorem negOf_decode {x : Nat} (hx : encNaN f x = false) : negOf (f.decode x) = bitOf x (f.expBits + f.frac) := by
  have hdec := Fmt.decodes hexp x
  rw [← isNanVal_decode hexp] at hx
  generalize f.decode x = v at hdec hx ⊢
  cases hdec with
  | nan => exact nomatch hx
  | inf => rfl
  | fin => rfl

/-- Values that are no NaN compare as their encodings (R114). -/
theorem cmpVal_decode {x y : Nat} (hx : encNaN f x = false) (hy : encNaN f y = false) : cmpVal (f.decode x) (f.decode y) = (encOrd f x - encOrd f y).sign := by
  have hdecx := Fmt.decodes hexp x
  have hdecy := Fmt.decodes hexp y
  rw [← isNanVal_decode hexp] at hx hy
  rw [encOrd_eq_signed, encOrd_eq_signed]
  generalize f.decode x = v at hdecx hx ⊢
  generalize f.decode y = u at hdecy hy ⊢
  cases hdecx with
  | nan => exact nomatch hx
  | inf hmag =>
    cases hdecy with
    | nan => exact nomatch hy
    | inf hmagy =>
      rw [hmag, hmagy]
      exact (signed_sub_sign_same (Fmt.infinity_pos hexp) ..).symm
    | fin sig ex hmagy => exact (signed_sub_sign_of_gt (hmagy.trans_eq hmag.symm) ..).symm
  | fin sig ex hmag hex hunits =>
    cases hdecy with
    | nan => exact nomatch hy
    | inf hmagy => exact (signed_sub_sign_of_lt (hmag.trans_eq hmagy.symm) ..).symm
    | fin sig' ex' hmagy hex' hunits' =>
      rw [cmpVal_fin hex hex', alignedInt_eq_signed, alignedInt_eq_signed, hunits, hunits']
      exact signed_sub_sign_of_strictMono f.units_strictMono f.units_zero ..

/-- Comparison with −0 below +0, as a minimum or maximum makes it, is the order of the keys (R114). -/
theorem cmpVal_decode_lt_key {x y : Nat} (hx : encNaN f x = false) (hy : encNaN f y = false) :
    (decide (cmpVal (f.decode x) (f.decode y) < 0) || (decide (cmpVal (f.decode x) (f.decode y) = 0) && negOf (f.decode x) && !(negOf (f.decode y)))) = decide (encKey f x < encKey f y) := by
  rw [cmpVal_decode hexp hx hy, negOf_decode hexp hx, negOf_decode hexp hy, Bool.eq_iff_iff]
  simp only [Bool.or_eq_true, Bool.and_eq_true, decide_eq_true_eq, Int.sign_neg_iff, Int.sign_eq_zero_iff_zero, encKey_eq, encOrd_eq_signed]
  exact signed_key_lt ..

/-- A NaN operand of a minimum or maximum gives the canonical NaN with invalid. -/
theorem minMaxVal_of_nan {x y : Nat} (b : Bool) (hnan : encNaN f x = true ∨ encNaN f y = true) : minMaxVal f b x y = (f.nan, flInvalid) := by
  rw [← isNanVal_decode hexp, ← isNanVal_decode hexp, ← Bool.or_eq_true] at hnan
  exact if_pos hnan

/-- A minimum or maximum of operands that are no NaN gives one of them by the order of the keys. -/
theorem minMaxVal_of_not_nan {x y : Nat} (b : Bool) (hx : encNaN f x = false) (hy : encNaN f y = false) :
    minMaxVal f b x y = (if decide (encKey f x < encKey f y) = b then y else x, 0) := by
  rw [← cmpVal_decode_lt_key hexp hx hy]
  rw [← isNanVal_decode hexp] at hx hy
  simp only [minMaxVal, hx, hy, Bool.or_self, Bool.false_eq_true, if_false, beq_iff_eq]

end

/-- Encodings with one key are the same. -/
theorem encKey_inj {f : Fmt} {x y : Nat} (hx : x < 2 ^ f.width) (hy : y < 2 ^ f.width) (h : encKey f x = encKey f y) : x = y := by
  rw [Fmt.eq_signBit_add_mag hx, Fmt.eq_signBit_add_mag hy]
  rw [encKey_eq, encKey_eq, encOrd_eq_signed, encOrd_eq_signed] at h
  cases hbx : bitOf x (f.expBits + f.frac) <;> cases hby : bitOf y (f.expBits + f.frac) <;>
    simp only [hbx, hby, signed_true, signed_false, Bool.false_eq_true, if_true, if_false] at h ⊢ <;> omega

/-- Minimum and maximum by the keys of the encodings, with equal keys only on equal encodings. -/
theorem minMaxVal_by_key {f : Fmt} (hexp : 0 < f.expBits) {x y : Nat} (hxw : x < 2 ^ f.width) (hyw : y < 2 ^ f.width) (hx : encNaN f x = false) (hy : encNaN f y = false) :
    minMaxVal f false x y = (if encKey f x ≤ encKey f y then x else y, 0) ∧ minMaxVal f true x y = (if encKey f x ≤ encKey f y then y else x, 0) := by
  rw [minMaxVal_of_not_nan hexp false hx hy, minMaxVal_of_not_nan hexp true hx hy]
  rcases lt_trichotomy (encKey f x) (encKey f y) with hlt | heq | hgt
  · simp [hlt, hlt.le]
  · obtain rfl := encKey_inj hxw hyw heq
    simp
  · simp [hgt.not_gt, hgt.not_ge]

/-! ### Comparison masks of binary32 (R114) -/

/-- A NaN operand gives 0, without a flag. -/
theorem cmpMask_of_nan {x y : Nat} (test : Int → Bool) (hnan : encNaN fmtB32 x = true ∨ encNaN fmtB32 y = true) : cmpMask test x y = (0, 0) := by
  have hexp : 0 < fmtB32.expBits := by decide
  rw [← isNanVal_decode hexp, ← isNanVal_decode hexp, ← Bool.or_eq_true] at hnan
  simp only [cmpMask, hnan, if_true]

/-- Operands that are no NaN are tested by the order of their encodings. -/
theorem cmpMask_of_not_nan {x y : Nat} (test : Int → Bool) (hx : encNaN fmtB32 x = false) (hy : encNaN fmtB32 y = false) :
    cmpMask test x y = (if test (encOrd fmtB32 x - encOrd fmtB32 y).sign then 0xFFFFFFFF else 0, 0) := by
  have hexp : 0 < fmtB32.expBits := by decide
  rw [← cmpVal_decode hexp hx hy]
  rw [← isNanVal_decode hexp] at hx hy
  simp only [cmpMask, hx, hy, Bool.or_self, Bool.false_eq_true, if_false]

end Sys2Proof.Machine
end

section
/-! The V slot (R112 to R114, R120, R127, R128, R136): arithmetic, comparison and integer operations on lanes, keyed draws, and the vector memory operations. -/

namespace Sys2Proof.Machine

/-! ### Presented words of the V slot -/

section
variable {i : Instr} {s : State} {c op : Nat} {w : W32} {k : Core} {eff : Core → CoreEnv → W32 → CoreRes}
variable (hexec : exec i s = .next (s.issueOp c 1 (isV op) eff w)) (h : s.Presents c 1 w k)
include hexec h

/-- A presented word of the V slot takes the effect of the operation that its code names (R87). -/
theorem exec_presentV (hop : vOp w = op) : exec i s = .next (s.coreResult c ((eff (k.markIssued 1) (s.env c) w).named 1 w)) := by
  rw [hexec, State.issueOp_present h (decide_eq_true hop)]

/-- A presented word whose operation succeeds sets its core to what the operation gives. -/
theorem exec_V_ok {k' : Core} (hok : eff (k.markIssued 1) (s.env c) w = .ok k') (hop : vOp w = op) : exec i s = .next (s.setCore c k') := by
  rw [exec_presentV hexec h hop, hok]
  rfl

/-- A presented word whose operation fails ends the task, which names the operation. -/
theorem exec_V_err {st : Nat} (herr : eff (k.markIssued 1) (s.env c) w = .err st) (hop : vOp w = op) : exec i s = .next (s.endTaskBy c st (op, 1)) := by
  rw [exec_presentV hexec h hop, herr, ← hop]
  rfl

/-- A presented word whose operation delivers elements has issued, with the elements in flight and their flags raised (R53, R92). -/
theorem exec_V_lanes {row : LatRow} {vd width : Nat} {rs : List (Nat × FlagBits)}
    (hrs : eff (k.markIssued 1) (s.env c) w = vDeliver (k.markIssued 1) (s.env c) row vd width rs) (hop : vOp w = op) :
    exec i s = .next (s.deliversLanes c k (latency (s.env c).tp2 row) vd width rs) :=
  exec_V_ok hexec h hrs hop

end

/-! ### Operations on lanes -/

section
variable {i : Instr} {s : State} {c op : Nat} {w : W32} {k : Core}

/-- An arithmetic operation: a fused multiply-add takes any vc, the two-operand forms vc 0 (R112, R113). -/
theorem exec_vArith {f : Fmt} {n : Nat} (hexec : exec i s = .next (s.issueOp c 1 (isV op) (vArith f n) w)) (h : s.Presents c 1 w k) (hvc : n = 3 ∨ vVc w = 0) (hop : vOp w = op) :
    exec i s = .next (s.deliversLanes c k 4 (vVd w) (f.width / 8)
      (zip3With (arithOp f n) (elemsOf (f.width / 8) (k.vreg (vVa w))) (elemsOf (f.width / 8) (k.vreg (vVb w))) (elemsOf (f.width / 8) (k.vreg (vVc w))))) :=
  exec_V_lanes hexec h (row := .vArith) (if_neg fun hbad => hvc.elim hbad.1 hbad.2) hop

/-- A minimum or maximum (R114). -/
theorem exec_vMinMax {f : Fmt} {b : Bool} (hexec : exec i s = .next (s.issueOp c 1 (isV op) (vMinMax f b) w)) (h : s.Presents c 1 w k) (hvc : vVc w = 0) (hop : vOp w = op) :
    exec i s = .next (s.deliversLanes c k 2 (vVd w) (f.width / 8) (List.zipWith (minMaxVal f b) (elemsOf (f.width / 8) (k.vreg (vVa w))) (elemsOf (f.width / 8) (k.vreg (vVb w))))) :=
  exec_V_lanes hexec h (row := .vCmp) (if_neg (not_not_intro hvc)) hop

/-- A comparison (R114). -/
theorem exec_vCompare {test : Int → Bool} (hexec : exec i s = .next (s.issueOp c 1 (isV op) (vCompare test) w)) (h : s.Presents c 1 w k) (hvc : vVc w = 0) (hop : vOp w = op) :
    exec i s = .next (s.deliversLanes c k 2 (vVd w) 4 (List.zipWith (cmpMask test) (k.lanesOf (vVa w)) (k.lanesOf (vVb w)))) :=
  exec_V_lanes hexec h (row := .vCmp) (if_neg (not_not_intro hvc)) hop

/-- A logical, integer or shift operation (R114). -/
theorem exec_vInt {g : W32 → W32 → W32} (hexec : exec i s = .next (s.issueOp c 1 (isV op) (vInt g) w)) (h : s.Presents c 1 w k) (hvc : vVc w = 0) (hop : vOp w = op) :
    exec i s = .next (s.deliversLanes c k 2 (vVd w) 4
      (List.zipWith (fun x y => ((g (BitVec.ofNat 32 x) (BitVec.ofNat 32 y)).toNat, 0)) (k.lanesOf (vVa w)) (k.lanesOf (vVb w)))) :=
  exec_V_lanes hexec h (row := .vCmp) (if_neg (not_not_intro hvc)) hop

/-- A keyed draw whose purpose stands in a scalar register (R127). -/
theorem exec_vRng {form : Nat} (hexec : exec i s = .next (s.issueOp c 1 (isV op) (vRng form) w)) (h : s.Presents c 1 w k) (hop : vOp w = op) (hvc : vVc w < 32) :
    exec i s = .next (s.deliversLanes c k (latency (s.env c).tp2 .vRng) (vVd w) 4
      (List.zipWith (fun a b => (rngLane (s.env c) form (k.sreg (vVc w)).toNat a b, 0)) (k.lanesOf (vVa w)) (k.lanesOf (vVb w)))) :=
  exec_V_lanes hexec h (if_neg (Nat.not_le.mpr hvc)) hop

end

/-- Settles O4: every operation is `vArith` in its format, a fused multiply-add with any vc. -/
theorem vectorArithmeticResults : Obligations.VectorArithmeticResults := by
  unfold Obligations.VectorArithmeticResults
  intro s c w k h
  exact ⟨fun hop hvc => exec_vArith rfl h (.inr hvc) hop, fun hop hvc => exec_vArith rfl h (.inr hvc) hop, fun hop hvc => exec_vArith rfl h (.inr hvc) hop,
    fun hop => exec_vArith rfl h (.inl rfl) hop,
    fun hop hvc => exec_vArith rfl h (.inr hvc) hop, fun hop hvc => exec_vArith rfl h (.inr hvc) hop, fun hop hvc => exec_vArith rfl h (.inr hvc) hop,
    fun hop => exec_vArith rfl h (.inl rfl) hop,
    fun hop hvc => exec_vArith rfl h (.inr hvc) hop, fun hop hvc => exec_vArith rfl h (.inr hvc) hop, fun hop hvc => exec_vArith rfl h (.inr hvc) hop,
    fun hop => exec_vArith rfl h (.inl rfl) hop⟩

/-! ### Minimum, maximum, comparison, logic, integers, shifts, select, broadcast and lane numbers (R114) -/

/-- Settles O5: the operations by the shapes they share; their results by `cmpVal_decode`, that values compare as their encodings. -/
theorem vectorIntegerAndCompare : Obligations.VectorIntegerAndCompare := by
  unfold Obligations.VectorIntegerAndCompare
  refine ⟨fun s c w k h hvc => ?_, fun s c w k h hvc => ?_, fun s c w k h => ⟨?_, ?_, ?_⟩, fun f x y hf hxw hyw => ?_⟩
  · exact ⟨exec_vMinMax rfl h hvc, exec_vMinMax rfl h hvc, exec_vCompare rfl h hvc, exec_vCompare rfl h hvc, exec_vCompare rfl h hvc,
      exec_vMinMax rfl h hvc, exec_vMinMax rfl h hvc, exec_vMinMax rfl h hvc, exec_vMinMax rfl h hvc⟩
  · exact ⟨exec_vInt (g := (· &&& ·)) rfl h hvc, exec_vInt (g := (· ||| ·)) rfl h hvc, exec_vInt (g := (· ^^^ ·)) rfl h hvc,
      exec_vInt (g := (· + ·)) rfl h hvc, exec_vInt (g := (· - ·)) rfl h hvc, exec_vInt (g := (· * ·)) rfl h hvc,
      exec_vInt (g := fun a b => a <<< (b.toNat % 32)) rfl h hvc, exec_vInt (g := fun a b => a >>> (b.toNat % 32)) rfl h hvc,
      exec_vInt (g := fun a b => a.sshiftRight (b.toNat % 32)) rfl h hvc⟩
  · exact exec_V_lanes (eff := vSelect) (row := .vCmp) rfl h rfl
  · intro hop hb hc ha
    exact exec_V_lanes (eff := vBroadcast) (row := .vCmp) rfl h (if_neg (by simp [hb, hc, ha])) hop
  · intro hop ha hb hc
    exact exec_V_lanes (eff := vLaneIndex) (row := .vCmp) rfl h (if_neg (by simp [ha, hb, hc])) hop
  · have hexp : 0 < f.expBits := by
      rcases hf with rfl | rfl | rfl <;> decide
    refine ⟨fun hnan => ⟨fun b => minMaxVal_of_nan hexp b hnan, ?_⟩, fun hx hy => ?_⟩
    · rintro rfl test
      exact cmpMask_of_nan test hnan
    · obtain ⟨hmin, hmax⟩ := minMaxVal_by_key hexp hxw hyw hx hy
      refine ⟨hmin, hmax, ?_⟩
      rintro rfl
      refine ⟨?_, ?_, ?_⟩
      all_goals rw [cmpMask_of_not_nan _ hx hy]
      · simp only [decide_eq_true_eq, Int.sign_eq_zero_iff_zero, sub_eq_zero]
      · simp only [decide_eq_true_eq, Int.sign_neg_iff, sub_neg]
      · simp only [decide_eq_true_eq, Int.sign_nonpos_iff, sub_nonpos]

/-! ### Keyed draws and VFRL (R127, R128, R136) -/

/-- Strict mode, as a task's operations see it, is that of the registers. -/
@[simp] theorem State.env_strict (s : State) (c : Nat) : (s.env c).strict = s.regs.strictActive := by
  unfold State.env
  split <;> rfl

/-- VFRL in strict mode fails with status 0x16. -/
theorem vFrl_of_strict {k : Core} {e : CoreEnv} {w : W32} (ha : vVa w = 0) (hb : vVb w = 0) (hc : vVc w = 0) (hstrict : e.strict = true) : vFrl k e w = .err 0x16 := by
  simp only [vFrl, ha, hb, hc, hstrict, ne_eq, not_true_eq_false, or_self, if_false, if_true]

/-- Settles O7: the draws by the form they share, and VFRL by strict mode. -/
theorem randomDrawResults : Obligations.RandomDrawResults := by
  unfold Obligations.RandomDrawResults
  intro s c w k h
  refine ⟨exec_vRng rfl h, exec_vRng rfl h, exec_vRng rfl h, exec_vRng rfl h, fun hop ha hb hc hstrict => ?_⟩
  exact exec_V_err (eff := vFrl) rfl h (vFrl_of_strict ha hb hc ((s.env_strict c).trans hstrict)) hop

/-! ### Vector memory operations (R120, R103) -/

section
variable {k : Core} {w : W32} (e : CoreEnv) (halign : vAddr k w % 4 = 0) (hrange : vAddr k w + 512 ≤ spadBytes)
include halign hrange

theorem vAddrLegal_of_aligned : vAddrLegal (vAddr k w) = true := decide_eq_true ⟨halign, hrange⟩

/-- A VLD of valid lines brings their bytes. -/
theorem vLoad_valid {bs : List Byte} (hread : k.spadRead (vAddr k w) 512 = some bs) : vLoad k e w = .ok (k.emit (latency e.tp2 .vLoad) (.vreg (vVd w) 0 bs)) := by
  simp only [vLoad, vAddrLegal_of_aligned halign hrange, hread, Bool.not_true, Bool.false_eq_true, if_false]

/-- A VLD that touches an invalid line fails with status 0x11. -/
theorem vLoad_invalid (hread : k.spadRead (vAddr k w) 512 = none) : vLoad k e w = .err 0x11 := by
  simp only [vLoad, vAddrLegal_of_aligned halign hrange, hread, Bool.not_true, Bool.false_eq_true, if_false]

/-- A VST at a legal address sends the register to the scratchpad. -/
theorem vStore_legal : vStore k e w = .ok (k.emit 3 (.spad (vAddr k w) (k.vreg (vVd w)))) := by
  simp only [vStore, vAddrLegal_of_aligned halign hrange, Bool.not_true, Bool.false_eq_true, if_false, latency]

end

/-- Settles O9: each operation by its own checks, which marking its slot does not touch. -/
theorem vectorMemoryResults : Obligations.VectorMemoryResults := by
  unfold Obligations.VectorMemoryResults
  intro s c w k h
  refine ⟨?_, ?_, ?_, ?_, ?_⟩
  · intro bs hop halign hrange hread
    exact exec_V_ok (eff := vLoad) rfl h (vLoad_valid (k := k.markIssued 1) _ halign hrange hread) hop
  · intro hop halign hrange hread
    exact exec_V_err (eff := vLoad) rfl h (vLoad_invalid (k := k.markIssued 1) _ halign hrange hread) hop
  · intro hop halign hrange
    exact exec_V_ok (eff := vStore) rfl h (vStore_legal (k := k.markIssued 1) _ halign hrange) hop
  · intro hop hrow
    exact exec_V_ok (eff := vAccRead) rfl h (if_neg (Nat.not_lt.mpr hrow)) hop
  · intro hop hsa himm
    exact exec_V_lanes (eff := vFlagRead) (row := .vFlag) rfl h (if_neg (by simp [hsa, himm])) hop

end Sys2Proof.Machine
end

section
/-! Weight fills, streams and read endpoints (R63, R151 to R155): WFILL, SEND and RECV at issue, and the commands that complete a fill, bring ring bytes and return credit. -/

namespace Sys2Proof.Machine

theorem exec_wfillComplete (c : Nat) (s : State) : exec (.wfillComplete c) s = execWfillComplete c s := rfl
theorem exec_recv (c : Nat) (w : W32) (s : State) : exec (.recv c w) s = execRecv c w s := rfl
theorem exec_readEndpointFetch (c ep n : Nat) (s : State) : exec (.readEndpointFetch c ep n) s = execReadEndpointFetch c ep n s := rfl
theorem exec_creditReturn (c ep n : Nat) (s : State) : exec (.creditReturn c ep n) s = execCreditReturn c ep n s := rfl

/-! ### Presented words of the S slot -/

/-- A presented word of the S slot whose operation succeeds sets its core to what the operation gives (R87). -/
theorem State.issueOp_S_ok {s : State} {c op : Nat} {w : W32} {k k' : Core} {eff : Core → CoreEnv → W32 → CoreRes} (h : s.Presents c 2 w k) (hop : bitsOf w.toNat 3 0 = op)
    (hok : eff (k.markIssued 2) (s.env c) w = .ok k') : s.issueOp c 2 (isMS op) eff w = s.setCore c k' := by
  rw [State.issueOp_present h (decide_eq_true hop), hok]
  rfl

/-! ### Weight fills -/

/-- The fill that a WFILL word starts from record `r`: its two register offsets, and nothing asked for yet. -/
def Core.wfillRun (k : Core) (w : W32) (r : Nat) : FillRun :=
  ⟨r, if bitsOf w.toNat 21 17 = 31 then 0 else (k.sreg (bitsOf w.toNat 21 17)).toNat, if bitsOf w.toNat 31 27 = 31 then 0 else (k.sreg (bitsOf w.toNat 31 27)).toNat, 0, 0, []⟩

/-- The fields of a fill: those of its record, with its offsets added. -/
def FillRun.fields (fr : FillRun) : WfillF := wfillFields fr.record fr.addSrc fr.addScale

/-- A legal WFILL appends its fill, and its half stops being ready. -/
theorem issueWfill_legal {k : Core} {e : CoreEnv} {w : W32} {r size : Nat} {p : Pairing} (hrec : fetchRecord k e (bitsOf w.toNat 16 4) = some r)
    (hpair : pairingOf (k.wfillRun w r).fields.fmt = some p) (hsize : e.regSize.getD (k.wfillRun w r).fields.sel none = some size) (hrsv : bitsOf w.toNat 26 22 = 31)
    (hlegal : (k.wfillRun w r).fields.legal p size = true) :
    issueWfill k e w = .ok { k.setHalf (k.wfillRun w r).fields.array (k.wfillRun w r).fields.half 1 with fills := k.fills ++ [k.wfillRun w r] } := by
  unfold Core.wfillRun FillRun.fields at *
  simp only [issueWfill, hrec, hpair, hsize, hrsv, hlegal, ne_eq, not_true_eq_false, Bool.not_true, Bool.false_eq_true, or_self, if_false]

section
variable {s : State} {c base : Nat} {t : TaskRun} {fr : FillRun} {rest : List FillRun} {p : Pairing}
variable (hrun : (s.core c).run = some t) (hfills : (s.core c).fills = fr :: rest) (hpair : pairingOf fr.fields.fmt = some p) (hbase : s.boundBase t fr.fields.sel = some base)
include hrun hfills hpair hbase

/-- A fill whose slots have not brought all its bytes does not complete. -/
theorem State.fillDone_waits (hslot : ((s.ctx t.ctx).fillFlow c fr.fields.sel).isSome = true) (hcome : fr.come < fr.fields.total p) : s.fillDone c = s := by
  unfold FillRun.fields at *
  simp only [State.fillDone, hrun, hfills, hpair, hbase]
  rw [if_pos ⟨hslot, hcome⟩]

/-- A fill that has its bytes, all of whose ranges may be read and are without an uncorrectable error, leaves them in its half. -/
theorem State.fillDone_fills (hcome : ((s.ctx t.ctx).fillFlow c fr.fields.sel).isSome = false ∨ fr.fields.total p ≤ fr.come)
    (hok : ∀ r ∈ fr.fields.ranges p, s.rangeCheck .r (coreMaster c) t.ctx (base + r.1) r.2 = none ∧ s.devBad (base + r.1) r.2 = false) :
    s.fillDone c = s.setCore c { (s.core c).setHalf fr.fields.array fr.fields.half
        (if rest.any (fun x => decide ((wfillFields x.record 0 0).array = fr.fields.array ∧ (wfillFields x.record 0 0).half = fr.fields.half)) then 1 else 2) with
      staging := tputBytes (s.core c).staging (fr.fields.array * 131072 + fr.fields.half * 65536)
        (fillHalf fr.fields p (fun o n => if ((s.ctx t.ctx).fillFlow c fr.fields.sel).isSome then tbytes fr.got o n else s.devRead (base + o) n))
      fills := rest, halfSrc := tset (s.core c).halfSrc (fr.fields.array * 2 + fr.fields.half) (t.region fr.fields.sel) } := by
  have hgo : ¬(((s.ctx t.ctx).fillFlow c fr.fields.sel).isSome = true ∧ fr.come < fr.fields.total p) := fun ⟨hslot, hlt⟩ =>
    hcome.elim (fun hfree => Bool.false_ne_true (hfree.symm.trans hslot)) (Nat.not_le.mpr hlt)
  have hrange : (fr.fields.ranges p).findSome? (fun r => s.rangeCheck .r (coreMaster c) t.ctx (base + r.1) r.2) = none := List.findSome?_eq_none_iff.mpr fun r hr => (hok r hr).1
  have hbad : (fr.fields.ranges p).find? (fun r => s.devBad (base + r.1) r.2) = none := List.find?_eq_none.mpr fun r hr => by simp [(hok r hr).2]
  unfold FillRun.fields at *
  simp only [State.fillDone, hrun, hfills, hpair, hbase]
  rw [if_neg hgo]
  simp only [hrange, hbad]

end

/-- Settles O14: WFILL by its issue, WFILL_COMPLETE by whether the oldest fill has its bytes. -/
theorem weightFills : Obligations.WeightFills := by
  unfold Obligations.WeightFills
  refine ⟨fun s c w k r size p hpres hop hrec => ?_, fun s c t fr rest p base hc hrun hfills => ?_⟩
  · intro reg f hpair hsize hrsv hlegal
    exact congrArg Host.Outcome.next (State.issueOp_S_ok hpres hop (issueWfill_legal (k := k.markIssued 2) hrec hpair hsize hrsv hlegal))
  · intro f slotted hpair hbase
    have hcommand : exec (.wfillComplete c) s = .next (s.fillDone c) := congrArg Host.Outcome.next (if_neg (Nat.not_le.mpr hc))
    rw [hcommand]
    exact ⟨fun hslot hcome => congrArg _ (State.fillDone_waits hrun hfills hpair hbase hslot hcome),
      fun hcome hok => congrArg _ (State.fillDone_fills hrun hfills hpair hbase hcome hok)⟩

/-! ### SEND and RECV (R154, R155) -/

/-- Effects recorded for the task's digest change nothing else of the core. -/
theorem foldl_addEffect_frame {α : Type} (f : α → List Byte) (l : List α) (k : Core) : { l.foldl (fun k x => k.addEffect (f x)) k with digest := k.digest } = k := by
  induction l generalizing k with
  | nil => rfl
  | cons x l ih => exact congrArg (fun d : Core => { d with digest := k.digest }) (ih (k.addEffect (f x)))

/-- A legal SEND of valid lines appends them to its endpoint's buffer with the cycle of its issue; besides, only the count of bytes sent and the digest change. -/
theorem issueSend_valid {k : Core} {w : W32} {bs : List Byte} (e : CoreEnv) (hlegal : sLegal k w = true) (hread : k.spadRead (sAddr k w) (sLen w) = some bs) :
    ∃ k', issueSend k e w = .ok k' ∧
      { k' with digest := k.digest } = { k with outEps := tset k.outEps (sEp w) (tget [] k.outEps (sEp w) ++ [(k.icyc, bs)])
                                                sent := tput 0 k.sent (sEp w) (tget 0 k.sent (sEp w) + bs.length) } := by
  simp only [issueSend, hlegal, hread, Bool.not_true, Bool.false_eq_true, if_false]
  exact ⟨_, rfl, foldl_addEffect_frame ..⟩

/-- A legal RECV takes bytes from the front of its endpoint and sends them to the scratchpad. -/
theorem issueRecv_legal {k : Core} {w : W32} (e : CoreEnv) (hlegal : sLegal k w = true) :
    issueRecv k e w = .ok (({ k with inEps := tput [] k.inEps (sEp w) ((tget [] k.inEps (sEp w)).drop (sLen w)) } : Core).emit 3
      (.spad (sAddr k w) ((tget [] k.inEps (sEp w)).take (sLen w)))) := by
  simp only [issueRecv, hlegal, Bool.not_true, Bool.false_eq_true, if_false, latency]

/-- A core whose task is not selected for replay captures nothing (R310). -/
theorem State.capture_of_not_replay {s : State} {c : Nat} (bs : List Byte) (h : ∀ t, (s.core c).run = some t → t.replay = false) : s.capture c bs = s := by
  unfold State.capture
  split
  · rfl
  · next t hrun => simp [h t hrun]

/-- RECV of a task that is not selected for replay is its issue. -/
theorem exec_recv_of_not_replay {s : State} {c : Nat} {w : W32} {k : Core} (hissue : s.issueOp c 2 (isMS 3) issueRecv w = s.setCore c k) (h : ∀ t, k.run = some t → t.replay = false) :
    exec (.recv c w) s = .next (s.setCore c k) := by
  simp only [exec_recv, execRecv, hissue]
  rw [State.capture_of_not_replay _ (by simpa using h), ite_self]

/-! ### Read endpoints and credit (R153 to R155) -/

/-- What a reader takes of its ring: bytes ahead of it, as far as its buffer has room. -/
theorem State.ringTake_snd {s : State} {c ctx n : Nat} {f : FlowDecl} {g : RingSt} (hring : tfind s.net.rings (ringKey ctx f.ring) = some g) :
    (s.ringTake c ctx f n).2 = (g.ahead (c % 8)).take (min n (s.readRoom c ctx f)) := by
  simp only [State.ringTake, hring]

/-- Taking bytes of a ring changes the network only. -/
theorem State.ringTake_frame (s : State) (c ctx n : Nat) (f : FlowDecl) : { (s.ringTake c ctx f n).1 with net := s.net } = s := by
  unfold State.ringTake
  split <;> rfl

section
variable {s : State} {c ep ctx : Nat} {f : FlowDecl} (n : Nat) (howner : s.endpointOwner 2 c ep = some (ctx, f))
include howner

/-- A read endpoint of a flow with slots takes what they have brought to the core. -/
theorem State.endpointFetch_slotted (hslot : (s.ctx ctx).slotted f.flow = true) :
    s.endpointFetch c ep n = State.setCore { s with net := { s.net with arrived := tput [] s.net.arrived (flowKey ctx f.flow) ((tget [] s.net.arrived (flowKey ctx f.flow)).drop n) } } c
      { s.core c with inEps := tput [] (s.core c).inEps ep (tget [] (s.core c).inEps ep ++ (tget [] s.net.arrived (flowKey ctx f.flow)).take n) } := by
  simp only [State.endpointFetch, howner, hslot, if_true]
  rfl

/-- A read endpoint of a flow without slots takes bytes of its ring. -/
theorem State.endpointFetch_unslotted (hslot : (s.ctx ctx).slotted f.flow = false) :
    s.endpointFetch c ep n = (s.ringTake c ctx f n).1.setCore c { (s.ringTake c ctx f n).1.core c with
      inEps := tput [] ((s.ringTake c ctx f n).1.core c).inEps ep (tget [] ((s.ringTake c ctx f n).1.core c).inEps ep ++ (s.ringTake c ctx f n).2) } := by
  simp only [State.endpointFetch, howner, hslot, Bool.false_eq_true, if_false]

end

/-- Settles O15: SEND and RECV by their issue, a read endpoint by whether its flow has slots, and credit by its owner's flow. -/
theorem streamsAndEndpoints : Obligations.StreamsAndEndpoints := by
  unfold Obligations.StreamsAndEndpoints
  refine ⟨fun s c w k hpres hlegal => ⟨fun bs hop hread => ?_, fun hop _ _ hreplay => ?_⟩, fun s c ep n ctx f hc hep howner => ?_, fun s c ep n ctx f howner => ?_⟩
  · obtain ⟨k', hissue, hk'⟩ := issueSend_valid (k := k.markIssued 2) (s.env c) hlegal hread
    have hfield {α : Type} (g : Core → α) := congrArg g hk'
    exact ⟨k', congrArg Host.Outcome.next (State.issueOp_S_ok hpres hop hissue), hfield (·.outEps), hfield (·.sregs), hfield (·.vregs), hfield (·.spad), hfield (·.accs), hfield (·.inEps)⟩
  · exact exec_recv_of_not_replay (State.issueOp_S_ok hpres hop (issueRecv_legal (k := k.markIssued 2) _ hlegal)) hreplay
  · have hcommand : exec (.readEndpointFetch c ep n) s = .next (s.endpointFetch c ep n) := congrArg Host.Outcome.next (if_neg (by omega))
    rw [hcommand]
    refine ⟨fun hslot => congrArg _ (State.endpointFetch_slotted n howner hslot), fun g hslot hring => ⟨_, congrArg _ (State.endpointFetch_unslotted n howner hslot), ?_, ?_, fun d hd => ?_⟩⟩
    all_goals have hframe := s.ringTake_frame c ctx n f
    · have hcore : (s.ringTake c ctx f n).1.core c = s.core c := congrArg (·.core c) hframe
      simp only [State.core_setCore, hcore, State.ringTake_snd hring]
    · exact congrArg (fun t : State => { t with cores := s.cores }) hframe
    · rw [State.core_setCore_ne _ _ _ _ hd]
      exact congrArg (·.core d) hframe
  · simp only [exec_creditReturn, execCreditReturn, howner]

end Sys2Proof.Machine
end

section
/-! Scheduled slots (R144, R161, R162): what a slot of a channel forwards, what it discards, and the capture of a conflict. -/

namespace Sys2Proof.Machine

theorem exec_flitPassesChannel (die ch slot : Nat) (others : List (Nat × Nat × Nat)) (upset : Nat) (s : State) :
    exec (.flitPassesChannel die ch slot others upset) s = execFlitPassesChannel die ch slot others upset s := rfl

/-- FLIT_PASSES_CHANNEL at a slot of a channel of the device, once its crossings are up. -/
theorem exec_flitPassesChannel_slot {s : State} {die ch slot : Nat} (htable : (slotTable die ch).isSome = true) (hslot : slot < 256) (hup : s.root.crossings = true)
    (others : List (Nat × Nat × Nat)) (upset : Nat) :
    exec (.flitPassesChannel die ch slot others upset) s = .next (if upset = 1 then s.slotUpset die ch slot else if upset = 2 then s.tagUpset die ch slot
      else s.passSlot die ch slot (others.filter (fun f => decide (f.2.1 < 64 ∧ f.2.2 < 4096)))) := by
  have hshut : ¬((slotTable die ch).isNone = true ∨ 256 ≤ slot ∨ (!s.root.crossings) = true) := by
    simp [Option.isSome_iff_ne_none.mp htable, hslot, hup]
  exact congrArg Host.Outcome.next (if_neg hshut)

/-! ### The flits presented in a slot -/

/-- In a slot that no flow owns, where no flit is due, the others alone are presented, and nothing leaves its place. -/
theorem State.presented_others {s : State} {die ch slot : Nat} (hentry : s.slotEntry die ch slot % 4 ≠ 1) (hdue : s.dueFlits die ch slot = []) (others : List (Nat × Nat × Nat)) :
    s.presented die ch slot others = (s, others.map (fun x => ⟨die, ch, slot, x.1, x.2.1, x.2.2, []⟩)) := by
  have hkept : s.net.flits.filter (fun f => !decide (f.die = die ∧ f.channel = ch ∧ f.slot = slot)) = s.net.flits :=
    List.filter_eq_self.mpr fun f hf => by
      rw [Bool.eq_false_of_not_eq_true (List.filter_eq_nil_iff.mp hdue f hf), Bool.not_false]
  simp only [State.presented, hkept, hdue, if_neg hentry, List.isEmpty_nil, if_true, List.nil_append, List.append_nil]

/-- A slot of a channel within the device that no flow owns, where no flit is due, passes the others. -/
theorem State.passSlot_others {s : State} {die ch slot : Nat} (hinside : die < 16 ∨ ch < 8) (hentry : s.slotEntry die ch slot % 4 ≠ 1) (hdue : s.dueFlits die ch slot = [])
    (others : List (Nat × Nat × Nat)) : s.passSlot die ch slot others = s.passFlits die ch slot (others.map (fun x => ⟨die, ch, slot, x.1, x.2.1, x.2.2, []⟩)) := by
  have hport : ¬(16 ≤ die ∧ 8 ≤ ch) := by omega
  simp only [State.passSlot, if_neg hport, State.presented_others hentry hdue]

/-! ### Forwarded and discarded flits (R161) -/

@[simp] theorem State.passFlits_nil (s : State) (die ch slot : Nat) : s.passFlits die ch slot [] = s := rfl

/-- A flit alone that matches the entry is forwarded, and no other effect happens. -/
theorem State.passFlits_match {s : State} {die ch slot : Nat} {f : Flit}
    (h : s.slotEntry die ch slot % 4 = 1 ∧ bitsOf (s.slotEntry die ch slot) 7 2 = f.ctx ∧ bitsOf (s.slotEntry die ch slot) 19 8 = f.flow) :
    s.passFlits die ch slot [f] = s.forwardFlit f := by
  simp [State.passFlits, h, sortBy, insertBy]

/-- A flit alone that does not match the entry is discarded: its conflict is captured, and its context stops. -/
theorem State.passFlits_mismatch {s : State} {die ch slot : Nat} {f : Flit}
    (h : ¬(s.slotEntry die ch slot % 4 = 1 ∧ bitsOf (s.slotEntry die ch slot) 7 2 = f.ctx ∧ bitsOf (s.slotEntry die ch slot) 19 8 = f.flow)) :
    s.passFlits die ch slot [f] = (s.captureConflict die ch slot (s.slotEntry die ch slot) f.ctx f.flow).conflictStop die ch slot (s.slotEntry die ch slot) f.ctx f.flow := by
  simp [State.passFlits, h, sortBy, insertBy]

/-- A flit that passes a channel within the device to another router is then due at its next channels there (R144). -/
theorem State.forwardFlit_next {s : State} {f : Flit} {d next input : Nat} (hinside : ¬(16 ≤ f.die ∧ 8 ≤ f.channel)) (hnext : nextRouter f.die f.channel f.slot = some (d, next, input)) :
    (s.forwardFlit f).net.flits = s.net.flits ++ (s.nextChannels d next input f.ctx f.flow).map (fun c => { f with die := d, channel := c, slot := next, input := input }) := by
  simp only [State.forwardFlit, if_neg hinside, hnext]
  rfl

/-! ### The capture of a conflict (R162) -/

/-- What a conflict leaves in the capture word of its die: the first stays, with its count raised up to its greatest value. -/
theorem State.captureConflict_same (s : State) (die ch slot e ctx flow : Nat) :
    tget 0 (s.captureConflict die ch slot e ctx flow).net.conflict die =
      if bitOf (tget 0 s.net.conflict die) 63 then (if bitsOf (tget 0 s.net.conflict die) 62 52 = 0x7FF then tget 0 s.net.conflict die else tget 0 s.net.conflict die + 2 ^ 52)
      else conflictWord ch slot e ctx flow 1 :=
  tget_tput_same ..

theorem State.captureConflict_other {die d : Nat} (hd : d ≠ die) (s : State) (ch slot e ctx flow : Nat) :
    tget 0 (s.captureConflict die ch slot e ctx flow).net.conflict d = tget 0 s.net.conflict d :=
  tget_tput_other _ _ _ _ _ hd

/-- Adding 1 to a count in bits 62 to 52 that is below its greatest value carries into no other field. -/
theorem conflictCount_succ {w : Nat} (hvalid : bitOf w 63 = true) (hcount : bitsOf w 62 52 < 0x7FF) :
    bitsOf (w + 2 ^ 52) 51 0 = bitsOf w 51 0 ∧ bitsOf (w + 2 ^ 52) 62 52 = bitsOf w 62 52 + 1 ∧ bitOf (w + 2 ^ 52) 63 = true := by
  simp only [bitOf, bitsOf, Nat.testBit_eq_decide_div_mod_eq, Nat.shiftRight_eq_div_pow, decide_eq_true_eq] at *
  omega

/-- Settles O28: the slot by what is presented in it, a flit alone by whether it matches the entry, and the capture word by its valid bit. -/
theorem scheduledSlots : Obligations.ScheduledSlots := by
  unfold Obligations.ScheduledSlots
  refine ⟨fun s die ch slot htable hslot hup => ?_, fun s die ch slot f => ⟨fun hentry hctx hflow => ?_, ?_, fun d next input hinside hnext => ?_⟩, fun s die ch slot e ctx flow => ?_⟩
  · have hexec := exec_flitPassesChannel_slot htable hslot hup
    refine ⟨fun others => hexec others 0, fun others => ⟨hexec others 1, hexec others 2⟩, fun hinside hentry hdue => ?_, fun i ctx flow hinside hentry hdue hctx hflow => ?_⟩
    all_goals refine (hexec _ 0).trans (congrArg Host.Outcome.next ?_)
    · exact State.passSlot_others hinside hentry hdue []
    · have hkept : [(i, ctx, flow)].filter (fun f => decide (f.2.1 < 64 ∧ f.2.2 < 4096)) = [(i, ctx, flow)] := by simp [hctx, hflow]
      rw [hkept]
      exact (State.passSlot_others hinside hentry hdue _).trans (State.passFlits_mismatch fun hmatch => hentry hmatch.1)
  · exact State.passFlits_match ⟨hentry, hctx, hflow⟩
  · exact State.passFlits_mismatch
  · exact State.forwardFlit_next hinside hnext
  · refine ⟨fun hfirst => ?_, fun hvalid hcount => ?_, fun d hd => s.captureConflict_other hd .., rfl⟩
    · rw [State.captureConflict_same, hfirst]
      rfl
    · rw [State.captureConflict_same, if_pos hvalid, if_neg (Nat.ne_of_lt hcount)]
      exact conflictCount_succ hvalid hcount

end Sys2Proof.Machine
end

section
/-! Crossings and dies (R142, R331, R377), open traffic (R149, R159), and the arrival of error records (R317). -/

namespace Sys2Proof.Machine

theorem exec_frameMarkerCheck (x cyc : Nat) (s : State) : exec (.frameMarkerCheck x cyc) s = execFrameMarkerCheck x cyc s := rfl
theorem exec_crossingRecalibration (x : Nat) (s : State) : exec (.crossingRecalibration x) s = execCrossingRecalibration x s := rfl
theorem exec_dieStopsAnswering (d : Nat) (s : State) : exec (.dieStopsAnswering d) s = execDieStopsAnswering d s := rfl
theorem exec_openPacketHop (die ch slot : Nat) (arrivals : List (Nat × Nat × Nat × Nat)) (upset : Bool) (s : State) :
    exec (.openPacketHop die ch slot arrivals upset) s = execOpenPacketHop die ch slot arrivals upset s := rfl
theorem exec_errorRecordArrival (s : State) : exec .errorRecordArrival s = execErrorRecordArrival s := rfl

/-! ### Crossings and dies -/

/-- A frame marker on a crossing that is up: nothing in its cycle, else a protocol error. -/
theorem exec_frameMarkerCheck_up {s : State} {x : Nat} (hx : x < 64) (hup : s.root.crossings = true) (cyc : Nat) :
    exec (.frameMarkerCheck x cyc) s = .next (if cyc = s.net.latency then s else s.crossingError x s.net.latency) := by
  simp [exec_frameMarkerCheck, execFrameMarkerCheck, Nat.not_le.mpr hx, hup]

/-- A recalibration out of margin of a crossing that is up. -/
theorem exec_crossingRecalibration_up {s : State} {x : Nat} (hx : x < 64) (hup : s.root.crossings = true) :
    exec (.crossingRecalibration x) s = .next (s.crossingError x s.net.latency) := by
  simp [exec_crossingRecalibration, execCrossingRecalibration, Nat.not_le.mpr hx, hup]

/-- A die of the device stops answering while the main domain is up. -/
theorem exec_dieStopsAnswering_up {s : State} {d : Nat} (hd : d < 19) (hup : s.root.mainUp = true) : exec (.dieStopsAnswering d) s = .next s.goOffline := by
  simp [exec_dieStopsAnswering, execDieStopsAnswering, Nat.not_le.mpr hd, hup]

/-! ### Open traffic -/

/-- The state in which one more open flit waits at a channel. -/
def State.waitAt (s : State) (die ch : Nat) (f : OpenFlit) : State :=
  { s with net := { s.net with waiting := tput [] s.net.waiting (chanKey die ch) (tget [] s.net.waiting (chanKey die ch) ++ [f]) } }

/-- A flit that arrives waits at its channel; then the slot serves one, unless it is scheduled and either may not be borrowed or its owner presents a flit. -/
theorem exec_openPacketHop_arrival {s : State} {die ch slot vc i : Nat} (htable : (slotTable die ch).isSome = true) (hslot : slot < 256) (hup : s.root.crossings = true)
    (hvc : vc < 5) (hi : i < 64) (dest src : Nat) :
    exec (.openPacketHop die ch slot [(vc, i, dest, src)] false) s =
      .next (if s.slotEntry die ch slot % 4 = 1 ∧ (s.regs.field (routerPage die) 0x80 20 20 = 0 ∨ (s.waitAt die ch ⟨vc, i, dest, src, 0, 3, 0⟩).ownerPresent die ch slot = true)
        then s.waitAt die ch ⟨vc, i, dest, src, 0, 3, 0⟩ else (s.waitAt die ch ⟨vc, i, dest, src, 0, 3, 0⟩).openSlot die ch slot) := by
  have hshut : ¬((slotTable die ch).isNone = true ∨ 256 ≤ slot ∨ (!s.root.crossings) = true) := by
    simp [Option.isSome_iff_ne_none.mp htable, hslot, hup]
  have hkept : [(vc, i, dest, src)].filter (fun x => decide (x.1 < 5 ∧ x.2.1 < 64)) = [(vc, i, dest, src)] := by simp [hvc, hi]
  simp only [exec_openPacketHop, execOpenPacketHop, if_neg hshut, hkept, Bool.false_eq_true, false_and, if_false]
  rfl

/-! ### Bytes of a stack -/

@[simp] theorem leBytes_length (n v : Nat) : (leBytes n v).length = n := by
  induction n generalizing v with
  | zero => rfl
  | succ n ih => rw [leBytes, List.length_cons, ih]

theorem State.memWrite_frame (s : State) (k o : Nat) (bs : List Byte) : { s.memWrite k o bs with mem := s.mem } = s := rfl

/-! ### The copies of the log (R317) -/

/-- The offset of the copy of a record in its stack. -/
def ErrRec.place (r : ErrRec) : Nat := userFrames * 65536 + r.seq % 32768 * 64

/-- A record is written to a stack where that is up. -/
def State.logCopy (s : State) (k : Nat) (r : ErrRec) : State := if s.root.stackUp.contains k then s.memWrite k r.place (leBytes 64 r.encode) else s

theorem State.logCopies_eq (s : State) (r : ErrRec) : s.logCopies r = (s.logCopy 0 r).logCopy 15 r := rfl

/-- A copy of a record changes memory only. -/
theorem State.logCopy_frame (s : State) (k : Nat) (r : ErrRec) : { s.logCopy k r with mem := s.mem } = s := by
  unfold State.logCopy
  split
  · exact s.memWrite_frame ..
  · rfl

theorem State.logCopies_frame (s : State) (r : ErrRec) : { s.logCopies r with mem := s.mem } = s := by
  rw [State.logCopies_eq]
  exact (congrArg (fun t : State => { t with mem := s.mem }) ((s.logCopy 0 r).logCopy_frame 15 r)).trans (s.logCopy_frame 0 r)

@[simp] theorem State.logCopies_care (s : State) (r : ErrRec) : (s.logCopies r).care = s.care := by have h := congrArg State.care (s.logCopies_frame r); exact h
@[simp] theorem State.logCopies_cores (s : State) (r : ErrRec) : (s.logCopies r).cores = s.cores := by have h := congrArg State.cores (s.logCopies_frame r); exact h
@[simp] theorem State.logCopies_queues (s : State) (r : ErrRec) : (s.logCopies r).queues = s.queues := by have h := congrArg State.queues (s.logCopies_frame r); exact h
@[simp] theorem State.logCopies_regs (s : State) (r : ErrRec) : (s.logCopies r).regs = s.regs := by have h := congrArg State.regs (s.logCopies_frame r); exact h

/-- The copy of a record reads back as the record. -/
theorem State.logCopy_memRead_same {s : State} {k : Nat} (hup : k ∈ s.root.stackUp) (r : ErrRec) : (s.logCopy k r).memRead k r.place 64 = leBytes 64 r.encode := by
  have hread := s.memRead_memWrite k r.place (leBytes 64 r.encode)
  rw [leBytes_length] at hread
  rwa [State.logCopy, if_pos (List.contains_iff_mem.mpr hup)]

/-- Bytes outside the copy of a record keep their values. -/
theorem State.logCopy_mem_other {k a : Nat} {r : ErrRec} (h : a < memKey k r.place ∨ memKey k r.place + 64 ≤ a) (s : State) : tget 0 (s.logCopy k r).mem a = tget 0 s.mem a := by
  unfold State.logCopy
  split
  · exact tget_tputBytes_other _ _ _ _ (by rwa [leBytes_length])
  · rfl

/-- The copies of a record in two stacks do not overlap. -/
theorem ErrRec.place_apart (r : ErrRec) : memKey 0 r.place + 64 ≤ memKey 15 r.place := by
  unfold memKey ErrRec.place userFrames
  omega

/-- Each copy reads back where its stack is up. -/
theorem State.logCopies_memRead {s : State} {k : Nat} (hk : k = 0 ∨ k = 15) (hup : k ∈ s.root.stackUp) (r : ErrRec) :
    (s.logCopies r).memRead k r.place 64 = leBytes 64 r.encode := by
  rw [State.logCopies_eq]
  rcases hk with rfl | rfl
  · rw [← State.logCopy_memRead_same hup]
    exact tbytes_congr _ _ _ _ fun a _ ha => State.logCopy_mem_other (.inl (Nat.lt_of_lt_of_le ha r.place_apart)) _
  · refine State.logCopy_memRead_same ?_ r
    rwa [congrArg (·.root) (s.logCopy_frame 0 r)]

/-- Bytes outside both copies keep their values. -/
theorem State.logCopies_mem_other {a : Nat} {r : ErrRec} (h : ∀ k, k = 0 ∨ k = 15 → a < memKey k r.place ∨ memKey k r.place + 64 ≤ a) (s : State) :
    tget 0 (s.logCopies r).mem a = tget 0 s.mem a := by
  rw [State.logCopies_eq, State.logCopy_mem_other (h 15 (.inr rfl)), State.logCopy_mem_other (h 0 (.inl rfl))]

/-! ### The log of the Bureau (R317) -/

/-- An MSI-X message needs no route, so none is lost. -/
@[simp] theorem State.msix_care (s : State) (fn v : Nat) : (s.msix fn v).care = s.care := by
  unfold State.msix
  split
  · rfl
  · rw [s.send_routed (.msix fn v) fun d hd => nomatch hd]
    rfl

@[simp] theorem State.notify_care (s : State) (n b : Nat) : (s.notify n b).care = s.care := by
  unfold State.notify
  dsimp only
  split
  · rfl
  · split <;> exact State.msix_care _ _ _

/-- The state in which the Bureau has numbered and kept a record, and keeps it in flash where its class survives a loss of power. -/
def State.kept (s : State) (r : ErrRec) : State :=
  { s with
    care := { s.care with nextSeq := (s.care.nextSeq + 1) % 2 ^ 32, log := (s.care.log ++ [{ r with seq := s.care.nextSeq }]).drop ((s.care.log ++ [{ r with seq := s.care.nextSeq }]).length - 32768) }
    root := if flashClass r.cls then { s.root with flashRecs := s.root.flashRecs ++ [{ r with seq := s.care.nextSeq }] } else s.root }

/-- What follows the copies of a record: the PLDM event of its class, and its post to its context. -/
def State.tellRecord (s : State) (r : ErrRec) : State :=
  let t := if 0x50 ≤ r.cls ∧ r.cls < 0x5C then s.emit (.mctp 0x12 0x0A (leBytes 64 r.encode)) else s
  if !r.ctxValid then t
  else if r.action = 0 ∨ r.action = 1 ∨ r.action = 0xB then t.modCtx r.ctx (fun c => { c with lastErr := r.encode })
  else (t.modCtx r.ctx (fun c => { c with lastErr := r.encode })).notify r.ctx 18

/-- The Bureau keeps a record, copies it, and tells of it. -/
theorem State.logRecord_eq (s : State) (r : ErrRec) :
    s.logRecord r = ((s.kept r).logCopies { r with seq := s.care.nextSeq }).tellRecord { r with seq := s.care.nextSeq } := rfl

/-- Two states agree in the records kept and under way, in memory, and in what no record touches. -/
structure State.RecordsAs (s t : State) : Prop where
  care : t.care = s.care
  mem : t.mem = s.mem
  cores : t.cores = s.cores
  queues : t.queues = s.queues
  regs : t.regs = s.regs

theorem State.RecordsAs.refl (s : State) : s.RecordsAs s := ⟨rfl, rfl, rfl, rfl, rfl⟩

theorem State.RecordsAs.trans {s t u : State} (h : s.RecordsAs t) (g : t.RecordsAs u) : s.RecordsAs u :=
  ⟨g.care.trans h.care, g.mem.trans h.mem, g.cores.trans h.cores, g.queues.trans h.queues, g.regs.trans h.regs⟩

theorem State.modCtx_records (s : State) (n : Nat) (f : Ctx → Ctx) : s.RecordsAs (s.modCtx n f) := ⟨rfl, rfl, rfl, rfl, rfl⟩

theorem State.notify_records (s : State) (n b : Nat) : s.RecordsAs (s.notify n b) :=
  ⟨s.notify_care n b, s.notify_mem n b, s.notify_cores n b, s.notify_queues n b, s.notify_regs n b⟩

theorem State.tellRecord_records (s : State) (r : ErrRec) : s.RecordsAs (s.tellRecord r) := by
  unfold State.tellRecord
  extract_lets t
  have hevent : s.RecordsAs t := by
    unfold t
    split <;> exact ⟨rfl, rfl, rfl, rfl, rfl⟩
  split
  · exact hevent
  · split
    · exact hevent.trans (t.modCtx_records ..)
    · exact (hevent.trans (t.modCtx_records ..)).trans (State.notify_records ..)

/-- The arrival of a record, but for what is told of it: the record kept and copied. -/
theorem State.logRecord_records (s : State) (r : ErrRec) : ((s.kept r).logCopies { r with seq := s.care.nextSeq }).RecordsAs (s.logRecord r) := by
  rw [State.logRecord_eq]
  exact State.tellRecord_records ..

/-- The newest record is the last of the log, which holds 32,768 at most. -/
theorem State.kept_log (s : State) (r : ErrRec) : (s.kept r).care.log.getLast? = some { r with seq := s.care.nextSeq } ∧ (s.kept r).care.log.length ≤ 32768 := by
  simp only [State.kept, List.getLast?_drop, List.length_drop, List.length_append, List.length_singleton, List.getLast?_append, List.getLast?_singleton, Option.some_or]
  exact ⟨if_neg (by omega), by omega⟩

@[simp] theorem State.kept_stackUp (s : State) (r : ErrRec) : (s.kept r).root.stackUp = s.root.stackUp := by
  unfold State.kept
  dsimp only
  split <;> rfl

/-- The next record on its way reaches the Bureau. -/
theorem exec_errorRecordArrival_next {s : State} {r : ErrRec} {rest : List ErrRec} (htransit : s.care.transit = r :: rest) (hup : s.root.bureauUp = true) :
    exec .errorRecordArrival s = .next (State.logRecord { s with care := { s.care with transit := rest } } r) := by
  simp only [exec_errorRecordArrival, execErrorRecordArrival, htransit, hup, Bool.not_true, Bool.false_eq_true, if_false]

/-- Settles O29: the crossings and dies by their guards, open traffic by what its slot carries, and a record by what the Bureau keeps and copies. -/
theorem crossingsAndOpenTraffic : Obligations.CrossingsAndOpenTraffic := by
  unfold Obligations.CrossingsAndOpenTraffic
  refine ⟨fun s => ⟨fun x cyc hx hup => ⟨fun hcyc => ?_, fun hcyc => ?_, exec_crossingRecalibration_up hx hup⟩, fun d hd hup => exec_dieStopsAnswering_up hd hup⟩,
    fun s die ch slot vc i dest src htable hslot hup hvc hi => ?_, fun s r rest htransit hup => ?_⟩
  · rw [exec_frameMarkerCheck_up hx hup, if_pos hcyc]
  · rw [exec_frameMarkerCheck_up hx hup, if_neg hcyc]
  · intro w
    have hhop := exec_openPacketHop_arrival htable hslot hup hvc hi dest src
    refine ⟨fun hentry hborrow => ?_, fun hentry howner => ?_, fun hfree => ?_⟩
    · exact hhop.trans (congrArg _ (if_pos ⟨hentry, .inl hborrow⟩))
    · exact hhop.trans (congrArg _ (if_pos ⟨hentry, .inr howner⟩))
    · refine hhop.trans (congrArg _ (if_neg fun ⟨hentry, hstands⟩ => ?_))
      obtain ⟨hborrow, howner⟩ := hfree.resolve_left (not_not_intro hentry)
      exact hstands.elim hborrow (Bool.eq_false_iff.mp howner)
  · intro rec' place
    have hplace : rec'.place = place := rfl
    clear_value place
    let s' : State := { s with care := { s.care with transit := rest } }
    obtain ⟨hcare, hmem, hcores, hqueues, hregs⟩ : ((s'.kept r).logCopies rec').RecordsAs (s'.logRecord r) := s'.logRecord_records r
    obtain ⟨hlast, hlength⟩ := s'.kept_log r
    rw [State.logCopies_care] at hcare
    refine ⟨_, exec_errorRecordArrival_next htransit hup, ?_, ?_, ?_, ?_, fun k hk hstack => ?_, fun a ha => ?_, ?_, ?_, ?_⟩
    · rw [hcare, State.kept]
    · rw [hcare, State.kept]
    · rw [hcare, hlast]
    · rw [hcare]
      exact hlength
    · rw [State.memRead, hmem, ← hplace]
      exact State.logCopies_memRead hk (by rwa [State.kept_stackUp]) rec'
    · rw [← hplace] at ha
      rw [hmem, State.logCopies_mem_other ha, State.kept]
    · rw [hcores, State.logCopies_cores, State.kept]
    · rw [hqueues, State.logCopies_queues, State.kept]
    · rw [hregs, State.logCopies_regs, State.kept]

end Sys2Proof.Machine
end

section
/-! Signals at their counters (R168, R169): a legal signal changes its counter's value, a misuse stops the counter's owner; neither touches another counter or memory. -/

namespace Sys2Proof.Machine

/-! ### What the work at a counter leaves -/

/-- Two states agree in every counter, and in memory with its frames and regions. -/
structure State.CountersAs (s t : State) : Prop where
  ctrs : t.ctrs = s.ctrs
  mem : t.mem = s.mem
  frames : t.frames = s.frames
  regions : t.regions = s.regions

theorem State.CountersAs.refl (s : State) : s.CountersAs s := ⟨rfl, rfl, rfl, rfl⟩

theorem State.CountersAs.trans {s t u : State} (h : s.CountersAs t) (g : t.CountersAs u) : s.CountersAs u :=
  ⟨g.ctrs.trans h.ctrs, g.mem.trans h.mem, g.frames.trans h.frames, g.regions.trans h.regions⟩

theorem State.CountersAs.ctr {s t : State} (h : s.CountersAs t) (k : Nat) : t.ctr k = s.ctr k := congrArg (tget Counter.zero · k) h.ctrs

theorem State.CountersAs.foldl {α : Type} {f : State → α → State} (hf : ∀ (s : State) x, s.CountersAs (f s x)) (l : List α) (s : State) : s.CountersAs (l.foldl f s) := by
  induction l generalizing s with
  | nil => exact .refl s
  | cons x l ih => exact (hf s x).trans (ih _)

theorem State.send_counters (s : State) (o : Out) : s.CountersAs (s.send o) := ⟨s.send_ctrs o, s.send_mem o, s.send_frames o, s.send_regions o⟩

theorem State.count_counters (s : State) (p : Nat) (k : Stat) (n : Nat) : s.CountersAs (s.count p k n) :=
  ⟨s.count_ctrs p k n, s.count_mem p k n, s.count_frames p k n, s.count_regions p k n⟩

theorem State.sendSignal_counters (s : State) (n num op arg m : Nat) : s.CountersAs (s.sendSignal n num op arg m) :=
  ⟨s.sendSignal_ctrs .., s.sendSignal_mem .., s.sendSignal_frames .., s.sendSignal_regions ..⟩

theorem State.modCtx_counters (s : State) (n : Nat) (f : Ctx → Ctx) : s.CountersAs (s.modCtx n f) := ⟨rfl, rfl, rfl, rfl⟩

theorem State.notify_counters (s : State) (n b : Nat) : s.CountersAs (s.notify n b) := ⟨s.notify_ctrs n b, s.notify_mem n b, s.notify_frames n b, s.notify_regions n b⟩

/-! ### Waiters and barrier nodes (R168, R175, R181) -/

theorem State.notifyWaiters_counters (s : State) (k old new : Nat) (dies : List Nat) : s.CountersAs (s.notifyWaiters k old new dies) := by
  refine .foldl (fun s d => ?_) dies s
  dsimp only
  split <;> exact ⟨rfl, rfl, rfl, rfl⟩

theorem State.barSend_counters (s : State) (b : BarNode) (dev kind g : Nat) : s.CountersAs (s.barSend b dev kind g) :=
  (s.send_counters _).trans (State.count_counters ..)

theorem State.barRelease_counters (s : State) (key g : Nat) : s.CountersAs (s.barRelease key g) := by
  unfold State.barRelease
  split
  · exact .refl s
  · extract_lets marked sent
    have hmarked : s.CountersAs marked := ⟨rfl, rfl, rfl, rfl⟩
    have hsent : marked.CountersAs sent := .foldl (fun t c => t.barSend_counters ..) _ marked
    split
    · exact (hmarked.trans hsent).trans (sent.sendSignal_counters ..)
    · exact hmarked.trans hsent

theorem State.barAdvance_counters (s : State) (key : Nat) : s.CountersAs (s.barAdvance key) := by
  unfold State.barAdvance
  split
  · exact .refl s
  · extract_lets kids own a reported
    split
    · exact .refl s
    · have hreported : s.CountersAs reported := ⟨rfl, rfl, rfl, rfl⟩
      split
      · exact hreported.trans (reported.barRelease_counters ..)
      · exact hreported.trans (reported.barSend_counters ..)

theorem State.barTouch_counters (s : State) (k : Nat) : s.CountersAs (s.barTouch k) :=
  .foldl (fun t (e : Nat × BarNode) => t.barAdvance_counters e.1) _ s

/-! ### A counter error (R169) -/

theorem State.cmdCut_counters (s : State) (n : Nat) : s.CountersAs (s.cmdCut n) := by
  unfold State.cmdCut
  dsimp only
  split
  · exact (s.modCtx_counters n _).trans (State.notify_counters ..)
  · exact .refl s

theorem State.stopCtx_counters (s : State) (n cls : Nat) : s.CountersAs (s.stopCtx n cls) := by
  unfold State.stopCtx
  split
  · exact .refl s
  · exact ((s.modCtx_counters n _).trans (State.notify_counters ..)).trans (State.cmdCut_counters ..)

theorem State.ctrError_counters (s : State) (cls k master : Nat) : s.CountersAs (s.ctrError cls k master) := by
  unfold State.ctrError
  split
  · exact .refl s
  · exact State.CountersAs.trans (t := s.record _) ⟨rfl, rfl, rfl, rfl⟩ (State.stopCtx_counters ..)

/-- A notice to the host changes nothing in its context but the notify bits. -/
theorem State.notify_ctx (s : State) (n b : Nat) : ∃ v, (s.notify n b).ctx n = { s.ctx n with notify := v } := by
  unfold State.notify
  dsimp only
  split
  · exact ⟨_, rfl⟩
  · refine ⟨(s.ctx n).notify ||| 2 ^ (b - 16), ?_⟩
    rw [← s.ctx_modCtx n fun c => { c with notify := c.notify ||| 2 ^ (b - 16) }]
    split <;> exact congrArg (tget Ctx.reset · n) (State.msix_ctxs ..)

/-- A command cut short changes nothing in its context but the command block and the notify bits. -/
theorem State.cmdCut_ctx (s : State) (n : Nat) : ∃ c v, (s.cmdCut n).ctx n = { s.ctx n with cmd := c, notify := v } := by
  unfold State.cmdCut
  dsimp only
  split
  · unfold State.cmdDone
    obtain ⟨v, hv⟩ := State.notify_ctx (s.modCtx n _) n 17
    rw [hv, State.ctx_modCtx]
    exact ⟨_, v, rfl⟩
  · exact ⟨_, _, rfl⟩

/-- A loaded context whose queues stop is STOPPED with err_stop set (R275). -/
theorem State.stopCtx_stops {s : State} {n : Nat} (hloaded : (s.ctx n).state ≠ 0) (cls : Nat) : ((s.stopCtx n cls).ctx n).state = 5 ∧ ((s.stopCtx n cls).ctx n).errStop = true := by
  unfold State.stopCtx
  rw [if_neg hloaded]
  extract_lets stopped
  obtain ⟨v, hnotified⟩ := stopped.notify_ctx n 18
  obtain ⟨c, v', hcut⟩ := (stopped.notify n 18).cmdCut_ctx n
  rw [hcut, hnotified, State.ctx_modCtx]
  exact ⟨rfl, rfl⟩

/-- A counter error stops the loaded context that owns the counter. -/
theorem State.ctrError_stops {s : State} {k n : Nat} (howner : s.ctrOwner k = some n) (hloaded : (s.ctx n).state ≠ 0) (cls master : Nat) :
    ((s.ctrError cls k master).ctx n).state = 5 ∧ ((s.ctrError cls k master).ctx n).errStop = true := by
  simp only [State.ctrError, howner]
  exact State.stopCtx_stops (s := s.record _) hloaded cls

/-! ### The signal applied (R168) -/

theorem exec_signalApply (upset : Bool) (s : State) : exec (.signalApply upset) s = execSignalApply upset s := rfl

/-- The oldest signal on its way is applied at its counter. -/
theorem exec_signalApply_next {s : State} {g : Signal} {rest : List Signal} (hsigs : s.sigs = g :: rest) :
    exec (.signalApply false) s = .next (State.applySignal { s with sigs := rest } g) := by
  simp only [exec_signalApply, execSignalApply, hsigs]

/-- The counter after a signal of its mode, applied at the time `now`. -/
def Counter.signalled (c : Counter) (g : Signal) (now : Nat) : Counter :=
  { c with value := if g.op = 1 then min (c.value + g.arg) (2 ^ 64 - 1) else max c.value g.arg, lastMaster := g.master, lastTime := now }

/-- The counter after a misuse at the time `now`: only its last master and time have changed. -/
def Counter.misused (c : Counter) (g : Signal) (now : Nat) : Counter := { c with lastMaster := g.master, lastTime := now }

section
variable {s : State} {g : Signal} {n : Nat} (howner : s.ctrOwner g.ctr = some n) (hproxy : (s.ctr g.ctr).proxy = false)
include howner hproxy

/-- A signal of the counter's mode changes that counter, and what follows from its value changes no counter. -/
theorem State.applySignal_legal (hlegal : g.op = 1 ∧ (s.ctr g.ctr).mode = 0 ∨ g.op = 2 ∧ (s.ctr g.ctr).mode = 1) :
    (s.setCtr g.ctr ((s.ctr g.ctr).signalled g s.now)).CountersAs (s.applySignal g) := by
  have howned : s.ctrOwner g.ctr ≠ none := by simp [howner]
  have hmode : ¬((g.op = 1 ∧ (s.ctr g.ctr).mode ≠ 0) ∨ (g.op = 2 ∧ (s.ctr g.ctr).mode ≠ 1) ∨ g.op = 0 ∨ 2 < g.op) := by omega
  unfold State.applySignal
  extract_lets c v ovf dies set told touched
  rw [if_neg howned, if_neg (ne_true_of_eq_false hproxy : ¬c.proxy = true), if_neg hmode]
  have htold : set.CountersAs told := by
    unfold told
    split
    · exact .refl set
    · exact set.notifyWaiters_counters ..
  have htouched : set.CountersAs touched := htold.trans (told.barTouch_counters _)
  split
  · exact htouched.trans (touched.ctrError_counters ..)
  · exact htouched

variable (hmisuse : g.op = 1 ∧ (s.ctr g.ctr).mode ≠ 0 ∨ g.op = 2 ∧ (s.ctr g.ctr).mode ≠ 1)
include hmisuse

/-- A signal that is not of the counter's mode is a counter error of class 0x33. -/
theorem State.applySignal_misuse : s.applySignal g = (s.setCtr g.ctr ((s.ctr g.ctr).misused g s.now)).ctrError 0x33 g.ctr g.master := by
  have howned : s.ctrOwner g.ctr ≠ none := by simp [howner]
  unfold State.applySignal
  extract_lets c
  rw [if_neg howned, if_neg (ne_true_of_eq_false hproxy : ¬c.proxy = true), if_pos (hmisuse.elim .inl fun h => .inr (.inl h))]
  rfl

/-- Such a signal changes no counter's value. -/
theorem State.applySignal_misuse_counters : (s.setCtr g.ctr ((s.ctr g.ctr).misused g s.now)).CountersAs (s.applySignal g) := by
  rw [State.applySignal_misuse howner hproxy hmisuse]
  exact State.ctrError_counters ..

/-- Such a signal stops the loaded context that owns the counter. -/
theorem State.applySignal_misuse_stops (hloaded : (s.ctx n).state ≠ 0) : ((s.applySignal g).ctx n).state = 5 ∧ ((s.applySignal g).ctx n).errStop = true := by
  rw [State.applySignal_misuse howner hproxy hmisuse]
  exact State.ctrError_stops (s := s.setCtr _ _) howner hloaded 0x33 g.master

end

/-- Settles O22: in both cases the counter is set, and what follows from it changes no counter and no memory. -/
theorem signalsApply : Obligations.SignalsApply := by
  unfold Obligations.SignalsApply
  refine ⟨fun s g rest n hsigs howner hproxy hlegal => ?_, fun s g rest n hsigs howner hproxy hmisuse => ?_⟩
  · have hleft := State.applySignal_legal (s := { s with sigs := rest }) howner hproxy hlegal
    exact ⟨_, exec_signalApply_next hsigs, (hleft.ctr _).trans (State.ctr_setCtr ..), fun k hk => (hleft.ctr k).trans (State.ctr_setCtr_ne _ _ _ _ hk), hleft.mem, hleft.frames, hleft.regions⟩
  · have hleft := State.applySignal_misuse_counters (s := { s with sigs := rest }) howner hproxy hmisuse
    exact ⟨_, exec_signalApply_next hsigs, (hleft.ctr _).trans (State.ctr_setCtr ..), fun k hk => (hleft.ctr k).trans (State.ctr_setCtr_ne _ _ _ _ hk),
      State.applySignal_misuse howner hproxy hmisuse, State.applySignal_misuse_stops (s := { s with sigs := rest }) howner hproxy hmisuse, hleft.mem, hleft.frames, hleft.regions⟩

end Sys2Proof.Machine
end

section
/-! Signals on their way (R168, R171, R172, R175, R179): the SIG of a core, the host's signal, the signal of another device, and the notice of a counter's value. -/

namespace Sys2Proof.Machine

theorem exec_sigConditionMet (c : Nat) (s : State) : exec (.sigConditionMet c) s = .next (s.sigMet c) := rfl
theorem exec_ctxSig (master n : Nat) (v : W64) (s : State) : exec (.ctxSig master n v) s = execCtxSig master n v s := rfl
theorem exec_crossDeviceSignal (m : SyncMsg) (s : State) : exec (.crossDeviceSignal m) s = execCrossDeviceSignal m s := rfl
theorem exec_counterValueNotify (die k : Nat) (s : State) : exec (.counterValueNotify die k) s = execCounterValueNotify die k s := rfl

/-- A signal to a number of the context's windows goes on its way to the counter of that number. -/
theorem State.sendSignal_of_deviceCtr {s : State} {n num k : Nat} (h : s.deviceCtr n num = some k) (op arg master : Nat) :
    s.sendSignal n num op arg master = { s with sigs := s.sigs ++ [⟨k, op, arg, master, n, 0⟩] } := by
  simp only [State.sendSignal, h]

/-! ### The SIG of a core (R171) -/

/-- The core after a SIG has left it: the SIG is in the task's digest, and `rest` waits. -/
def Core.sigLeft (k : Core) (g : SigPend) (rest : List SigPend) : Core :=
  { k.addEffect ([4] ++ leBytes 4 g.ctr ++ leBytes 1 g.op ++ leBytes 8 g.arg) with sigs := rest }

/-- A SIG whose earlier operations have landed, and whose earlier sends are in their rings, leaves its core for its counter. -/
theorem exec_sigConditionMet_settled {s : State} {c k : Nat} {t : TaskRun} {g : SigPend} {rest : List SigPend} (hrun : (s.core c).run = some t) (hsigs : (s.core c).sigs = g :: rest)
    (hsettled : (s.core c).settledUpTo g.iss = true) (hsent : s.sentUpTo c t.ctx g.iss = true) (hctr : s.deviceCtr t.ctx g.ctr = some k) :
    exec (.sigConditionMet c) s = .next { s.setCore c ((s.core c).sigLeft g rest) with sigs := s.sigs ++ [⟨k, g.op, g.arg, coreMaster c, t.ctx, t.key⟩] } := by
  have hctr' (x : Core) : (s.setCore c x).deviceCtr t.ctx g.ctr = some k := hctr
  simp only [exec_sigConditionMet, State.sigMet, hrun, hsigs, hsettled, hsent, and_self, if_true, State.sendSig, hctr', State.setCore_sigs, Core.sigLeft]

/-! ### The host's signal (R172) -/

/-- A host's signal to a counter that the program declares as a host input. -/
theorem exec_ctxSig_hostInput {s : State} {master n k : Nat} {v : W64} (hn : n < 64) (hmay : s.mayCommand n master = true) (hop : bitsOf v.toNat 19 18 = 1 ∨ bitsOf v.toNat 19 18 = 2)
    (hctr : s.deviceCtr n (bitsOf v.toNat 17 0) = some k) (hinput : (s.ctx n).hostInput (bitsOf v.toNat 17 0) = true) :
    exec (.ctxSig master n v) s = .next (s.sendSignal n (bitsOf v.toNat 17 0) (bitsOf v.toNat 19 18) (bitsOf v.toNat 63 20) master) := by
  have hnonzero : bitsOf v.toNat 19 18 ≠ 0 := by omega
  have hlegal : ¬(bitsOf v.toNat 19 18 = 3 ∨ s.deviceCtr n (bitsOf v.toNat 17 0) = none) := by
    rw [hctr]
    rintro (hthree | hnone)
    · omega
    · cases hnone
  simp only [exec_ctxSig, execCtxSig, if_neg (Nat.not_le.mpr hn), hmay, Bool.not_true, Bool.false_eq_true, if_false, if_neg hnonzero, if_neg hlegal, hinput, if_true]

/-! ### The signal of another device (R177, R179, R353) -/

/-- A signal that passes the access tables of its port and its counter block is discarded where it is of another generation of its context, and else goes to its counter. -/
theorem exec_crossDeviceSignal_admitted {s : State} {m : SyncMsg} {k : Nat} (hn : m.ctx < 64) (hctr : s.deviceCtr m.ctx m.ctr = some k)
    (hport : s.portAdmitsSync m.port (0x4200 + m.dev % 128) m.ctx = true) (hblock : s.admits (syncPage (k / 16384)) 0 (0x4200 + m.dev % 128) m.ctx (k % 16384) (k % 16384) .s = true) :
    exec (.crossDeviceSignal m) s =
      .next (if m.gen ≠ (s.ctx m.ctx).job.gen then s.discard m.ctx else s.sendSignal m.ctx m.ctr m.op m.arg (0x4200 + m.dev % 128)) := by
  simp only [exec_crossDeviceSignal, execCrossDeviceSignal, if_neg (Nat.not_le.mpr hn), hctr, hport, hblock, Bool.not_true, Bool.false_eq_true, or_self, if_false]

/-! ### The notice of a value (R175) -/

/-- The oldest notice, of a counter to a die, teaches that die the value. -/
theorem exec_counterValueNotify_oldest {s : State} {die k v : Nat} {rest : List (Nat × Nat × Nat)} (hnotices : s.notices = (die, k, v) :: rest) :
    exec (.counterValueNotify die k) s = .next { s with notices := rest, known := tput 0 s.known (die * 2 ^ 18 + k) v } := by
  have hfind : s.notices.find? (fun x => decide (x.1 = die ∧ x.2.1 = k)) = some (die, k, v) := by
    rw [hnotices]
    exact List.find?_cons_of_pos (by simp)
  have herase : s.notices.erase (die, k, v) = rest := by rw [hnotices, List.erase_cons_head]
  simp only [exec_counterValueNotify, execCounterValueNotify, hfind, herase]

/-- Settles O21: each command sends its signal, discards it, or teaches the value. -/
theorem signalsTravel : Obligations.SignalsTravel := by
  unfold Obligations.SignalsTravel
  refine ⟨?_, ?_, ?_, ?_⟩
  · intro s c t g rest k hrun hsigs hsettled hsent hctr
    exact ⟨_, exec_sigConditionMet_settled hrun hsigs hsettled hsent hctr, rfl, congrArg Core.sigs (s.core_setCore c _), fun d hd => s.core_setCore_ne c d _ hd, rfl⟩
  · intro s master n v k hn hmay hop hctr hinput
    rw [exec_ctxSig_hostInput hn hmay hop hctr hinput, State.sendSignal_of_deviceCtr hctr]
  · intro s m k hn hctr hport hblock
    rw [exec_crossDeviceSignal_admitted hn hctr hport hblock]
    refine ⟨fun hgen => ?_, fun hgen => ?_⟩
    · rw [if_neg (not_not_intro hgen), State.sendSignal_of_deviceCtr hctr]
    · rw [if_pos hgen]
  · exact fun s die k v rest hnotices => exec_counterValueNotify_oldest hnotices

end Sys2Proof.Machine
end

section
/-! Barrier messages (R181) of the present generation of their context, and of another (R179). -/

namespace Sys2Proof.Machine

theorem exec_barrierArrivalMessage (m : BarMsg) (s : State) : exec (.barrierArrivalMessage m) s = execBarrierArrivalMessage m s := rfl
theorem exec_barrierReleaseMessage (m : BarMsg) (s : State) : exec (.barrierReleaseMessage m) s = execBarrierReleaseMessage m s := rfl

section
variable {s : State} {m : BarMsg} (hn : m.ctx < 64)
include hn

/-- An arrival at a node raises what the node knows of that child, and the node advances. -/
theorem exec_barrierArrivalMessage_node {b : BarNode} (hgen : m.gen = (s.ctx m.ctx).job.gen) (hnode : tfind s.bars (barKey m.ctx m.barrier) = some b) :
    exec (.barrierArrivalMessage m) s = .next (State.barAdvance { s with bars := tset s.bars (barKey m.ctx m.barrier) { b with
      childGen := tput 0 b.childGen m.dev (max (tget 0 b.childGen m.dev) m.g) } } (barKey m.ctx m.barrier)) := by
  simp only [exec_barrierArrivalMessage, execBarrierArrivalMessage, if_neg (Nat.not_le.mpr hn), if_neg (not_not_intro hgen), hnode]

/-- A release of the present generation releases its node. -/
theorem exec_barrierReleaseMessage_present (hgen : m.gen = (s.ctx m.ctx).job.gen) :
    exec (.barrierReleaseMessage m) s = .next (s.barRelease (barKey m.ctx m.barrier) m.g) := by
  simp only [exec_barrierReleaseMessage, execBarrierReleaseMessage, if_neg (Nat.not_le.mpr hn), if_neg (not_not_intro hgen)]

/-- A barrier message of another generation of its context is discarded. -/
theorem exec_barrierMessage_discarded (hgen : m.gen ≠ (s.ctx m.ctx).job.gen) :
    exec (.barrierArrivalMessage m) s = .next (s.discard m.ctx) ∧ exec (.barrierReleaseMessage m) s = .next (s.discard m.ctx) := by
  simp only [exec_barrierArrivalMessage, execBarrierArrivalMessage, exec_barrierReleaseMessage, execBarrierReleaseMessage, if_neg (Nat.not_le.mpr hn), if_pos hgen, and_self]

end

/-- The state in which a node has taken the release of generation `g`, and sent it to each of its children. -/
def State.releaseSent (s : State) (key : Nat) (b : BarNode) (g : Nat) : State :=
  b.children.foldl (fun t c => t.barSend b c msgBarRelease g) { s with bars := tset s.bars key { b with released := max g b.released } }

/-- The release of a node goes to its children, and raises the release counter of a member. -/
theorem State.barRelease_node {s : State} {key : Nat} {b : BarNode} (hnode : tfind s.bars key = some b) (g : Nat) :
    s.barRelease key g = if b.member then (s.releaseSent key b g).sendSignal b.ctx b.relCtr 2 g 0xF000 else s.releaseSent key b g := by
  simp only [State.barRelease, hnode, State.releaseSent]

/-- Settles O23: the arrival by its node, the release by its children and its membership. -/
theorem barrierMessages : Obligations.BarrierMessages := by
  unfold Obligations.BarrierMessages
  intro s m b hn
  refine ⟨exec_barrierArrivalMessage_node hn, fun hgen hnode hchildren hmember => ?_, fun hgen hnode c hchildren hmember => ?_, exec_barrierMessage_discarded hn⟩
  · rw [exec_barrierReleaseMessage_present hn hgen, State.barRelease_node hnode, if_pos hmember, State.releaseSent, hchildren, List.foldl_nil]
  · rw [exec_barrierReleaseMessage_present hn hgen, State.barRelease_node hnode, if_neg (ne_true_of_eq_false hmember), State.releaseSent, hchildren, List.foldl_cons, List.foldl_nil]

end Sys2Proof.Machine
end

section
/-! The watchdog of waits (R183) and the snapshot of a counter (R185). -/

namespace Sys2Proof.Machine

theorem exec_waitWatchdogExpiry (q : Nat) (s : State) : exec (.waitWatchdogExpiry q) s = execWaitWatchdogExpiry q s := rfl
theorem exec_syncDbgSel (master die i : Nat) (s : State) : exec (.syncDbgSel master die i) s = execSyncDbgSel master die i s := rfl
theorem exec_syncSnapshotComplete (die : Nat) (s : State) : exec (.syncSnapshotComplete die) s = execSyncSnapshotComplete die s := rfl

/-! ### The watchdog (R183) -/

/-- A head stalled for longer than the limit times out on the first of its waits that is not satisfied. -/
theorem exec_waitWatchdogExpiry_queue {s : State} {qid : Nat} {q : Queue} (hid : qid < 65536) (hqueue : s.queue qid = some q) (hover : q.stallLimit < q.stall)
    (hrunning : (s.ctx q.ctx).state = 2) (hstalled : s.stalled qid q = true) :
    exec (.waitWatchdogExpiry qid) s = .next (s.waitTimeout q.ctx qid (descWait (s.headDesc q) (if s.waitOk qid q 0 then 1 else 0)).2.1
      (descWait (s.headDesc q) (if s.waitOk qid q 0 then 1 else 0)).2.2 false) := by
  have hexpired : ¬(q.stall ≤ q.stallLimit ∨ (s.ctx q.ctx).state ≠ 2 ∨ (!s.stalled qid q) = true) := by simp [hover, hrunning, hstalled]
  simp only [exec_waitWatchdogExpiry, execWaitWatchdogExpiry, if_pos hid, hqueue, if_neg hexpired]

/-- The collective queue that a queue number from 65,536 on names. -/
theorem exec_waitWatchdogExpiry_collective {s : State} {n i : Nat} {q : Cq} (hi : i < 16) (hqueue : tfind (s.ctx n).cqs i = some q) (hover : q.stallLimit < q.stall)
    (hrunning : (s.ctx n).state = 2) (hwaits : s.cqReady n q = false) :
    exec (.waitWatchdogExpiry (65536 + 16 * n + i)) s = .next (s.waitTimeout n i (bitsOf (s.cqDesc q) 113 96) (bitsOf (s.cqDesc q) 191 128) true) := by
  have hcollective : ¬65536 + 16 * n + i < 65536 := by omega
  have hctx : (65536 + 16 * n + i - 65536) / 16 = n := by omega
  have hindex : (65536 + 16 * n + i - 65536) % 16 = i := by omega
  have hexpired : ¬(q.stall ≤ q.stallLimit ∨ (s.ctx n).state ≠ 2 ∨ s.cqReady n q = true) := by simp [hover, hrunning, hwaits]
  simp only [exec_waitWatchdogExpiry, execWaitWatchdogExpiry, if_neg hcollective, hctx, hindex, hqueue, if_neg hexpired]

/-! ### The snapshot (R185) -/

/-- A snapshot of an owned counter that is no proxy, taken by the physical function or the Bureau. -/
theorem exec_syncDbgSel_owned {s : State} {master die i n : Nat} (hdie : die < 16) (hi : i < 16384) (hmaster : master = 0x8000 ∨ master = 0xF000)
    (howner : s.ctrOwner (die * 16384 + i) = some n) (hproxy : (s.ctr (die * 16384 + i)).proxy = false) :
    exec (.syncDbgSel master die i) s = .next { s with dbg := tset s.dbg die ⟨(s.ctr (die * 16384 + i)).value, (s.ctr (die * 16384 + i)).lastMaster,
      (s.ctr (die * 16384 + i)).lastTime, false, s.waitersOn (die * 16384 + i), n, false, (s.ctr (die * 16384 + i)).mode⟩ } := by
  have hinside : ¬(16 ≤ die ∨ 16384 ≤ i) := by omega
  have hmay : ¬(master ≠ 0x8000 ∧ master ≠ 0xF000 ∧ (!(decide (master = 0xF001) && s.mgmt.lecOpen)) = true) := fun ⟨hpf, hbureau, _⟩ => hmaster.elim hpf hbureau
  simp only [exec_syncDbgSel, execSyncDbgSel, if_neg hinside, if_neg hmay, howner, hproxy, Bool.false_eq_true, if_false]

/-- A snapshot whose waiters are gathered is ready. -/
theorem exec_syncSnapshotComplete_taken {s : State} {die : Nat} {d : SyncDbg} (htaken : tfind s.dbg die = some d) :
    exec (.syncSnapshotComplete die) s = .next { s with dbg := tset s.dbg die { d with ready := true } } := by
  simp only [exec_syncSnapshotComplete, execSyncSnapshotComplete, htaken]

/-- Settles O24, by the two kinds of queue and the two commands of a snapshot. -/
theorem waitWatchdogAndSnapshot : Obligations.WaitWatchdogAndSnapshot := by
  unfold Obligations.WaitWatchdogAndSnapshot
  exact ⟨fun s qid q => exec_waitWatchdogExpiry_queue, fun s n i q => exec_waitWatchdogExpiry_collective, fun s master die i n => exec_syncDbgSel_owned,
    fun s die d => exec_syncSnapshotComplete_taken⟩

end Sys2Proof.Machine
end

section
/-! What every step keeps: the canonical memory among it (R190, R213; logs 1, 9). -/

namespace Sys2Proof.Machine

/-- No command undoes what `State.Keeps` names: each keeps it by the lemma about its own operation. -/
theorem exec_keeps (i : Instr) (s : State) : s.KeepsO (exec i s) :=
  match i with
  | .mma1 _ _ => execMma1_keeps (.refl s)
  | .mma4 _ _ => execMma4_keeps (.refl s)
  | .ocv _ _ => execOcv_keeps (.refl s)
  | .ocvTileVisible _ _ => execOcvTileVisible_keeps (.refl s)
  | .operationLanding _ _ => execOperationLanding_keeps (.refl s)
  | .sAdd _ _ => execSAdd_keeps (.refl s)
  | .sSub _ _ => execSSub_keeps (.refl s)
  | .sMul _ _ => execSMul_keeps (.refl s)
  | .sAnd _ _ => execSAnd_keeps (.refl s)
  | .sOr _ _ => execSOr_keeps (.refl s)
  | .sXor _ _ => execSXor_keeps (.refl s)
  | .sShl _ _ => execSShl_keeps (.refl s)
  | .sShr _ _ => execSShr_keeps (.refl s)
  | .sSar _ _ => execSSar_keeps (.refl s)
  | .sSlt _ _ => execSSlt_keeps (.refl s)
  | .sSltu _ _ => execSSltu_keeps (.refl s)
  | .sAddi _ _ => execSAddi_keeps (.refl s)
  | .sAndi _ _ => execSAndi_keeps (.refl s)
  | .sOri _ _ => execSOri_keeps (.refl s)
  | .sXori _ _ => execSXori_keeps (.refl s)
  | .sLui _ _ => execSLui_keeps (.refl s)
  | .kSig _ _ => execKSig_keeps (.refl s)
  | .sigConditionMet _ => execSigConditionMet_keeps (.refl s)
  | .kLoop _ _ => execKLoop_keeps (.refl s)
  | .kBr _ _ => execKBr_keeps (.refl s)
  | .kEnd _ _ => execKEnd_keeps (.refl s)
  | .vadd _ _ => execVadd_keeps (.refl s)
  | .vsub _ _ => execVsub_keeps (.refl s)
  | .vmul _ _ => execVmul_keeps (.refl s)
  | .vfma _ _ => execVfma_keeps (.refl s)
  | .vaddH _ _ => execVaddH_keeps (.refl s)
  | .vsubH _ _ => execVsubH_keeps (.refl s)
  | .vmulH _ _ => execVmulH_keeps (.refl s)
  | .vfmaH _ _ => execVfmaH_keeps (.refl s)
  | .vaddB _ _ => execVaddB_keeps (.refl s)
  | .vsubB _ _ => execVsubB_keeps (.refl s)
  | .vmulB _ _ => execVmulB_keeps (.refl s)
  | .vfmaB _ _ => execVfmaB_keeps (.refl s)
  | .vmin _ _ => execVmin_keeps (.refl s)
  | .vmax _ _ => execVmax_keeps (.refl s)
  | .vceq _ _ => execVceq_keeps (.refl s)
  | .vclt _ _ => execVclt_keeps (.refl s)
  | .vcle _ _ => execVcle_keeps (.refl s)
  | .vminH _ _ => execVminH_keeps (.refl s)
  | .vmaxH _ _ => execVmaxH_keeps (.refl s)
  | .vminB _ _ => execVminB_keeps (.refl s)
  | .vmaxB _ _ => execVmaxB_keeps (.refl s)
  | .vand _ _ => execVand_keeps (.refl s)
  | .vor _ _ => execVor_keeps (.refl s)
  | .vxor _ _ => execVxor_keeps (.refl s)
  | .vsel _ _ => execVsel_keeps (.refl s)
  | .viadd _ _ => execViadd_keeps (.refl s)
  | .visub _ _ => execVisub_keeps (.refl s)
  | .vimul _ _ => execVimul_keeps (.refl s)
  | .vshl _ _ => execVshl_keeps (.refl s)
  | .vshr _ _ => execVshr_keeps (.refl s)
  | .vsar _ _ => execVsar_keeps (.refl s)
  | .vbcast _ _ => execVbcast_keeps (.refl s)
  | .vlane _ _ => execVlane_keeps (.refl s)
  | .vcvt _ _ => execVcvt_keeps (.refl s)
  | .vf2i _ _ => execVf2i_keeps (.refl s)
  | .vi2f _ _ => execVi2f_keeps (.refl s)
  | .vrcp _ _ => execVrcp_keeps (.refl s)
  | .vrsqrt _ _ => execVrsqrt_keeps (.refl s)
  | .vsqrt _ _ => execVsqrt_keeps (.refl s)
  | .vdiv _ _ => execVdiv_keeps (.refl s)
  | .vexp2 _ _ => execVexp2_keeps (.refl s)
  | .vlog2 _ _ => execVlog2_keeps (.refl s)
  | .vtanh _ _ => execVtanh_keeps (.refl s)
  | .vrngW _ _ => execVrngW_keeps (.refl s)
  | .vrngU _ _ => execVrngU_keeps (.refl s)
  | .vrngB _ _ => execVrngB_keeps (.refl s)
  | .vrngN _ _ => execVrngN_keeps (.refl s)
  | .vfrl _ _ => execVfrl_keeps (.refl s)
  | .vld _ _ => execVld_keeps (.refl s)
  | .vst _ _ => execVst_keeps (.refl s)
  | .vacc _ _ => execVacc_keeps (.refl s)
  | .vflg _ _ => execVflg_keeps (.refl s)
  | .wfill _ _ => execWfill_keeps (.refl s)
  | .wfillComplete _ => execWfillComplete_keeps (.refl s)
  | .send _ _ => execSend_keeps (.refl s)
  | .recv _ _ => execRecv_keeps (.refl s)
  | .readEndpointFetch _ _ _ => execReadEndpointFetch_keeps (.refl s)
  | .creditReturn _ _ _ => execCreditReturn_keeps (.refl s)
  | .copy _ _ => execCopy_keeps (.refl s)
  | .atom _ _ => execAtom_keeps (.refl s)
  | .pref _ _ => execPref_keeps (.refl s)
  | .cwait _ _ => execCwait_keeps (.refl s)
  | .copyComplete _ _ _ _ => execCopyComplete_keeps (.refl s)
  | .stackRequest _ => execStackRequest_keeps (.refl s)
  | .mirrorWriteAck _ _ => execMirrorWriteAck_keeps (.refl s)
  | .mirrorRepairRequest _ _ _ => execMirrorRepairRequest_keeps (.refl s)
  | .remoteErrorResponse _ _ _ _ _ => execRemoteErrorResponse_keeps (.refl s)
  | .dieCacheRead _ _ _ => execDieCacheRead_keeps (.refl s)
  | .atomLineOperation _ _ => execAtomLineOperation_keeps (.refl s)
  | .atomLineWriteback _ _ => execAtomLineWriteback_keeps (.refl s)
  | .scrubPass _ _ => execScrubPass_keeps (.refl s)
  | .frameTableCommit _ => execFrameTableCommit_keeps (.refl s)
  | .frameZeroingComplete _ => execFrameZeroingComplete_keeps (.refl s)
  | .dispatchDecision _ => execDispatchDecision_keeps (.refl s)
  | .tileTaskDispatch _ _ => execTileTaskDispatch_keeps (.refl s)
  | .tileTaskCompletion _ => execTileTaskCompletion_keeps (.refl s)
  | .taskWatchdogExpiry _ => execTaskWatchdogExpiry_keeps (.refl s)
  | .footstoolExactCheck _ _ => execFootstoolExactCheck_keeps (.refl s)
  | .footstoolWideSample _ => execFootstoolWideSample_keeps (.refl s)
  | .crossCoreReplay _ _ => execCrossCoreReplay_keeps (.refl s)
  | .replayCompare _ => execReplayCompare_keeps (.refl s)
  | .frameMarkerCheck _ _ => execFrameMarkerCheck_keeps (.refl s)
  | .flitPassesChannel _ _ _ _ _ => execFlitPassesChannel_keeps (.refl s)
  | .openPacketHop _ _ _ _ _ => execOpenPacketHop_keeps (.refl s)
  | .errorRecordArrival => execErrorRecordArrival_keeps (.refl s)
  | .ctxSig _ _ _ => execCtxSig_keeps (.refl s)
  | .signalApply _ => execSignalApply_keeps (.refl s)
  | .counterValueNotify _ _ => execCounterValueNotify_keeps (.refl s)
  | .crossDeviceSignal _ => execCrossDeviceSignal_keeps (.refl s)
  | .barrierArrivalMessage _ => execBarrierArrivalMessage_keeps (.refl s)
  | .barrierReleaseMessage _ => execBarrierReleaseMessage_keeps (.refl s)
  | .waitWatchdogExpiry _ => execWaitWatchdogExpiry_keeps (.refl s)
  | .syncDbgSel _ _ _ => execSyncDbgSel_keeps (.refl s)
  | .syncSnapshotComplete _ => execSyncSnapshotComplete_keeps (.refl s)
  | .ctxDoorbell _ _ _ => execCtxDoorbell_keeps (.refl s)
  | .collectiveQueueTail _ _ _ _ => execCollectiveQueueTail_keeps (.refl s)
  | .collectiveHeadCheck _ _ => execCollectiveHeadCheck_keeps (.refl s)
  | .collectiveStart _ _ => execCollectiveStart_keeps (.refl s)
  | .collectiveMessageReceive _ _ _ => execCollectiveMessageReceive_keeps (.refl s)
  | .collectiveRetransmitRequest _ _ _ => execCollectiveRetransmitRequest_keeps (.refl s)
  | .collectiveContributionRequest _ _ _ => execCollectiveContributionRequest_keeps (.refl s)
  | .collectiveFailureNotice _ _ _ => execCollectiveFailureNotice_keeps (.refl s)
  | .collectiveTimeout _ _ => execCollectiveTimeout_keeps (.refl s)
  | .collectiveCompletion _ _ => execCollectiveCompletion_keeps (.refl s)
  | .linkSignalDetect _ => execLinkSignalDetect_keeps (.refl s)
  | .linkEqualizeDone _ => execLinkEqualizeDone_keeps (.refl s)
  | .linkAlignDone _ => execLinkAlignDone_keeps (.refl s)
  | .identMessage _ _ => execIdentMessage_keeps (.refl s)
  | .negotiateMessage _ _ => execNegotiateMessage_keeps (.refl s)
  | .linkTrainingTimeout _ => execLinkTrainingTimeout_keeps (.refl s)
  | .piecePacketReceive _ _ _ => execPiecePacketReceive_keeps (.refl s)
  | .controlPacketReceive _ _ => execControlPacketReceive_keeps (.refl s)
  | .ackReceive _ _ => execAckReceive_keeps (.refl s)
  | .nakReceive _ _ => execNakReceive_keeps (.refl s)
  | .ackTimer _ => execAckTimer_keeps (.refl s)
  | .codewordLockLoss _ => execCodewordLockLoss_keeps (.refl s)
  | .uncorrectableCodewordLimit _ _ _ => execUncorrectableCodewordLimit_keeps (.refl s)
  | .lnkCtrlRetrain _ _ => execLnkCtrlRetrain_keeps (.refl s)
  | .heartbeatSend => execHeartbeatSend_keeps (.refl s)
  | .heartbeatReceive _ _ => execHeartbeatReceive_keeps (.refl s)
  | .lossTimeout _ => execLossTimeout_keeps (.refl s)
  | .deviceLostNotice _ _ _ _ => execDeviceLostNotice_keeps (.refl s)
  | .placementMessage _ => execPlacementMessage_keeps (.refl s)
  | .perstNFall => execPerstNFall_keeps (.refl s)
  | .perstNRise _ _ _ => execPerstNRise_keeps (.refl s)
  | .shelfUnloadNotice _ => execShelfUnloadNotice_keeps (.refl s)
  | .functionLevelReset _ => execFunctionLevelReset_keeps (.refl s)
  | .pcieConfigRequest _ _ _ _ => execPcieConfigRequest_keeps (.refl s)
  | .hostBarRequest _ _ _ _ _ _ => execHostBarRequest_keeps (.refl s)
  | .loadBegin _ _ _ _ => execLoadBegin_keeps (.refl s)
  | .load _ _ _ _ => execLoad_keeps (.refl s)
  | .sharedRegionFetchComplete _ _ _ _ => execSharedRegionFetchComplete_keeps (.refl s)
  | .memberAnnouncement _ _ => execMemberAnnouncement_keeps (.refl s)
  | .restore _ _ _ _ => execRestore_keeps (.refl s)
  | .unload _ _ _ _ => execUnload_keeps (.refl s)
  | .unloadDrainLimit _ => execUnloadDrainLimit_keeps (.refl s)
  | .resume _ _ _ _ => execResume_keeps (.refl s)
  | .yield _ _ _ _ => execYield_keeps (.refl s)
  | .restart _ _ _ _ => execRestart_keeps (.refl s)
  | .evict _ _ _ _ => execEvict_keeps (.refl s)
  | .join _ _ _ _ => execJoin_keeps (.refl s)
  | .leave _ _ _ _ => execLeave_keeps (.refl s)
  | .verOpen _ _ _ _ => execVerOpen_keeps (.refl s)
  | .verPublish _ _ _ _ => execVerPublish_keeps (.refl s)
  | .publishComplete _ _ => execPublishComplete_keeps (.refl s)
  | .versionRelease _ _ => execVersionRelease_keeps (.refl s)
  | .evalBind _ _ _ _ => execEvalBind_keeps (.refl s)
  | .evalRelease _ _ _ _ => execEvalRelease_keeps (.refl s)
  | .stepBoundary _ => execStepBoundary_keeps (.refl s)
  | .commitRecordWrite _ _ => execCommitRecordWrite_keeps (.refl s)
  | .commitReport _ _ _ => execCommitReport_keeps (.refl s)
  | .commitRelease _ _ => execCommitRelease_keeps (.refl s)
  | .ctxRcptReadAdvance _ _ _ => execCtxRcptReadAdvance_keeps (.refl s)
  | .receiptSigned => execReceiptSigned_keeps (.refl s)
  | .yieldNFall => execYieldNFall_keeps (.refl s)
  | .yieldNRise => execYieldNRise_keeps (.refl s)
  | .yieldMessage _ _ _ _ _ _ => execYieldMessage_keeps (.refl s)
  | .resumeMessage _ _ _ => execResumeMessage_keeps (.refl s)
  | .yieldHoldDeadline _ => execYieldHoldDeadline_keeps (.refl s)
  | .yieldDrainComplete _ => execYieldDrainComplete_keeps (.refl s)
  | .abortNotice _ _ => execAbortNotice_keeps (.refl s)
  | .abortDrainComplete _ _ => execAbortDrainComplete_keeps (.refl s)
  | .memberReadyReport _ _ _ => execMemberReadyReport_keeps (.refl s)
  | .restartRelease _ _ => execRestartRelease_keeps (.refl s)
  | .fenceRequest _ _ => execFenceRequest_keeps (.refl s)
  | .unfenceRequest _ _ => execUnfenceRequest_keeps (.refl s)
  | .inFieldTestPeriod => execInFieldTestPeriod_keeps (.refl s)
  | .inFieldTestStart => execInFieldTestStart_keeps (.refl s)
  | .inFieldTestEnd _ _ _ => execInFieldTestEnd_keeps (.refl s)
  | .standbyValid => execStandbyValid_keeps (.refl s)
  | .powerOnResetEnd _ _ _ => execPowerOnResetEnd_keeps (.refl s)
  | .bootImageVerified => execBootImageVerified_keeps (.refl s)
  | .mainInputInRange => execMainInputInRange_keeps (.refl s)
  | .mainDomainUp => execMainDomainUp_keeps (.refl s)
  | .stackTrainingComplete _ _ _ => execStackTrainingComplete_keeps (.refl s)
  | .coreSelfTestEnd _ _ _ _ => execCoreSelfTestEnd_keeps (.refl s)
  | .linkTrainingConcluded => execLinkTrainingConcluded_keeps (.refl s)
  | .deviceReady => execDeviceReady_keeps (.refl s)
  | .entropyHealthChange _ => execEntropyHealthChange_keeps (.refl s)
  | .entropyWaitTimeout => execEntropyWaitTimeout_keeps (.refl s)
  | .entropyRecordRepeat => execEntropyRecordRepeat_keeps (.refl s)
  | .assemblyMessage _ => execAssemblyMessage_keeps (.refl s)
  | .assemblyTimeout => execAssemblyTimeout_keeps (.refl s)
  | .buReset _ _ => execBuReset_keeps (.refl s)
  | .mctpResetMessage _ => execMctpResetMessage_keeps (.refl s)
  | .standbyPowerLoss => execStandbyPowerLoss_keeps (.refl s)
  | .powerMeasurement _ _ => execPowerMeasurement_keeps (.refl s)
  | .limiterThresholdTimer => execLimiterThresholdTimer_keeps (.refl s)
  | .limiterSustained => execLimiterSustained_keeps (.refl s)
  | .clockControllerAdjust => execClockControllerAdjust_keeps (.refl s)
  | .pwrCtrl _ _ => execPwrCtrl_keeps (.refl s)
  | .inputVoltageFault => execInputVoltageFault_keeps (.refl s)
  | .sensorReading _ _ _ => execSensorReading_keeps (.refl s)
  | .throttleRecordRepeat _ => execThrottleRecordRepeat_keeps (.refl s)
  | .thermalTrip _ => execThermalTrip_keeps (.refl s)
  | .firmwareUpdate _ _ _ => execFirmwareUpdate_keeps (.refl s)
  | .recoveryImageReceive _ => execRecoveryImageReceive_keeps (.refl s)
  | .mctpControl _ _ => execMctpControl_keeps (.refl s)
  | .pldmBase _ _ => execPldmBase_keeps (.refl s)
  | .pldmMonitoring _ _ => execPldmMonitoring_keeps (.refl s)
  | .pldmFruData _ data => execPldmFruData_keeps (a1 := data) (.refl s)
  | .getVersion => execGetVersion_keeps (.refl s)
  | .getCapabilities _ _ => execGetCapabilities_keeps (.refl s)
  | .negotiateAlgorithms _ => execNegotiateAlgorithms_keeps (.refl s)
  | .getDigests => execGetDigests_keeps (.refl s)
  | .getCertificate _ _ _ => execGetCertificate_keeps (.refl s)
  | .challenge _ _ _ => execChallenge_keeps (.refl s)
  | .getMeasurements _ _ _ _ => execGetMeasurements_keeps (.refl s)
  | .lecternNonceRequest => execLecternNonceRequest_keeps (.refl s)
  | .lecternUnlock _ => execLecternUnlock_keeps (.refl s)
  | .lecternClose => execLecternClose_keeps (.refl s)
  | .lecternExpiry => execLecternExpiry_keeps (.refl s)
  | .lecternHalt _ => execLecternHalt_keeps (.refl s)
  | .lecternSingleStep _ => execLecternSingleStep_keeps (.refl s)
  | .lecternRead _ _ => execLecternRead_keeps (.refl s)
  | .lecternWrite _ _ => execLecternWrite_keeps (.refl s)
  | .jtagBypass _ => execJtagBypass_keeps (.refl s)
  | .jtagIdcode => execJtagIdcode_keeps (.refl s)
  | .jtagSamplePreload _ => execJtagSamplePreload_keeps (.refl s)
  | .jtagExtest => execJtagExtest_keeps (.refl s)
  | .jtagTestLogicReset => execJtagTestLogicReset_keeps (.refl s)
  | .blkCommit _ _ => execBlkCommit_keeps (.refl s)
  | .commitEffectPoint _ => execCommitEffectPoint_keeps (.refl s)
  | .blkLock _ _ _ => execBlkLock_keeps (.refl s)
  | .statFreeze _ _ _ => execStatFreeze_keeps (.refl s)
  | .registerWrite _ _ _ => execRegisterWrite_keeps (.refl s)
  | .laneGeneratorAdvance _ => execLaneGeneratorAdvance_keeps (.refl s)
  | .crossingsTrained _ _ => execCrossingsTrained_keeps (.refl s)
  | .mainDomainPowerUpLimit _ => execMainDomainPowerUpLimit_keeps (.refl s)
  | .bureauFault _ => execBureauFault_keeps (.refl s)
  | .dieStopsAnswering _ => execDieStopsAnswering_keeps (.refl s)
  | .crossingRecalibration _ => execCrossingRecalibration_keeps (.refl s)
  | .regionHolderQuery _ _ => execRegionHolderQuery_keeps (.refl s)
  | .coordinatorStateRequest _ _ => execCoordinatorStateRequest_keeps (.refl s)
  | .pcieLaneFailure _ _ => execPcieLaneFailure_keeps (.refl s)
  | .registerReadLatch _ _ _ => execRegisterReadLatch_keeps (.refl s)

/-- A step keeps a canonical memory canonical: the command at the front of the queue does, and so does the tick of an empty queue. -/
theorem step_keeps_memory_wf {s t : State} (hwf : Memory.wf s.mem = true) (hstep : step s = .next t) : Memory.wf t.mem = true := by
  unfold step at hstep
  split at hstep
  case h_1 =>
    cases hstep
    exact (State.tickTime_keeps (.refl s)).mem hwf
  case h_2 i rest _ => exact (exec_keeps i { s with pending := rest } t hstep).mem hwf

/-- Settles O59. -/
theorem stepKeepsMemoryCanonical : Obligations.StepKeepsMemoryCanonical := by
  unfold Obligations.StepKeepsMemoryCanonical
  exact fun _ _ => step_keeps_memory_wf

/-- Settles O58: the tables and the lists at reset are empty. -/
theorem resetMemoryCanonical : Obligations.ResetMemoryCanonical := by
  unfold Obligations.ResetMemoryCanonical
  exact ⟨rfl, rfl, rfl⟩

end Sys2Proof.Machine
end

section
/-! Requests at a base die (R196, R203, R213, R272, R353): what a write leaves, how a read is answered, and the refusals. -/

namespace Sys2Proof.Machine

theorem exec_stackRequest (r : MemReq) (s : State) : exec (.stackRequest r) s = .next (if s.hostShut r.master then s else s.stackReq r) := rfl

/-! ### A line without an error (R196) -/

@[simp] theorem State.eccRead_zero (s : State) (k o : Nat) : s.eccRead k o 0 = s := if_pos rfl

@[simp] theorem State.eccWrite_zero (s : State) (k o : Nat) : s.eccWrite k o 0 = s := by
  have hone : ¬2 ≤ symbols 0 := by decide
  rw [State.eccWrite, State.eccRead_zero]
  exact if_neg hone

/-- A write of less than a line covers no line whole. -/
theorem State.clearLines_short (s : State) (k o : Nat) {n : Nat} (hshort : n < 64) : s.clearLines k o n = s := by
  have hkeep : s.badLines.filter (fun b => !decide (memKey k o ≤ b.1 ∧ b.1 + 64 ≤ memKey k o + n)) = s.badLines := by
    refine List.filter_eq_self.mpr fun b _ => ?_
    have hpart : ¬(memKey k o ≤ b.1 ∧ b.1 + 64 ≤ memKey k o + n) := by omega
    simp [hpart]
  unfold State.clearLines
  rw [hkeep]

/-- An applied write takes from the lines in error those that it covers whole. -/
theorem State.applyWrite_badLines (s : State) (c k o : Nat) (bs : List Byte) : (s.applyWrite c k o bs).badLines = (s.clearLines k o bs.length).badLines :=
  State.mirror_badLines ..

/-- The bytes of an applied write read back. -/
theorem State.memRead_applyWrite (s : State) (c k o : Nat) (bs : List Byte) : (s.applyWrite c k o bs).memRead k o bs.length = bs := by
  have hread := s.memRead_memWrite k o bs
  rwa [State.memRead, State.memWrite_mem, ← s.applyWrite_mem c] at hread

@[simp] theorem State.applyWrite_cores (s : State) (c k o : Nat) (bs : List Byte) : (s.applyWrite c k o bs).cores = s.cores := by
  have h := congrArg State.cores (s.applyWrite_frame c k o bs); exact h
@[simp] theorem State.applyWrite_queues (s : State) (c k o : Nat) (bs : List Byte) : (s.applyWrite c k o bs).queues = s.queues := by
  have h := congrArg State.queues (s.applyWrite_frame c k o bs); exact h
@[simp] theorem State.applyWrite_frames (s : State) (c k o : Nat) (bs : List Byte) : (s.applyWrite c k o bs).frames = s.frames := by
  have h := congrArg State.frames (s.applyWrite_frame c k o bs); exact h
@[simp] theorem State.applyWrite_regs (s : State) (c k o : Nat) (bs : List Byte) : (s.applyWrite c k o bs).regs = s.regs := by
  have h := congrArg State.regs (s.applyWrite_frame c k o bs); exact h

/-! ### External writes (R24) -/

/-- Noting an external write changes the contexts only. -/
theorem State.hostWrote_frame (s : State) (m o : Nat) : { s.hostWrote m o with ctxs := s.ctxs } = s := by
  unfold State.hostWrote State.external
  dsimp only
  split
  · split <;> rfl
  · rfl

/-- A write of a core or of an engine is never external. -/
theorem State.hostWrote_of_kind_le {m : Nat} (hkind : masterKind m ≤ 3) (s : State) (o : Nat) : s.hostWrote m o = s := by
  have hinner : ¬(masterKind m = 8 ∨ m = 0xF000) := by unfold masterKind at *; omega
  exact if_neg fun h => hinner h.1

/-! ### The request checked (R353) -/

/-- A request of a piece of one line of this device, whose table entry is sound and which the port that it entered by admits: what is left to check are the rules of its stack. -/
structure State.Reaches (s : State) (r : MemReq) (k o : Nat) : Prop where
  here : s.decodeAddr r.addr = some (s.cab, k, o)
  nonempty : r.len ≠ 0
  line : o % 64 + r.len ≤ 64
  parity : bitOf r.bad 16 = false
  port : masterKind r.master = 4 → s.portAdmits r.port r.master r.ctx .r = true

theorem State.Reaches.inGranule {s : State} {r : MemReq} {k o : Nat} (h : s.Reaches r k o) : ¬(s.cab ≠ s.cab ∨ r.len = 0 ∨ 4096 < o % 4096 + r.len) := by
  have hline := h.line
  have hlen := h.nonempty
  omega

theorem State.Reaches.admitted {s : State} {r : MemReq} {k o : Nat} (h : s.Reaches r k o) : ¬(masterKind r.master = 4 ∧ (!s.portAdmits r.port r.master r.ctx .r) = true) :=
  fun ⟨hkind, hno⟩ => by simp [h.port hkind] at hno

/-- What a write without an error leaves at its base die. -/
def State.wroteReq (s : State) (r : MemReq) (k o : Nat) (bs : List Byte) : State := (s.applyWrite r.ctx k o bs).hostWrote r.master o

section
variable {s : State} {r : MemReq} {k o : Nat} (h : s.Reaches r k o)
include h

theorem State.stackReq_refused {cls : Nat} (hcheck : s.memCheck (if r.data.isSome then .w else .r) r.master r.ctx k o r.len = some cls) : s.stackReq r = s.refuseReq r cls := by
  simp only [State.stackReq, h.here, if_neg h.inGranule, h.parity, Bool.false_eq_true, if_false, if_neg h.admitted, hcheck]

/-- An admitted write is applied; one of another device is answered. -/
theorem State.stackReq_write {bs : List Byte} (hdata : r.data = some bs) (hbs : bs.length = r.len) (hbad : r.bad = 0) (hcheck : s.memCheck .w r.master r.ctx k o r.len = none) :
    s.stackReq r = if masterKind r.master = 4 then (s.wroteReq r k o bs).send (.response (masterDev r.master) 0 []) else s.wroteReq r k o bs := by
  have htake : bs.take r.len = bs := List.take_of_length_le (Nat.le_of_eq hbs)
  simp only [State.stackReq, h.here, if_neg h.inGranule, h.parity, Bool.false_eq_true, if_false, if_neg h.admitted, hdata, Option.isSome_some, if_true, hcheck, htake]
  simp only [hbad, State.eccWrite_zero, State.wroteReq]

/-- An admitted read is answered, to its device, its host function or its copy. -/
theorem State.stackReq_read (hdata : r.data = none) (hbad : r.bad = 0) (hcheck : s.memCheck .r r.master r.ctx k o r.len = none) (hclean : s.devBad (k * 2 ^ 36 + o) r.len = false) :
    s.stackReq r = if masterKind r.master = 4 then s.send (.response (masterDev r.master) 0 (s.memRead k o r.len))
      else if masterKind r.master = 8 then s.hostAnswer (r.master % 64) 0 (s.memRead k o r.len) else s.readFor r k o := by
  simp only [State.stackReq, h.here, if_neg h.inGranule, h.parity, Bool.false_eq_true, if_false, if_neg h.admitted, hdata, Option.isSome_none, hcheck]
  simp only [hbad, State.eccRead_zero, hclean, Bool.false_eq_true, if_false]

end

/-! ### What a write leaves (R196, R201, R213) -/

section
variable (s : State) (r : MemReq) (k o : Nat) (bs : List Byte)

theorem State.wroteReq_frame : { s.wroteReq r k o bs with ctxs := (s.applyWrite r.ctx k o bs).ctxs } = s.applyWrite r.ctx k o bs := State.hostWrote_frame ..

@[simp] theorem State.wroteReq_mem : (s.wroteReq r k o bs).mem = (s.applyWrite r.ctx k o bs).mem := by have h := congrArg State.mem (s.wroteReq_frame r k o bs); exact h
@[simp] theorem State.wroteReq_badLines : (s.wroteReq r k o bs).badLines = (s.applyWrite r.ctx k o bs).badLines := by
  have h := congrArg State.badLines (s.wroteReq_frame r k o bs); exact h
@[simp] theorem State.wroteReq_cores : (s.wroteReq r k o bs).cores = s.cores := by
  have h := congrArg State.cores (s.wroteReq_frame r k o bs); exact h.trans (s.applyWrite_cores ..)
@[simp] theorem State.wroteReq_queues : (s.wroteReq r k o bs).queues = s.queues := by
  have h := congrArg State.queues (s.wroteReq_frame r k o bs); exact h.trans (s.applyWrite_queues ..)
@[simp] theorem State.wroteReq_frames : (s.wroteReq r k o bs).frames = s.frames := by
  have h := congrArg State.frames (s.wroteReq_frame r k o bs); exact h.trans (s.applyWrite_frames ..)

end

/-- The answer to a write leaves what the write left. -/
theorem State.answer_leaves (s : State) (p : Prop) [Decidable p] (o : Out) :
    (if p then s.send o else s).mem = s.mem ∧ (if p then s.send o else s).badLines = s.badLines ∧ (if p then s.send o else s).cores = s.cores ∧
      (if p then s.send o else s).queues = s.queues ∧ (if p then s.send o else s).frames = s.frames := by
  split
  · exact ⟨s.send_mem o, s.send_badLines o, s.send_cores o, s.send_queues o, s.send_frames o⟩
  · exact ⟨rfl, rfl, rfl, rfl, rfl⟩

/-- A write of a core or an engine to a frame that is not mirrored touches nothing but its bytes and the errors of its lines. -/
theorem State.wroteReq_plain {s : State} {r : MemReq} {k o : Nat} (hmirror : feMirror (s.frame (frameOf o)) = false) (hkind : masterKind r.master ≤ 3) (bs : List Byte) :
    { s.wroteReq r k o bs with mem := s.mem, badLines := s.badLines } = s := by
  rw [State.wroteReq, State.hostWrote_of_kind_le hkind]
  exact s.applyWrite_plain r.ctx k o bs hmirror

/-- A write that begins within a line corrects none (R196). -/
theorem State.wroteReq_badLines_within {s : State} {r : MemReq} {k o : Nat} {bs : List Byte} (hline : o % 64 + bs.length ≤ 64) (hwithin : o % 64 ≠ 0) :
    (s.wroteReq r k o bs).badLines = s.badLines := by
  rw [State.wroteReq_badLines, State.applyWrite_badLines, State.clearLines_short _ _ _ (by omega)]

/-- Settles O17: a write by what it leaves, a read by its requester, and the refusals by the check that fails. -/
theorem stackRequests : Obligations.StackRequests := by
  unfold Obligations.StackRequests
  refine ⟨fun s r k o bs hopen hdec hlen hline hbad hport hdata hbs hcheck => ?_, fun s r k o hopen hdec hlen hline hparity hport => ?_, fun s q => ⟨fun hshut => ?_, fun hopen hdec => ?_⟩⟩
  · have hreach : s.Reaches r k o := ⟨hdec, hlen, hline, by rw [hbad]; rfl, hport⟩
    have hmem := s.applyWrite_mem r.ctx k o bs
    rw [exec_stackRequest, hopen, if_neg Bool.false_ne_true, State.stackReq_write hreach hdata hbs hbad hcheck]
    obtain ⟨tmem, tbad, tcores, tqueues, tframes⟩ := (s.wroteReq r k o bs).answer_leaves (masterKind r.master = 4) (.response (masterDev r.master) 0 [])
    rw [State.wroteReq_mem] at tmem
    refine ⟨_, rfl, ?_, fun a hout => ?_, fun hmirror hkind => ?_, fun hkind => ⟨_, if_pos hkind⟩, fun hwithin => tbad.trans (State.wroteReq_badLines_within (hbs ▸ hline) hwithin),
      tcores.trans (State.wroteReq_cores ..), tqueues.trans (State.wroteReq_queues ..), tframes.trans (State.wroteReq_frames ..)⟩
    · rw [State.memRead, tmem, ← hbs]
      exact s.memRead_applyWrite ..
    · rw [tmem, hmem]
      exact tget_tputBytes_other _ _ _ _ (hbs ▸ hout)
    · rw [if_neg (by omega)]
      exact State.wroteReq_plain hmirror hkind bs
  · have hreach : s.Reaches r k o := ⟨hdec, hlen, hline, hparity, hport⟩
    rw [exec_stackRequest, hopen, if_neg Bool.false_ne_true]
    refine ⟨fun hdata hcheck hbad hclean => ?_, fun cls hdata hcheck => ?_, fun cls bs hdata hcheck => ?_⟩
    · rw [State.stackReq_read hreach hdata hbad hcheck hclean]
      refine ⟨fun hkind => ?_, fun hkind => ?_, fun c hkind hcore => ?_, fun h1 h4 h8 => ?_⟩
      · rw [if_neg (by omega), if_pos hkind]
      · rw [if_pos hkind]
      · rw [if_neg (by omega), if_neg (by omega)]
        simp only [State.readFor, hcore, if_pos hkind]
      · rw [if_neg h4, if_neg h8]
        unfold State.readFor
        split
        · rw [if_neg h1]
        · rfl
    · rw [State.stackReq_refused hreach (by rw [hdata]; exact hcheck)]
    · rw [State.stackReq_refused hreach (by rw [hdata]; exact hcheck)]
  · rw [exec_stackRequest, if_pos hshut]
  · rw [exec_stackRequest, hopen, if_neg Bool.false_ne_true, State.stackReq, hdec]

end Sys2Proof.Machine
end

section
/-! The atomic units (R204, R205, R212): operations of another device and of a task's ATOM in a line buffer, and the writeback that frees it. -/

namespace Sys2Proof.Machine

theorem exec_atomLineOperation_remote (d n a aop v bad : Nat) (s : State) : exec (.atomLineOperation (.remote d n a aop v) bad) s = .next (s.atomRemote d n a aop v bad) := rfl
theorem exec_atomLineOperation_core (c tag i bad : Nat) (s : State) : exec (.atomLineOperation (.core c tag i) bad) s = .next (s.atomElement c tag i bad) := rfl
theorem exec_atomLineWriteback (k line : Nat) (s : State) : exec (.atomLineWriteback k line) s = execAtomLineWriteback k line s := rfl

/-! ### An element in its line buffer (R204) -/

/-- A line that is in a buffer needs no other. -/
theorem State.takeLine_held {s : State} {k line : Nat} (hheld : (k, line) ∈ s.care.linebufs) : s.takeLine k line = some s :=
  if_pos (List.contains_iff_mem.mpr hheld)

theorem State.memRead_atomAt (s : State) (k o aop v : Nat) :
    (s.atomAt k o aop v).memRead k o (atomWidth aop) = leBytes (atomWidth aop) (atomApply aop (leNat (s.memRead k o (atomWidth aop))) v) := by
  have hread := s.memRead_memWrite k o (leBytes (atomWidth aop) (atomApply aop (leNat (s.memRead k o (atomWidth aop))) v))
  rwa [leBytes_length] at hread

theorem State.atomAt_other {k o aop b : Nat} (hout : b < memKey k o ∨ memKey k o + atomWidth aop ≤ b) (s : State) (v : Nat) :
    tget 0 (s.atomAt k o aop v).mem b = tget 0 s.mem b :=
  s.memWrite_other _ _ _ _ (by rwa [leBytes_length])

section
variable {s : State} {k o : Nat} (hheld : (k, o / 64 * 64) ∈ s.care.linebufs) (hclean : s.devBad (k * 2 ^ 36 + o / 64 * 64) 64 = false)
include hheld hclean

/-- An admitted operation of another device is applied and answered. -/
theorem State.atomRemote_held {dev ctx a aop : Nat} (hdec : s.decodeAddr a = some (s.cab, k, o)) (hlow : 1 ≤ aop) (hhigh : aop ≤ 10) (halign : o % atomWidth aop = 0)
    (hcheck : s.memCheckAt (dieCachePage k) .a (0x4000 + dev % 128) ctx o (atomWidth aop) = none) (v bad : Nat) :
    s.atomRemote dev ctx a aop v bad = (s.atomAt k o aop v).send (.response (dev % 128) 0 []) := by
  have hgo : ¬(s.cab ≠ s.cab ∨ aop = 0 ∨ 10 < aop ∨ o % atomWidth aop ≠ 0) := by omega
  simp only [State.atomRemote, hdec, if_neg hgo, hcheck, List.contains_iff_mem.mpr hheld, if_true, hclean, Bool.false_eq_true, if_false, State.takeLine_held hheld]

/-- An admitted element of a task's ATOM is applied, and done. -/
theorem State.atomElement_held {c tag i a v : Nat} {t : TaskRun} {x : CopyRun} (hrun : (s.core c).run = some t)
    (hfind : (s.core c).copies.find? (fun y => decide (y.tag = tag) && y.atom) = some x) (htodo : x.todo[i]? = some (a, v)) (hdec : s.decodeAddr a = some (s.cab, k, o))
    (hcheck : s.memCheckAt (dieCachePage k) .a (s.copyMaster c) t.ctx o (atomWidth (atomFields x.record x.add).aop) = none) (bad : Nat) :
    ∃ eff, s.atomElement c tag i bad = (s.atomAt k o (atomFields x.record x.add).aop v).atomTaken c tag i eff := by
  have hhere : ¬(s.cab ≠ s.cab) := not_not_intro rfl
  simp only [State.atomElement, hrun, hfind, htodo, hdec, if_neg hhere, hcheck, List.contains_iff_mem.mpr hheld, if_true, hclean, Bool.false_eq_true, if_false, State.takeLine_held hheld]
  exact ⟨_, rfl⟩

end

/-- The element taken is off the list of its ATOM, and the other copies stay as they were. -/
theorem State.atomTaken_copies (s : State) (c tag i : Nat) (eff : List Byte) :
    ((s.atomTaken c tag i eff).core c).copies = (s.core c).copies.map (fun y => if y.tag = tag then { y with todo := y.todo.eraseIdx i } else y) := by
  rw [State.atomTaken, State.core_setCore]
  rfl

/-! ### The writeback (R201, R204) -/

/-- Growth of the queue of records composes. -/
theorem Care.transit_trans {a b c : Care} (h : { b with transit := a.transit } = a) (h' : { c with transit := b.transit } = b) : { c with transit := a.transit } = a := by
  rw [← h, ← h']

theorem State.sendSync_care (s : State) (p : Nat) (o : Out) : (s.sendSync p o).care = s.care := by have h := congrArg State.care (s.sendSync_frame p o); exact h

/-- Of the care of the device, a message can lengthen only the queue of the records on their way. -/
theorem State.send_care (s : State) (o : Out) : { (s.send o).care with transit := s.care.transit } = s.care := by
  unfold State.send
  cases o.target with
  | none => rfl
  | some d =>
    dsimp only
    split
    · rfl
    · split
      · exact congrArg (fun x : Care => { x with transit := s.care.transit }) (s.sendSync_care _ _)
      · rfl
      · split <;> rfl

theorem State.sendAll_care (s : State) (os : List Out) : { (s.sendAll os).care with transit := s.care.transit } = s.care := by
  unfold State.sendAll
  induction os generalizing s with
  | nil => rfl
  | cons o os ih => rw [List.foldl_cons]; exact Care.transit_trans (s.send_care o) (ih (s.send o))

theorem State.mirror_care (s : State) (n k o : Nat) (bs : List Byte) : { (s.mirror n k o bs).care with transit := s.care.transit } = s.care := by
  unfold State.mirror
  dsimp only
  split
  · rfl
  · rw [State.modCtx_care]
    exact s.sendAll_care _

@[simp] theorem State.applyWrite_linebufs (s : State) (n k o : Nat) (bs : List Byte) : (s.applyWrite n k o bs).care.linebufs = s.care.linebufs := by
  have h := congrArg Care.linebufs (((s.memWrite k o bs).clearLines k o bs.length).mirror_care n k o bs); exact h

/-- A byte written over itself leaves every byte as it reads. -/
theorem tget_tput_self (m : Tab Byte) (a j : Nat) : tget 0 (tput 0 m a (tget 0 m a)) j = tget 0 m j := by
  by_cases hj : j = a
  · rw [hj, tget_tput_same]
  · exact tget_tput_other 0 _ a j m hj

/-- A run of bytes written over itself leaves every byte as it reads. -/
theorem tget_tputBytes_tbytes (m : Tab Byte) (a n j : Nat) : tget 0 (tputBytes m a (tbytes m a n)) j = tget 0 m j := by
  induction n generalizing m a with
  | zero => rfl
  | succ n ih =>
    have hrest : tbytes m (a + 1) n = tbytes (tput 0 m a (tget 0 m a)) (a + 1) n := tbytes_congr _ _ _ _ fun i _ _ => (tget_tput_self m a i).symm
    rw [tbytes, tputBytes, hrest, ih, tget_tput_self]

/-- The state in which a line buffer is free and its line is not yet written back. -/
def State.freedLine (s : State) (k line : Nat) : State := { s with care := { s.care with linebufs := s.care.linebufs.filter (fun l => decide (l ≠ (k, line))) } }

theorem exec_atomLineWriteback_held {s : State} {k line : Nat} (hheld : (k, line) ∈ s.care.linebufs) :
    exec (.atomLineWriteback k line) s = .next ((s.freedLine k line).applyWrite (feOwner (s.frame (frameOf line))) k line (s.memRead k line 64)) :=
  congrArg Host.Outcome.next (if_pos (List.contains_iff_mem.mpr hheld))

/-- Settles O19: an operation by its source, where its element is read back, and the writeback of bytes that stand there already. -/
theorem atomicOperations : Obligations.AtomicOperations := by
  unfold Obligations.AtomicOperations
  refine ⟨fun s dev ctx a aop v k o hdec hlow hhigh halign hheld hcheck hclean => ?_, fun s c tag i a v k o t x hrun hfind htodo hdec hheld hcheck hclean => ?_, fun s k line hheld => ?_⟩
  · rw [exec_atomLineOperation_remote, State.atomRemote_held hheld hclean hdec hlow hhigh halign hcheck]
    refine ⟨_, rfl, ?_, fun b hout => ?_, State.send_cores .., State.send_ctxs .., State.send_queues .., State.send_regs .., State.send_frames ..⟩
    · rw [State.memRead, State.send_mem]
      exact s.memRead_atomAt k o aop v
    · rw [State.send_mem]
      exact State.atomAt_other hout s v
  · obtain ⟨eff, happlied⟩ := State.atomElement_held hheld hclean hrun hfind htodo hdec hcheck 0
    rw [exec_atomLineOperation_core, happlied]
    exact ⟨_, rfl, s.memRead_atomAt k o _ v, State.atomTaken_copies .., rfl, rfl, rfl, rfl, rfl⟩
  · rw [exec_atomLineWriteback_held hheld]
    refine ⟨_, rfl, ?_, fun a => ?_, State.applyWrite_cores .., State.applyWrite_queues .., State.applyWrite_regs .., State.applyWrite_frames ..⟩
    · rw [State.applyWrite_linebufs]
      simp [State.freedLine]
    · rw [State.applyWrite_mem]
      exact tget_tputBytes_tbytes s.mem _ 64 a

end Sys2Proof.Machine
end

section
/-! The publication of a version (R219, R357): what becomes of its slots, its number and its frames. -/

namespace Sys2Proof.Machine

/-! ### Frames changed together (R193) -/

theorem framesFrom_nodup (f n : Nat) : (framesFrom f n).Nodup :=
  List.nodup_range.map fun _ _ h => Nat.add_right_cancel h

/-- Each frame of a list without repeats is changed once. -/
theorem State.modFrames_frame_mem {fs : List Nat} (hnodup : fs.Nodup) {f : Nat} (hf : f ∈ fs) (s : State) (g : Nat → Nat) : (s.modFrames fs g).frame f = g (s.frame f) := by
  induction fs generalizing s with
  | nil => cases hf
  | cons x xs ih =>
    obtain ⟨hx, hxs⟩ := List.nodup_cons.mp hnodup
    have hcons : s.modFrames (x :: xs) g = (s.setFrame x (g (s.frame x))).modFrames xs g := List.foldl_cons ..
    rw [hcons]
    rcases List.mem_cons.mp hf with rfl | hmem
    · rw [State.modFrames_other _ _ _ _ hx, State.frame_setFrame]
    · have hne : f ≠ x := fun h => hx (h ▸ hmem)
      rw [ih hxs hmem, State.frame_setFrame_ne _ _ _ _ hne]

/-! ### Protection bits (R199, R219) -/

/-- An entry with a bit taken off, where it is set. -/
def clearBit (e i : Nat) : Nat := if bitOf e i then e - 2 ^ i else e

theorem testBit_clearBit_same (e i : Nat) : (clearBit e i).testBit i = false := by
  unfold clearBit bitOf
  split
  · next hset =>
    have hflip := Nat.testBit_two_pow_add_eq (e - 2 ^ i) i
    rw [Nat.add_sub_cancel' (Nat.ge_two_pow_of_testBit hset), hset] at hflip
    simpa using hflip.symm
  · next hclear => simpa using hclear

theorem testBit_clearBit_below {i j : Nat} (hij : j < i) (e : Nat) : (clearBit e i).testBit j = e.testBit j := by
  unfold clearBit bitOf
  split
  · next hset => rw [← Nat.testBit_two_pow_add_gt hij, Nat.add_sub_cancel' (Nat.ge_two_pow_of_testBit hset)]
  · rfl

/-- `setProt` takes stable and ro off and puts them on as they are asked for. -/
theorem setProt_eq (ro stable : Bool) (e : Nat) : setProt ro stable e = clearBit (clearBit e 9) 12 + b2n stable * 2 ^ 9 + b2n ro * 2 ^ 12 := rfl

section
variable {e : Nat} (hstable : e.testBit 9 = false) (hro : e.testBit 12 = false) (ro stable : Bool)
include hstable

/-- The stable bit put on an entry that has none; ro lies above it. -/
theorem testBit_stable_put : (e + b2n stable * 2 ^ 9 + b2n ro * 2 ^ 12).testBit 9 = stable := by
  rw [Nat.testBit_eq_decide_div_mod_eq, decide_eq_false_iff_not] at hstable
  rw [Nat.testBit_eq_decide_div_mod_eq]
  cases ro <;> cases stable <;> simp only [b2n, decide_eq_true_eq, decide_eq_false_iff_not, if_true, Bool.false_eq_true, if_false] <;> omega

include hro

/-- The ro bit put on an entry that has neither; the stable bit carries nothing into it. -/
theorem testBit_ro_put : (e + b2n stable * 2 ^ 9 + b2n ro * 2 ^ 12).testBit 12 = ro := by
  rw [Nat.testBit_eq_decide_div_mod_eq, decide_eq_false_iff_not] at hstable hro
  rw [Nat.testBit_eq_decide_div_mod_eq]
  cases ro <;> cases stable <;> simp only [b2n, decide_eq_true_eq, decide_eq_false_iff_not, if_true, Bool.false_eq_true, if_false] <;> omega

end

theorem stable_off_clearBits (e : Nat) : (clearBit (clearBit e 9) 12).testBit 9 = false := by
  rw [testBit_clearBit_below (by decide), testBit_clearBit_same]

@[simp] theorem feStable_setProt (ro stable : Bool) (e : Nat) : feStable (setProt ro stable e) = stable :=
  testBit_stable_put (stable_off_clearBits e) ro stable

@[simp] theorem feRo_setProt (ro stable : Bool) (e : Nat) : feRo (setProt ro stable e) = ro :=
  testBit_ro_put (stable_off_clearBits e) (testBit_clearBit_same ..) ro stable

/-! ### The publication -/

/-- The region once its pending version, of digest `dig`, has been published. -/
def Region.published (g : Region) (dig : List Byte) : Region :=
  { (g.setSlot g.cur 3).setSlot g.pend 2 with cur := g.pend, pend := 3, version := (g.version + 1) % 2 ^ 32, digests := g.digests.set g.pend dig, publishing := false }

section
variable {g : Region} (hslots : g.states.length = 3) (dig : List Byte)
include hslots

theorem Region.published_slot_cur (hpend : g.pend < 3) : (g.published dig).slot (g.published dig).cur = 2 := by
  have hin : g.pend < ((g.states.set g.cur 3).set g.pend 2).length := by simpa [hslots] using hpend
  exact (List.getD_eq_getElem _ _ hin).trans (List.getElem_set_self hin)

theorem Region.published_slot_old (hcur : g.cur < 3) (hne : g.pend ≠ g.cur) : (g.published dig).slot g.cur = 3 := by
  have hin : g.cur < ((g.states.set g.cur 3).set g.pend 2).length := by simpa [hslots] using hcur
  refine (List.getD_eq_getElem _ _ hin).trans ?_
  rw [List.getElem_set_ne hne, List.getElem_set_self]

end

theorem State.publish_eq {s : State} {r : Nat} {g : Region} (hregion : s.region r = some g) (hpend : g.pend < 3) (hne : g.pend ≠ g.cur) (hcurrent : g.slot g.cur = 2) :
    s.publish r = (s.modFrames (g.frames g.pend) (setProt true g.cacheable)).setRegion r (g.published (versionDigest g.size (s.versionBytes g g.pend))) := by
  simp only [State.publish, hregion, if_neg (Nat.not_le.mpr hpend), if_pos (And.intro hcurrent (Ne.symm hne))]
  rfl

/-- Settles O40: the frames of the version by the change of each, the region by what is written there, and nothing else. -/
theorem publishedVersion : Obligations.PublishedVersion := by
  unfold Obligations.PublishedVersion
  intro s r g hregion hpend hcur hne hslots hcurrent
  rw [State.publish_eq hregion hpend hne hcurrent]
  have hframe : ∀ f ∈ g.frames g.pend, (s.modFrames (g.frames g.pend) (setProt true g.cacheable)).frame f = setProt true g.cacheable (s.frame f) :=
    fun f hf => s.modFrames_frame_mem (framesFrom_nodup ..) hf _
  refine ⟨_, State.region_setRegion .., rfl, Region.published_slot_cur hslots _ hpend, Region.published_slot_old hslots _ hcur hne, rfl, rfl, rfl, fun f hf => ?_, fun q hq => ?_, ?_⟩
  · exact ⟨(congrArg feRo (hframe f hf)).trans (feRo_setProt ..), (congrArg feStable (hframe f hf)).trans (feStable_setProt ..)⟩
  · rw [State.region_setRegion_ne _ _ _ _ hq]
    exact congrArg (tfind · q) (State.modFrames_regions ..)
  · exact congrArg (fun x : State => { x with regions := s.regions }) (s.modFrames_frame ..)

end Sys2Proof.Machine
end

section
/-! Copies, atomics and prefetches (R207 to R215): how each issues, and how a copy completes. -/

namespace Sys2Proof.Machine

theorem exec_copy (c : Nat) (w : W32) (s : State) : exec (.copy c w) s = execCopy c w s := rfl
theorem exec_atom (c : Nat) (w : W32) (s : State) : exec (.atom c w) s = .next (s.issueOp c 2 (isMS 5) issueAtom w) := rfl
theorem exec_pref (c : Nat) (w : W32) (s : State) : exec (.pref c w) s = execPref c w s := rfl
theorem exec_cwait (c : Nat) (w : W32) (s : State) : exec (.cwait c w) s = .next (s.issueOp c 2 (isMS 7) issueCwait w) := rfl
theorem exec_copyComplete (c tag : Nat) (remote : List Byte) (lockstep : Nat) (s : State) : exec (.copyComplete c tag remote lockstep) s = execCopyComplete c tag remote lockstep s := rfl

/-! ### Issue (R208 to R212) -/

/-- The fields of a copy: those of its record, with its offset added. -/
def CopyRun.fields (x : CopyRun) : CopyF := copyFields x.record x.add

/-- The copy that a COPY word starts from record `r`. -/
def Core.copyRun (k : Core) (w : W32) (r : Nat) : CopyRun :=
  ⟨bitsOf w.toNat 25 17, false, r, copyAdd k (bitsOf w.toNat 30 26), k.icyc, k.hashed, [], [], false, none⟩

/-- The fields of the ATOM that a word starts from record `r`. -/
def Core.atomF (k : Core) (w : W32) (r : Nat) : AtomF := atomFields r (copyAdd k (bitsOf w.toNat 30 26))

section
variable {k : Core} {e : CoreEnv} {w : W32} {r : Nat} (hrec : fetchRecord k e (bitsOf w.toNat 16 4) = some r)
include hrec

/-- A legal COPY without hashing starts its copy. -/
theorem issueCopy_legal (h31 : bitOf w.toNat 31 = false) (hhash : (k.copyRun w r).fields.hash = 0)
    (hlegal : (k.copyRun w r).fields.legal (e.regSize.getD (k.copyRun w r).fields.srcSel none) (e.regPend.getD (k.copyRun w r).fields.dstSel none) = true) :
    issueCopy k e w = .ok { k with copies := k.copies ++ [k.copyRun w r] } := by
  unfold Core.copyRun CopyRun.fields at *
  simp only [issueCopy, hrec, h31, hlegal, hhash, Bool.not_true, Bool.false_eq_true, or_self, ne_eq, not_true_eq_false, false_and, if_false, if_true, Nat.add_zero]

/-- A legal ATOM starts a batch of operations. -/
theorem issueAtom_legal {is vs : List Byte} (h31 : bitOf w.toNat 31 = false) (hlegal : (k.atomF w r).legal = true) (haop : (k.atomF w r).aop ≠ 10)
    (hidx : k.spadRead (k.atomF w r).idxAddr (4 * (k.atomF w r).n) = some is) (hval : k.spadRead (k.atomF w r).valAddr ((k.atomF w r).width * (k.atomF w r).n) = some vs) :
    ∃ todo, issueAtom k e w =
      .ok { k with copies := k.copies ++ [⟨bitsOf w.toNat 25 17, true, r, copyAdd k (bitsOf w.toNat 30 26), k.icyc, 0, todo, [], false, none⟩] } := by
  unfold Core.atomF at *
  simp only [issueAtom, hrec, h31, hlegal, haop, hidx, hval, Bool.not_true, Bool.false_eq_true, or_self, false_and, if_false]
  exact ⟨_, rfl⟩

/-- A PREF of lines of one page changes nothing of its core. -/
theorem issuePref_legal {p : Nat × Nat} (hrange : prefRange k w r = some p) : issuePref k e w = .ok k := by
  simp only [issuePref, hrec, hrange]

end

/-- A CWAIT sends its tag's status to its register. -/
theorem issueCwait_legal {k : Core} {w : W32} (e : CoreEnv) (hlow : bitsOf w.toNat 16 13 = 0) (hhigh : bitsOf w.toNat 31 22 = 0) :
    issueCwait k e w = .ok (k.emit 1 (.sreg (bitsOf w.toNat 21 17) (BitVec.ofNat 32 (tget 0 k.tagStatus (bitsOf w.toNat 12 4))))) := by
  simp only [issueCwait, hlow, hhigh, ne_eq, not_true_eq_false, or_self, if_false]
  rfl

/-- A slot that has issued may not issue again. -/
theorem State.Presents.slotIssued {s : State} {c slot : Nat} {w : W32} {k : Core} (h : s.Presents c slot w k) : k.slotIssued slot = false := by
  have hmay := h.may
  simp only [Core.mayIssue, Bool.and_eq_true, Bool.not_eq_true'] at hmay
  exact hmay.1.1.2

theorem Core.slotIssued_markIssued (k : Core) (slot : Nat) : (k.markIssued slot).slotIssued slot = true := by
  simp [Core.slotIssued, Core.markIssued, bitOf, Nat.testBit_two_pow_self]

/-- A COPY that has issued asks other devices for what lies there of its source (R188). -/
theorem execCopy_started {s : State} {c : Nat} {w : W32} {k : Core} {t : TaskRun} {x : CopyRun} (hissue : s.issueOp c 2 (isMS 4) issueCopy w = s.setCore c { k with copies := k.copies ++ [x] })
    (hrun : k.run = some t) (hcopies : (s.core c).copies = k.copies) :
    execCopy c w s = .next (((s.setCore c { k with copies := k.copies ++ [x] }).askRemote t c x).markAway c x.tag
      (decide ((s.setCore c { k with copies := k.copies ++ [x] }).out.length < ((s.setCore c { k with copies := k.copies ++ [x] }).askRemote t c x).out.length))) := by
  have hmore : ¬(k.copies ++ [x]).length ≤ (s.core c).copies.length := by simp [hcopies]
  simp only [execCopy, hissue, State.core_setCore, if_neg hmore, hrun, List.getLast?_concat]

/-- A PREF that has issued brings its lines to the die's cache. -/
theorem execPref_started {s : State} {c r a n : Nat} {w : W32} {k : Core} {t : TaskRun} (hissue : s.issueOp c 2 (isMS 6) issuePref w = s.setCore c (k.markIssued 2)) (hrun : k.run = some t)
    (hfree : (s.core c).slotIssued 2 = false) (hrec : fetchRecord k (s.env c) (bitsOf w.toNat 16 4) = some r) (hrange : prefRange k w r = some (a, n)) :
    execPref c w s = .next ((s.setCore c (k.markIssued 2)).prefetch (c / 8) (s.copyMaster c) t.ctx (a / 64 * 64) n) := by
  have hnew : ¬((s.core c).slotIssued 2 = true ∨ (!((s.setCore c (k.markIssued 2)).core c).slotIssued 2) = true) := by
    simp [hfree, Core.slotIssued_markIssued]
  have hrun' : (k.markIssued 2).run = some t := hrun
  have hrec' : fetchRecord (k.markIssued 2) (s.env c) (bitsOf w.toNat 16 4) = some r := hrec
  have hrange' : prefRange (k.markIssued 2) w r = some (a, n) := hrange
  rw [execPref, hissue]
  rw [if_neg hnew, State.core_setCore]
  simp only [hrun', hrec', hrange']

/-! ### Completion (R212, R215, log 139) -/

section
variable (s : State) (c tag st : Nat)

theorem State.copyEnd_copies : ((s.copyEnd c tag st).core c).copies = (s.core c).copies.filter (fun x => decide (x.tag ≠ tag)) := by
  have hcount : (s.copyEnd c tag st).core c = (s.copyFree c tag st).core c := congrArg (tget Core.reset · c) (State.count_cores ..)
  rw [hcount, State.copyFree, State.core_setCore]

theorem State.copyEnd_tagStatus : tget 0 ((s.copyEnd c tag st).core c).tagStatus tag = st := by
  have hcount : (s.copyEnd c tag st).core c = (s.copyFree c tag st).core c := congrArg (tget Core.reset · c) (State.count_cores ..)
  rw [hcount, State.copyFree, State.core_setCore]
  exact tget_tput_same ..

end

theorem foldl_addEffect_copies (l : List (List Byte)) (k : Core) : (l.foldl Core.addEffect k).copies = k.copies := by
  have h := congrArg Core.copies (foldl_addEffect_frame id l k); exact h

/-- The copies under other tags are those before the copy of a tag was marked. -/
theorem filter_others_of_marked (tag : Nat) {g : CopyRun → CopyRun} (htag : ∀ x, (g x).tag = x.tag) (l : List CopyRun) :
    (l.map (fun x => if x.tag = tag then g x else x)).filter (fun x => decide (x.tag ≠ tag)) = l.filter (fun x => decide (x.tag ≠ tag)) := by
  induction l with
  | nil => rfl
  | cons x l ih =>
    rw [List.map_cons]
    by_cases hx : x.tag = tag
    · rw [if_pos hx, List.filter_cons_of_neg (by simp [htag, hx]), List.filter_cons_of_neg (by simp [hx]), ih]
    · rw [if_neg hx, List.filter_cons_of_pos (by simp [hx]), List.filter_cons_of_pos (by simp [hx]), ih]

/-- The places of a copy's destination rows with their bytes, once its source rows are read. -/
def State.copyDst (s s1 : State) (c : Nat) (t : TaskRun) (f : CopyF) (rows : List (List Byte)) : List (RowAt × List Byte) :=
  (f.deliver rows).1.mapIdx (fun i bs =>
    (rowAt f.dstKind ((s1.pendBase t f.dstSel).getD 0) ((s.env c).pendSize f.dstSel) ((f.dst + i * f.dstStride : Nat) : Int) bs.length, bs))

/-- Whether a row goes to another device. -/
def State.rowFar (s : State) (x : RowAt × List Byte) : Bool :=
  match x.1 with
  | .dev a => s.goesFar a x.2.length
  | _ => false

/-- A copy whose rows are written: it knows its status, and whether writes of it went to other devices. -/
def CopyRun.moved (x : CopyRun) (st : Nat) (far : Bool) : CopyRun := { x with done := some st, away := far }

/-- A copy without hashing whose source lies in the scratchpad, once its rows are read and written: it is marked with its status, and ends unless a row went to another device. -/
theorem State.copyDone_moved {s s1 s2 : State} {c : Nat} {t : TaskRun} {k : CopyRun} {remote : List Byte} {rows : List (List Byte)}
    (hgather : k.fields.gather = false) (hsrc : k.fields.srcKind = 2) (hhash : k.fields.hash = 0)
    (hread : State.copyReads c (s.copyMaster c) t.ctx k.fields.rowBytes k.got (s.copySrc c t k.fields []) remote [] s = (s1, some rows))
    (hwrite : State.copyWrites c (s.copyMaster c) t.ctx (s.copyDst s1 c t k.fields rows) s1 = (s2, true)) :
    ∃ u : State, (u.core c).copies = (s2.core c).copies.map (fun x => if x.tag = k.tag then
        x.moved (k.fields.deliver rows).2.toNat ((s.copyDst s1 c t k.fields rows).any s2.rowFar) else x) ∧
      s.copyDone c t k remote = if (s.copyDst s1 c t k.fields rows).any s2.rowFar then u else u.copyEnd c k.tag (k.fields.deliver rows).2.toNat := by
  unfold State.copyDst CopyRun.fields at *
  have hidx : (s.core c).copyIdx (copyFields k.record k.add) = some [] := by simp [Core.copyIdx, hgather]
  simp only [State.copyDone, hidx, hread, hsrc, hwrite, hhash, if_true]
  refine ⟨_, ?_, rfl⟩
  rw [State.core_setCore]
  refine congrArg (List.map _) ?_
  split
  · exact foldl_addEffect_copies ..
  · exact foldl_addEffect_copies ..

section
variable {s : State} {c tag : Nat} {t : TaskRun} {k : CopyRun} (hrun : (s.core c).run = some t) (hfind : (s.core c).copies.find? (fun x => decide (x.tag = tag)) = some k) (remote : List Byte)
include hrun hfind

theorem exec_copyComplete_atom (hatom : k.atom = true) (hall : k.todo = []) (lockstep : Nat) :
    exec (.copyComplete c tag remote lockstep) s = .next (s.copyFree c tag 0) := by
  simp only [exec_copyComplete, execCopyComplete, hrun, hfind, hatom, hall, List.isEmpty_nil, if_true]

variable (hcopy : k.atom = false)
include hcopy

theorem exec_copyComplete_moves (hdone : k.done = none) : exec (.copyComplete c tag remote 0) s = .next (s.copyDone c t k remote) := by
  simp only [exec_copyComplete, execCopyComplete, hrun, hfind, hcopy, Bool.false_eq_true, if_false, if_true, hdone]

theorem exec_copyComplete_acknowledged {st : Nat} (hdone : k.done = some st) : exec (.copyComplete c tag remote 0) s = .next (s.copyEnd c tag st) := by
  simp only [exec_copyComplete, execCopyComplete, hrun, hfind, hcopy, Bool.false_eq_true, if_false, if_true, hdone]

theorem exec_copyComplete_mismatch {lockstep : Nat} (hmismatch : lockstep ≠ 0) :
    exec (.copyComplete c tag remote lockstep) s = .next (s.copyFault (c / 8) (s.engineOf c) (decide (lockstep = 2))) := by
  simp only [exec_copyComplete, execCopyComplete, hrun, hfind, hcopy, Bool.false_eq_true, if_false, if_neg hmismatch]

end

/-- Settles O16: each word by its issue, and a completion by what is left of its copy. -/
theorem copiesIssueAndComplete : Obligations.CopiesIssueAndComplete := by
  unfold Obligations.CopiesIssueAndComplete
  refine ⟨fun s c w k hpres => ⟨?_, ?_, ?_, ?_⟩, fun s c tag remote t k hrun hfind => ⟨?_, ?_, ?_, ?_, ?_⟩⟩
  · intro r t hop hkrun hcopies hrec h31 f x u hlegal hhash
    have hissue := State.issueOp_S_ok (eff := issueCopy) hpres hop (issueCopy_legal (k := k.markIssued 2) hrec h31 hhash hlegal)
    exact execCopy_started (k := k.markIssued 2) hissue hkrun hcopies
  · intro r is vs hop hrec h31 f hlegal haop hidx hval
    obtain ⟨todo, hatom⟩ := issueAtom_legal (k := k.markIssued 2) hrec h31 hlegal haop hidx hval
    exact ⟨todo, congrArg Host.Outcome.next (State.issueOp_S_ok hpres hop hatom)⟩
  · intro r t a n hop hkrun hissued hrec hrange
    have hissue := State.issueOp_S_ok (eff := issuePref) hpres hop (issuePref_legal (k := k.markIssued 2) hrec hrange)
    have hfree : (s.core c).slotIssued 2 = false := (congrArg (bitOf · 2) hissued).trans hpres.slotIssued
    exact execPref_started hissue hkrun hfree hrec hrange
  · intro hop hlow hhigh
    exact congrArg Host.Outcome.next (State.issueOp_S_ok (eff := issueCwait) hpres hop (issueCwait_legal (k := k.markIssued 2) _ hlow hhigh))
  · exact fun lockstep hatom hall => exec_copyComplete_atom hrun hfind remote hatom hall lockstep
  · exact exec_copyComplete_moves hrun hfind remote
  · exact fun st hcopy => exec_copyComplete_acknowledged hrun hfind remote hcopy
  · exact fun lockstep hcopy => exec_copyComplete_mismatch hrun hfind remote hcopy
  · intro rows s1 s2 f dst far hgather hsrc hhash hread hwrite
    obtain ⟨u, hcopies, hmoved⟩ := State.copyDone_moved (rows := rows) hgather hsrc hhash hread hwrite
    have hfar : (s.copyDst s1 c t k.fields rows).any s2.rowFar = far := rfl
    rw [hmoved, hfar]
    rw [hfar] at hcopies
    refine ⟨fun hnear => ?_, fun haway y hy htag => ?_⟩
    · rw [hnear, if_neg Bool.false_ne_true]
      refine ⟨?_, State.copyEnd_tagStatus ..⟩
      rw [State.copyEnd_copies, hcopies]
      exact filter_others_of_marked k.tag (g := (·.moved _ far)) (fun _ => rfl) _
    · rw [haway, if_pos rfl, hcopies] at hy
      obtain ⟨x, -, hx⟩ := List.mem_map.mp hy
      split at hx
      · exact hx ▸ ⟨rfl, haway⟩
      · next hother => exact absurd (hx ▸ htag) hother

end Sys2Proof.Machine
end

section
/-! Mirror messages (R201, R203, R327, R353) and the die caches (R202, R206, R214). -/

namespace Sys2Proof.Machine

theorem exec_mirrorWriteAck (dev n : Nat) (s : State) : exec (.mirrorWriteAck dev n) s = execMirrorWriteAck dev n s := rfl
theorem exec_mirrorRepairRequest (dev stack off : Nat) (s : State) : exec (.mirrorRepairRequest dev stack off) s = execMirrorRepairRequest dev stack off s := rfl
theorem exec_remoteErrorResponse (dev n : Nat) (src : ErrSrc) (cls addr : Nat) (s : State) :
    exec (.remoteErrorResponse dev n src cls addr) s = execRemoteErrorResponse dev n src cls addr s := rfl
theorem exec_dieCacheRead (c addr bad : Nat) (s : State) : exec (.dieCacheRead c addr bad) s = execDieCacheRead c addr bad s := rfl

/-! ### Mirror writes (R201, R327) -/

/-- One mirror write to a buddy that it has not acknowledged is added to a context's count. -/
def Ctx.awaits (k : Ctx) (dev : Nat) : Ctx := { k with mem := { k.mem with unacked := tput 0 k.mem.unacked dev (tget 0 k.mem.unacked dev + 1) } }

/-- The offset of the line that the mirror line at `off` copies, by the mirror map entry `e` (Table 9.7). -/
def sourceOff (e off : Nat) : Nat := off - bitsOf e 55 36 * 65536 + bitsOf e 35 16 * 65536

/-- The context that owns that line. -/
def State.sourceCtx (s : State) (e off : Nat) : Nat := feOwner (s.frame (frameOf (sourceOff e off)))

/-- A repair sends the line to the buddy again. -/
theorem exec_mirrorRepairRequest_mirrored {s : State} {dev stack off e : Nat}
    (hentry : ((List.range 256).map (s.mirrorEntry stack)).find? (fun e => (mirrorBuddies e).contains dev && decide (bitsOf e 55 36 ≤ frameOf off)) = some e) :
    exec (.mirrorRepairRequest dev stack off) s =
      .next ((s.send (.remote dev 1 (stack * 2 ^ 36 + off) (peerCtx (s.ctx (s.sourceCtx e off)) dev) 1 64 (s.memRead stack (sourceOff e off) 64))).modCtx (s.sourceCtx e off) (·.awaits dev)) := by
  simp only [exec_mirrorRepairRequest, execMirrorRepairRequest, hentry]
  rfl

/-- A message to a device that a live route leads to, or to this one, is sent. -/
theorem State.send_remote_out {s : State} {dev : Nat} (hroute : dev = s.cab ∨ (s.routePort dev).isSome) (kind a ctx flag n : Nat) (bs : List Byte) :
    (s.send (.remote dev kind a ctx flag n bs)).out = s.out ++ [.remote dev kind a ctx flag n bs] := by
  rw [State.send_routed]
  · rfl
  · intro d hd
    cases hd
    exact hroute.imp_right fun h => ⟨h, nofun⟩

theorem State.ctx_send (s : State) (o : Out) (n : Nat) : (s.send o).ctx n = s.ctx n := congrArg (tget Ctx.reset · n) (s.send_ctxs o)

/-! ### Refused requests (R353) -/

section
variable {s : State} (dev n addr : Nat)

theorem exec_remoteErrorResponse_bad {c : Nat} (hrun : (s.core c).run.isSome = true) :
    exec (.remoteErrorResponse dev n (.task c) 0x18 addr) s = .next (s.endTaskBy c 0x18 copyOp) := by
  obtain ⟨t, ht⟩ := Option.isSome_iff_exists.mp hrun
  simp only [exec_remoteErrorResponse, execRemoteErrorResponse, ht, if_true]

theorem exec_remoteErrorResponse_refused {c cls : Nat} (hrun : (s.core c).run.isSome = true) (hcls : cls ≠ 0x18) :
    exec (.remoteErrorResponse dev n (.task c) cls addr) s = .next (s.refuseTask c (s.copyMaster c) cls addr copyOp) := by
  obtain ⟨t, ht⟩ := Option.isSome_iff_exists.mp hrun
  simp only [exec_remoteErrorResponse, execRemoteErrorResponse, ht, if_neg hcls]

theorem exec_remoteErrorResponse_ended {c : Nat} (hrun : (s.core c).run = none) (hlate : ∀ x ∈ s.care.late, x.core ≠ c) (cls : Nat) :
    exec (.remoteErrorResponse dev n (.task c) cls addr) s = .next s := by
  have hnone : s.care.late.find? (fun x => decide (x.core = c)) = none := List.find?_eq_none.mpr fun x hx => by simp [hlate x hx]
  simp only [exec_remoteErrorResponse, execRemoteErrorResponse, hrun, hnone]

variable {n : Nat} (hn : n < 64)
include hn

theorem exec_remoteErrorResponse_mirror (cls : Nat) :
    exec (.remoteErrorResponse dev n .mirror cls addr) s = .next ((s.record { s.ctxRec 0x44 2 n with addr := addr, syndrome := dev % 128 }).stopCtx n 0x44) :=
  congrArg Host.Outcome.next (if_neg (Nat.not_le.mpr hn))

theorem exec_remoteErrorResponse_signal (cls : Nat) :
    exec (.remoteErrorResponse dev n .signal cls addr) s = .next ((s.record (s.refusalRec 0x38 2 (0x4200 + s.cab) n addr)).stopCtx n 0x38) :=
  congrArg Host.Outcome.next (if_neg (Nat.not_le.mpr hn))

end

/-! ### Die caches (R202, R206, R214) -/

/-- A copy's read of a stable line that its die's cache does not hold fills the line, and run-ahead follows. -/
theorem State.missFill_miss {s : State} {c l k o : Nat} (hdec : s.decodeAddr (64 * l) = some (s.cab, k, o)) (hstable : feStable (s.frame (frameOf o)) = true)
    (hmiss : (c / 8, memKey k o) ∉ s.care.cache) (master ctx : Nat) :
    s.missFill c master ctx l =
      (s.cacheFill (c / 8) k o).runAhead (c / 8) master ctx (64 * l / 65536) (s.regs.field (dieCachePage (c / 8)) 0x80 6 0) (64 * l + 64) := by
  have hgo : ¬(s.cab ≠ s.cab ∨ (!feStable (s.frame (frameOf o))) = true ∨ s.care.cache.contains (c / 8, memKey k o) = true) := by simp [hstable, hmiss]
  simp only [State.missFill, hdec]
  rw [if_neg hgo]

section
variable {s : State} {c addr k o : Nat} {t : TaskRun} (hrun : (s.core c).run = some t) (hdec : s.decodeAddr addr = some (s.cab, k, o))
include hrun hdec

theorem exec_dieCacheRead_refused {cls : Nat} (hcheck : s.memCheck .r (s.copyMaster c) t.ctx k (o / 64 * 64) 64 = some cls) (bad : Nat) :
    exec (.dieCacheRead c addr bad) s = .next (s.refuseTask c (s.copyMaster c) cls addr copyOp) := by
  simp only [exec_dieCacheRead, execDieCacheRead, hrun, hdec, ne_eq, not_true_eq_false, if_false, hcheck]

variable (hcheck : s.memCheck .r (s.copyMaster c) t.ctx k (o / 64 * 64) 64 = none)
include hcheck

theorem exec_dieCacheRead_unstable (hstable : feStable (s.frame (frameOf o)) = false) (bad : Nat) : exec (.dieCacheRead c addr bad) s = .next s := by
  simp only [exec_dieCacheRead, execDieCacheRead, hrun, hdec, ne_eq, not_true_eq_false, if_false, hcheck, hstable, Bool.not_false, if_true]

variable (hstable : feStable (s.frame (frameOf o)) = true)
include hstable

theorem exec_dieCacheRead_hit (hheld : (c / 8, memKey k (o / 64 * 64)) ∈ s.care.cache) {bad : Nat} (hbad : symbols bad < 2) :
    exec (.dieCacheRead c addr bad) s = .next (s.copyGets c k (o / 64 * 64)) := by
  simp only [exec_dieCacheRead, execDieCacheRead, hrun, hdec, ne_eq, not_true_eq_false, if_false, hcheck, hstable, Bool.not_true, Bool.false_eq_true,
    List.contains_iff_mem.mpr hheld, if_true, State.cacheHit, if_pos hbad]

theorem exec_dieCacheRead_miss (hmiss : (c / 8, memKey k (o / 64 * 64)) ∉ s.care.cache) (hclean : s.devBad (k * 2 ^ 36 + o / 64 * 64) 64 = false) :
    exec (.dieCacheRead c addr 0) s = .next ((s.missFill c (s.copyMaster c) t.ctx (addr / 64)).copyGets c k (o / 64 * 64)) := by
  have hcontains : s.care.cache.contains (c / 8, memKey k (o / 64 * 64)) = false := by simpa using hmiss
  simp only [exec_dieCacheRead, execDieCacheRead, hrun, hdec, ne_eq, not_true_eq_false, if_false, hcheck, hstable, Bool.not_true, Bool.false_eq_true,
    hcontains, State.eccRead_zero, hclean]

end

/-- Settles O18: the messages by their source, the cache's reads by what is found of the line. -/
theorem mirrorsAndDieCaches : Obligations.MirrorsAndDieCaches := by
  unfold Obligations.MirrorsAndDieCaches
  refine ⟨fun s dev n => ⟨fun hn => ?_, ?_, fun c addr => exec_remoteErrorResponse_bad dev n addr, fun c addr cls hrun hlate => exec_remoteErrorResponse_ended dev n addr hrun hlate cls,
    fun c cls addr => exec_remoteErrorResponse_refused dev n addr, fun cls addr hn => exec_remoteErrorResponse_mirror dev addr hn cls,
    fun cls addr hn => exec_remoteErrorResponse_signal dev addr hn cls⟩, fun s c addr k o t hrun hdec => ?_, fun s c master ctx l k o hdec hstable hmiss => State.missFill_miss hdec hstable hmiss master ctx⟩
  · exact congrArg Host.Outcome.next (if_neg (Nat.not_le.mpr hn))
  · intro stack off e hentry o ctx
    refine ⟨_, exec_mirrorRepairRequest_mirrored hentry, ?_, fun hroute => ?_, State.send_mem .., State.send_cores .., State.send_queues .., State.send_regs .., State.send_frames ..,
      fun m hm => ?_⟩
    · have hctx := State.ctx_modCtx (s.send (.remote dev 1 (stack * 2 ^ 36 + off) (peerCtx (s.ctx ctx) dev) 1 64 (s.memRead stack o 64))) ctx (·.awaits dev)
      rw [State.ctx_send] at hctx
      exact congrArg (·.mem.unacked) hctx
    · exact State.send_remote_out hroute ..
    · exact (State.ctx_modCtx_ne _ ctx _ _ hm).trans (State.ctx_send ..)
  · exact ⟨fun bad cls hcheck => exec_dieCacheRead_refused hrun hdec hcheck bad, fun hcheck => ⟨fun bad hstable => exec_dieCacheRead_unstable hrun hdec hcheck hstable bad,
      fun bad hstable hheld hbad => exec_dieCacheRead_hit hrun hdec hcheck hstable hheld hbad, fun hstable hmiss hclean => exec_dieCacheRead_miss hrun hdec hcheck hstable hmiss hclean⟩⟩

end Sys2Proof.Machine
end

section
/-! The frame table (R193, R199), zeroing (R194) and the scrub (R197). -/

namespace Sys2Proof.Machine

theorem exec_frameTableCommit (changes : List (Nat × Nat)) (s : State) : exec (.frameTableCommit changes) s = execFrameTableCommit changes s := rfl
theorem exec_frameZeroingComplete (f : Nat) (s : State) : exec (.frameZeroingComplete f) s = execFrameZeroingComplete f s := rfl
theorem exec_scrubPass (k : Nat) (bad : List (Nat × Nat)) (s : State) : exec (.scrubPass k bad) s = execScrubPass k bad s := rfl

/-! ### The frame table (R193, R199) -/

/-- The state in which the die caches hold what a change of an entry leaves them: a frame that loses stable leaves them. -/
def State.unstabled (s : State) (f e : Nat) : State := if feStable (s.frame f) ∧ !feStable (entryWritten (s.frame f) e) then s.invalidate [f] else s

section
variable {s : State} {f e : Nat} (hf : f < 786432)
include hf

theorem exec_frameTableCommit_inRange (hok : s.entryOk f e = true) : exec (.frameTableCommit [(f, e)]) s = .next ((s.unstabled f e).setFrame f (entryWritten (s.frame f) e)) := by
  have hbound : ¬786432 ≤ f := Nat.not_le.mpr hf
  simp only [exec_frameTableCommit, execFrameTableCommit, List.foldl_cons, List.foldl_nil, if_neg hbound, hok, Bool.not_true, Bool.false_eq_true, if_false]
  rfl

theorem exec_frameTableCommit_outOfRange (hno : s.entryOk f e = false) : exec (.frameTableCommit [(f, e)]) s = .next (s.blkErr (stackPage 0) 0) := by
  have hbound : ¬786432 ≤ f := Nat.not_le.mpr hf
  simp only [exec_frameTableCommit, execFrameTableCommit, List.foldl_cons, List.foldl_nil, if_neg hbound, hno, Bool.not_false, if_true]

end

theorem State.unstabled_frame (s : State) (f e : Nat) : { s.unstabled f e with care := s.care } = s := by
  unfold State.unstabled
  split <;> rfl

/-- No line of a frame that has lost stable is in a die's cache. -/
theorem State.unstabled_cache {s : State} {f e : Nat} (hwas : feStable (s.frame f) = true) (hnow : feStable (entryWritten (s.frame f) e) = false) :
    ∀ l ∈ (s.unstabled f e).care.cache, frameOf (l.2 % 2 ^ 36) ≠ f := by
  intro l hl
  rw [State.unstabled, if_pos ⟨hwas, by rw [hnow]; rfl⟩] at hl
  simpa using (List.mem_filter.mp hl).2

/-! ### Zeroing (R194) -/

/-- A table of which the entries of some keys are removed: those keys read as the default, the others as before. -/
theorem tget_filter_key {α : Type} (d : α) (p : Nat → Bool) (t : Tab α) (k : Nat) : tget d (t.filter (fun e => p e.1)) k = if p k then tget d t k else d := by
  induction t with
  | nil => simp [tget]
  | cons e t ih =>
    obtain ⟨k', v⟩ := e
    by_cases hkeep : p k'
    · rw [List.filter_cons_of_pos (p := fun e : Nat × α => p e.1) hkeep, tget, tget, ih]
      by_cases hk : k = k'
      · simp [hk, hkeep]
      · simp [hk]
    · rw [List.filter_cons_of_neg (p := fun e : Nat × α => p e.1) hkeep, ih, tget]
      by_cases hk : k = k'
      · simp [hk, hkeep]
      · simp [hk]

theorem State.zeroFrame_mem (s : State) (f a : Nat) : tget 0 (s.zeroFrame f).mem a = if frameOf (a % 2 ^ 36) ≠ f then tget 0 s.mem a else 0 := by
  have hfilter := tget_filter_key 0 (fun a => decide (frameOf (a % 2 ^ 36) ≠ f)) s.mem a
  simp only [decide_eq_true_eq] at hfilter
  exact hfilter

theorem exec_frameZeroingComplete_freed {s : State} {f : Nat} (hzeroing : feZeroing (s.frame f) = true) (hfree : feAlloc (s.frame f) = false) :
    exec (.frameZeroingComplete f) s = .next ((s.zeroFrame f).setFrame f 0) := by
  simp only [exec_frameZeroingComplete, execFrameZeroingComplete, hzeroing, hfree, if_true, Bool.false_eq_true, if_false]

/-! ### The scrub (R197) -/

@[simp] theorem symbols_one : symbols 1 = 1 := by decide

/-- A statistic is no field of a page. -/
theorem State.count_field (s : State) (p : Nat) (x : Stat) (n page off hi lo : Nat) : (s.count p x n).regs.field page off hi lo = s.regs.field page off hi lo := by
  unfold State.count
  split <;> rfl

theorem exec_scrubPass_clean {k : Nat} (hk : k < 16) (s : State) : exec (.scrubPass k []) s = .next s :=
  congrArg Host.Outcome.next (if_neg (Nat.not_le.mpr hk))

/-- One corrected symbol of one line counts; a threshold of at least 1 is not exceeded. -/
theorem exec_scrubPass_one {s : State} {k line : Nat} (hk : k < 16) (hline : line < stackBytes) (hthresh : 1 ≤ s.regs.field (stackPage k) 0x80 15 8) :
    exec (.scrubPass k [(line, 1)]) s = .next (s.count (stackPage k) .eccCorrected 1) := by
  have hbelow : ¬(s.count (stackPage k) .eccCorrected 1).regs.field (stackPage k) 0x80 15 8 < 1 := by
    rw [State.count_field]
    exact Nat.not_lt.mpr hthresh
  have hread : s.eccRead k line 1 = s.count (stackPage k) .eccCorrected 1 := by simp [State.eccRead]
  simp [exec_scrubPass, execScrubPass, Nat.not_le.mpr hk, hline, hread, hbelow]

/-- Settles O20: a change by the entry it leaves, zeroing by the bytes it takes, and the scrub by the symbols it finds. -/
theorem frameMaintenance : Obligations.FrameMaintenance := by
  unfold Obligations.FrameMaintenance
  refine ⟨fun s f e hf hok => ?_, fun s f e => exec_frameTableCommit_outOfRange, fun s f hzeroing hfree => ?_, fun s k hk => exec_scrubPass_clean hk s, fun s k line => exec_scrubPass_one⟩
  · have hframes : (s.unstabled f e).frames = s.frames := by have h := congrArg State.frames (s.unstabled_frame f e); exact h
    refine ⟨_, exec_frameTableCommit_inRange hf hok, State.frame_setFrame .., fun g hg => ?_, State.unstabled_cache, ?_⟩
    · rw [State.frame_setFrame_ne _ _ _ _ hg]
      exact congrArg (tget 0 · g) hframes
    · exact congrArg (fun x : State => { x with frames := s.frames }) (s.unstabled_frame f e)
  · refine ⟨_, exec_frameZeroingComplete_freed hzeroing hfree, State.frame_setFrame .., fun a ha => ?_, fun a ha => ?_, fun g hg => State.frame_setFrame_ne _ _ _ _ hg, rfl⟩
    · rw [State.setFrame_mem, State.zeroFrame_mem, if_neg (not_not_intro ha)]
    · rw [State.setFrame_mem, State.zeroFrame_mem, if_pos ha]

end Sys2Proof.Machine
end

section
/-! Region versions (R218, R219, R450) and evaluation bindings (R301, R302). -/

namespace Sys2Proof.Machine

theorem exec_verOpen (master n tag : Nat) (args : List Nat) (s : State) : exec (.verOpen master n tag args) s = execVerOpen master n tag args s := rfl
theorem exec_verPublish (master n tag : Nat) (args : List Nat) (s : State) : exec (.verPublish master n tag args) s = execVerPublish master n tag args s := rfl
theorem exec_evalBind (master n tag : Nat) (args : List Nat) (s : State) : exec (.evalBind master n tag args) s = execEvalBind master n tag args s := rfl
theorem exec_evalRelease (master n tag : Nat) (args : List Nat) (s : State) : exec (.evalRelease master n tag args) s = execEvalRelease master n tag args s := rfl
theorem exec_publishComplete (r : Nat) (lockstep : Bool) (s : State) : exec (.publishComplete r lockstep) s = execPublishComplete r lockstep s := rfl
theorem exec_versionRelease (r k : Nat) (s : State) : exec (.versionRelease r k) s = execVersionRelease r k s := rfl

/-! ### The commands of a context (R219, R450) -/

/-- Taking a command leaves whether each context is loaded. -/
theorem State.issued_loaded (s : State) (n op tag master : Nat) (args : List Nat) (m : Nat) : ((s.issued n op tag master args).ctx m).loaded = (s.ctx m).loaded := by
  by_cases hm : m = n
  · rw [hm, State.issued_ctx]
    rfl
  · rw [State.issued_ctx_ne _ _ _ _ _ _ _ hm]

/-- The base of the pending version of a region, which VER_OPEN returns. -/
def State.openedBase (s : State) (r : Nat) : Nat :=
  match s.region r with
  | some g => g.base g.pend
  | none => 0

/-- The regions that an EVAL_BIND in progress names. -/
def State.bindArgs (s : State) (n : Nat) : List Nat := ((List.range 4).map (fun k => s.arg n (1 + k))).filter (fun r => decide (r ≠ 0xFFFF))

section
variable {s : State} {master n tag : Nat} {args : List Nat} {g : Region} (haccepts : s.Accepts master n) (hloaded : (s.ctx n).loaded = true)
include haccepts hloaded

section
variable (hmay : (s.issued n 11 tag master args).mayName n ((s.issued n 11 tag master args).arg n 0) = true) (hregion : s.region ((s.issued n 11 tag master args).arg n 0) = some g)
include hmay hregion

theorem exec_verOpen_opens {u : State} (hnone : 3 ≤ g.pend) (hshared : g.shared = true) (hopen : (s.issued n 11 tag master args).openVersion ((s.issued n 11 tag master args).arg n 0) = some u) :
    exec (.verOpen master n tag args) s = .next (u.cmdDone n 0 (some (u.openedBase ((s.issued n 11 tag master args).arg n 0)))) := by
  have hpend : ¬g.pend < 3 := Nat.not_lt.mpr hnone
  rw [exec_verOpen, execVerOpen, State.command_accepted haccepts]
  simp only [State.issued_loaded, hloaded, hmay, State.issued_region, hregion, if_neg hpend, hshared, hopen, Bool.not_true, Bool.false_eq_true, false_and, if_false]
  rfl

theorem exec_verOpen_pending (hpend : g.pend < 3) : exec (.verOpen master n tag args) s = .next ((s.issued n 11 tag master args).cmdDone n 0x40 none) := by
  rw [exec_verOpen, execVerOpen, State.command_accepted haccepts]
  simp only [State.issued_loaded, hloaded, hmay, State.issued_region, hregion, if_pos hpend, Bool.not_true, Bool.false_eq_true, if_false]

end

section
variable (hmay : (s.issued n 12 tag master args).mayName n ((s.issued n 12 tag master args).arg n 0) = true) (hregion : s.region ((s.issued n 12 tag master args).arg n 0) = some g)
include hmay hregion

theorem exec_verPublish_asks (hpend : g.pend < 3) :
    exec (.verPublish master n tag args) s = .next ((s.issued n 12 tag master args).setRegion ((s.issued n 12 tag master args).arg n 0) { g with publishing := true }) := by
  rw [exec_verPublish, execVerPublish, State.command_accepted haccepts]
  simp only [State.issued_loaded, hloaded, hmay, State.issued_region, hregion, if_neg (Nat.not_le.mpr hpend), Bool.not_true, Bool.false_eq_true, if_false]

theorem exec_verPublish_none (hnone : 3 ≤ g.pend) : exec (.verPublish master n tag args) s = .next ((s.issued n 12 tag master args).cmdDone n 0x41 none) := by
  rw [exec_verPublish, execVerPublish, State.command_accepted haccepts]
  simp only [State.issued_loaded, hloaded, hmay, State.issued_region, hregion, if_pos hnone, Bool.not_true, Bool.false_eq_true, if_false]

end

/-! ### Evaluation (R301, R302) -/

/-- An EVAL_BIND of the physical function waits for the boundary of its training context, in place of one that still waited. -/
theorem exec_evalBind_waits (hpf : master = 0x8000) (hctx : (s.issued n 13 tag master args).arg n 0 < 64) (hother : (s.issued n 13 tag master args).arg n 0 ≠ n)
    (hhold : (s.issued n 13 tag master args).arg n 5 ≤ 1) (htrain : (s.ctx ((s.issued n 13 tag master args).arg n 0)).loaded = true)
    (hmay : ∀ r ∈ (s.issued n 13 tag master args).bindArgs n, (s.issued n 13 tag master args).mayName ((s.issued n 13 tag master args).arg n 0) r = true) :
    exec (.evalBind master n tag args) s = .next ((s.issued n 13 tag master args).modCtx n (fun c => { c with mem := { c.mem with
      evals := ⟨(s.issued n 13 tag master args).arg n 0, (s.issued n 13 tag master args).bindArgs n, decide ((s.issued n 13 tag master args).arg n 5 = 1), false, []⟩ ::
        c.mem.evals.filter (·.made) } })) := by
  have hargs : ¬(64 ≤ (s.issued n 13 tag master args).arg n 0 ∨ (s.issued n 13 tag master args).arg n 0 = n ∨ 1 < (s.issued n 13 tag master args).arg n 5) := by omega
  have hnamed : ¬((s.issued n 13 tag master args).bindArgs n).any (fun r => !(s.issued n 13 tag master args).mayName ((s.issued n 13 tag master args).arg n 0) r) = true := by
    simpa using hmay
  unfold State.bindArgs at *
  rw [exec_evalBind, execEvalBind, State.command_accepted haccepts]
  simp only [State.issued_loaded, hloaded, htrain, if_neg hargs, if_neg hnamed, Bool.not_true, Bool.false_eq_true, if_false]
  rw [if_neg fun h => h.1 hpf]

end

/-- An EVAL_RELEASE of bindings that hold no slot ends them, with the access that they gave. -/
theorem exec_evalRelease_unbound {s : State} {master n : Nat} (haccepts : s.Accepts master n) (hevals : (s.ctx n).mem.evals ≠ []) (hbound : evalSlots (s.ctx n).mem.evals = [])
    (tag : Nat) (args : List Nat) :
    exec (.evalRelease master n tag args) s = .next ((((s.issued n 14 tag master args).revoke (fun _ e => aclOf n e && bitOf e 44)).modCtx n
      (fun c => { c with mem := { c.mem with evals := [] } })).cmdDone n 0 none) := by
  obtain ⟨b, bs, hcons⟩ := List.exists_cons_of_ne_nil hevals
  rw [hcons] at hbound
  rw [exec_evalRelease, execEvalRelease, State.command_accepted haccepts]
  simp only [State.issued_ctx, hcons, hbound, List.foldl_nil]

/-! ### Publication and release (R218, R219) -/

/-- A publication that no command asked for completes once its writes are done. -/
theorem exec_publishComplete_done {s : State} {r : Nat} {g : Region} (hregion : s.region r = some g) (hasked : g.publishing = true) (hdone : s.writesDone r g = true)
    (hidle : ∀ c ∈ (s.publish r).ctxs, c.2.cmd.busy = false) : exec (.publishComplete r false) s = .next (s.publish r) := by
  have hnone : (s.publish r).ctxs.filter (fun c => c.2.cmd.busy && decide (c.2.cmd.op = 0x0C ∧ c.2.cmd.args.getD 0 0 = r)) = [] :=
    List.filter_eq_nil_iff.mpr fun c hc => by simp [hidle c hc]
  simp only [exec_publishComplete, execPublishComplete, hregion, hasked, hdone, Bool.not_true, Bool.false_eq_true, or_self, if_false, hnone, List.map_nil, List.foldl_nil]

section
variable {s : State} {r k : Nat} {g : Region} (hregion : s.region r = some g)
include hregion

theorem exec_versionRelease_free (hdraining : g.slot k = 3) (hheld : s.slotHeld r k = false) : exec (.versionRelease r k) s = .next (s.releaseSlot r k) := by
  simp only [exec_versionRelease, execVersionRelease, hregion, hdraining, hheld, ne_eq, not_true_eq_false, Bool.false_eq_true, or_self, if_false]

theorem exec_versionRelease_held (hheld : s.slotHeld r k = true) : exec (.versionRelease r k) s = .next s := by
  simp only [exec_versionRelease, execVersionRelease, hregion, hheld, or_true, if_true]

end

/-- Settles O39: each command by the conditions under which it has its effect. -/
theorem versionsAndEvaluation : Obligations.VersionsAndEvaluation := by
  unfold Obligations.VersionsAndEvaluation
  refine ⟨fun s master n tag args g haccepts hstate => ⟨fun u => ?_, ?_, ?_, ?_⟩, fun s master n tag args haccepts hevals hbound => exec_evalRelease_unbound haccepts hevals hbound tag args,
    fun s r g => exec_publishComplete_done, fun s r k g hregion hdraining => ⟨exec_versionRelease_free hregion hdraining, exec_versionRelease_held hregion⟩⟩
  · exact fun hmay hregion hnone hshared hopen => exec_verOpen_opens haccepts (decide_eq_true hstate) hmay hregion hnone hshared hopen
  · exact fun hmay hregion hpend => exec_verOpen_pending haccepts (decide_eq_true hstate) hmay hregion hpend
  · exact fun hmay hregion =>
      ⟨exec_verPublish_asks haccepts (decide_eq_true hstate) hmay hregion, exec_verPublish_none haccepts (decide_eq_true hstate) hmay hregion⟩
  · exact fun hctx hother hhold hpf htrain hmay => exec_evalBind_waits haccepts (decide_eq_true hstate) hpf hctx hother hhold (decide_eq_true htrain) hmay

end Sys2Proof.Machine
end

section
/-! Aligned reduction (R224, R228) and the order of its contributions: it reads them by the largest of their codes, the sums of their integers, and what is found among them. -/

namespace Sys2Proof.Machine

/-- An element of the integer pass (R224) reads its contributions by the sum of their integers and by whether one of them dropped bits. -/
theorem alignedElem_perm (cb : Nat) {ts us : List (Int × Bool)} (h : ts.Perm us) : alignedElem cb ts = alignedElem cb us := by
  have hsum : (ts.map (·.1)).foldl (· + ·) 0 = (us.map (·.1)).foldl (· + ·) 0 := (h.map _).foldl_eq 0
  have hdropped : ts.any (·.2) = us.any (·.2) := h.any_eq
  simp only [alignedElem, hsum, hdropped]

/-- An element of a special block (R228) reads the classes of its contributions by which classes are among them. -/
theorem specialElem_perm {cls cls' : List Nat} (h : cls.Perm cls') (e : Nat × FlagBits) : specialElem cls e = specialElem cls' e := by
  have hclass : ∀ c, cls.contains c = cls'.contains c := fun c => h.contains_eq
  simp only [specialElem, hclass]

/-- The reduction of a block does not depend on the order of the words of passes 2 and 3. -/
theorem blockResult_perm (cb cf : Nat) {cls cls' ints ints' : List (List Nat)} (hcls : cls.Perm cls') (hints : ints.Perm ints') :
    blockResult cb cf cls ints = blockResult cb cf cls' ints' := by
  have helem : ∀ grid i, alignedElem grid (ints.map (intElem i)) = alignedElem grid (ints'.map (intElem i)) := fun grid i => alignedElem_perm grid (hints.map _)
  have hspecial : ∀ i e, specialElem (cls.map (fun c => c.getD (i + 1) 0)) e = specialElem (cls'.map (fun c => c.getD (i + 1) 0)) e :=
    fun i e => specialElem_perm (hcls.map _) e
  simp only [blockResult, helem, hspecial]

/-- Settles O32: the largest codes give one grid in every order, and on it each element is the same. -/
theorem alignedReductionOrderFree : Obligations.AlignedReductionOrderFree := by
  unfold Obligations.AlignedReductionOrderFree
  intro cs ds h
  have hcode : (cs.map blockCode).foldl max 0 = (ds.map blockCode).foldl max 0 := (h.map _).foldl_eq 0
  have hfinite : (cs.map finiteCode).foldl max 0 = (ds.map finiteCode).foldl max 0 := (h.map _).foldl_eq 0
  simp only [alignedBlock, hcode, hfinite]
  exact blockResult_perm _ _ (h.map _) (h.map _)

end Sys2Proof.Machine
end

section
/-! Collectives (R230 to R240): the checks at a queue's head, start, completion and timeout, and what a message of a peer does. -/

namespace Sys2Proof.Machine

theorem exec_collectiveHeadCheck (n i : Nat) (s : State) : exec (.collectiveHeadCheck n i) s = execCollectiveHeadCheck n i s := rfl
theorem exec_collectiveStart (n i : Nat) (s : State) : exec (.collectiveStart n i) s = execCollectiveStart n i s := rfl
theorem exec_collectiveMessageReceive (n i : Nat) (m : CollMsg) (s : State) : exec (.collectiveMessageReceive n i m) s = execCollectiveMessageReceive n i m s := rfl
theorem exec_collectiveRetransmitRequest (n i : Nat) (m : CollMsg) (s : State) : exec (.collectiveRetransmitRequest n i m) s = execCollectiveRetransmitRequest n i m s := rfl
theorem exec_collectiveContributionRequest (n i : Nat) (m : CollMsg) (s : State) : exec (.collectiveContributionRequest n i m) s = execCollectiveContributionRequest n i m s := rfl
theorem exec_collectiveFailureNotice (n i : Nat) (m : CollMsg) (s : State) : exec (.collectiveFailureNotice n i m) s = execCollectiveFailureNotice n i m s := rfl
theorem exec_collectiveTimeout (n i : Nat) (s : State) : exec (.collectiveTimeout n i) s = execCollectiveTimeout n i s := rfl
theorem exec_collectiveCompletion (n i : Nat) (s : State) : exec (.collectiveCompletion n i) s = execCollectiveCompletion n i s := rfl

/-! ### The head of a collective queue (R230, R232, R235) -/

section
variable {s : State} {n i d : Nat}

theorem State.collCheck_illegal (hlegal : s.collLegal n d = false) : s.collCheck n i d = some ((s.collRec n i 0x10 2 0).collStop n i 0x10) := by
  simp only [State.collCheck, hlegal, Bool.not_false, if_true]

theorem State.collCheck_eager (hlegal : s.collLegal n d = true) (heager : bitsOf d 7 4 = 4) (hstrict : s.regs.strictActive = true) :
    s.collCheck n i d = some (((s.count 1 .strictFaults 1).collRec n i 0x16 2 0).collStop n i 0x16) := by
  simp only [State.collCheck, hlegal, heager, hstrict, Bool.not_true, Bool.false_eq_true, if_false, and_self, if_true]

theorem State.collCheck_legal (hlegal : s.collLegal n d = true) (hmay : ¬(bitsOf d 7 4 = 4 ∧ s.regs.strictActive = true)) : s.collCheck n i d = none := by
  simp only [State.collCheck, hlegal, Bool.not_true, Bool.false_eq_true, if_false, if_neg hmay]

variable {q : Cq} (hhead : s.collHead n i = some (q, d))
include hhead

/-- A descriptor at its queue's head is checked, and waits where the checks find nothing. -/
theorem exec_collectiveHeadCheck_head : exec (.collectiveHeadCheck n i) s = .next ((s.collCheck n i d).getD s) := by
  simp only [exec_collectiveHeadCheck, execCollectiveHeadCheck, hhead]

theorem exec_collectiveStart_refused {t : State} (hcheck : s.collCheck n i d = some t) : exec (.collectiveStart n i) s = .next t := by
  simp only [exec_collectiveStart, execCollectiveStart, hhead, hcheck]

/-- A descriptor that passes the checks starts once its counter is reached. -/
theorem exec_collectiveStart_checked (hcheck : s.collCheck n i d = none) : exec (.collectiveStart n i) s = .next (if s.cqReady n q then s.collBegin n i q d else s) := by
  simp only [exec_collectiveStart, execCollectiveStart, hhead, hcheck]

end

/-! ### A message of the collective in progress (R236, R238, R239) -/

section
variable {s : State} {n i : Nat} {q : Cq} {r : CollRun} {m : CollMsg}

/-- Where the copies of the engine differ, the message is not looked at (R306). -/
theorem State.collTake_lockstep (hlockstep : m.lockstep = true) : s.collTake n i q r m = s.ceFault q.engine := by
  simp only [State.collTake, hlockstep, if_true]

variable (hlockstep : m.lockstep = false)
include hlockstep

/-- A message found corrupt is asked for again, as long as tries are left (R238). -/
theorem State.collTake_corrupt (hcrc : collCrcOk 0 m = false) (htries : tget 0 r.retries (heldKey m.pass m.shard m.part m.block) < 2) :
    s.collTake n i q r m = ((s.modCq n i (fun q => { q with run := some { r with
      retries := tset r.retries (heldKey m.pass m.shard m.part m.block) (tget 0 r.retries (heldKey m.pass m.shard m.part m.block) + 1) } })).askAgain n q r m).count
      (cePage (q.engine / 4)) .ceRetransmits 1 := by
  simp only [State.collTake, hlockstep, hcrc, Bool.not_false, Bool.false_eq_true, if_false, if_true, if_pos htries]

variable (hcrc : collCrcOk 0 m = true)
include hcrc

theorem State.collTake_differs (hdiffers : r.differs m = true) : s.collTake n i q r m = s.collMismatch n i m := by
  simp only [State.collTake, hlockstep, hcrc, hdiffers, Bool.not_true, Bool.false_eq_true, if_false, if_true]

variable (hdiffers : r.differs m = false)
include hdiffers

theorem State.collTake_duplicate (hheld : (tfind r.held (heldKey m.pass m.shard m.part m.block)).isSome = true) :
    s.collTake n i q r m = s.count (cePage (q.engine / 4)) .ceDuplicates 1 := by
  simp only [State.collTake, hlockstep, hcrc, hdiffers, hheld, Bool.not_true, Bool.false_eq_true, if_false, if_true]

/-- A part of the collective that is not held yet is held; the next pass and the results follow where it was the last. -/
theorem State.collTake_new (hnew : tfind r.held (heldKey m.pass m.shard m.part m.block) = none) (hshard : m.shard ∈ (s.ctx n).groupShards r.group) (hpart : m.part < r.parts)
    (hblock : m.block < r.count) (hpass : m.pass < 4) (hlength : m.payload.length = passLen m.pass) :
    s.collTake n i q r m = ((s.modCq n i (fun q => { q with run := some (r.hold (heldKey m.pass m.shard m.part m.block) (m.payload.map (· % 2 ^ 64))) })).collFollow n i
      m.block 2 m.pass).collResults n i := by
  have hgroup : ((s.ctx n).groupShards r.group).contains m.shard = true := List.contains_iff_mem.mpr hshard
  have hfits : ¬((!((s.ctx n).groupShards r.group).contains m.shard) = true ∨ r.parts ≤ m.part ∨ r.count ≤ m.block ∨ 4 ≤ m.pass ∨ m.payload.length ≠ passLen m.pass) := by
    simp only [hgroup, Bool.not_true, Bool.false_eq_true, false_or]
    omega
  simp only [State.collTake, hlockstep, hcrc, hdiffers, hnew, Option.isSome_none, Bool.not_true, Bool.false_eq_true, if_false, if_neg hfits]

end

/-! ### Answers from the sources (R238, R239, R291) -/

section
variable {s : State} {n i : Nat} {q : Cq} {m : CollMsg} {one : Bool} (hqueue : tfind (s.ctx n).cqs i = some q) (hcrc : collCrcOk (if one then 1 else 2) m = true)
include hqueue hcrc

theorem State.answerColl_otherGeneration (hgen : m.gen ≠ (s.ctx n).job.gen) : s.answerColl n i m one = s.discard n := by
  simp only [State.answerColl, hqueue, hcrc, Bool.not_true, Bool.false_eq_true, if_false, if_pos hgen]

/-- A request for a collective of the present step that agrees with the descriptor, and whose sources can be read, is answered: with one message, or with every contribution. -/
theorem State.answerColl_answered {r : CollRun} (hgen : m.gen = (s.ctx n).job.gen) (hstep : m.step = (s.ctx n).st.step) (hloaded : (s.ctx n).loaded = true)
    (hfound : s.findColl q m = some r) (hdiffers : r.differs m = false) (hsource : s.collSrcCheck n q r = none) (hlines : s.collBadLine n r = none) :
    s.answerColl n i m one =
      if one then
        (if (s.groupHere n r.group).contains m.shard ∧ m.part < r.parts ∧ m.block < r.count ∧ m.pass < 4 then
          s.send (s.collOut n q r m.dev 0 m.shard m.part m.block m.pass (passWords m.pass (m.payload.getD 0 0) (s.ownBlock n r m.shard m.part m.block)))
        else s)
      else s.sendAll (((List.range r.count).filter (fun b => s.takesPass n r m.dev r.firstPass b)).flatMap (fun b => s.collMsgs n q r m.dev r.firstPass 0 b)) := by
  have hpresent : ¬(m.step ≠ (s.ctx n).st.step ∨ (!(s.ctx n).loaded) = true) := by simp [hstep, hloaded]
  simp only [State.answerColl, hqueue, hcrc, Bool.not_true, Bool.false_eq_true, if_false, if_neg (not_not_intro hgen), if_neg hpresent, hfound, hdiffers, hsource, hlines]

end

/-! ### Messages at a queue's engine (R236 to R240) -/

section
variable {s : State} {n i : Nat} {q : Cq} {m : CollMsg} (hn : n < 64)
include hn

theorem exec_collectiveMessageReceive_inRange : exec (.collectiveMessageReceive n i m) s = .next (s.collMessage n i m) := by
  simp only [exec_collectiveMessageReceive, execCollectiveMessageReceive, if_neg (Nat.not_le.mpr hn)]

theorem exec_collectiveRetransmitRequest_inRange : exec (.collectiveRetransmitRequest n i m) s = .next (s.answerColl n i m true) := by
  simp only [exec_collectiveRetransmitRequest, execCollectiveRetransmitRequest, if_neg (Nat.not_le.mpr hn)]

theorem exec_collectiveContributionRequest_inRange : exec (.collectiveContributionRequest n i m) s = .next (s.answerColl n i m false) := by
  simp only [exec_collectiveContributionRequest, execCollectiveContributionRequest, if_neg (Nat.not_le.mpr hn)]

variable (hqueue : tfind (s.ctx n).cqs i = some q)
include hqueue

/-- A message, a notice or a request of another generation is discarded (R239); a request only where its CRC verifies. -/
theorem exec_collectiveMessage_discarded (hgen : m.gen ≠ (s.ctx n).job.gen) :
    exec (.collectiveMessageReceive n i m) s = .next (s.discard n) ∧ exec (.collectiveFailureNotice n i m) s = .next (s.discard n) ∧
      (collCrcOk 1 m = true → exec (.collectiveRetransmitRequest n i m) s = .next (s.discard n)) ∧
      (collCrcOk 2 m = true → exec (.collectiveContributionRequest n i m) s = .next (s.discard n)) := by
  refine ⟨?_, ?_, fun hcrc => ?_, fun hcrc => ?_⟩
  · simp only [exec_collectiveMessageReceive_inRange hn, State.collMessage, hqueue, if_pos hgen]
  · simp only [exec_collectiveFailureNotice, execCollectiveFailureNotice, if_neg (Nat.not_le.mpr hn), hqueue, if_pos hgen]
  · rw [exec_collectiveRetransmitRequest_inRange hn, State.answerColl_otherGeneration (one := true) hqueue hcrc hgen]
  · rw [exec_collectiveContributionRequest_inRange hn, State.answerColl_otherGeneration (one := false) hqueue hcrc hgen]

/-- A collective whose results are written completes (R235). -/
theorem exec_collectiveCompletion_done {r : CollRun} (hrun : q.run = some r) (hdone : r.done = true) :
    exec (.collectiveCompletion n i) s = .next (s.collDone n i r q.engine) := by
  simp only [exec_collectiveCompletion, execCollectiveCompletion, if_neg (Nat.not_le.mpr hn), hqueue, hrun, hdone, if_true]

/-- With contributions missing past the timeout, the record, the notice to the group and the abort follow (R240). -/
theorem exec_collectiveTimeout_missing {r : CollRun} (hrun : q.run = some r) (hlate : r.limit < r.waited) (hmissing : s.collMissing n r ≠ []) :
    ∃ syn, exec (.collectiveTimeout n i) s = .next (((s.collRec n i 0x20 ((s.ctx n).abortAction true) syn).collNotify n r 0x20).collAbort n i 0x20) := by
  have hexpired : ¬(r.waited ≤ r.limit ∨ (s.collMissing n r).isEmpty = true) := by
    rw [List.isEmpty_iff]
    exact not_or.mpr ⟨Nat.not_le.mpr hlate, hmissing⟩
  simp only [exec_collectiveTimeout, execCollectiveTimeout, if_neg (Nat.not_le.mpr hn), hqueue, hrun, Option.bind_some, if_neg hexpired]
  exact ⟨_, rfl⟩

variable (hgen : m.gen = (s.ctx n).job.gen)
include hgen

/-- A message of a collective that has not started waits for its start (R239). -/
theorem exec_collectiveMessageReceive_early (hrun : q.run = none) :
    exec (.collectiveMessageReceive n i m) s = .next (s.modCq n i (fun q => { q with early := q.early ++ [m] })) := by
  simp only [exec_collectiveMessageReceive_inRange hn, State.collMessage, hqueue, if_neg (not_not_intro hgen), hrun]

theorem exec_collectiveMessageReceive_inProgress {r : CollRun} (hrun : q.run = some r) (hmatches : s.collMatches n r m = true) :
    exec (.collectiveMessageReceive n i m) s = .next (s.collTake n i q r m) := by
  simp only [exec_collectiveMessageReceive_inRange hn, State.collMessage, hqueue, if_neg (not_not_intro hgen), hrun, if_pos hmatches]

theorem exec_collectiveFailureNotice_inProgress {r : CollRun} (hrun : q.run = some r) (hmatches : s.collMatches n r m = true) :
    exec (.collectiveFailureNotice n i m) s = .next (s.collNotified n i m) := by
  simp only [exec_collectiveFailureNotice, execCollectiveFailureNotice, if_neg (Nat.not_le.mpr hn), hqueue, if_neg (not_not_intro hgen), hrun, Option.any_some, if_pos hmatches]

/-- A notice of a collective that has not started waits for its start. -/
theorem exec_collectiveFailureNotice_early (hrun : q.run = none) (hpassed : s.collPassed n q m = false) :
    exec (.collectiveFailureNotice n i m) s = .next (s.modCq n i (fun q => { q with notes := q.notes ++ [m] })) := by
  simp only [exec_collectiveFailureNotice, execCollectiveFailureNotice, if_neg (Nat.not_le.mpr hn), hqueue, if_neg (not_not_intro hgen), hrun, Option.any_none, hpassed,
    Bool.false_eq_true, if_false]

end

/-- Settles O31: the head by its checks, a message by its generation and by whether its collective is in progress, and a request by what its sources give. -/
theorem collectives : Obligations.Collectives := by
  unfold Obligations.Collectives
  refine ⟨fun s n i q d hn => ⟨fun hhead => ⟨fun hlegal => ?_, fun hlegal heager hstrict => ?_, fun hlegal hmay => ?_⟩, fun r hqueue hrun hdone => ?_⟩, fun s n i q m hn hqueue => ?_⟩
  · have hcheck : s.collCheck n i d = some _ := State.collCheck_illegal hlegal
    exact ⟨by rw [exec_collectiveHeadCheck_head hhead, hcheck, Option.getD_some], exec_collectiveStart_refused hhead hcheck⟩
  · rw [exec_collectiveHeadCheck_head hhead, State.collCheck_eager hlegal heager hstrict, Option.getD_some]
  · have hcheck : s.collCheck n i d = none := State.collCheck_legal hlegal hmay
    refine ⟨by rw [exec_collectiveHeadCheck_head hhead, hcheck, Option.getD_none], fun hready => ?_, fun hwaits => ?_⟩
    · rw [exec_collectiveStart_checked hhead hcheck, if_pos hready]
    · rw [exec_collectiveStart_checked hhead hcheck, if_neg (ne_true_of_eq_false hwaits)]
  · exact exec_collectiveCompletion_done hn hqueue hrun hdone
  · refine ⟨exec_collectiveMessage_discarded hn hqueue, exec_collectiveMessageReceive_early hn hqueue, fun r hgen hrun hmatches => ?_, exec_collectiveFailureNotice_early hn hqueue,
      fun r => ⟨State.collTake_lockstep rfl, State.collTake_corrupt, State.collTake_differs, State.collTake_duplicate, State.collTake_new⟩,
      fun r hgen hstep hloaded hfound hdiffers hsource hlines => ⟨fun hcrc => ?_, fun hcrc hshard hpart hblock hpass => ?_⟩, fun r => exec_collectiveTimeout_missing hn hqueue⟩
    · exact ⟨exec_collectiveMessageReceive_inProgress hn hqueue hgen hrun hmatches, exec_collectiveFailureNotice_inProgress hn hqueue hgen hrun hmatches⟩
    · rw [exec_collectiveContributionRequest_inRange hn, State.answerColl_answered (one := false) hqueue hcrc hgen hstep hloaded hfound hdiffers hsource hlines,
        if_neg Bool.false_ne_true]
    · rw [exec_collectiveRetransmitRequest_inRange hn, State.answerColl_answered (one := true) hqueue hcrc hgen hstep hloaded hfound hdiffers hsource hlines, if_pos rfl,
        if_pos ⟨hshard, hpart, hblock, hpass⟩]

end Sys2Proof.Machine
end

section
/-! Links (R244, R245, R252 to R257, R307): the states of training, their limits and retrains, and the packets of an active link. -/

namespace Sys2Proof.Machine

theorem exec_linkSignalDetect (l : Nat) (s : State) : exec (.linkSignalDetect l) s = execLinkSignalDetect l s := rfl
theorem exec_linkEqualizeDone (l : Nat) (s : State) : exec (.linkEqualizeDone l) s = execLinkEqualizeDone l s := rfl
theorem exec_linkAlignDone (l : Nat) (s : State) : exec (.linkAlignDone l) s = execLinkAlignDone l s := rfl
theorem exec_identMessage (l : Nat) (m : IdentMsg) (s : State) : exec (.identMessage l m) s = execIdentMessage l m s := rfl
theorem exec_negotiateMessage (l v : Nat) (s : State) : exec (.negotiateMessage l v) s = execNegotiateMessage l v s := rfl
theorem exec_linkTrainingTimeout (l : Nat) (s : State) : exec (.linkTrainingTimeout l) s = execLinkTrainingTimeout l s := rfl
theorem exec_codewordLockLoss (l : Nat) (s : State) : exec (.codewordLockLoss l) s = .next (s.retrain l) := rfl
theorem exec_uncorrectableCodewordLimit (l c u : Nat) (s : State) : exec (.uncorrectableCodewordLimit l c u) s = execUncorrectableCodewordLimit l c u s := rfl
theorem exec_lnkCtrlRetrain (m l : Nat) (s : State) : exec (.lnkCtrlRetrain m l) s = execLnkCtrlRetrain m l s := rfl
theorem exec_piecePacketReceive (l : Nat) (bs : List Byte) (upset : Bool) (s : State) : exec (.piecePacketReceive l bs upset) s = execPiecePacketReceive l bs upset s := rfl
theorem exec_ackReceive (l q : Nat) (s : State) : exec (.ackReceive l q) s = execAckReceive l q s := rfl
theorem exec_nakReceive (l q : Nat) (s : State) : exec (.nakReceive l q) s = .next (s.nak l q) := rfl
theorem exec_ackTimer (l : Nat) (s : State) : exec (.ackTimer l) s = execAckTimer l s := rfl
theorem exec_controlPacketReceive (l : Nat) (bs : List Byte) (s : State) : exec (.controlPacketReceive l bs) s = execControlPacketReceive l bs s := rfl

/-! ### From DETECT to ACTIVE (R252, R255 to R257) -/

section
variable {s : State} {l : Nat}

theorem exec_linkSignalDetect_detect (hstate : (s.link l).state = 1) : exec (.linkSignalDetect l) s = .next (s.linkTo l 2) := by
  rw [exec_linkSignalDetect, execLinkSignalDetect, if_pos hstate]

theorem exec_linkEqualizeDone_equalize (hstate : (s.link l).state = 2) : exec (.linkEqualizeDone l) s = .next (s.linkTo l 3) := by
  rw [exec_linkEqualizeDone, execLinkEqualizeDone, if_pos hstate]

theorem exec_linkAlignDone_align (hstate : (s.link l).state = 3) : exec (.linkAlignDone l) s = .next (s.enterIdent l) := by
  rw [exec_linkAlignDone, execLinkAlignDone, if_pos hstate]

/-- What the far end said of itself in IDENT, recorded (Table 11.8). -/
def State.identTaken (s : State) (l : Nat) (m : IdentMsg) : State :=
  s.setLink l { s.link l with farValid := true, farIndex := m.index % 128, farLink := m.link % 32, farPlan := m.plan % 8, farStepping := m.stepping % 256, farMax := m.version % 256, farDevid := m.devid }

/-- The first identity after training began is compared with the plan alone: no earlier one can differ from it. -/
theorem exec_identMessage_first (hstate : (s.link l).state = 4) (hfirst : (s.link l).again = false) (m : IdentMsg) :
    exec (.identMessage l m) s = .next (if (s.portOf l).bind s.portFar ≠ some (m.index % 128) ∨ farLink l ≠ some (m.link % 32) then (s.identTaken l m).linkFault l 3
      else if m.plan % 8 ≠ s.plan then (s.identTaken l m).linkFault l 4 else (s.identTaken l m).enterNegotiate l) := by
  rw [exec_identMessage, execIdentMessage, if_neg (not_not_intro hstate)]
  exact congrArg Host.Outcome.next (if_neg (by simp [hfirst]))

theorem exec_identMessage_otherIndex (hstate : (s.link l).state = 4) (hfirst : (s.link l).again = false) {m : IdentMsg} (hindex : (s.portOf l).bind s.portFar ≠ some (m.index % 128)) :
    exec (.identMessage l m) s = .next ((s.identTaken l m).linkFault l 3) := by
  rw [exec_identMessage_first hstate hfirst, if_pos (.inl hindex)]

section
variable (hstate : (s.link l).state = 4) (hfirst : (s.link l).again = false) {m : IdentMsg} (hindex : (s.portOf l).bind s.portFar = some (m.index % 128)) (hlink : farLink l = some (m.link % 32))
include hstate hfirst hindex hlink

theorem exec_identMessage_asPlanned (hplan : m.plan % 8 = s.plan) : exec (.identMessage l m) s = .next ((s.identTaken l m).enterNegotiate l) := by
  rw [exec_identMessage_first hstate hfirst, if_neg (not_or.mpr ⟨not_not_intro hindex, not_not_intro hlink⟩), if_neg (not_not_intro hplan)]

theorem exec_identMessage_otherPlan (hplan : m.plan % 8 ≠ s.plan) : exec (.identMessage l m) s = .next ((s.identTaken l m).linkFault l 4) := by
  rw [exec_identMessage_first hstate hfirst, if_neg (not_or.mpr ⟨not_not_intro hindex, not_not_intro hlink⟩), if_pos hplan]

end

/-- In NEGOTIATE the far end's version decides by its major number (R257). -/
theorem exec_negotiateMessage_negotiate {v : Nat} (hstate : (s.link l).state = 5) (hv : v < 256) :
    exec (.negotiateMessage l v) s = .next (if v / 16 ≠ s.protoMax / 16 then (s.setLink l { s.link l with farMax := v }).linkFault l 5
      else (s.setLink l { s.link l with farMax := v }).linkActive l (min v s.protoMax)) := by
  rw [exec_negotiateMessage, execNegotiateMessage, if_neg (not_not_intro hstate), Nat.mod_eq_of_lt hv]
  rfl

/-! ### The limits of the training states (R252, Table 11.6) -/

theorem exec_linkTrainingTimeout_early (hearly : s.now < (s.link l).enteredAt + trainLimit (s.link l).state) : exec (.linkTrainingTimeout l) s = .next s := by
  rw [exec_linkTrainingTimeout, execLinkTrainingTimeout, if_pos (.inr (.inr hearly))]

/-- Past its limit a training state is left by the branch of its own number. -/
theorem exec_linkTrainingTimeout_late {n : Nat} (hlate : (s.link l).enteredAt + trainLimit (s.link l).state ≤ s.now) (hstate : (s.link l).state = n) (hpos : n ≠ 0) (hlt : n < 6) :
    exec (.linkTrainingTimeout l) s = .next (if n = 1 then s.linkTo l 1 else if n = 2 then s.linkFault l 1
      else if n = 3 then (if (s.link l).short then (s.setLink l { s.link l with short := false }).linkTo l 2 else s.linkFault l 2)
      else if n = 4 then (s.drawn 1).linkFault l ([3, 4, 7].getD (s.freeVal 3) 3) else s.linkFault l 5) := by
  subst hstate
  rw [exec_linkTrainingTimeout, execLinkTrainingTimeout, if_neg (not_or.mpr ⟨hpos, not_or.mpr ⟨Nat.not_le.mpr hlt, Nat.not_lt.mpr hlate⟩⟩)]

/-! ### Retrains (R253, R254) -/

/-- A fourth retrain within a minute is a fault. -/
theorem State.retrain_fourth (hstate : (s.link l).state = 6) (hrecent : 3 ≤ ((s.link l).retrainAt.filter (fun t => decide (s.now ≤ t + 6000000000))).length) :
    s.retrain l = s.linkFault l 6 := by
  simp only [State.retrain, hstate, ne_eq, not_true_eq_false, if_false, if_pos hrecent]

theorem exec_uncorrectableCodewordLimit_counted (hl : l < 32) (c u : Nat) :
    exec (.uncorrectableCodewordLimit l c u) s = .next (if 16 < u then ((s.count (linkPage l) .fecCorrected c).count (linkPage l) .fecUncorrectable u).retrain l
      else (s.count (linkPage l) .fecCorrected c).count (linkPage l) .fecUncorrectable u) := by
  rw [exec_uncorrectableCodewordLimit, execUncorrectableCodewordLimit, if_neg (Nat.not_le.mpr hl)]

/-- A master other than the Lectern trains a link afresh, except that only the Bureau does so out of a fault. -/
theorem exec_lnkCtrlRetrain_master {m : Nat} (hl : l < 32) (hm : m ≠ 0xF001) :
    exec (.lnkCtrlRetrain m l) s = .next (if (s.link l).state = 7 ∧ m ≠ 0xF000 then s.blkErr (linkPage l) 5 else s.trainLink l) := by
  rw [exec_lnkCtrlRetrain, execLnkCtrlRetrain, if_neg (not_or.mpr ⟨Nat.not_le.mpr hl, fun h => hm h.1⟩)]

end

/-- Settles O33: each event of training by the state it finds the link in, and a retrain by how many there were within a minute. -/
theorem linkTrainingAndRetrain : Obligations.LinkTrainingAndRetrain := by
  unfold Obligations.LinkTrainingAndRetrain
  refine ⟨fun s l => ⟨exec_linkSignalDetect_detect, exec_linkEqualizeDone_equalize, exec_linkAlignDone_align, fun m hstate hfirst => ?_, fun v hstate hv => ?_⟩, fun s l hl => ?_⟩
  · exact ⟨exec_identMessage_asPlanned hstate hfirst, exec_identMessage_otherIndex hstate hfirst, exec_identMessage_otherPlan hstate hfirst⟩
  · rw [exec_negotiateMessage_negotiate hstate hv]
    exact ⟨fun hsame => by rw [if_neg (not_not_intro hsame)], fun hother => by rw [if_pos hother]⟩
  · refine ⟨exec_linkTrainingTimeout_early, fun hlate => ⟨fun h => ?_, fun h => ?_, fun h hlong => ?_, fun h hshort => ?_, fun h => ?_⟩, exec_codewordLockLoss l s, fun c u hfew => ?_, fun c u hmany => ?_,
      fun m hm hmay => ?_, fun m hm hfault hnot => ?_, State.retrain_fourth⟩
    · exact exec_linkTrainingTimeout_late hlate h (by decide) (by decide)
    · exact exec_linkTrainingTimeout_late hlate h (by decide) (by decide)
    · exact (exec_linkTrainingTimeout_late hlate h (by decide) (by decide)).trans (by simp only [hlong]; rfl)
    · exact (exec_linkTrainingTimeout_late hlate h (by decide) (by decide)).trans (by simp only [hshort]; rfl)
    · exact exec_linkTrainingTimeout_late hlate h (by decide) (by decide)
    · rw [exec_uncorrectableCodewordLimit_counted hl, if_neg (Nat.not_lt.mpr hfew)]
    · rw [exec_uncorrectableCodewordLimit_counted hl, if_pos hmany]
    · rw [exec_lnkCtrlRetrain_master hl hm, if_neg (fun h => hmay.elim (· h.1) h.2)]
    · rw [exec_lnkCtrlRetrain_master hl hm, if_pos ⟨hfault, hnot⟩]

/-! ### Bytes of a number and the CRC of a packet (R244) -/

theorem leNat_leBytes (n v : Nat) : leNat (leBytes n v) = v % 256 ^ n := by
  induction n generalizing v with
  | zero => rw [pow_zero, Nat.mod_one]; rfl
  | succ n ih =>
    have hbyte : (BitVec.ofNat 8 v).toNat = v % 256 := BitVec.toNat_ofNat v 8
    rw [leBytes, leNat, ih, hbyte, pow_succ', Nat.mod_mul]

theorem crc32Bit_lt {c : Nat} (hc : c < 2 ^ 32) : crc32Bit c < 2 ^ 32 := by
  have hhalf : c / 2 < 2 ^ 32 := Nat.lt_of_le_of_lt (Nat.div_le_self c 2) hc
  rw [crc32Bit]
  split
  · exact Nat.xor_lt_two_pow hhalf (by decide)
  · exact hhalf

theorem repeat_crc32Bit_lt (n : Nat) {c : Nat} (hc : c < 2 ^ 32) : Nat.repeat crc32Bit n c < 2 ^ 32 := by
  induction n with
  | zero => exact hc
  | succ n ih => exact crc32Bit_lt ih

theorem foldl_crc32_lt (bs : List Byte) {c : Nat} (hc : c < 2 ^ 32) : bs.foldl (fun c b => Nat.repeat crc32Bit 8 (c ^^^ b.toNat)) c < 2 ^ 32 := by
  induction bs generalizing c with
  | nil => exact hc
  | cons b bs ih => exact ih (repeat_crc32Bit_lt 8 (Nat.xor_lt_two_pow hc (Nat.lt_trans b.isLt (by decide))))

theorem crc32_lt (bs : List Byte) : crc32 bs < 2 ^ 32 := Nat.xor_lt_two_pow (foldl_crc32_lt bs (by decide)) (by decide)

/-- A packet ends in four bytes that read back as the CRC of the bytes before them. -/
theorem leNat_crc32_bytes (bs : List Byte) : leNat (leBytes 4 (crc32 bs)) = crc32 bs := by
  rw [leNat_leBytes]
  exact Nat.mod_eq_of_lt (crc32_lt bs)

/-- The header and the data of a piece packet do not reach into its CRC. -/
theorem pieceFields_append {b : List Byte} (hb : b.length = 264) (c : List Byte) : pieceFields (b ++ c) = pieceFields b := by
  have hhead : (b ++ c).take 8 = b.take 8 := List.take_append_of_le_length (by omega)
  have hdata : ((b ++ c).drop 8).take 256 = (b.drop 8).take 256 := by
    rw [List.drop_append_of_le_length (by omega), List.take_append_of_le_length (by rw [List.length_drop, hb])]
  rw [pieceFields, pieceFields, hhead, hdata]

/-! ### Piece packets (R244, R245, R307) -/

section
variable {s : State} {l : Nat}

/-- Taking a packet of class 3, which carries nothing for a port, only counts it, below the 64th since the last acknowledgement. -/
theorem State.takePiece_idle {h : List Nat} (hclass : h.getD 0 0 = 3) (hfew : (s.link l).rxCount < 63) (data : List Byte) :
    s.takePiece l h data = s.setLink l { s.link l with rxSeq := ((s.link l).rxSeq + 1) % 4096, nakOut := false, rxCount := (s.link l).rxCount + 1 } := by
  have hport : ∀ (t : State) (p : Nat), t.pieceAt p h data = t := fun t p => by
    rw [State.pieceAt, hclass, if_neg (by decide), if_neg (by decide)]
  have hbelow : ¬64 ≤ (s.link l).rxCount + 1 := by omega
  simp only [State.takePiece, hport]
  split <;> rw [State.link_setLink, if_neg hbelow]

theorem State.sendAck_link : (s.sendAck l).link l = { s.link l with rxCount := 0 } := s.link_setLink l _

variable (hl : l < 32) (hstate : (s.link l).state = 6)
include hl hstate

theorem exec_piecePacketReceive_upset (bs : List Byte) : exec (.piecePacketReceive l bs true) s = .next (s.retrain l) := by
  rw [exec_piecePacketReceive, execPiecePacketReceive, if_neg (not_or.mpr ⟨Nat.not_le.mpr hl, not_not_intro hstate⟩), if_pos rfl]

theorem exec_piecePacketReceive_bad {bs : List Byte} (hbad : bs.length ≠ 268 ∨ crc32 (bs.take 264) ≠ leNat (bs.drop 264) ∨ 4 ≤ (pieceFields bs).1.getD 0 0) :
    exec (.piecePacketReceive l bs false) s = .next (s.sendNak l) := by
  rw [exec_piecePacketReceive, execPiecePacketReceive, if_neg (not_or.mpr ⟨Nat.not_le.mpr hl, not_not_intro hstate⟩), if_neg Bool.false_ne_true, if_pos hbad]

/-- A packet whose CRC verifies and whose class is known goes by its number: expected, a gap, or received before. -/
theorem exec_piecePacketReceive_sealed {b : List Byte} (hb : b.length = 264) (hclass : (pieceFields b).1.getD 0 0 < 4) :
    exec (.piecePacketReceive l (b ++ leBytes 4 (crc32 b)) false) s = .next (if (pieceFields b).1.getD 6 0 ≠ (s.link l).rxSeq
      then (if seqDist (s.link l).rxSeq ((pieceFields b).1.getD 6 0) < 2048 then s.sendNak l else s)
      else s.takePiece l (pieceFields b).1 (pieceFields b).2) := by
  have hlen : (b ++ leBytes 4 (crc32 b)).length = 268 := by rw [List.length_append, hb, leBytes_length]
  have hcrc : crc32 ((b ++ leBytes 4 (crc32 b)).take 264) = leNat ((b ++ leBytes 4 (crc32 b)).drop 264) := by
    rw [List.take_left' hb, List.drop_left' hb, leNat_crc32_bytes]
  rw [exec_piecePacketReceive, execPiecePacketReceive, if_neg (not_or.mpr ⟨Nat.not_le.mpr hl, not_not_intro hstate⟩), if_neg Bool.false_ne_true, pieceFields_append hb,
    if_neg (not_or.mpr ⟨not_not_intro hlen, not_or.mpr ⟨not_not_intro hcrc, Nat.not_le.mpr hclass⟩⟩)]

/-! ### Acknowledgements (R244, R245) -/

theorem exec_ackReceive_active (q : Nat) : exec (.ackReceive l q) s = .next (s.setLink l ((s.link l).ack q)) := by
  rw [exec_ackReceive, execAckReceive, if_neg (not_or.mpr ⟨Nat.not_le.mpr hl, not_not_intro hstate⟩)]

/-- The timer acknowledges what was taken since the last acknowledgement, and repeats a NAK that is still out. -/
theorem exec_ackTimer_active : exec (.ackTimer l) s = .next (if (s.link l).nakOut then (if (s.link l).rxCount = 0 then s else s.sendAck l).emitNak l
    else if (s.link l).rxCount = 0 then s else s.sendAck l) := by
  rw [exec_ackTimer, execAckTimer, if_neg (not_or.mpr ⟨Nat.not_le.mpr hl, not_not_intro hstate⟩)]
  by_cases hnone : (s.link l).rxCount = 0
  · simp only [if_pos hnone]
  · simp only [if_neg hnone, State.sendAck_link]

/-- A control packet of kind 0 whose CRC verifies is an acknowledgement of the number in it. -/
theorem exec_controlPacketReceive_ack {b : List Byte} (hb : b.length = 28) (hkind : leNat (b.take 1) = 0) :
    exec (.controlPacketReceive l (b ++ leBytes 4 (crc32 b))) s = .next (s.setLink l ((s.link l).ack (leNat ((b.drop 1).take 2)))) := by
  have hlen : (b ++ leBytes 4 (crc32 b)).length = 32 := by rw [List.length_append, hb, leBytes_length]
  have hbody : (b ++ leBytes 4 (crc32 b)).take 28 = b := List.take_left' hb
  have hcrc : crc32 b = leNat ((b ++ leBytes 4 (crc32 b)).drop 28) := by rw [List.drop_left' hb, leNat_crc32_bytes]
  have hfirst : (b ++ leBytes 4 (crc32 b)).take 1 = b.take 1 := List.take_append_of_le_length (by omega)
  simp only [exec_controlPacketReceive, execControlPacketReceive, hbody, hfirst, hkind,
    if_neg (not_or.mpr ⟨Nat.not_le.mpr hl, not_or.mpr ⟨not_not_intro hstate, not_or.mpr ⟨not_not_intro hlen, not_not_intro hcrc⟩⟩⟩)]

end

/-- Settles O34: a sealed packet by its number, a bad one and one out of an upset buffer apart, and the timer by what it finds to say. -/
theorem linkPackets : Obligations.LinkPackets := by
  unfold Obligations.LinkPackets
  refine fun s l hl hstate => ⟨fun b hb hclass => ⟨fun hexpected => ?_, fun hother => ?_⟩, fun b => exec_piecePacketReceive_bad hl hstate, exec_piecePacketReceive_upset hl hstate,
    exec_ackReceive_active hl hstate, fun q => exec_nakReceive l q s, fun htaken hquiet => ?_, fun hnone hquiet => ?_, fun hnone hout => ?_, fun b => exec_controlPacketReceive_ack hl hstate⟩
  · have htake : exec (.piecePacketReceive l (b ++ leBytes 4 (crc32 b)) false) s = .next (s.takePiece l (pieceFields b).1 (pieceFields b).2) := by
      rw [exec_piecePacketReceive_sealed hl hstate hb hclass, if_neg (not_not_intro hexpected)]
    exact ⟨htake, fun hidle hfew => by rw [htake, State.takePiece_idle hidle hfew]⟩
  · rw [exec_piecePacketReceive_sealed hl hstate hb hclass, if_pos hother]
    exact ⟨fun hgap => by rw [if_pos hgap], fun hbefore => by rw [if_neg (Nat.not_lt.mpr hbefore)]⟩
  · rw [exec_ackTimer_active hl hstate, hquiet, if_neg Bool.false_ne_true, if_neg (Nat.pos_iff_ne_zero.mp htaken)]
  · rw [exec_ackTimer_active hl hstate, hquiet, if_neg Bool.false_ne_true, if_pos hnone]
  · rw [exec_ackTimer_active hl hstate, hout, if_pos rfl, if_pos hnone]

end Sys2Proof.Machine
end

section
/-! The host port (R267 to R272, R385): PERST_N, notices of the Shelf, function-level resets, failing lanes, and requests to configuration space and the base address registers. -/

namespace Sys2Proof.Machine

theorem exec_perstNFall (s : State) : exec .perstNFall s = execPerstNFall s := rfl
theorem exec_perstNRise (r w : Nat) (f : Bool) (s : State) : exec (.perstNRise r w f) s = .next (State.startPcie { s with pins := { s.pins with perstN := true } } r w f) := rfl
theorem exec_shelfUnloadNotice (fn : Nat) (s : State) : exec (.shelfUnloadNotice fn) s = execShelfUnloadNotice fn s := rfl
theorem exec_functionLevelReset (fn : Nat) (s : State) : exec (.functionLevelReset fn) s = execFunctionLevelReset fn s := rfl
theorem exec_pcieLaneFailure (lanes rate : Nat) (s : State) : exec (.pcieLaneFailure lanes rate) s = execPcieLaneFailure lanes rate s := rfl
theorem exec_pcieConfigRequest (fn reg : Nat) (w : Bool) (v : W32) (s : State) : exec (.pcieConfigRequest fn reg w v) s = execPcieConfigRequest fn reg w v s := rfl
theorem exec_hostBarRequest (fn bar addr len : Nat) (data : Option (List Byte)) (bad : Nat) (s : State) :
    exec (.hostBarRequest fn bar addr len data bad) s = execHostBarRequest fn bar addr len data bad s := rfl

/-! ### PERST_N and the notices of the Shelf (R267, R272) -/

section
variable {s : State}

/-- A notice that is sent, and one that stays owed, leave every context as it was. -/
theorem State.sendNotices_ctxs (s : State) (l : List (Nat × Nat)) : (s.sendNotices l).ctxs = s.ctxs := by
  induction l generalizing s with
  | nil => rfl
  | cons x l ih =>
    refine (ih _).trans ?_
    dsimp only
    split
    · exact s.send_ctxs _
    · rfl

theorem State.sendNotices_loadedCtxs (s : State) (l : List (Nat × Nat)) : (s.sendNotices l).loadedCtxs = s.loadedCtxs := by
  rw [State.loadedCtxs, s.sendNotices_ctxs, State.loadedCtxs]

/-- PERST_N falls on a module that is not the Shelf's bridge, or before the end of power-on reset. -/
theorem exec_perstNFall_pinOnly (h : s.bridge = false ∨ s.root.por = false) : exec .perstNFall s = .next { s with pins := { s.pins with perstN := false } } := by
  rw [exec_perstNFall, execPerstNFall]
  exact congrArg Host.Outcome.next (if_pos (h.imp (congrArg Bool.not) (congrArg Bool.not)))

/-- The port as PERST_N leaves it at the bridge: the link down and every function reset (R272). -/
def State.perstReset (s : State) : State :=
  State.resetFunctions { s with pins := { s.pins with perstN := false }, pcie := { s.pcie with linkUp := false, rate := 0, width := 0, flit := false } }

/-- The notices that a reset of the port owes the other modules of the Shelf. -/
def State.perstNotices (s : State) : List (Nat × Nat) := s.shelfMates.map (fun d => (d, 64))

/-- That reset, and the notices sent where the Bureau is up, or owed where it is not (R272). -/
def State.perstTold (s : State) : State :=
  let r : State := { s.perstReset with pcie := { s.perstReset.pcie with owed := if s.root.bureauUp then [] else s.perstNotices } }
  if s.root.bureauUp then r.sendNotices s.perstNotices else r

theorem State.perstTold_bureauDown (hdown : s.root.bureauUp = false) : s.perstTold = { s.perstReset with pcie := { s.perstReset.pcie with owed := s.perstNotices } } := by
  simp only [State.perstTold, hdown, Bool.false_eq_true, if_false]

theorem State.perstTold_bureauUp (hup : s.root.bureauUp = true) :
    s.perstTold = State.sendNotices { s.perstReset with pcie := { s.perstReset.pcie with owed := [] } } s.perstNotices := by
  simp only [State.perstTold, hup, if_true]

theorem State.perstTold_loadedCtxs (s : State) : s.perstTold.loadedCtxs = s.loadedCtxs := by
  rw [State.perstTold]
  split
  · exact State.sendNotices_loadedCtxs _ _
  · rfl

/-- PERST_N falls at the bridge: the reset and its notices, and then what is loaded is unloaded. -/
theorem exec_perstNFall_bridge (hbridge : s.bridge = true) (hpor : s.root.por = true) :
    exec .perstNFall s = .next (s.loadedCtxs.foldl State.startUnload s.perstTold) := by
  have hactive : ¬((!s.bridge) = true ∨ (!s.root.por) = true) := by rw [hbridge, hpor]; decide
  rw [← s.perstTold_loadedCtxs, exec_perstNFall]
  exact congrArg Host.Outcome.next (if_neg hactive)

theorem exec_shelfUnloadNotice_here {fn : Nat} (hbureau : s.root.bureauUp = true) (h : fn ≠ 64 ∨ s.bridge = true) :
    exec (.shelfUnloadNotice fn) s = .next ((s.loadedCtxs.filter (fun n => decide (fn = 64 ∨ n = fn))).foldl State.startUnload s) := by
  have hopen : ¬(fn = 64 ∧ (!s.bridge) = true) := fun ⟨hall, hother⟩ => h.elim (· hall) (by simpa using hother)
  simp only [exec_shelfUnloadNotice, execShelfUnloadNotice, hbureau, Bool.not_true, Bool.false_eq_true, if_false, if_neg hopen]

/-- A notice for every function shuts the port of a module that is not the bridge, until what it has loaded is gone. -/
theorem exec_shelfUnloadNotice_all (hbureau : s.root.bureauUp = true) (hbridge : s.bridge = false) :
    exec (.shelfUnloadNotice 64) s = .next (s.loadedCtxs.foldl State.startUnload { s with pcie := { s.pcie with shut := !s.loadedCtxs.isEmpty, vfs := 0 } }) := by
  simp only [exec_shelfUnloadNotice, execShelfUnloadNotice, hbureau, hbridge, Bool.not_true, Bool.not_false, Bool.false_eq_true, if_false, and_self, if_true, true_or,
    decide_true, List.filter_true]
  rfl

end

/-! ### Function-level resets (R272) -/

section
variable {s : State} {fn : Nat}

/-- The configuration of a function cleared, or with the physical function that of every function (R272). -/
def State.functionCleared (s : State) (fn : Nat) : State :=
  { s with pcie := { s.pcie with
    vfs := if fn = 0 then 0 else s.pcie.vfs, config := s.pcie.config.filter (fun w => !decide (w.1 / 1024 = fn ∨ fn = 0)), aer := s.pcie.aer.filter (fun w => !decide (w.1 = fn ∨ fn = 0))
    msixOpen := s.pcie.msixOpen.filter (fun v => !decide (v / 64 = fn ∨ fn = 0)), msixPending := s.pcie.msixPending.filter (fun v => !decide (v / 64 = fn ∨ fn = 0)) } }

theorem State.functionReset_eq (s : State) (fn : Nat) :
    s.functionReset fn = ((s.functionCleared fn).sendNotices ((s.functionCleared fn).shelfMates.map (fun d => (d, fn)))).startUnload fn := rfl

theorem exec_functionLevelReset_enabled (hbridge : s.bridge = true) (hup : s.pcie.linkUp = true) (hbureau : s.root.bureauUp = true) (hfn : fn ≤ s.pcie.vfs) :
    exec (.functionLevelReset fn) s = .next (s.functionReset fn) := by
  simp only [exec_functionLevelReset, execFunctionLevelReset, hbridge, hup, hbureau, Bool.not_true, Bool.false_eq_true, false_or, if_neg (Nat.not_lt.mpr hfn)]

/-- A virtual function's reset clears its own words and leaves the virtual functions enabled. -/
theorem State.functionCleared_virtual (hfn : 1 ≤ fn) :
    (s.functionCleared fn).pcie.vfs = s.pcie.vfs ∧ (∀ reg, reg < 1024 → tget 0 (s.functionCleared fn).pcie.config (fn * 1024 + reg) = 0) ∧ tget 0 (s.functionCleared fn).pcie.aer fn = 0 := by
  refine ⟨if_neg (by omega), fun reg hreg => ?_, ?_⟩
  · have hmine : (fn * 1024 + reg) / 1024 = fn := by omega
    exact (tget_filter_key 0 (fun k => !decide (k / 1024 = fn ∨ fn = 0)) _ _).trans (if_neg (by simp [hmine]))
  · exact (tget_filter_key 0 (fun k => !decide (k = fn ∨ fn = 0)) _ _).trans (if_neg (by simp))

/-- The physical function's reset clears every function and disables the virtual ones. -/
theorem State.functionCleared_physical (s : State) : (s.functionCleared 0).pcie.vfs = 0 ∧ (s.functionCleared 0).pcie.config = [] ∧ (s.functionCleared 0).pcie.aer = [] :=
  ⟨rfl, List.filter_eq_nil_iff.mpr (by simp), List.filter_eq_nil_iff.mpr (by simp)⟩

end

/-! ### Lanes that fail (R268) -/

theorem exec_pcieLaneFailure_eight {s : State} (hbridge : s.bridge = true) (hup : s.pcie.linkUp = true) (hwide : 16 ≤ s.pcie.width) (rate : Nat) :
    exec (.pcieLaneFailure 8 rate) s = .next (State.hostDegraded { s with pcie := { s.pcie with width := 8, rate := rate } }) := by
  have hlive : min 8 s.pcie.width = 8 := by omega
  have hwidth : ([16, 8, 4, 2, 1].find? (fun w => decide (w ≤ 8))).getD 0 = 8 := by decide
  simp only [exec_pcieLaneFailure, execPcieLaneFailure, hbridge, hup, Bool.not_true, Bool.false_eq_true, false_or, if_false, hlive, hwidth]
  rfl

/-! ### Configuration requests (R271, R385) -/

section
variable {s : State} {fn reg : Nat} (hbridge : s.bridge = true) (hup : s.pcie.linkUp = true) (hpor : s.root.por = true)
include hbridge hup hpor

/-- Before the Bureau is up the hardware answers what it can, and any other request is to be tried again. -/
theorem exec_pcieConfigRequest_retry {w : Bool} (hbureau : s.root.bureauUp = false) (h : s.pcie.vfs < fn ∨ 1024 ≤ reg ∨ hardwarePath reg w = false) (v : W32) :
    exec (.pcieConfigRequest fn reg w v) s = .next (s.hostAnswer fn 3 []) := by
  rw [← Bool.not_eq_true'] at h
  simp only [exec_pcieConfigRequest, execPcieConfigRequest, hbridge, hup, hpor, hbureau, Bool.not_true, Bool.not_false, Bool.false_eq_true, false_or, true_and, if_false, if_pos h]

section
variable (hbureau : s.root.bureauUp = true)
include hbureau

theorem exec_pcieConfigRequest_unsupported (h : s.pcie.vfs < fn ∨ 1024 ≤ reg) (w : Bool) (v : W32) : exec (.pcieConfigRequest fn reg w v) s = .next (s.hostAnswer fn 1 []) := by
  simp only [exec_pcieConfigRequest, execPcieConfigRequest, hbridge, hup, hpor, hbureau, Bool.not_true, Bool.false_eq_true, false_or, false_and, if_false, if_pos h]

theorem exec_pcieConfigRequest_served (hfn : fn ≤ s.pcie.vfs) (hreg : reg < 1024) (w : Bool) (v : W32) :
    exec (.pcieConfigRequest fn reg w v) s = .next (if w then (s.cfgWrite fn reg v.toNat).hostAnswer fn 0 [] else s.hostAnswer fn 0 (leBytes 4 (s.cfgRead fn reg))) := by
  simp only [exec_pcieConfigRequest, execPcieConfigRequest, hbridge, hup, hpor, hbureau, Bool.not_true, Bool.false_eq_true, false_or, false_and, if_false,
    if_neg (not_or.mpr ⟨Nat.not_lt.mpr hfn, Nat.not_le.mpr hreg⟩)]

end
end

/-! ### Requests to the base address registers (R270, R385) -/

section
variable {s : State} {fn bar addr len : Nat} (hbridge : s.bridge = true) (hup : s.pcie.linkUp = true) (hbureau : s.root.bureauUp = true) (hfn : fn ≤ s.pcie.vfs) (hlen : len ≠ 0)
include hbridge hup hbureau hfn hlen

theorem exec_hostBarRequest_none (htarget : barTarget fn bar addr = .none) (data : Option (List Byte)) (bad : Nat) :
    exec (.hostBarRequest fn bar addr len data bad) s = .next ((s.record (s.refusalRec 0x37 0xB (0x8000 + fn) fn addr)).hostRefused fn 0x37 data.isNone) := by
  simp only [exec_hostBarRequest, execHostBarRequest, hbridge, hup, hbureau, Bool.not_true, Bool.false_eq_true, false_or, or_false, if_false,
    if_neg (not_or.mpr ⟨Nat.not_lt.mpr hfn, hlen⟩), htarget]

variable (hplanned : s.cab / 8 * 8 < planModules s.plan) (hfirst : s.cab % 8 = 0)
include hplanned hfirst

/-- Slot 0 of the Shelf is this module: requests to its registers and its memory are served here. -/
theorem exec_hostBarRequest_here (data : Option (List Byte)) (bad : Nat) :
    (∀ a, barTarget fn bar addr = .reg 0 a → exec (.hostBarRequest fn bar addr len data bad) s = .next (s.hostReg fn a len data)) ∧
    (∀ k o, barTarget fn bar addr = .mem 0 k o → exec (.hostBarRequest fn bar addr len data bad) s = .next (s.hostMem fn k o len data bad)) := by
  have hin : ¬planModules s.plan ≤ s.cab / 8 * 8 + 0 := Nat.not_le.mpr hplanned
  have hhere : s.cab = s.cab / 8 * 8 + 0 := by omega
  refine ⟨fun a htarget => ?_, fun k o htarget => ?_⟩
  all_goals simp only [exec_hostBarRequest, execHostBarRequest, hbridge, hup, hbureau, Bool.not_true, Bool.false_eq_true, false_or, or_false, if_false,
    if_neg (not_or.mpr ⟨Nat.not_lt.mpr hfn, hlen⟩), htarget, if_neg hin, if_pos hhere]

end

/-- Settles O49: PERST_N and the notices by the module's place in the Shelf, a function's reset by what it clears, and each request by the first check that answers it. -/
theorem hostPortEvents : Obligations.HostPortEvents := by
  unfold Obligations.HostPortEvents
  refine fun s => ⟨exec_perstNFall_pinOnly, fun hbridge hpor hnone => ⟨fun hdown => ?_, fun hup => ?_⟩, fun r w f => exec_perstNRise r w f s,
    fun hbureau fn => exec_shelfUnloadNotice_here hbureau, exec_shelfUnloadNotice_all, fun hbridge hup => ⟨fun fn hbureau hpos hfn => ?_, fun hbureau => ?_,
      fun rate hwide => exec_pcieLaneFailure_eight hbridge hup hwide rate,
      fun fn reg w v hpor hbureau h => exec_pcieConfigRequest_unsupported hbridge hup hpor hbureau h w v,
      fun fn reg w v hpor hbureau h => exec_pcieConfigRequest_retry hbridge hup hpor hbureau h v,
      fun fn reg v hpor hfn hreg hbureau => ?_, fun fn bar addr len data bad hbureau hfn hlen hplanned hfirst => ?_⟩⟩
  · rw [exec_perstNFall_bridge hbridge hpor, hnone, State.perstTold_bureauDown hdown]
    rfl
  · rw [exec_perstNFall_bridge hbridge hpor, hnone, State.perstTold_bureauUp hup]
    rfl
  · obtain ⟨hvfs, hconfig, haer⟩ := State.functionCleared_virtual (s := s) hpos
    exact ⟨s.functionCleared fn, by rw [exec_functionLevelReset_enabled hbridge hup hbureau hfn, State.functionReset_eq], hvfs, hconfig, haer, rfl⟩
  · obtain ⟨hvfs, hconfig, haer⟩ := s.functionCleared_physical
    exact ⟨s.functionCleared 0, by rw [exec_functionLevelReset_enabled hbridge hup hbureau (Nat.zero_le _), State.functionReset_eq], hvfs, hconfig, haer, rfl⟩
  · exact ⟨exec_pcieConfigRequest_served hbridge hup hpor hbureau hfn hreg false v, exec_pcieConfigRequest_served hbridge hup hpor hbureau hfn hreg true v⟩
  · obtain ⟨hreg, hmem⟩ := exec_hostBarRequest_here hbridge hup hbureau hfn hlen hplanned hfirst data bad
    exact ⟨hreg, hmem, fun hnone => exec_hostBarRequest_none hbridge hup hbureau hfn hlen hnone data bad⟩

end Sys2Proof.Machine
end

section
/-! Submission (R234, R280): the doorbells of queues and of collective queues. -/

namespace Sys2Proof.Machine

theorem exec_ctxDoorbell (master n : Nat) (v : W64) (s : State) : exec (.ctxDoorbell master n v) s = execCtxDoorbell master n v s := rfl
theorem exec_collectiveQueueTail (master n i v : Nat) (s : State) : exec (.collectiveQueueTail master n i v) s = execCollectiveQueueTail master n i v s := rfl

section
variable {s : State} {master n : Nat} (hn : n < 64)
include hn

/-- A doorbell of a master that may not use the context is a privilege error. -/
theorem exec_ctxDoorbell_foreign (hmay : s.mayCommand n master = false) (v : W64) : exec (.ctxDoorbell master n v) s = .next (s.blkErr (ctxPage n) 5) := by
  simp only [exec_ctxDoorbell, execCtxDoorbell, if_neg (Nat.not_le.mpr hn), hmay, Bool.not_false, if_true]

theorem exec_collectiveQueueTail_foreign (hmay : s.mayCommand n master = false) (i v : Nat) : exec (.collectiveQueueTail master n i v) s = .next (s.blkErr (ctxPage n) 5) := by
  simp only [exec_collectiveQueueTail, execCollectiveQueueTail, if_neg (Nat.not_le.mpr hn), hmay, Bool.not_false, if_true]

/-- A doorbell of a queue that there is: the tail moves where the queue is the context's and its ring can hold it. -/
theorem exec_ctxDoorbell_queue {v : W64} {q : Queue} (hmay : s.mayCommand n master = true) (hqueue : s.queue (bitsOf v.toNat 15 0) = some q) :
    exec (.ctxDoorbell master n v) s = .next (if q.ctx ≠ n ∨ tailOk q.head q.tail (bitsOf v.toNat 31 16) q.lg = false then s.blkErr (ctxPage n) 0
      else { s with queues := tset s.queues (bitsOf v.toNat 15 0) { q with tail := bitsOf v.toNat 31 16 } }) := by
  simp only [exec_ctxDoorbell, execCtxDoorbell, if_neg (Nat.not_le.mpr hn), hmay, hqueue, Bool.not_true, Bool.false_eq_true, if_false, Bool.not_eq_true']

/-- A legal tail of a collective queue is taken. -/
theorem exec_collectiveQueueTail_legal {i v : Nat} {q : Cq} (hmay : s.mayCommand n master = true) (hqueue : tfind (s.ctx n).cqs i = some q)
    (htail : tailOk q.head q.tail (v % 65536) q.lg = true) :
    exec (.collectiveQueueTail master n i v) s = .next (s.setCtx n { s.ctx n with cqs := tset (s.ctx n).cqs i { q with tail := v % 65536 } }) := by
  simp only [exec_collectiveQueueTail, execCollectiveQueueTail, if_neg (Nat.not_le.mpr hn), hmay, hqueue, htail, Bool.not_true, Bool.false_eq_true, if_false]
  rfl

end

/-- Settles O30: a doorbell by its master, and by whether the context's queue can hold the tail. -/
theorem queueDoorbells : Obligations.QueueDoorbells := by
  unfold Obligations.QueueDoorbells
  refine fun s master n hn => ⟨fun v q hmay hqueue hctx htail => ?_, fun v q hmay hqueue hbad => ?_, fun i v q => exec_collectiveQueueTail_legal hn,
    fun v i x hmay => ⟨exec_ctxDoorbell_foreign hn hmay v, exec_collectiveQueueTail_foreign hn hmay i x⟩⟩
  · rw [exec_ctxDoorbell_queue hn hmay hqueue, if_neg (by simp [hctx, htail])]
  · rw [exec_ctxDoorbell_queue hn hmay hqueue, if_pos hbad]

end Sys2Proof.Machine
end

section
/-! The command block of a context (R272, R284), and the commands of its sequences (R298). -/

namespace Sys2Proof.Machine

/-! ### Admission (R272, R284) -/

/-- Every command of a context goes through its command block. -/
theorem exec_of_mem_ctxCommands {master n tag : Nat} {args : List Nat} {p : Nat × Instr} (hp : p ∈ ctxCommands master n tag args) (s : State) :
    ∃ body, exec p.2 s = .next (s.command master n p.1 tag args body) := by
  simp only [ctxCommands, List.mem_cons, List.not_mem_nil, or_false] at hp
  rcases hp with rfl | rfl | rfl | rfl | rfl | rfl | rfl | rfl | rfl | rfl | rfl | rfl | rfl | rfl
  all_goals exact ⟨_, rfl⟩

section
variable {s : State} {master n op tag : Nat} {args : List Nat} (body : State → State)

/-- A host's command that the module does not take yet waits (R272). -/
theorem State.command_shut (hshut : s.hostShut master = true) : s.command master n op tag args body = s := if_pos (.inr hshut)

variable (hn : n < 64) (htaken : s.hostShut master = false)
include hn htaken

theorem State.command_foreign (hmay : s.mayCommand n master = false) : s.command master n op tag args body = s.blkErr (ctxPage n) 5 := by
  simp only [State.command, if_neg (show ¬(64 ≤ n ∨ s.hostShut master = true) by simp [hn, htaken]), hmay, Bool.not_false, if_true]

variable (hmay : s.mayCommand n master = true)
include hmay

theorem State.command_busy (hbusy : (s.ctx n).cmd.busy = true) : s.command master n op tag args body = s.blkErr (ctxPage n) 0 := by
  simp only [State.command, if_neg (show ¬(64 ≤ n ∨ s.hostShut master = true) by simp [hn, htaken]), hmay, hbusy, Bool.not_true, Bool.false_eq_true, if_false, if_true]

theorem State.command_notReady (hidle : (s.ctx n).cmd.busy = false) (hready : s.root.ready = false) :
    s.command master n op tag args body = (s.issued n op tag master args).cmdDone n 0x41 none := by
  simp only [State.command, if_neg (show ¬(64 ≤ n ∨ s.hostShut master = true) by simp [hn, htaken]), hmay, hidle, State.modCtx_root, hready, Bool.not_true, Bool.not_false, Bool.false_eq_true,
    if_false, if_true]
  rfl

end

/-! ### What taking a command leaves of its context -/

section
variable (s : State) (n op tag master : Nat) (args : List Nat)

@[simp] theorem State.issued_ctx_state : ((s.issued n op tag master args).ctx n).state = (s.ctx n).state := by rw [State.issued_ctx]
@[simp] theorem State.issued_ctx_errStop : ((s.issued n op tag master args).ctx n).errStop = (s.ctx n).errStop := by rw [State.issued_ctx]
@[simp] theorem State.issued_ctx_ysrc : ((s.issued n op tag master args).ctx n).ysrc = (s.ctx n).ysrc := by rw [State.issued_ctx]
@[simp] theorem State.issued_ctx_job : ((s.issued n op tag master args).ctx n).job = (s.ctx n).job := by rw [State.issued_ctx]
@[simp] theorem State.issued_ctx_st : ((s.issued n op tag master args).ctx n).st = (s.ctx n).st := by rw [State.issued_ctx]
@[simp] theorem State.issued_ctx_mem : ((s.issued n op tag master args).ctx n).mem = (s.ctx n).mem := by rw [State.issued_ctx]

end

/-! ### Sequences (R298) -/

theorem exec_join (master n tag : Nat) (args : List Nat) (s : State) : exec (.join master n tag args) s = execJoin master n tag args s := rfl
theorem exec_leave (master n tag : Nat) (args : List Nat) (s : State) : exec (.leave master n tag args) s = execLeave master n tag args s := rfl

section
variable {s : State} {master n : Nat} (haccepts : s.Accepts master n) (hloaded : (s.ctx n).loaded = true)
include haccepts hloaded

/-- An accepted JOIN of a loaded context takes the first of these outcomes that applies, in the order of Table 12.12. -/
theorem exec_join_loaded (tag : Nat) (args : List Nat) :
    let j := s.issued n 9 tag master args
    let m := (s.ctx n).mem
    exec (.join master n tag args) s = .next (
      if 262144 < j.arg n 1 then j.cmdDone n 0x07 none
      else if s.quota n < j.arg n 2 then j.cmdDone n 0x06 none
      else if 2 ^ 32 ≤ j.arg n 0 ∨ m.joins.any (fun x => decide (x.id = j.arg n 0)) = true ∨ m.admitted.any (fun x => decide (x.id = j.arg n 0)) = true then j.cmdDone n 0x43 none
      else if 1024 ≤ m.joins.length + m.leaves.length then j.cmdDone n 0x40 none
      else (j.modCtx n (fun c => { c with mem := { c.mem with joins := c.mem.joins ++ [⟨j.arg n 0, j.arg n 1, j.arg n 2, 0⟩] } })).cmdDone n 0 none) := by
  intro j m
  have hmem : (j.ctx n).mem = m := s.issued_ctx_mem ..
  have hj : (j.ctx n).loaded = true := (s.issued_loaded n 9 tag master args n).trans hloaded
  rw [exec_join, execJoin, State.command_accepted haccepts]
  dsimp only
  rw [hj, Bool.not_true, if_neg Bool.false_ne_true, hmem]
  rfl

/-- An accepted LEAVE of an admitted sequence enters the pending leaves while the list has room. -/
theorem exec_leave_admitted {tag : Nat} {args : List Nat} (hjoins : (s.ctx n).mem.joins.any (fun x => decide (x.id = (s.issued n 10 tag master args).arg n 0)) = false)
    (hadmitted : (s.ctx n).mem.admitted.any (fun x => decide (x.id = (s.issued n 10 tag master args).arg n 0)) = true)
    (hnew : (s.issued n 10 tag master args).arg n 0 ∉ (s.ctx n).mem.leaves) (hroom : (s.ctx n).mem.joins.length + (s.ctx n).mem.leaves.length < 1024) :
    exec (.leave master n tag args) s = .next (((s.issued n 10 tag master args).modCtx n
      (fun c => { c with mem := { c.mem with leaves := c.mem.leaves ++ [(s.issued n 10 tag master args).arg n 0] } })).cmdDone n 0 none) := by
  have hmem : ((s.issued n 10 tag master args).ctx n).mem = (s.ctx n).mem := s.issued_ctx_mem ..
  have hknown : ¬((!(s.ctx n).mem.admitted.any (fun x => decide (x.id = (s.issued n 10 tag master args).arg n 0))) = true ∨
      (s.ctx n).mem.leaves.contains ((s.issued n 10 tag master args).arg n 0) = true) := by simp [hadmitted, hnew]
  rw [exec_leave, execLeave, State.command_accepted haccepts]
  simp only [State.issued_loaded, hloaded, hmem, hjoins, if_neg hknown, if_neg (Nat.not_le.mpr hroom), Bool.not_true, Bool.false_eq_true, if_false]

end

/-- Settles O36: a command by the first check of its block that fails, JOIN by its checks in their order, and LEAVE of an admitted sequence. -/
theorem commandBlock : Obligations.CommandBlock := by
  unfold Obligations.CommandBlock
  refine ⟨fun s master n tag args p hn hp => ?_, fun s master n tag args haccepts hstate => ?_⟩
  · obtain ⟨body, hexec⟩ := exec_of_mem_ctxCommands hp s
    rw [hexec]
    refine ⟨fun hshut => ?_, fun htaken hmay => ?_, fun htaken hmay hbusy => ?_, fun htaken hmay hidle hready => ?_⟩
    · rw [State.command_shut body hshut]
    · rw [State.command_foreign body hn htaken hmay]
    · rw [State.command_busy body hn htaken hmay hbusy]
    · rw [State.command_notReady body hn htaken hmay hidle hready]
  · intro j l m known
    have hloaded : (s.ctx n).loaded = true := decide_eq_true hstate
    rw [exec_join_loaded haccepts hloaded]
    refine ⟨fun hlen => ?_, fun hlen hframes => ?_, fun hlen hframes hknown => ?_, fun hlen hframes hid hknown => ?_, exec_leave_admitted haccepts hloaded⟩
    · rw [if_pos hlen]
    · rw [if_neg (Nat.not_lt.mpr hlen), if_pos hframes]
    · rw [if_neg (Nat.not_lt.mpr hlen), if_neg (Nat.not_lt.mpr hframes), if_pos (hknown.imp_right Bool.or_eq_true_iff.mp)]
    · rw [if_neg (Nat.not_lt.mpr hlen), if_neg (Nat.not_lt.mpr hframes),
        if_neg (not_or.mpr ⟨Nat.not_le.mpr hid, fun h => Bool.false_ne_true (hknown.symm.trans (Bool.or_eq_true_iff.mpr h))⟩)]
      exact ⟨fun hfull => by rw [if_pos hfull], fun hroom => by rw [if_neg (Nat.not_le.mpr hroom)]⟩

end Sys2Proof.Machine
end

section
/-! What the shared operations on a context leave of it: messages, yield sources (R287 to R289), and the opening of versions at a boundary (R219, R286). -/

namespace Sys2Proof.Machine

/-- A context is read from the table of contexts alone. -/
theorem State.ctx_eq_of_ctxs {s t : State} (h : t.ctxs = s.ctxs) (n : Nat) : t.ctx n = s.ctx n := congrArg (tget Ctx.reset · n) h

@[simp] theorem State.ctx_sendAll (s : State) (os : List Out) (n : Nat) : (s.sendAll os).ctx n = s.ctx n := State.ctx_eq_of_ctxs (s.sendAll_ctxs os) n

/-! ### The end of a yield source (R287, R289) -/

/-- Resume messages change nothing of their context but that it no longer owes them. -/
theorem State.tellResume_ctx (s : State) (n : Nat) : ∃ o, (s.tellResume n).ctx n = { s.ctx n with st := { (s.ctx n).st with origin := o } } := by
  unfold State.tellResume
  split
  · exact ⟨_, rfl⟩
  · exact ⟨false, by rw [State.ctx_modCtx, State.ctx_sendAll]⟩

/-- A context without one of its yield sources, and without that source's deadline. -/
def Ctx.withoutSource (c : Ctx) (src : Nat) : Ctx :=
  let y := c.ysrc - (if bitOf c.ysrc src then 2 ^ src else 0)
  { c with ysrc := y, st := { c.st with deadlines := tdel c.st.deadlines src, point := if y = 0 then 0 else c.st.point } }

theorem State.endSource_ctx (s : State) (n src : Nat) :
    ∃ o, (s.endSource n src).ctx n = { (s.ctx n).withoutSource src with st := { ((s.ctx n).withoutSource src).st with origin := o } } := by
  obtain ⟨o, ho⟩ := (s.modCtx n (·.withoutSource src)).tellResume_ctx n
  exact ⟨o, by rw [State.ctx_modCtx] at ho; exact ho⟩

section
variable (s : State) (n src : Nat)

theorem State.endSource_ysrc (hset : bitOf (s.ctx n).ysrc src = true) : ((s.endSource n src).ctx n).ysrc = (s.ctx n).ysrc - 2 ^ src := by
  obtain ⟨o, ho⟩ := s.endSource_ctx n src
  rw [ho, Ctx.withoutSource, if_pos hset]

@[simp] theorem State.endSource_state : ((s.endSource n src).ctx n).state = (s.ctx n).state := by
  obtain ⟨o, ho⟩ := s.endSource_ctx n src
  rw [ho, Ctx.withoutSource]

@[simp] theorem State.endSource_job : ((s.endSource n src).ctx n).job = (s.ctx n).job := by
  obtain ⟨o, ho⟩ := s.endSource_ctx n src
  rw [ho, Ctx.withoutSource]

@[simp] theorem State.endSource_hold : ((s.endSource n src).ctx n).st.hold = (s.ctx n).st.hold := by
  obtain ⟨o, ho⟩ := s.endSource_ctx n src
  rw [ho, Ctx.withoutSource]

end

/-! ### Versions opened at a boundary (R219, R286) -/

@[simp] theorem State.followPartition_ctxs (s : State) (n : Nat) : (s.followPartition n).ctxs = s.ctxs := rfl

theorem State.openVersion_ctxs {s t : State} {r : Nat} (h : s.openVersion r = some t) : t.ctxs = s.ctxs := by
  unfold State.openVersion at h
  split at h
  · contradiction
  · split at h
    · cases h
      rw [State.followPartition_ctxs, State.setRegion_ctxs, State.modFrames_ctxs]
    · contradiction

@[simp] theorem State.openCommitPub_ctxs (s : State) (n : Nat) : (s.openCommitPub n).1.ctxs = s.ctxs := by
  unfold State.openCommitPub
  refine List.foldlRecOn (motive := fun a : State × Bool => a.1.ctxs = s.ctxs) _ _ rfl fun a ha r _ => ?_
  split
  · exact ha
  · split
    · exact ha
    · split
      · exact ha
      · split
        · exact (State.openVersion_ctxs ‹_›).trans ha
        · exact ha

section
variable (s : State) (n : Nat)

@[simp] theorem State.initialBoundary_ysrc : ((s.initialBoundary n).ctx n).ysrc = (s.ctx n).ysrc := by
  rw [State.initialBoundary, State.ctx_modCtx, State.ctx_eq_of_ctxs ((s.takeSnapshot n).openCommitPub_ctxs n), State.takeSnapshot, State.ctx_modCtx]

@[simp] theorem State.initialBoundary_state : ((s.initialBoundary n).ctx n).state = (s.ctx n).state := by
  rw [State.initialBoundary, State.ctx_modCtx, State.ctx_eq_of_ctxs ((s.takeSnapshot n).openCommitPub_ctxs n), State.takeSnapshot, State.ctx_modCtx]

end

end Sys2Proof.Machine
end

section
/-! The life of a context (R286 to R296, R319): UNLOAD, RESUME, YIELD, RESTART and EVICT. -/

namespace Sys2Proof.Machine

theorem exec_unload (master n tag : Nat) (args : List Nat) (s : State) : exec (.unload master n tag args) s = execUnload master n tag args s := rfl
theorem exec_unloadDrainLimit (n : Nat) (s : State) : exec (.unloadDrainLimit n) s = execUnloadDrainLimit n s := rfl
theorem exec_resume (master n tag : Nat) (args : List Nat) (s : State) : exec (.resume master n tag args) s = execResume master n tag args s := rfl
theorem exec_yield (master n tag : Nat) (args : List Nat) (s : State) : exec (.yield master n tag args) s = execYield master n tag args s := rfl
theorem exec_restart (master n tag : Nat) (args : List Nat) (s : State) : exec (.restart master n tag args) s = execRestart master n tag args s := rfl
theorem exec_evict (master n tag : Nat) (args : List Nat) (s : State) : exec (.evict master n tag args) s = execEvict master n tag args s := rfl

section
variable {s : State} {master n : Nat} (haccepts : s.Accepts master n) {tag : Nat} {args : List Nat}
include haccepts

/-! ### Unload (R294) -/

theorem exec_unload_accepted : exec (.unload master n tag args) s = .next (if (s.ctx n).state = 0 then (s.issued n 4 tag master args).cmdDone n 0x41 none
    else (s.issued n 4 tag master args).startUnload n) := by
  rw [exec_unload, execUnload, State.command_accepted haccepts, State.issued_ctx_state]

/-! ### Resume (R286, R287, R293) -/

/-- RESUME of a context whose seed needs no check: its host source ends, and one just loaded takes its initial boundary. -/
theorem exec_resume_seeded (hseed : (s.ctx n).job.seedDigest = none) (hstate : (s.ctx n).state = 4 ∨ (s.ctx n).state = 5 ∧ (s.ctx n).errStop = false) :
    let e := (s.issued n 5 tag master args).endSource n 0
    let b := if (s.ctx n).state = 5 ∧ (s.ctx n).st.hold < 4 ∧ (s.ctx n).job.held = false then e.initialBoundary n else e
    exec (.resume master n tag args) s = .next (if (e.ctx n).ysrc ≠ 0 then b.cmdDone n 0 none else if (s.ctx n).state = 5 then b else b.resumeIfFree n) := by
  intro e b
  have hmay : ¬((s.ctx n).state ≠ 4 ∧ ((s.ctx n).state ≠ 5 ∨ (s.ctx n).errStop = true)) := by
    rintro ⟨h4, h5⟩
    rcases hstate with h | ⟨h, herr⟩
    · exact h4 h
    · exact h5.elim (· h) (Bool.false_ne_true <| herr.symm.trans ·)
  have hysrc : (b.ctx n).ysrc = (e.ctx n).ysrc := by
    simp only [b]
    split
    · exact e.initialBoundary_ysrc n
    · rfl
  have hbstate : (b.ctx n).state = (s.ctx n).state := by
    simp only [b]
    split
    · simp [e]
    · simp [e]
  rw [exec_resume, execResume, State.command_accepted haccepts]
  simp only [State.issued_ctx_state, State.issued_ctx_errStop, State.issued_ctx_job, State.issued_ctx_st, State.endSource_state, State.endSource_hold, State.endSource_job,
    hseed, if_neg hmay, Bool.not_true, Bool.not_eq_true', Bool.false_eq_true, if_false]
  rw [show (if (s.ctx n).state = 5 ∧ (s.ctx n).st.hold < 4 ∧ (s.ctx n).job.held = false then e.initialBoundary n else e) = b from rfl, hysrc, hbstate]

theorem exec_resume_refused (h4 : (s.ctx n).state ≠ 4) (h5 : (s.ctx n).state ≠ 5) : exec (.resume master n tag args) s = .next ((s.issued n 5 tag master args).cmdDone n 0x41 none) := by
  rw [exec_resume, execResume, State.command_accepted haccepts]
  simp only [State.issued_ctx_state, if_pos (And.intro h4 (Or.inl h5 : _ ∨ ((s.issued n 5 tag master args).ctx n).errStop = true))]

/-! ### Yield, restart and evict (R288, R296, R319) -/

theorem exec_yield_accepted : exec (.yield master n tag args) s = .next (
    if (s.ctx n).state ≠ 2 then (s.issued n 6 tag master args).cmdDone n 0x41 none
    else if 1 < (s.issued n 6 tag master args).arg n 0 ∨ 50 < (s.issued n 6 tag master args).arg n 1 then (s.issued n 6 tag master args).cmdDone n 0x43 none
    else (s.issued n 6 tag master args).yieldRequest n 0 ((s.issued n 6 tag master args).arg n 0) ((s.issued n 6 tag master args).arg n 1 * ms)) := by
  rw [exec_yield, execYield, State.command_accepted haccepts, State.issued_ctx_state]

/-- RESTART of a context that an error has stopped (R319). -/
theorem exec_restart_stopped (hstate : (s.ctx n).state = 5) (herr : (s.ctx n).errStop = true) : exec (.restart master n tag args) s =
    .next ((((s.issued n 7 tag master args).modCtx n (fun c => { c with state := 6, errStop := false, job := { c.job with unsettled := false } })).beginRestart n
      (s.ctx n).job.stopCause false).cmdDone n 0 none) := by
  rw [exec_restart, execRestart, State.command_accepted haccepts]
  simp only [State.issued_ctx_state, State.issued_ctx_errStop, State.issued_ctx_job, State.ctx_modCtx, hstate, herr, ne_eq, not_true_eq_false, Bool.not_true, Bool.false_eq_true, or_self, if_false]

theorem exec_evict_inRange (hstate : (s.ctx n).state = 2 ∨ (s.ctx n).state = 4) (hto : (s.issued n 8 tag master args).arg n 0 ≤ 1) (hlimit : (s.issued n 8 tag master args).arg n 1 ≤ 50) :
    exec (.evict master n tag args) s = .next (
      if (s.ctx n).state = 4 then ((s.issued n 8 tag master args).modCtx n (fun c => { c with ysrc := c.ysrc ||| 1 })).doEvict n ((s.issued n 8 tag master args).arg n 0)
      else ((s.issued n 8 tag master args).modCtx n (fun c => { c with st := { c.st with evict := some ((s.issued n 8 tag master args).arg n 0) } })).yieldRequest n 0 1
        ((s.issued n 8 tag master args).arg n 1 * ms)) := by
  rw [exec_evict, execEvict, State.command_accepted haccepts, State.issued_ctx_state, if_neg (by omega), if_neg (by omega)]

end

theorem exec_unloadDrainLimit_idle {s : State} {n t : Nat} (hat : (s.ctx n).st.unloadAt = some t) (hpassed : t + 4000000 ≤ s.now) (hidle : s.runningOn n = []) :
    exec (.unloadDrainLimit n) s = .next (s.finishUnload n) := by
  simp only [exec_unloadDrainLimit, execUnloadDrainLimit, hat, if_neg (Nat.not_lt.mpr hpassed), hidle, List.foldl_nil]

/-- Settles O38: each command by the states in which it has its effect. -/
theorem lifeOfContexts : Obligations.LifeOfContexts := by
  unfold Obligations.LifeOfContexts
  intro s master n tag args haccepts i
  refine ⟨fun hstate => ?_, fun hstate => ?_, fun t => exec_unloadDrainLimit_idle, fun hstate hseed hysrc => ?_, fun hstate herr hseed hhold hheld => ?_, exec_resume_refused haccepts,
    fun hstate hmode hlimit => ?_, fun hstate hrange => ?_, fun hstate => ?_, exec_restart_stopped haccepts, fun hstate hto hlimit => ?_, fun hstate hto hlimit => ?_⟩
  · rw [exec_unload_accepted haccepts, if_neg hstate]
  · rw [exec_unload_accepted haccepts, if_pos hstate]
  · have hended : (((i 5).endSource n 0).ctx n).ysrc = 0 := by
      have hi : ((i 5).ctx n).ysrc = 1 := (s.issued_ctx_ysrc ..).trans hysrc
      rw [State.endSource_ysrc _ _ _ (by rw [hi]; rfl), hi]
      rfl
    rw [exec_resume_seeded haccepts hseed (.inl hstate), if_neg (not_not_intro hended), hstate]
    rfl
  · have hboundary : (s.ctx n).state = 5 ∧ (s.ctx n).st.hold < 4 ∧ (s.ctx n).job.held = false := ⟨hstate, hhold, hheld⟩
    rw [exec_resume_seeded haccepts hseed (.inr ⟨hstate, herr⟩), if_pos hboundary, if_pos hstate]
    exact ⟨fun hnone => by rw [if_neg (not_not_intro hnone)], fun hmore => by rw [if_pos hmore]⟩
  · rw [exec_yield_accepted haccepts, if_neg (not_not_intro hstate), if_neg (by simp only [i] at hmode hlimit; omega)]
  · rw [exec_yield_accepted haccepts, if_neg (not_not_intro hstate), if_pos hrange]
  · rw [exec_yield_accepted haccepts, if_pos hstate]
  · rw [exec_evict_inRange haccepts (.inr hstate) hto hlimit, if_pos hstate]
  · rw [exec_evict_inRange haccepts (.inl hstate) hto hlimit, if_neg (by rw [hstate]; decide)]

end Sys2Proof.Machine
end

section
/-! The sources of a yield (R16, R287 to R290): the pin, the messages of the members, and the deadline of a hold. -/

namespace Sys2Proof.Machine

theorem exec_yieldNFall (s : State) : exec .yieldNFall s = execYieldNFall s := rfl
theorem exec_yieldNRise (s : State) : exec .yieldNRise s = .next ((s.loadedCtxs.filter (fun n => bitOf (s.ctx n).ysrc 1)).foldl
    (fun s n => (s.endSource n 1).resumeIfFree n) { s with pins := { s.pins with yieldFiltered := true } }) := rfl
theorem exec_yieldMessage (n d gen mode step hold : Nat) (s : State) : exec (.yieldMessage n d gen mode step hold) s = execYieldMessage n d gen mode step hold s := rfl
theorem exec_resumeMessage (n d gen : Nat) (s : State) : exec (.resumeMessage n d gen) s = execResumeMessage n d gen s := rfl
theorem exec_yieldHoldDeadline (n : Nat) (s : State) : exec (.yieldHoldDeadline n) s = execYieldHoldDeadline n s := rfl
theorem exec_yieldDrainComplete (n : Nat) (s : State) : exec (.yieldDrainComplete n) s = execYieldDrainComplete n s := rfl

/-! ### The pin (R287) -/

theorem exec_yieldNFall_high {s : State} (hhigh : s.pins.yieldFiltered = true) :
    exec .yieldNFall s = .next ((s.loadedCtxs.filter (fun n => decide (s.regs.field (ctxPage n) 0x48 0 0 = 1))).foldl
      (fun s n => s.yieldRequest n 1 (s.regs.field (ctxPage n) 0x48 1 1) (s.regs.field (ctxPage n) 0x48 15 8 * ms)) { s with pins := { s.pins with yieldFiltered := false } }) := by
  rw [exec_yieldNFall, execYieldNFall, hhigh, Bool.not_true, if_neg Bool.false_ne_true]
  rfl

theorem exec_yieldNFall_low {s : State} (hlow : s.pins.yieldFiltered = false) : exec .yieldNFall s = .next s := by
  rw [exec_yieldNFall, execYieldNFall, hlow, Bool.not_false, if_pos rfl]

/-! ### The point of a yield (R288) -/

theorem State.setPoint_now (s : State) (n src at' : Nat) (b : Option Nat) : s.setPoint n src at' (1, b) = s.startDrain n := rfl

/-- The deadlines of a context's yield requests with one more of a source; the earlier of two of one source counts. -/
def withDeadline (ds : Tab Nat) (src b : Nat) : Tab Nat := tset ds src (match tfind ds src with | some a => min a b | none => b)

/-- A request with a hold waits for the boundary of a step. -/
theorem State.setPoint_boundary (s : State) (n src at' b : Nat) : s.setPoint n src at' (2, some b) = s.modCtx n (fun c => { c with st := { c.st with
    point := 2, pointAt := if c.st.point = 2 then min c.st.pointAt at' else at', deadlines := withDeadline (s.ctx n).st.deadlines src b } }) := rfl

theorem tfind_withDeadline {ds : Tab Nat} {src : Nat} (hnone : tfind ds src = none) (b : Nat) : tfind (withDeadline ds src b) src = some b := by
  rw [withDeadline, tfind_tset_same, hnone]

/-! ### Messages of the members (R16, R289) -/

section
variable {s : State} {n d : Nat} (hn : n < 64) (hpeer : d ∈ s.peersOf n)
include hn hpeer

/-- A yield message of the present generation sets the link source, and at a running context the point. -/
theorem exec_yieldMessage_present (mode step hold : Nat) :
    let u := s.modCtx n (fun c => { c with ysrc := c.ysrc ||| 4 })
    exec (.yieldMessage n d (s.ctx n).job.gen mode step hold) s = .next (
      if (s.ctx n).state ≠ 2 then u
      else if mode % 2 = 1 ∧ (s.ctx n).st.step ≤ step then u.setPoint n 2 step (2, if mode = 1 then some (s.now + hold * 100) else none)
      else u.setPoint n 2 (u.boundaryStep n) (if u.inCommit n then 2 else 1, none)) := by
  intro u
  have hfrom : ¬(64 ≤ n ∨ (!(s.peersOf n).contains d) = true) := by simp [hn, hpeer]
  have hu : u.ctx n = { s.ctx n with ysrc := (s.ctx n).ysrc ||| 4 } := s.ctx_modCtx n _
  rw [exec_yieldMessage, execYieldMessage, if_neg hfrom, if_neg (not_not_intro rfl)]
  dsimp only
  rw [hu]
  rfl

theorem exec_yieldMessage_otherGeneration {g : Nat} (hgen : g ≠ (s.ctx n).job.gen) (mode step hold : Nat) : exec (.yieldMessage n d g mode step hold) s = .next (s.discard n) := by
  rw [exec_yieldMessage, execYieldMessage, if_neg (by simp [hn, hpeer]), if_pos hgen]

theorem exec_resumeMessage_otherGeneration {g : Nat} (hgen : g ≠ (s.ctx n).job.gen) : exec (.resumeMessage n d g) s = .next (s.discard n) := by
  rw [exec_resumeMessage, execResumeMessage, if_neg (by simp [hn, hpeer]), if_pos hgen]

theorem exec_resumeMessage_present : exec (.resumeMessage n d (s.ctx n).job.gen) s = .next ((s.endSource n 2).resumeIfFree n) := by
  rw [exec_resumeMessage, execResumeMessage, if_neg (by simp [hn, hpeer]), if_neg (not_not_intro rfl)]

end

/-! ### The deadline of a hold, and the end of a drain (R288, R290) -/

section
variable {s : State} {n : Nat}

/-- A deadline that has passed before the boundary pulls the context in, and the other members are told. -/
theorem exec_yieldHoldDeadline_passed (hstate : (s.ctx n).state = 2) (hpoint : (s.ctx n).st.point = 2) {x : Nat × Nat} (hx : x ∈ (s.ctx n).st.deadlines) (hpassed : x.2 < s.now)
    (hcommit : s.inCommit n = false) : exec (.yieldHoldDeadline n) s = .next (((s.tellYield n 2 0).originate n).startDrain n) := by
  have hsome : (s.ctx n).st.deadlines.all (fun d => decide (s.now ≤ d.2)) = false := List.all_eq_false.mpr ⟨x, hx, by simpa using hpassed⟩
  rw [exec_yieldHoldDeadline, execYieldHoldDeadline, if_neg (by simp [hstate, hpoint, hsome, hcommit])]

theorem exec_yieldHoldDeadline_inCommit (hcommit : s.inCommit n = true) : exec (.yieldHoldDeadline n) s = .next s := by
  rw [exec_yieldHoldDeadline, execYieldHoldDeadline, if_pos (.inr (.inr (.inr hcommit)))]

theorem exec_yieldHoldDeadline_early (hall : ∀ d ∈ (s.ctx n).st.deadlines, s.now ≤ d.2) : exec (.yieldHoldDeadline n) s = .next s := by
  have hnone : (s.ctx n).st.deadlines.all (fun d => decide (s.now ≤ d.2)) = true := List.all_eq_true.mpr fun d hd => decide_eq_true (hall d hd)
  rw [exec_yieldHoldDeadline, execYieldHoldDeadline, if_pos (.inr (.inr (.inl hnone)))]

theorem exec_yieldDrainComplete_drained (hn : n < 64) (hstate : (s.ctx n).state = 3) (hdrained : s.drained n = true) : exec (.yieldDrainComplete n) s = .next (s.enterYielded n) := by
  rw [exec_yieldDrainComplete, execYieldDrainComplete, if_neg (by simp [hn, hstate, hdrained])]

end

/-- Settles O42: the pin by its level, a message by its generation and by what it asks for, and a deadline by whether it has passed. -/
theorem yieldSources : Obligations.YieldSources := by
  unfold Obligations.YieldSources
  refine fun s => ⟨exec_yieldNFall_high, exec_yieldNFall_low, exec_yieldNRise s, fun n d mode step hold hn hpeer => ⟨?_, fun hstate hstep => ?_, fun hstate => ?_, fun g hgen => ?_, fun _ => ?_⟩,
    fun n src hset => ⟨s.endSource_ysrc n src hset, s.endSource_state n src⟩,
    fun n hstate hpoint => ⟨fun x hx hpassed => exec_yieldHoldDeadline_passed hstate hpoint hx hpassed, exec_yieldHoldDeadline_inCommit, exec_yieldHoldDeadline_early⟩,
    fun n => exec_yieldDrainComplete_drained⟩
  · intro u hstate hpull
    have hnow : ¬(mode % 2 = 1 ∧ (s.ctx n).st.step ≤ step) := by omega
    rw [exec_yieldMessage_present hn hpeer, if_neg (not_not_intro hstate), if_neg hnow]
    exact ⟨fun hcommit => by rw [hcommit]; rfl, fun hcommit => by rw [hcommit]; rfl⟩
  · have hwaits : 1 % 2 = 1 ∧ (s.ctx n).st.step ≤ step := ⟨rfl, hstep⟩
    rw [exec_yieldMessage_present hn hpeer, if_neg (not_not_intro hstate), if_pos hwaits, if_pos rfl, State.setPoint_boundary]
    refine ⟨_, rfl, ?_⟩
    simp only [State.ctx_modCtx]
    refine ⟨trivial, hstate, trivial, fun hpoint => if_neg hpoint, fun hnone => tfind_withDeadline hnone _, fun m hm => ?_, rfl, rfl, rfl, rfl, rfl⟩
    rw [State.ctx_modCtx_ne _ _ _ _ hm, State.ctx_modCtx_ne _ _ _ _ hm]
  · rw [exec_yieldMessage_present hn hpeer, if_pos hstate]
  · exact ⟨exec_yieldMessage_otherGeneration hn hpeer hgen mode step hold, exec_resumeMessage_otherGeneration hn hpeer hgen⟩
  · exact exec_resumeMessage_present hn hpeer

end Sys2Proof.Machine
end

section
/-! Loading of contexts (R195, R297, R403), the fetch of shared regions (R221), and the announcements of members (R451). -/

namespace Sys2Proof.Machine

theorem exec_loadBegin (master n tag : Nat) (args : List Nat) (s : State) : exec (.loadBegin master n tag args) s = execLoadBegin master n tag args s := rfl
theorem exec_load (master n tag : Nat) (args : List Nat) (s : State) : exec (.load master n tag args) s = execLoad master n tag args s := rfl
theorem exec_restore (master n tag : Nat) (args : List Nat) (s : State) : exec (.restore master n tag args) s = execRestore master n tag args s := rfl
theorem exec_sharedRegionFetchComplete (n r : Nat) (holders : List (Nat × List Byte)) (host : List Byte) (s : State) :
    exec (.sharedRegionFetchComplete n r holders host) s = execSharedRegionFetchComplete n r holders host s := rfl
theorem exec_memberAnnouncement (n : Nat) (m : AnnMsg) (s : State) : exec (.memberAnnouncement n m) s = execMemberAnnouncement n m s := rfl

/-! ### The image area (R195) -/

section
variable (s : State) (m : Nat)

/-- What a host function enables is read by the PCI Express port alone. -/
theorem State.sawFn_frame : { s.sawFn m with pcie := s.pcie } = s := by
  unfold State.sawFn
  split <;> rfl

@[simp] theorem State.sawFn_ctx (n : Nat) : (s.sawFn m).ctx n = s.ctx n := by have h := congrArg (State.ctx · n) (s.sawFn_frame m); exact h
@[simp] theorem State.sawFn_quota (n : Nat) : (s.sawFn m).quota n = s.quota n := by have h := congrArg (State.quota · n) (s.sawFn_frame m); exact h
@[simp] theorem State.sawFn_findRun (k : Nat) : (s.sawFn m).findRun k = s.findRun k := by have h := congrArg (State.findRun · k) (s.sawFn_frame m); exact h
@[simp] theorem State.sawFn_arg (n i : Nat) : (s.sawFn m).arg n i = s.arg n i := by have h := congrArg (State.arg · n i) (s.sawFn_frame m); exact h

end

theorem State.issued_arg_zero (s : State) (n op tag master : Nat) (args : List Nat) : (s.issued n op tag master args).arg n 0 = args.getD 0 0 := by
  rw [State.arg, State.issued_ctx]
  cases args <;> rfl

theorem State.freeImage_none {s : State} {n : Nat} (h : (s.ctx n).mem.image = none) : s.freeImage n = s := by
  unfold State.freeImage
  rw [h]

theorem State.allocRun_found {s : State} {k f : Nat} (h : s.findRun k = some f) (n : Nat) (shared : Bool) (mir : Option Nat) :
    s.allocRun n shared mir k = some ((s.modFrames (framesFrom f k) (fun _ => frameEntry n shared mir)).followPartition n, f) := by
  rw [State.allocRun, h, Option.map_some]

/-! ### LOAD_BEGIN, LOAD and RESTORE (R195, R297, R403) -/

section
variable {s : State} {master n : Nat} (haccepts : s.Accepts master n) {tag : Nat} {args : List Nat}
include haccepts

theorem exec_loadBegin_allots (hstate : (s.ctx n).state = 0) (himage : (s.ctx n).mem.image = none) (hsize : args.getD 0 0 ≠ 0) (hquota : versionFrames 1 (args.getD 0 0) ≤ s.quota n)
    {f : Nat} (hrun : s.findRun (versionFrames 1 (args.getD 0 0)) = some f) :
    exec (.loadBegin master n tag args) s =
      .next ((((((s.issued n 1 tag master args).sawFn master).modFrames (framesFrom f (versionFrames 1 (args.getD 0 0))) (fun _ => frameEntry n false none)).followPartition n).modCtx n
        (fun c => { c with mem := { c.mem with image := some (runAddr 1 0 f, args.getD 0 0), imageDone := false } })).cmdDone n 0 (some (runAddr 1 0 f))) := by
  have hnone : (((s.issued n 1 tag master args).sawFn master).ctx n).mem.image = none := by rw [State.sawFn_ctx, State.issued_ctx_mem, himage]
  have hfound : ((s.issued n 1 tag master args).sawFn master).findRun (versionFrames 1 (args.getD 0 0)) = some f := by rw [State.sawFn_findRun, State.issued_findRun, hrun]
  rw [exec_loadBegin, execLoadBegin, State.command_accepted haccepts]
  simp only [State.sawFn_arg, State.issued_arg_zero, State.sawFn_ctx, State.issued_ctx_state, hstate, if_neg hsize, State.freeImage_none hnone, State.sawFn_quota, State.issued_quota,
    if_neg (Nat.not_lt.mpr hquota), State.allocRun_found hfound, ne_eq, not_true_eq_false, if_false]

theorem exec_load_disallowed (h : (s.ctx n).state ≠ 0 ∨ (s.ctx n).mem.image = none) : exec (.load master n tag args) s = .next ((s.issued n 2 tag master args).cmdDone n 0x41 none) := by
  rw [exec_load, execLoad, State.command_accepted haccepts, State.issued_ctx_state, State.issued_ctx_mem, if_pos h]

theorem exec_restore_disallowed (h : (s.ctx n).state ≠ 0 ∨ (s.ctx n).mem.image = none) : exec (.restore master n tag args) s = .next ((s.issued n 3 tag master args).cmdDone n 0x41 none) := by
  rw [exec_restore, execRestore, State.command_accepted haccepts, State.issued_ctx_state, State.issued_ctx_mem, if_pos h]

variable (hstate : (s.ctx n).state = 0) (himage : (s.ctx n).mem.image ≠ none)
include hstate himage

theorem exec_load_unreadable (hparse : (s.issued n 2 tag master args).image n = none) : exec (.load master n tag args) s = .next ((s.issued n 2 tag master args).refuseLoad n 0x04) := by
  rw [exec_load, execLoad, State.command_accepted haccepts, State.issued_ctx_state, State.issued_ctx_mem, if_neg (not_or.mpr ⟨not_not_intro hstate, himage⟩), hparse]

/-- A readable image: the code of the first check that fails, or the start of the load. -/
theorem exec_load_checked {p : Prog} {m : Manifest} (hparse : (s.issued n 2 tag master args).image n = some (p, m)) :
    exec (.load master n tag args) s = .next (
      if (s.issued n 2 tag master args).loadChecks n p m ≠ 0 then (s.issued n 2 tag master args).refuseLoad n ((s.issued n 2 tag master args).loadChecks n p m)
      else (s.issued n 2 tag master args).startLoad n p m id) := by
  rw [exec_load, execLoad, State.command_accepted haccepts, State.issued_ctx_state, State.issued_ctx_mem, if_neg (not_or.mpr ⟨not_not_intro hstate, himage⟩), hparse]

/-- A save record of the program's own plan and of this module's lanes and arrays that passes the checks starts the restore. -/
theorem exec_restore_starts {p : Prog} {m : Manifest} {r : SaveRec} (hparse : (s.issued n 3 tag master args).image n = some (p, m))
    (hrec : (s.issued n 3 tag master args).readSave ((s.issued n 3 tag master args).arg n 0) p (m.shardsOf (s.issued n 3 tag master args).cab).length = some r)
    (hlanes : r.lanes = 128) (harrays : r.arrays = 4) (hplan : r.plan = p.planDigest)
    (hchecks : firstCode [(s.issued n 3 tag master args).checkProfile p, p.checkLanes, 0, (s.issued n 3 tag master args).checkStrict p, p.checkLength,
      (s.issued n 3 tag master args).checkPlace n p m, (s.issued n 3 tag master args).checkResources n p m, p.checkDesc] = 0) :
    exec (.restore master n tag args) s = .next ((s.issued n 3 tag master args).startLoad n p m (fun s => s.applySave n r)) := by
  rw [exec_restore, execRestore, State.command_accepted haccepts, State.issued_ctx_state, State.issued_ctx_mem, if_neg (not_or.mpr ⟨not_not_intro hstate, himage⟩), hparse]
  have hmodule : r.lanes = 128 ∧ r.arrays = 4 := ⟨hlanes, harrays⟩
  dsimp only
  rw [hrec]
  dsimp only
  rw [if_pos hmodule, if_pos hplan, hchecks, if_neg (not_not_intro rfl)]

end

/-- A save record of the program's own shape is read as it stands. -/
theorem State.readSave_ownShape {s : State} {a hosted : Nat} {p : Prog} {r : SaveRec}
    (h : parseSave (s.devRead a (p.saveLength hosted)) (((List.range 16).filter (fun d => decide (p.ctrCount d ≠ 0))).length) p.regions.length = some r) : s.readSave a p hosted = some r := by
  unfold State.readSave
  dsimp only
  rw [h]
  rfl

/-! ### The holders of a shared region by their distance (R221) -/

theorem routeHops_length_le (plan b : Nat) : ∀ fuel a, (routeHops plan b fuel a).length ≤ fuel
  | 0, _ => Nat.le_refl 0
  | fuel + 1, a => by
    rw [routeHops]
    split
    · exact Nat.zero_le _
    · split
      · exact Nat.succ_le_succ (routeHops_length_le plan b fuel _)
      · exact Nat.zero_le _

/-- One element put into its place among `m` is all that they hold. -/
theorem range_flatMap_place {α : Type} (x : α) {k m : Nat} (hk : k < m) : (List.range m).flatMap (fun i => if k = i then [x] else []) = [x] := by
  induction m with
  | zero => exact absurd hk (Nat.not_lt_zero k)
  | succ m ih =>
    rw [List.range_succ, List.flatMap_append, List.flatMap_singleton]
    by_cases hlast : k = m
    · have hbefore : (List.range m).flatMap (fun i => if k = i then [x] else []) = [] :=
        List.flatMap_eq_nil_iff.mpr fun i hi => if_neg (by rw [hlast]; exact (List.mem_range.mp hi).ne')
      rw [hbefore, if_pos hlast, List.nil_append]
    · rw [ih (by omega), if_neg hlast, List.append_nil]

@[simp] theorem State.nearest_nil (s : State) : s.nearest [] = [] := List.flatMap_eq_nil_iff.mpr fun _ _ => rfl

@[simp] theorem State.nearest_singleton (s : State) (x : Nat × List Byte) : s.nearest [x] = [x] := by
  have hplace : ∀ i, sortBy (·.1) ([x].filter (fun y => decide ((routeHops s.plan y.1 12 s.cab).length = i))) = if (routeHops s.plan x.1 12 s.cab).length = i then [x] else [] := by
    intro i
    rw [List.filter_singleton]
    by_cases hi : (routeHops s.plan x.1 12 s.cab).length = i
    · rw [decide_eq_true hi, if_pos hi]
      rfl
    · rw [decide_eq_false hi, if_neg hi]
      rfl
  rw [State.nearest]
  simp only [hplace]
  exact range_flatMap_place x (Nat.lt_succ_of_le (routeHops_length_le ..))

/-! ### The fetch of a shared region (R221) -/

section
variable {s : State} {n r : Nat} {g : Region} (hregion : s.region r = some g) (hshared : g.shared = true) (hpend : g.pend < 3) (hmapped : n ∈ g.mapped)
include hregion hshared hpend hmapped

/-- No device holds the region: the host's bytes are taken where they have the declared digest, and else the holders are asked once more. -/
theorem exec_sharedRegionFetchComplete_host {bytes dig : List Byte} (hlen : bytes.length = g.size) (hdig : s.declaredDigest r = some dig) :
    exec (.sharedRegionFetchComplete n r [] bytes) s = .next (if versionDigest g.size bytes = dig then (s.devWrite n (g.base g.pend) bytes).sharedCurrent r 2 else s.askHolders r dig) := by
  have huse : ¬((!g.shared) = true ∨ 3 ≤ g.pend ∨ (!g.mapped.contains n) = true) := by simp [hshared, hpend, hmapped]
  simp only [exec_sharedRegionFetchComplete, execSharedRegionFetchComplete, hregion, hdig, if_neg huse, hlen, List.filter_nil, State.nearest_nil, List.isEmpty_nil, Bool.not_true,
    Bool.false_eq_true, ne_eq, not_true_eq_false, if_false]

/-- One other device holds the region, and its bytes have the declared digest. -/
theorem exec_sharedRegionFetchComplete_holder {bytes : List Byte} {holder : Nat} (hlen : bytes.length = g.size) (hcabinet : holder < 128) (hother : holder ≠ s.cab)
    (hdig : s.declaredDigest r = some (versionDigest g.size (assembled g.size [(holder, bytes)]))) (host : List Byte) :
    exec (.sharedRegionFetchComplete n r [(holder, bytes)] host) s = .next ((s.devWrite n (g.base g.pend) (assembled g.size [(holder, bytes)])).sharedCurrent r 1) := by
  have huse : ¬((!g.shared) = true ∨ 3 ≤ g.pend ∨ (!g.mapped.contains n) = true) := by simp [hshared, hpend, hmapped]
  have hadmitted : [(holder, bytes)].filter (fun x => decide (x.1 < 128 ∧ x.1 ≠ s.cab ∧ x.2.length = g.size)) = [(holder, bytes)] := by
    rw [List.filter_singleton, decide_eq_true ⟨hcabinet, hother, hlen⟩]
    rfl
  have hfetch : s.fetchShared n r g (versionDigest g.size (assembled g.size [(holder, bytes)])) 1 [(holder, bytes)] =
      (s.devWrite n (g.base g.pend) (assembled g.size [(holder, bytes)])).sharedCurrent r 1 := if_pos rfl
  simp only [exec_sharedRegionFetchComplete, execSharedRegionFetchComplete, hregion, hdig, if_neg huse, hadmitted, State.nearest_singleton, List.isEmpty_cons, Bool.not_false, if_true,
    List.length_singleton]
  rw [hfetch]

end

/-! ### Announcements (R451) -/

/-- The answer of a member that is known already: its context is noted, and the forward entries that name it are written. -/
theorem exec_memberAnnouncement_answer {s : State} {n : Nat} {m : AnnMsg} {k : Manifest} (hn : n < 64) (hctx : m.ctx < 64) (hman : (s.ctx n).job.man = some k) (hjob : k.jobId = m.job)
    (hmember : m.dev ∈ k.members) (hother : m.dev ≠ s.cab) (hstate : (s.ctx n).state ≠ 0) (hanswer : m.answer = true) (hknown : (tfind (s.ctx n).job.peers m.dev).isSome = true) :
    exec (.memberAnnouncement n m) s = .next ((s.modCtx n (fun c => { c with job := { c.job with peers := tset c.job.peers m.dev m.ctx } })).writeFwds n m.dev m.ctx) := by
  have hours : ¬(64 ≤ n ∨ 64 ≤ m.ctx ∨ k.jobId ≠ m.job ∨ (!k.members.contains m.dev) = true ∨ m.dev = s.cab ∨ (s.ctx n).state = 0) := by simp [hn, hctx, hjob, hmember, hother, hstate]
  simp only [exec_memberAnnouncement, execMemberAnnouncement, hman, if_neg hours, hknown, hanswer, if_true]

/-- Settles O37: each command by its checks, a fetched region by who holds it and its digest, and an announcement by what the member knows already. -/
theorem loadingOfContexts : Obligations.LoadingOfContexts := by
  unfold Obligations.LoadingOfContexts
  refine ⟨fun s master n tag args haccepts => ?_, fun s n r holder bytes g hregion hshared hpend hlen hmapped => ?_, fun s n m k => exec_memberAnnouncement_answer⟩
  · intro i
    refine ⟨fun hstate himage hsize hquota f => exec_loadBegin_allots haccepts hstate himage hsize hquota, fun h => ⟨exec_load_disallowed haccepts h, exec_restore_disallowed haccepts h⟩,
      fun hstate himage => ⟨exec_load_unreadable haccepts hstate himage, fun p m => ⟨fun hparse hpass => ?_, fun hparse hfail => ?_, fun r hparse hrec hlanes harrays hplan => ?_⟩⟩⟩
    · rw [exec_load_checked haccepts hstate himage hparse, if_neg (not_not_intro hpass)]
    · rw [exec_load_checked haccepts hstate himage hparse, if_pos hfail]
    · exact exec_restore_starts haccepts hstate himage hparse (State.readSave_ownShape hrec) hlanes harrays hplan
  · refine ⟨fun hdig => ?_, fun host hcabinet hother hdig => exec_sharedRegionFetchComplete_holder hregion hshared hpend hmapped hlen hcabinet hother hdig host, fun dig hdig hne => ?_⟩
    · rw [exec_sharedRegionFetchComplete_host hregion hshared hpend hmapped hlen hdig, if_pos rfl]
    · rw [exec_sharedRegionFetchComplete_host hregion hshared hpend hmapped hlen hdig, if_neg hne.symm]

end Sys2Proof.Machine
end

section
/-! What the actions of a step boundary leave of their context (R285, R299, R300): the admissions of sequences, and the pass to the next step. -/

namespace Sys2Proof.Machine

/-! ### Writes and allocations (R194, R201) -/

/-- A mirrored write changes nothing in its context but the count of the writes that its buddies owe it. -/
theorem State.mirror_ctx (s : State) (n k o : Nat) (bs : List Byte) : ∃ u, (s.mirror n k o bs).ctx n = { s.ctx n with mem := { (s.ctx n).mem with unacked := u } } := by
  unfold State.mirror
  dsimp only
  split
  · exact ⟨_, rfl⟩
  · rw [State.ctx_modCtx, State.ctx_sendAll]
    exact ⟨_, rfl⟩

theorem State.devWriteGo_ctx (n : Nat) (ps : List (Nat × Nat)) (bs : List Byte) (s : State) :
    ∃ u, (State.devWriteGo n ps bs s).ctx n = { s.ctx n with mem := { (s.ctx n).mem with unacked := u } } := by
  induction ps generalizing bs s with
  | nil => exact ⟨_, rfl⟩
  | cons p ps ih =>
    rw [State.devWriteGo]
    split
    · next k o _ =>
      obtain ⟨v, hv⟩ := ((s.memWrite k o (bs.take p.2)).clearLines k o (bs.take p.2).length).mirror_ctx n k o (bs.take p.2)
      obtain ⟨u, hu⟩ := ih (bs.drop p.2) (s.applyWrite n k o (bs.take p.2))
      exact ⟨u, by rw [hu, State.applyWrite, hv]; rfl⟩
    · exact ih _ s

theorem State.devWrite_ctx (s : State) (n a : Nat) (bs : List Byte) : ∃ u, (s.devWrite n a bs).ctx n = { s.ctx n with mem := { (s.ctx n).mem with unacked := u } } :=
  State.devWriteGo_ctx n _ bs s

theorem State.allocRun_ctxs {s t : State} {n k f : Nat} {shared : Bool} {mir : Option Nat} (h : s.allocRun n shared mir k = some (t, f)) : t.ctxs = s.ctxs := by
  obtain ⟨g, _, hg⟩ := Option.map_eq_some_iff.mp h
  cases hg
  rw [State.followPartition_ctxs, State.modFrames_ctxs]

/-- Frames that are freed and zeroed at once leave every context. -/
theorem State.foldl_zeroFrame_ctxs (fs : List Nat) (s : State) : (fs.foldl (fun s f => (s.zeroFrame f).setFrame f 0) s).ctxs = s.ctxs :=
  List.foldlRecOn (motive := fun t : State => t.ctxs = s.ctxs) fs _ rfl fun _ ht _ _ => ht

/-! ### Leaves and joins (R299, R300) -/

theorem State.doLeaves_ctx (s : State) (n : Nat) : ∃ a, (s.doLeaves n).ctx n = { s.ctx n with mem := { (s.ctx n).mem with admitted := a } } := by
  unfold State.doLeaves
  refine List.foldlRecOn (motive := fun t : State => ∃ a, t.ctx n = { s.ctx n with mem := { (s.ctx n).mem with admitted := a } }) _ _ ⟨_, rfl⟩ fun t ht id _ => ?_
  obtain ⟨a, ha⟩ := ht
  split
  · exact ⟨a, ha⟩
  · rw [State.ctx_modCtx, State.ctx_eq_of_ctxs ((State.foldl_zeroFrame_ctxs _ _).trans (t.invalidate_ctxs _)), ha]
    exact ⟨_, rfl⟩

theorem State.doJoins_ctx (s : State) (n : Nat) : ∃ a j, (s.doJoins n).1.ctx n = { s.ctx n with mem := { (s.ctx n).mem with admitted := a, joins := j } } := by
  unfold State.doJoins
  refine List.foldlRecOn (motive := fun x : State × List SeqRec × Bool => ∃ a j, x.1.ctx n = { s.ctx n with mem := { (s.ctx n).mem with admitted := a, joins := j } }) _ _ ⟨_, _, rfl⟩
    fun x hx q _ => ?_
  obtain ⟨a, j, hctx⟩ := hx
  dsimp only
  split_ifs
  · exact ⟨a, j, hctx⟩
  · split
    · exact ⟨a, j, hctx⟩
    · rw [State.ctx_modCtx, State.ctx_eq_of_ctxs (State.allocRun_ctxs ‹_›), hctx]
      exact ⟨_, _, rfl⟩

/-- The state in which the pending leaves and joins have been processed, before the record of the admissions. -/
def State.sequencesDone (s : State) (n : Nat) : State := ((s.doLeaves n).doJoins n).1.modCtx n (fun c => { c with mem := { c.mem with leaves := [] } })

/-- The admission record is written where the program has a buffer for it (R300). -/
def State.admissionsWritten (s : State) (n : Nat) (p : Prog) (bytes : List Byte) : State :=
  if p.admBytes = 0 then s else (s.devWrite n (s.ctx n).mem.admBuf bytes).modCtx n (fun c => { c with mem := { c.mem with admRec := bytes } })

/-- The admission counter is raised where the program has one (R300). -/
def State.admissionsSignalled (s : State) (n : Nat) (p : Prog) : State := if p.admCtr = 0xFFFFFFFF then s else s.sendSignal n p.admCtr 2 (s.ctx n).st.step 0xF000

theorem State.admitSeqs_stages (s : State) (n : Nat) :
    s.admitSeqs n = s.sequencesDone n ∨ ∃ p bytes, s.admitSeqs n = ((s.sequencesDone n).admissionsWritten n p bytes).admissionsSignalled n p := by
  unfold State.admitSeqs
  dsimp only
  split
  · exact .inl rfl
  · exact .inr ⟨_, _, rfl⟩

theorem State.sequencesDone_ctx (s : State) (n : Nat) : ∃ a j, (s.sequencesDone n).ctx n = { s.ctx n with mem := { (s.ctx n).mem with admitted := a, joins := j, leaves := [] } } := by
  obtain ⟨b, hb⟩ := s.doLeaves_ctx n
  obtain ⟨a, j, hj⟩ := (s.doLeaves n).doJoins_ctx n
  exact ⟨a, j, by rw [State.sequencesDone, State.ctx_modCtx, hj, hb]⟩

theorem State.admissionsWritten_ctx (s : State) (n : Nat) (p : Prog) (bytes : List Byte) :
    ∃ u r, (s.admissionsWritten n p bytes).ctx n = { s.ctx n with mem := { (s.ctx n).mem with unacked := u, admRec := r } } := by
  unfold State.admissionsWritten
  split
  · exact ⟨_, _, rfl⟩
  · obtain ⟨u, hu⟩ := s.devWrite_ctx n (s.ctx n).mem.admBuf bytes
    exact ⟨u, bytes, by rw [State.ctx_modCtx, hu]⟩

theorem State.admissionsSignalled_ctx (s : State) (n : Nat) (p : Prog) : (s.admissionsSignalled n p).ctx n = s.ctx n := by
  unfold State.admissionsSignalled
  split
  · rfl
  · exact State.ctx_eq_of_ctxs (State.sendSignal_ctxs ..) n

/-- The admissions of a boundary change nothing of their context but its sequences, and what its writes and its record of them leave. -/
theorem State.admitSeqs_ctx (s : State) (n : Nat) : ∃ a j u r,
    (s.admitSeqs n).ctx n = { s.ctx n with mem := { (s.ctx n).mem with admitted := a, joins := j, leaves := [], unacked := u, admRec := r } } := by
  obtain ⟨a, j, hdone⟩ := s.sequencesDone_ctx n
  rcases s.admitSeqs_stages n with h | ⟨p, bytes, h⟩
  · exact ⟨a, j, _, _, by rw [h, hdone]⟩
  · obtain ⟨u, r, hwritten⟩ := (s.sequencesDone n).admissionsWritten_ctx n p bytes
    exact ⟨a, j, u, r, by rw [h, State.admissionsSignalled_ctx, hwritten, hdone]⟩

/-! ### The pass to the next step (R285) -/

/-- The queues are no part of a context. -/
theorem State.ctx_modCtx_queues (s : State) (n : Nat) (f : Ctx → Ctx) (qs : Tab Queue) : State.ctx { s.modCtx n f with queues := qs } n = f (s.ctx n) := s.ctx_modCtx n f

/-- A passed step: the step count, its time and what the commit of the step has used start anew, and the flag words are 0. -/
theorem State.passStep_ctx (s : State) (n : Nat) :
    ((s.passStep n).ctx n).st.step = ((s.ctx n).st.step + 1) % 2 ^ 64 ∧ ((s.passStep n).ctx n).st.stepTime = (s.ctx n).st.reached ∧
      ((s.passStep n).ctx n).shards = (s.ctx n).shards.map (fun h => (h.1, { h.2 with flags := 0 })) ∧ ((s.passStep n).ctx n).mem.hashes = [] ∧ ((s.passStep n).ctx n).mem.leaves = [] := by
  unfold State.passStep
  dsimp only
  obtain ⟨a, j, u, r, h⟩ := State.admitSeqs_ctx (State.takeSnapshot _ n) n
  rw [h, State.takeSnapshot, State.ctx_modCtx, State.ctx_modCtx_queues]
  exact ⟨rfl, rfl, rfl, rfl, rfl⟩

end Sys2Proof.Machine
end

section
/-! Commits (R318, R329), the step boundary (R285), and receipts (R361, R362). -/

namespace Sys2Proof.Machine

theorem exec_commitRecordWrite (n : Nat) (src : Option (Nat × List Byte)) (s : State) : exec (.commitRecordWrite n src) s = execCommitRecordWrite n src s := rfl
theorem exec_commitReport (n d step : Nat) (s : State) : exec (.commitReport n d step) s = execCommitReport n d step s := rfl
theorem exec_commitRelease (n step : Nat) (s : State) : exec (.commitRelease n step) s = execCommitRelease n step s := rfl
theorem exec_stepBoundary (n : Nat) (s : State) : exec (.stepBoundary n) s = execStepBoundary n s := rfl
theorem exec_ctxRcptReadAdvance (master n rd : Nat) (s : State) : exec (.ctxRcptReadAdvance master n rd) s = execCtxRcptReadAdvance master n rd s := rfl
theorem exec_receiptSigned (s : State) : exec .receiptSigned s = execReceiptSigned s := rfl

/-! ### Writing what stands there -/

theorem tset_tset_same {α : Type} (k : Nat) (v : α) (t : Tab α) : tset (tset t k v) k v = tset t k v := by
  induction t with
  | nil => simp [tset]
  | cons e t ih =>
    obtain ⟨j, w⟩ := e
    rcases Nat.lt_trichotomy k j with hlt | heq | hgt
    · simp [tset, hlt]
    · simp [tset, heq]
    · simp [tset, hgt.not_gt, hgt.ne', ih]

theorem tput_tput_same {α : Type} [DecidableEq α] (d v : α) (k : Nat) (t : Tab α) : tput d (tput d t k v) k v = tput d t k v := by
  unfold tput
  split
  · exact List.filter_eq_self.mpr fun e he => (List.mem_filter.mp he).2
  · exact tset_tset_same k v t

/-- A change that gives a context back as it was just written changes nothing. -/
theorem State.modCtx_setCtx_same {s : State} {n : Nat} {k : Ctx} {f : Ctx → Ctx} (hf : f k = k) : (s.setCtx n k).modCtx n f = s.setCtx n k := by
  rw [show (s.setCtx n k).modCtx n f = (s.setCtx n k).setCtx n (f ((s.setCtx n k).ctx n)) from rfl, State.ctx_setCtx, hf]
  exact congrArg (fun t => { s with ctxs := t }) (tput_tput_same Ctx.reset k n s.ctxs)

/-! ### The commit record (R296, R329) -/

@[simp] theorem State.sendAll_nil (s : State) : s.sendAll [] = s := rfl

section
variable {s : State} {n : Nat} (hn : n < 64)
include hn

/-- A member without buddies has no one to send its record to. -/
theorem exec_commitRecordWrite_alone (hdue : s.commitDue n = true) (hnew : (s.ctx n).job.recWritten = false) (halone : s.buddiesOf n = []) :
    exec (.commitRecordWrite n none) s = .next (s.setCtx n { s.ctx n with job := { (s.ctx n).job with recWritten := true } }) := by
  have hwrite : ¬((!s.commitDue n) = true ∨ (s.ctx n).job.recWritten = true) := by simp [hdue, hnew]
  simp only [exec_commitRecordWrite, execCommitRecordWrite, if_neg (Nat.not_le.mpr hn), if_neg hwrite, halone, List.map_nil, State.sendAll_nil, List.foldl_nil]
  rfl

/-- The record of a member of the job is kept here and acknowledged. -/
theorem exec_commitRecordWrite_kept {d : Nat} (hpeer : d ∈ s.peersOf n) (bs : List Byte) :
    exec (.commitRecordWrite n (some (d, bs))) s = .next ((s.keepRecord d n bs).send (.response d 0 [])) := by
  have hours : (s.peersOf n).contains d = true ∨ (s.ctx n).state = 0 := .inl (List.contains_iff_mem.mpr hpeer)
  simp only [exec_commitRecordWrite, execCommitRecordWrite, if_neg (Nat.not_le.mpr hn), if_pos hours]

/-! ### The report and the release (R318) -/

/-- The coordinator's own report: it is made, and noted at once. -/
theorem exec_commitReport_coordinator (hloaded : (s.ctx n).loaded = true) (hdue : s.commitDue n = true) (hrec : (s.ctx n).job.recWritten = true) (hnew : (s.ctx n).job.reported = false)
    (hacked : (s.ctx n).mem.unackedSum = 0) (hlines : s.linesHeld n = false) (hcoord : s.coordinatorOf n = s.cab) (hnote : s.cab ∉ (s.ctx n).job.reports) :
    exec (.commitReport n s.cab (s.stepToCommit n)) s = .next ((s.modCtx n (fun c => { c with job := { c.job with reported := true } })).modCtx n
      (fun c => { c with job := { c.job with reports := c.job.reports ++ [s.cab] } })) := by
  have hmay : ¬(64 ≤ n ∨ (!(s.ctx n).loaded) = true) := by simp [hn, hloaded]
  have hready : ¬((!s.commitDue n) = true ∨ (!(s.ctx n).job.recWritten) = true ∨ (s.ctx n).job.reported = true ∨ (s.ctx n).mem.unackedSum ≠ 0 ∨ s.linesHeld n = true ∨
      s.stepToCommit n ≠ s.stepToCommit n) := by simp [hdue, hrec, hnew, hacked, hlines]
  have hfirst : ¬(s.ctx n).job.reports.contains s.cab = true := by simpa using hnote
  rw [exec_commitReport, execCommitReport]
  dsimp only
  rw [if_neg hmay, if_pos rfl, if_neg hready]
  refine congrArg Host.Outcome.next ((if_pos hcoord).trans (congrArg (State.setCtx _ n) ?_))
  rw [State.ctx_modCtx]
  dsimp only
  rw [if_neg hfirst]

theorem exec_commitRelease_due (hloaded : (s.ctx n).loaded = true) (hdue : s.commitDue n = true) (hreported : (s.ctx n).job.reported = true) :
    exec (.commitRelease n (s.stepToCommit n)) s = .next (
      if s.coordinatorOf n = s.cab then if (s.liveMembers n).all (fun d => (s.ctx n).job.reports.contains d) then s.passRelease n (s.stepToCommit n) else s
      else s.takeRelease n) := by
  have hmay : ¬(64 ≤ n ∨ (!(s.ctx n).loaded) = true ∨ (!s.commitDue n) = true ∨ (!(s.ctx n).job.reported) = true ∨ s.stepToCommit n ≠ s.stepToCommit n) := by
    simp [hn, hloaded, hdue, hreported]
  rw [exec_commitRelease, execCommitRelease, if_neg hmay]

end

/-- No member reports while a write of the step is outstanding. -/
theorem exec_commitReport_outstanding {s : State} {n : Nat} (hout : (s.ctx n).mem.unackedSum ≠ 0 ∨ s.linesHeld n = true) (k : Nat) : exec (.commitReport n s.cab k) s = .next s := by
  have hwaits : (!s.commitDue n) = true ∨ (!(s.ctx n).job.recWritten) = true ∨ (s.ctx n).job.reported = true ∨ (s.ctx n).mem.unackedSum ≠ 0 ∨ s.linesHeld n = true ∨ k ≠ s.stepToCommit n :=
    .inr (.inr (.inr (hout.imp_right .inl)))
  rw [exec_commitReport, execCommitReport]
  dsimp only
  rw [if_pos rfl, if_pos hwaits, ite_self]

theorem State.takeRelease_settled {s : State} {n : Nat} (h : (s.ctx n).job.unsettled = false) : s.takeRelease n = s.commitStep n := by
  rw [State.takeRelease, h]
  exact if_neg Bool.false_ne_true

theorem State.takeRelease_unsettled {s : State} {n : Nat} (h : (s.ctx n).job.unsettled = true) :
    s.takeRelease n = ((s.commitStep n).comeBack n []).modCtx n (fun c => { c with job := { c.job with readySent := false } }) := by
  rw [State.takeRelease, h]
  exact if_pos rfl

theorem State.passRelease_alone {s : State} {n : Nat} (h : s.peersOf n = []) (step : Nat) : s.passRelease n step = s.takeRelease n := by
  rw [State.passRelease, h, List.map_nil, State.sendAll_nil]

/-! ### The step boundary (R285) -/

/-- With no receipt to store the boundary goes on from action 2. -/
theorem State.boundaryFrom1_none {s : State} {n : Nat} (h : (s.ctx n).mem.rcptWait = []) : s.boundaryFrom1 n = s.boundaryFrom2 n := by
  have hdrain : State.drainReceipts n 0 s = s := rfl
  unfold State.boundaryFrom1
  rw [h, List.length_nil, hdrain]
  exact if_pos (by rw [h]; rfl)

section
variable {s : State} {n : Nat} (hn : n < 64) (hstate : (s.ctx n).state = 2)
include hn hstate

theorem exec_stepBoundary_held1 (hhold : (s.ctx n).st.hold = 1) : exec (.stepBoundary n) s = .next (s.boundaryFrom4 n) := by
  simp [exec_stepBoundary, execStepBoundary, Nat.not_le.mpr hn, hstate, hhold]

theorem exec_stepBoundary_held2 (hhold : (s.ctx n).st.hold = 2) (hfree : s.evalHolds n = false) : exec (.stepBoundary n) s = .next (s.leaveBoundary n) := by
  simp [exec_stepBoundary, execStepBoundary, Nat.not_le.mpr hn, hstate, hhold, hfree]

theorem exec_stepBoundary_held3 (hhold : (s.ctx n).st.hold = 3) : exec (.stepBoundary n) s = .next (s.boundaryFrom1 n) := by
  simp [exec_stepBoundary, execStepBoundary, Nat.not_le.mpr hn, hstate, hhold]

theorem exec_stepBoundary_uncommitted (hhold : (s.ctx n).st.hold = 0) (hopen : (s.ctx n).job.released = false) : exec (.stepBoundary n) s = .next s := by
  simp [exec_stepBoundary, execStepBoundary, Nat.not_le.mpr hn, hstate, hhold, hopen]

/-- A committed step with nothing to publish and no receipt to write passes its boundary from action 2 on. -/
theorem exec_stepBoundary_passes (hhold : (s.ctx n).st.hold = 0) (hreleased : (s.ctx n).job.released = true) (hhosted : (s.ctx n).hosted = []) (hwait : (s.ctx n).mem.rcptWait = [])
    (hpub : ∀ r ∈ s.ownRegions n, ∀ g, s.region r = some g → g.commitPub = false) :
    exec (.stepBoundary n) s = .next (State.boundaryFrom2 (s.setCtx n { s.ctx n with st := { (s.ctx n).st with reached := s.elapsed n } }) n) := by
  have hlist : (s.ctx n).mem.rcptWait ++ (s.ctx n).hosted.map (fun i => State.receipt (s.setCtx n { s.ctx n with st := { (s.ctx n).st with reached := s.elapsed n } }) n i) =
      (s.ctx n).mem.rcptWait := by rw [hhosted, List.map_nil, List.append_nil]
  rw [exec_stepBoundary, execStepBoundary]
  dsimp only
  rw [if_neg (Nat.not_le.mpr hn), if_neg (fun h => absurd (hhold.symm.trans h.1) (by decide)), if_neg (not_not_intro hstate), if_neg (by rw [hhold]; decide), if_neg (by rw [hhold]; decide),
    if_neg (by rw [hhold]; decide), if_neg]
  · refine congrArg Host.Outcome.next ?_
    trans State.boundaryFrom1 (s.setCtx n { s.ctx n with st := { (s.ctx n).st with reached := s.elapsed n } }) n
    · refine congrArg (State.boundaryFrom1 · n) (State.modCtx_setCtx_same (f := fun c => _) ?_)
      exact congrArg (fun w => { s.ctx n with st := { (s.ctx n).st with reached := s.elapsed n }, mem := { (s.ctx n).mem with rcptWait := w } }) hlist
    · exact State.boundaryFrom1_none (by rw [State.ctx_setCtx]; exact hwait)
  · rintro (h4 | hopen | hpublishing)
    · exact absurd (hhold.symm.trans h4) (by decide)
    · rw [hreleased] at hopen
      exact Bool.false_ne_true hopen
    · obtain ⟨r, hr, hpending⟩ := List.any_eq_true.mp hpublishing
      split at hpending
      · rw [hpub r hr _ ‹_›, Bool.and_false] at hpending
        exact Bool.false_ne_true hpending
      · exact Bool.false_ne_true hpending

end

/-! ### Receipts (R361, R362) -/

theorem exec_ctxRcptReadAdvance_inRing {s : State} {n master rd : Nat} (hn : n < 64) (hmay : s.mayCommand n master = true) (hrd : rd < 2 ^ 32)
    (hring : ((s.ctx n).mem.rcptWr + 2 ^ 32 - rd) % 2 ^ 32 ≤ 2 ^ s.regs.field (ctxPage n) 0x884 23 16) :
    exec (.ctxRcptReadAdvance master n rd) s = .next (s.setCtx n { s.ctx n with mem := { (s.ctx n).mem with rcptRd := rd } }) := by
  simp only [exec_ctxRcptReadAdvance, execCtxRcptReadAdvance, if_neg (Nat.not_le.mpr hn), hmay, Nat.mod_eq_of_lt hrd, if_neg (Nat.not_lt.mpr hring), Bool.not_true, Bool.false_eq_true, if_false]
  rfl

/-- The oldest queued receipt, in a frame that its context still owns, is signed. -/
theorem exec_receiptSigned_owned {s : State} {n a d k o : Nat} {rest : List (Nat × Nat)} (hqueue : s.mgmt.signQ = (n, a) :: rest) (hdec : s.decodeAddr a = some (d, k, o))
    (howner : feOwner (s.frame (frameOf o)) = n) (halloc : feAlloc (s.frame (frameOf o)) = true) :
    exec .receiptSigned s = .next (((State.devWrite { s with mgmt := { s.mgmt with signQ := rest } } n (a + 256)
      (beBytes 384 (Config.signature 1 (beNat (sha256 (s.devRead a 256)))))).devWrite n (a + 0x280) (leBytes 8 1)).count 4 .signed 1) := by
  have howned : ¬(feOwner (s.frame (frameOf o)) ≠ n ∨ (!feAlloc (s.frame (frameOf o))) = true) := by simp [howner, halloc]
  have hdecoded : State.decodeAddr { s with mgmt := { s.mgmt with signQ := rest } } a = some (d, k, o) := hdec
  rw [exec_receiptSigned, execReceiptSigned, hqueue]
  dsimp only
  rw [hdecoded]
  exact congrArg Host.Outcome.next (if_neg howned)

/-- Settles O41: the record, the report and the release by their conditions, the boundary by where it is held, and the pass by what the boundary's admissions leave of the context. -/
theorem stepsCommit : Obligations.StepsCommit := by
  unfold Obligations.StepsCommit
  refine ⟨fun s n hn => ⟨exec_commitRecordWrite_alone hn, fun d bs hpeer => exec_commitRecordWrite_kept hn hpeer bs, fun hstate => exec_commitReport_coordinator hn (decide_eq_true hstate),
    exec_commitReport_outstanding, fun hstate hdue hreported => ?_, fun hstate => ⟨exec_stepBoundary_held1 hn hstate, exec_stepBoundary_held2 hn hstate, exec_stepBoundary_held3 hn hstate,
      exec_stepBoundary_passes hn hstate, exec_stepBoundary_uncommitted hn hstate⟩, fun master rd => exec_ctxRcptReadAdvance_inRing hn, fun a d k o rest => exec_receiptSigned_owned⟩,
    fun s n => ?_⟩
  · rw [exec_commitRelease_due hn (decide_eq_true hstate) hdue hreported]
    refine ⟨fun hmember hsettled => ?_, fun hmember hunsettled => ?_, fun hcoord hall halone hsettled => ?_, fun hcoord d hlive hmissing => ?_⟩
    · rw [if_neg hmember, State.takeRelease_settled hsettled]
    · rw [if_neg hmember, State.takeRelease_unsettled hunsettled]
    · rw [if_pos hcoord, if_pos (List.all_eq_true.mpr fun d hd => List.contains_iff_mem.mpr (hall d hd)), State.passRelease_alone halone, State.takeRelease_settled hsettled]
    · rw [if_pos hcoord, if_neg fun hall => hmissing (List.contains_iff_mem.mp (List.all_eq_true.mp hall d hlive))]
  · obtain ⟨hstep, htime, hshards, hhashes, hleaves⟩ := s.passStep_ctx n
    refine ⟨hstep, htime, fun h hmem => ?_, hhashes, hleaves⟩
    rw [hshards] at hmem
    obtain ⟨x, _, rfl⟩ := List.mem_map.mp hmem
    rfl

end Sys2Proof.Machine
end

section
/-! The Cabinet (R265, R331, R332, R393 to R396): heartbeats, lost devices and ports, and the messages of assembly. -/

namespace Sys2Proof.Machine

theorem exec_heartbeatSend (s : State) : exec .heartbeatSend s = execHeartbeatSend s := rfl
theorem exec_heartbeatReceive (p d : Nat) (s : State) : exec (.heartbeatReceive p d) s = execHeartbeatReceive p d s := rfl
theorem exec_lossTimeout (p : Nat) (s : State) : exec (.lossTimeout p) s = execLossTimeout p s := rfl
theorem exec_deviceLostNotice (d o x k : Nat) (s : State) : exec (.deviceLostNotice d o x k) s = execDeviceLostNotice d o x k s := rfl
theorem exec_assemblyMessage (m : AsmMsg) (s : State) : exec (.assemblyMessage m) s = execAssemblyMessage m s := rfl
theorem exec_assemblyTimeout (s : State) : exec .assemblyTimeout s = .next s.evalCab := rfl

section
variable {s : State}

/-! ### Heartbeats (R331, R332) -/

/-- What a heartbeat names is assumption log 77's. -/
theorem exec_heartbeatSend_due (hready : s.root.ready = true) (hdue : s.care.hbAt + s.regs.field 1 0x138 23 16 * ms ≤ s.now) :
    exec .heartbeatSend s = .next (s.presentPorts.foldl (fun s p => s.send (.sync ((s.portFar p).getD 0) msgHeartbeat [s.cab, farPortOf p])) { s with care := { s.care with hbAt := s.now } }) := by
  rw [exec_heartbeatSend, execHeartbeatSend, if_neg (by simp [hready, hdue])]
  rfl

theorem exec_heartbeatReceive_present {p d : Nat} (hready : s.root.ready = true) (hpresent : d ∈ s.care.present) (hport : p ∉ s.ports.lost) :
    exec (.heartbeatReceive p d) s = .next { s with care := { s.care with heard := tset s.care.heard d s.now } } := by
  have hwhole : ¬(s.ports.lost.contains p = true ∧ s.portFar p = some d ∧ d < s.cab) := fun h => hport (List.contains_iff_mem.mp h.1)
  rw [exec_heartbeatReceive, execHeartbeatReceive, if_neg (by simp [hready, hpresent])]
  exact congrArg Host.Outcome.next (if_neg hwhole)

/-! ### Lost devices and ports (R265, R331, R396) -/

/-- A neighbour that has been silent for the timeout is recorded, and its loss is flooded and takes effect. -/
theorem exec_lossTimeout_silent {p d : Nat} (hready : s.root.ready = true) (hfar : s.portFar p = some d) (hother : d ≠ s.cab) (hpresent : d ∈ s.care.present)
    (hsilent : tget 0 s.care.heard d + s.regs.field 1 0x138 15 0 * ms ≤ s.now) :
    exec (.lossTimeout p) s = .next (((s.record { (s.mkRec 0x43 8).unit 8 0 0 d with syndrome := d }).floodLost d s.cab (s.nonceOf d)).deviceLost d) := by
  rw [exec_lossTimeout, execLossTimeout, hfar]
  dsimp only
  rw [if_neg (by simp [hready, hother, hpresent, hsilent])]
  rfl

theorem exec_deviceLostNotice_first {d x : Nat} (hbureau : s.root.bureauUp = true) (honline : s.root.offline = false) (hfirst : d ∉ s.care.lostDevs) (hplanned : d < planModules s.plan)
    (hnonce : s.nonceOf d = x) (o : Nat) : exec (.deviceLostNotice d o x 0) s = .next ((s.floodLost d o x).deviceLost d) := by
  rw [exec_deviceLostNotice, execDeviceLostNotice, if_neg (not_not_intro rfl), if_neg (by simp [hbureau, honline, hfirst, hplanned]), if_neg fun h => h.1 hnonce]

theorem exec_deviceLostNotice_again {d : Nat} (hknown : d ∈ s.care.lostDevs) (o x : Nat) : exec (.deviceLostNotice d o x 0) s = .next s := by
  rw [exec_deviceLostNotice, execDeviceLostNotice, if_neg (not_not_intro rfl), if_pos (.inr (.inr (.inl (List.contains_iff_mem.mpr hknown))))]

/-- A notice of a port (assumption log 146). -/
theorem exec_deviceLostNotice_port {d k : Nat} (hready : s.root.ready = true) (hport : 1 ≤ k) (hk : k ≤ 16) (o x : Nat) :
    exec (.deviceLostNotice d o x k) s = .next (s.portNotice d ((k - 1) % 8) (decide (k ≤ 8))) := by
  rw [exec_deviceLostNotice, execDeviceLostNotice, if_pos (Nat.one_le_iff_ne_zero.mp hport), if_pos ⟨hready, hk⟩]

/-! ### Assembly (R393, R394, R396) -/

section
variable {m : AsmMsg} (hlink : m.link < 32) (hactive : (s.link m.link).state = 6) (hbureau : s.root.bureauUp = true) (horigin : m.origin ≠ s.cab)
include hlink hactive hbureau horigin

theorem exec_assemblyMessage_otherPlan (hplan : m.plan ≠ s.plan) : exec (.assemblyMessage m) s = .next (s.count 1 .planMismatch 1) := by
  rw [exec_assemblyMessage, execAssemblyMessage, if_neg (by simp [hlink, hactive, hbureau, horigin]), if_pos hplan]

/-- The first message of an index and nonce, already sent on, marks its sender present and is answered. -/
theorem exec_assemblyMessage_first (hready : s.root.ready = true) (hplan : m.plan = s.plan) (hforwarded : (m.origin, m.nonce) ∈ s.care.forwarded) (hplanned : m.origin < planModules s.plan)
    (hfirst : (m.origin, m.nonce) ∉ s.care.seen) : exec (.assemblyMessage m) s = .next (s.markPresent m).sendAsm := by
  rw [exec_assemblyMessage, execAssemblyMessage, if_neg (by simp [hlink, hactive, hbureau, horigin]), if_neg (not_not_intro hplan), if_pos (List.contains_iff_mem.mpr hforwarded)]
  exact congrArg Host.Outcome.next (if_neg (by simp [hready, hplanned, hfirst]))

end

end

/-- Settles O35: heartbeats by their timers, a notice by what it is about and whether it is the first, and an assembly message by its plan. -/
theorem cabinetEvents : Obligations.CabinetEvents := by
  unfold Obligations.CabinetEvents
  refine fun s hready hbureau honline => ⟨exec_heartbeatSend_due hready, fun p d => exec_heartbeatReceive_present hready, fun p d hfar hother hpresent hsilent => ?_,
    fun d o x hfirst hplanned hnonce => exec_deviceLostNotice_first hbureau honline hfirst hplanned hnonce o, fun d o x hknown => exec_deviceLostNotice_again hknown o x,
    fun d o x k hport hk => exec_deviceLostNotice_port hready hport hk o x, fun m hlink hactive horigin => ⟨exec_assemblyMessage_otherPlan hlink hactive hbureau horigin,
      exec_assemblyMessage_first hlink hactive hbureau horigin hready⟩, exec_assemblyTimeout s⟩
  exact ⟨_, rfl, rfl, rfl, exec_lossTimeout_silent hready hfar hother hpresent hsilent⟩

end Sys2Proof.Machine
end

section
/-! Restarts of a job (R318 to R320, R333): abort notices, the return to the committed step, ready reports and the release, and the messages of a coordinator. -/

namespace Sys2Proof.Machine

theorem exec_abortNotice (n : Nat) (m : AbortMsg) (s : State) : exec (.abortNotice n m) s = execAbortNotice n m s := rfl
theorem exec_abortDrainComplete (n : Nat) (fills : List (Nat × List Byte)) (s : State) : exec (.abortDrainComplete n fills) s = execAbortDrainComplete n fills s := rfl
theorem exec_memberReadyReport (n d step : Nat) (s : State) : exec (.memberReadyReport n d step) s = execMemberReadyReport n d step s := rfl
theorem exec_restartRelease (n gen : Nat) (s : State) : exec (.restartRelease n gen) s = execRestartRelease n gen s := rfl
theorem exec_coordinatorStateRequest (n d : Nat) (s : State) : exec (.coordinatorStateRequest n d) s = execCoordinatorStateRequest n d s := rfl
theorem exec_placementMessage (m : PlaceMsg) (s : State) : exec (.placementMessage m) s = execPlacementMessage m s := rfl

/-- A change of a context that keeps its job's members keeps its coordinator. -/
theorem State.coordinatorOf_modCtx {s : State} {n : Nat} {f : Ctx → Ctx} (hman : (f (s.ctx n)).job.man = (s.ctx n).job.man) (hlost : (f (s.ctx n)).job.lost = (s.ctx n).job.lost) :
    (s.modCtx n f).coordinatorOf n = s.coordinatorOf n := by
  have hlive : (s.modCtx n f).liveMembers n = s.liveMembers n := by
    unfold State.liveMembers
    rw [State.ctx_modCtx, hman, hlost]
    rfl
  exact congrArg (List.foldl min s.cab) hlive

/-! ### Abort notices (R319, R320, R333) -/

theorem State.abortFrom_runs {s : State} {n : Nat} {m : AbortMsg} (hstate : (s.ctx n).state ≠ 5) (hrestart : (s.ctx n).restarting = false) :
    s.abortFrom n m = s.abortWith n m.cls m.program false := by
  simp only [State.abortFrom, if_neg fun h : (s.ctx n).state = 5 ∧ (s.ctx n).errStop = true => hstate h.1, hrestart, Bool.false_eq_true, if_false]

/-- A context that restarts already forgets the ready report of the member that aborts. -/
theorem State.abortFrom_restarting {s : State} {n : Nat} {m : AbortMsg} (hstate : (s.ctx n).state ≠ 5) (hrestart : (s.ctx n).restarting = true) : s.abortFrom n m =
    s.modCtx n (fun c => { c with job := { c.job with progAbort := c.job.progAbort || m.program, ready := c.job.ready.filter (fun d => decide (d ≠ m.dev)) } }) := by
  simp only [State.abortFrom, if_neg fun h : (s.ctx n).state = 5 ∧ (s.ctx n).errStop = true => hstate h.1, hrestart, if_true]

section
variable {s : State} {n : Nat} (hn : n < 64)
include hn

section
variable (hloaded : (s.ctx n).state ≠ 0) (hstays : (s.ctx n).st.unloadAt = none)
include hloaded hstays

/-- What a loaded context does about a notice of a member, by the notice's generation and kind. -/
theorem exec_abortNotice_member {m : AbortMsg} (hpeer : m.dev ∈ s.peersOf n) : exec (.abortNotice n m) s = .next (
    if m.gen ≠ (s.ctx n).job.gen then s.discard n
    else if m.kind = 1 then s.stopHere n m.member m.cls
    else if m.kind = 2 then s.memberLost n m.dev m.cls
    else if m.kind = 3 then (if s.coordinatorOf n = s.cab then s.stopJob n m.dev m.cls false else s)
    else s.abortFrom n m) := by
  rw [exec_abortNotice, execAbortNotice, if_neg (Nat.not_le.mpr hn), if_neg (by simp [hloaded, hstays]), if_neg (by simp [hpeer])]

theorem exec_abortNotice_otherGeneration {m : AbortMsg} (hpeer : m.dev ∈ s.peersOf n) (hgen : m.gen ≠ (s.ctx n).job.gen) : exec (.abortNotice n m) s = .next (s.discard n) := by
  rw [exec_abortNotice_member hn hloaded hstays hpeer, if_pos hgen]

theorem exec_abortNotice_stop {m : AbortMsg} (hpeer : m.dev ∈ s.peersOf n) (hgen : m.gen = (s.ctx n).job.gen) (hkind : m.kind = 1) :
    exec (.abortNotice n m) s = .next (s.stopHere n m.member m.cls) := by
  rw [exec_abortNotice_member hn hloaded hstays hpeer, if_neg (not_not_intro hgen), if_pos hkind]

theorem exec_abortNotice_relinquish {m : AbortMsg} (hpeer : m.dev ∈ s.peersOf n) (hgen : m.gen = (s.ctx n).job.gen) (hkind : m.kind = 2) :
    exec (.abortNotice n m) s = .next (s.memberLost n m.dev m.cls) := by
  rw [exec_abortNotice_member hn hloaded hstays hpeer, if_neg (not_not_intro hgen), if_neg (by simp [hkind]), if_pos hkind]

theorem exec_abortNotice_abort {m : AbortMsg} (hpeer : m.dev ∈ s.peersOf n) (hgen : m.gen = (s.ctx n).job.gen) (hkind : m.kind = 0) :
    exec (.abortNotice n m) s = .next (s.abortFrom n m) := by
  rw [exec_abortNotice_member hn hloaded hstays hpeer, if_neg (not_not_intro hgen), if_neg (by simp [hkind]), if_neg (by simp [hkind]), if_neg (by simp [hkind])]

end

/-! ### The return to the committed step (R318, R319) -/

/-- A member that has drained comes back, or keeps its step's work while the outcome of that step is open (assumption log 147). -/
theorem exec_abortDrainComplete_drained {fills : List (Nat × List Byte)} (hrestart : (s.ctx n).restarting = true) (hstate : (s.ctx n).state = 6) (hnew : (s.ctx n).job.drained = false)
    (hdrained : s.abortDrained n = true) (hshared : s.sharedReady n = true) (hfills : s.fillsReady n fills = true) : exec (.abortDrainComplete n fills) s = .next (
      if s.outcomeOpen n then s.modCtx n (fun c => { c with job := { c.job with drained := true, unsettled := true } }) else s.comeBack n fills) := by
  rw [exec_abortDrainComplete, execAbortDrainComplete, if_neg (by simp [hn, hrestart, hstate, hnew, hdrained, hshared, hfills])]

/-! ### Ready reports and the release (R319, R320, R333) -/

/-- A member that is ready reports to the coordinator. -/
theorem exec_memberReadyReport_member (hloaded : (s.ctx n).state ≠ 0) (hrestart : (s.ctx n).restarting = true) (hdrained : (s.ctx n).job.drained = true) (hnew : (s.ctx n).job.readySent = false)
    (hcoord : s.coordinatorOf n ≠ s.cab) : exec (.memberReadyReport n s.cab (s.ctx n).st.step) s =
      .next ((s.modCtx n (fun c => { c with job := { c.job with readySent := true } })).tellCoordinator n msgReady [s.cab, (s.ctx n).st.step]) := by
  have hmay : ¬(64 ≤ n ∨ (!(s.ctx n).loaded) = true) := by simp [hn, Ctx.loaded, hloaded]
  have hdue : ¬((!(s.ctx n).restarting) = true ∨ (!(s.ctx n).job.drained) = true ∨ (s.ctx n).job.readySent = true ∨ (s.ctx n).st.step ≠ (s.ctx n).st.step) := by
    simp [hrestart, hdrained, hnew]
  rw [exec_memberReadyReport, execMemberReadyReport]
  dsimp only
  rw [if_neg hmay, if_pos rfl, if_neg hdue, State.coordinatorOf_modCtx rfl rfl]
  exact congrArg Host.Outcome.next (if_neg hcoord)

/-- The release of the next generation at a ready member: the coordinator's by the reports it has, another's at once. -/
theorem exec_restartRelease_next (hrestart : (s.ctx n).restarting = true) (hready : (s.ctx n).job.readySent = true) {gen : Nat} (hgen : gen = ((s.ctx n).job.gen + 1) % 2 ^ 16) :
    exec (.restartRelease n gen) s = .next (
      if s.coordinatorOf n = s.cab then
        if (s.ctx n).unplaced = true ∨ (!(s.liveMembers n).all (fun d => (s.ctx n).job.ready.contains d)) = true then s
        else (s.sendAll ((s.peersOf n).map (fun d => s.memberMsg n d msgRestartRelease [gen]))).settleRun n gen
      else s.settleRun n gen) := by
  rw [exec_restartRelease, execRestartRelease, if_neg (by simp [hn, hrestart, hready, hgen])]

/-- The new coordinator has its answer, and a ready report goes to it again. -/
theorem exec_coordinatorStateRequest_member {d : Nat} (hloaded : (s.ctx n).state ≠ 0) (hstays : (s.ctx n).st.unloadAt = none) (hpeer : d ∈ s.peersOf n) :
    exec (.coordinatorStateRequest n d) s = .next ((s.send (s.memberMsg n d msgStateAnswer [s.cab, (s.ctx n).state, (s.ctx n).job.stopCause, (s.ctx n).st.step, (s.ctx n).job.committed,
      b2n (s.ctx n).errStop])).modCtx n (fun c => { c with job := { c.job with readySent := false } })) := by
  rw [exec_coordinatorStateRequest, execCoordinatorStateRequest, if_neg (Nat.not_le.mpr hn), if_neg (by simp [hloaded, hstays]), if_neg (by simp [hpeer])]

end

/-- Without a partition reset or an adoption, a member goes back to the committed step, opens its pending versions, and loads the schedule where each has found its slot. -/
theorem State.comeBack_plain {s : State} {n : Nat} (hstate : (s.ctx n).state = 6) (hreset : (s.ctx n).job.resetPend = false) (hadopt : (s.ctx n).job.adopt = [])
    (fills : List (Nat × List Byte)) : s.comeBack n fills =
      let o := State.openCommitPub (((s.passCommitted n).restoreState n).modCtx n (fun c => { c with job := { c.job with adopt := [], drained := false, unsettled := false } })) n
      if o.2 then o.1.restartSched n else o.1 := by
  have hfresh : ¬((s.ctx n).state = 5 ∧ (s.ctx n).job.loadedFresh = true) := by simp [hstate]
  simp only [State.comeBack, hreset, hadopt, if_neg hfresh, Bool.false_eq_true, if_false, State.adoptAll]

/-- Once a member's step is settled, the release begins the next generation. -/
theorem State.settleRun_settled {s : State} {n : Nat} (hrestart : (s.ctx n).restarting = true) (hdrained : (s.ctx n).job.drained = true) (hsettled : (s.ctx n).job.unsettled = false) (gen : Nat) :
    s.settleRun n gen = s.runAgain n gen := by
  simp only [State.settleRun, hsettled, Bool.false_eq_true, if_false, hrestart, hdrained, and_self, if_true]

/-! ### Placement (R333) -/

/-- The placement reaches the context that its job names. -/
theorem exec_placementMessage_first {s : State} {n : Nat} {m : PlaceMsg} {k : Manifest} {rest : Tab Ctx} (hloaded : (s.ctx n).state ≠ 0) (hctxs : s.ctxs = (n, s.ctx n) :: rest)
    (hman : (s.ctx n).job.man = some k) (hjob : k.jobId = m.job) (hhosts : k.hosts.length = m.hosts.length) :
    exec (.placementMessage m) s = .next (s.applyPlacement n m.hosts (List.zip m.members (m.ctxs.map (· % 64)))) := by
  rw [exec_placementMessage, execPlacementMessage, hctxs, List.find?_cons_of_pos]
  · dsimp only
    rw [hman]
    exact congrArg Host.Outcome.next (if_neg (by simp [hhosts]))
  · simp [Ctx.loaded, hloaded, hman, hjob]

/-- Settles O43: a notice by its generation and kind, the return to the committed step by its outcome, and the release by who takes it and what it still waits for. -/
theorem jobRestarts : Obligations.JobRestarts := by
  unfold Obligations.JobRestarts
  refine fun s n hn hloaded hstays => ⟨fun m hpeer => ⟨exec_abortNotice_otherGeneration hn hloaded hstays hpeer, exec_abortNotice_stop hn hloaded hstays hpeer,
      exec_abortNotice_relinquish hn hloaded hstays hpeer, fun hgen hkind hstate hrestart => ?_, fun hgen hkind hstate hrestart => ?_⟩,
    fun fills hrestart hstate hnew hdrained hshared hfills => ⟨fun hopen => ?_, fun hknown => ?_⟩, fun fills hstate hreset hadopt => State.comeBack_plain hstate hreset hadopt fills,
    exec_memberReadyReport_member hn hloaded, fun hrestart hdrained hready hsettled hmember => ?_, fun hrestart hready hcoord ⟨d, hlive, hmissing⟩ => ?_,
    fun d => exec_coordinatorStateRequest_member hn hloaded hstays, fun m k rest => exec_placementMessage_first hloaded⟩
  · rw [exec_abortNotice_abort hn hloaded hstays hpeer hgen hkind, State.abortFrom_runs hstate hrestart]
  · rw [exec_abortNotice_abort hn hloaded hstays hpeer hgen hkind, State.abortFrom_restarting (by simp [hstate]) hrestart]
  · rw [exec_abortDrainComplete_drained hn hrestart hstate hnew hdrained hshared hfills, if_pos hopen]
  · rw [exec_abortDrainComplete_drained hn hrestart hstate hnew hdrained hshared hfills, if_neg (by simp [hknown])]
  · rw [exec_restartRelease_next hn hrestart hready rfl, if_neg hmember, State.settleRun_settled hrestart hdrained hsettled]
  · have hwaits : (s.liveMembers n).all (fun d => (s.ctx n).job.ready.contains d) = false := List.all_eq_false.mpr ⟨d, hlive, by simpa using hmissing⟩
    rw [exec_restartRelease_next hn hrestart hready rfl, if_pos hcoord, hwaits, if_pos (.inr rfl)]

end Sys2Proof.Machine
end

section
/-! Fencing and the in-field test (R321 to R324, R338, R339): writes of BU_FENCE_CTRL, and the turn, the start and the end of a core's test. -/

namespace Sys2Proof.Machine

theorem exec_fenceRequest (master : Nat) (v : W32) (s : State) : exec (.fenceRequest master v) s = .next (s.writeFenceCtrl master v.toNat) := rfl
theorem exec_unfenceRequest (master : Nat) (v : W32) (s : State) : exec (.unfenceRequest master v) s = .next (s.writeFenceCtrl master v.toNat) := rfl
theorem exec_inFieldTestPeriod (s : State) : exec .inFieldTestPeriod s = execInFieldTestPeriod s := rfl
theorem exec_inFieldTestStart (s : State) : exec .inFieldTestStart s = execInFieldTestStart s := rfl
theorem exec_inFieldTestEnd (e m : Nat) (f : Bool) (s : State) : exec (.inFieldTestEnd e m f) s = execInFieldTestEnd e m f s := rfl

/-! ### BU_FENCE_CTRL (R321, R322, R324) -/

section
variable {s : State} {master v : Nat}

theorem State.writeFenceCtrl_foreign (hmaster : pfOrBureau master = false) : s.writeFenceCtrl master v = s.blkErr 1 5 := by
  rw [State.writeFenceCtrl, hmaster]
  rfl

theorem State.writeFenceCtrl_fence (hmaster : pfOrBureau master = true) (hfence : bitOf v 8 = true) : s.writeFenceCtrl master v = s.fenceCore (v % 128) 0 (bitOf v 9) := by
  rw [State.writeFenceCtrl, hmaster, hfence]
  rfl

/-- A core leaves the fence list of the flash; the cores themselves stay as they are until the next module reset. -/
theorem State.writeFenceCtrl_unfence (hmaster : pfOrBureau master = true) (hfence : bitOf v 8 = false) (hlisted : bitOf s.root.flashFence (v % 128) = true) :
    s.writeFenceCtrl master v = { s with root := { s.root with flashFence := s.root.flashFence - 2 ^ (v % 128) } } := by
  rw [State.writeFenceCtrl, hmaster, hfence, hlisted]
  rfl

end

/-! ### The in-field test (R338, R339) -/

section
variable {s : State}

/-- The turn of the next core, with no core in doubt and no context loaded. The length of a turn is assumption log 70's. -/
theorem exec_inFieldTestPeriod_turn (henabled : s.regs.field 1 0x140 24 24 ≠ 0) (hready : s.root.ready = true) (hphase : s.care.iftPhase = 0) (hdue : s.care.iftPeriodAt + s.iftTurn ≤ s.now)
    (hwant : s.care.wantTest = []) (hctxs : s.loadedCtxs = []) (hfence : s.fencedCore s.care.iftNext = false) : exec .inFieldTestPeriod s =
      .next { s with care := { s.care with iftPeriodAt := s.now, iftCand := s.care.iftNext, iftNext := (s.care.iftNext + 1) % 128, iftPhase := 1 } } := by
  have hturn : ¬(s.regs.field 1 0x140 24 24 = 0 ∨ (!s.root.ready) = true ∨ s.care.iftPhase ≠ 0 ∨ s.now < s.care.iftPeriodAt + s.iftTurn) := by
    simp [henabled, hready, hphase, hdue]
  have hunused : ∀ care : Care, State.loadedCtxs { s with care := care } = [] := fun _ => hctxs
  rw [exec_inFieldTestPeriod, execInFieldTestPeriod, if_neg hturn, hwant]
  simp only [hunused, List.headD_nil, List.filter_nil, List.any_nil, Bool.false_eq_true, or_false]
  refine (congrArg Host.Outcome.next (if_neg fun h => Bool.false_ne_true (hfence.symm.trans h))).trans ?_
  rw [hwant]
  rfl

/-- A core that no context uses and that runs nothing enters test mode. -/
theorem exec_inFieldTestStart_unused (hphase : s.care.iftPhase = 1) (hunused : ∀ n ∈ s.loadedCtxs, (s.ctx n).usesCore s.care.iftCand = false) (hidle : (s.core s.care.iftCand).run = none)
    (hfence : s.fencedCore s.care.iftCand = false) : exec .inFieldTestStart s =
      .next { s.setCore s.care.iftCand ((s.core s.care.iftCand).testLanes s.care.iftCand (s.frlgSeed s.care.iftCand)) with
        regs := s.regs.setWord (corePage s.care.iftCand) 0x340 1
        care := { s.care with iftPhase := 2, iftCore := s.care.iftCand, iftStart := s.now } } := by
  have hnone : s.loadedCtxs.any (fun n => (s.ctx n).usesCore s.care.iftCand) = false := List.any_eq_false.mpr fun n hn => by simp [hunused n hn]
  rw [exec_inFieldTestStart, execInFieldTestStart, if_neg (by simp [hphase, hnone, hidle, hfence])]
  rfl

/-- The verdict on a test of full length: equal digests (assumption log 71) and the Footstool's report pass. -/
theorem exec_inFieldTestEnd_passed (hphase : s.care.iftPhase = 2) (hdue : s.care.iftStart + s.regs.field 1 0x140 23 16 * 10000000 ≤ s.now) {e m : Nat} {f : Bool}
    (hequal : e % 2 ^ 64 = m % 2 ^ 64) (hreport : f = true) : exec (.inFieldTestEnd e m f) s = .next (s.endTest.count 1 .iftPassed 1) := by
  rw [exec_inFieldTestEnd, execInFieldTestEnd, if_neg (by simp [hphase, hdue])]
  exact congrArg Host.Outcome.next (if_pos ⟨hequal, hreport⟩)

/-- A test of full length that fails is counted and recorded with both digests, and its core is fenced for good. -/
theorem exec_inFieldTestEnd_failed (hphase : s.care.iftPhase = 2) (hdue : s.care.iftStart + s.regs.field 1 0x140 23 16 * 10000000 ≤ s.now) {e m : Nat} {f : Bool}
    (hfailed : e % 2 ^ 64 ≠ m % 2 ^ 64 ∨ f = false) : exec (.inFieldTestEnd e m f) s = .next (((s.endTest.count 1 .iftFailed 1).record
      { (s.endTest.mkRec 0x1C 4).unit 2 (s.care.iftCore / 8) s.care.iftCore 0 with syndrome := e % 2 ^ 64 + m % 2 ^ 64 * 2 ^ 64 }).fenceCore s.care.iftCore 0x1C true) := by
  have hverdict : ¬(e % 2 ^ 64 = m % 2 ^ 64 ∧ f = true) := fun h => hfailed.elim (· h.1) fun hf => Bool.false_ne_true (hf.symm.trans h.2)
  rw [exec_inFieldTestEnd, execInFieldTestEnd, if_neg (by simp [hphase, hdue])]
  exact congrArg Host.Outcome.next (if_neg hverdict)

end

/-- Settles O44: a write of BU_FENCE_CTRL by its master and its fence bit, and the test by its turn, its start and its verdict. -/
theorem fencingAndTests : Obligations.FencingAndTests := by
  unfold Obligations.FencingAndTests
  refine fun s => ⟨fun master v hmaster => ⟨fun hfence => ?_, fun hfence hlisted => ?_⟩, fun master v hmaster => ⟨?_, ?_⟩, exec_inFieldTestPeriod_turn, exec_inFieldTestStart_unused,
    fun e m f hphase hdue => ⟨exec_inFieldTestEnd_passed hphase hdue, fun hfailed => ?_⟩⟩
  · rw [exec_fenceRequest, State.writeFenceCtrl_fence hmaster hfence]
  · rw [exec_unfenceRequest, State.writeFenceCtrl_unfence hmaster hfence hlisted]
  · rw [exec_fenceRequest, State.writeFenceCtrl_foreign hmaster]
  · rw [exec_unfenceRequest, State.writeFenceCtrl_foreign hmaster]
  · exact ⟨_, rfl, rfl, exec_inFieldTestEnd_failed hphase hdue hfailed⟩

end Sys2Proof.Machine
end

section
/-! What every step keeps, and with it the fuses (R342). -/

namespace Sys2Proof.Machine

/-- A step keeps what each command keeps, apart from the command that it takes: the command at the front of the queue does, and so does the tick of an empty queue. -/
theorem step_keeps_tail {s t : State} (hstep : step s = .next t) : State.Keeps { s with pending := s.pending.tail } t := by
  unfold step at hstep
  split at hstep
  case h_1 hempty =>
    cases hstep
    obtain ⟨hpending, hmem, hfree, hout, hfuses⟩ := State.tickTime_keeps (.refl s)
    exact ⟨by rw [hpending, hempty, List.tail_nil], hmem, hfree, hout, hfuses⟩
  case h_2 i rest hfront =>
    rw [hfront]
    exact exec_keeps i { s with pending := rest } t hstep

/-- Settles O60: the fuses are among what every step keeps. -/
theorem stepKeepsFuses : Obligations.StepKeepsFuses := by
  unfold Obligations.StepKeepsFuses
  exact fun _ _ hstep => (step_keeps_tail hstep).fuses

end Sys2Proof.Machine
end

section
/-! Firmware update and recovery (R347, R364), and management over MCTP (R365). -/

namespace Sys2Proof.Machine

theorem exec_firmwareUpdate (b : List Byte) (major : Nat) (change : Bool) (s : State) : exec (.firmwareUpdate b major change) s = execFirmwareUpdate b major change s := rfl
theorem exec_recoveryImageReceive (b : List Byte) (s : State) : exec (.recoveryImageReceive b) s = execRecoveryImageReceive b s := rfl
theorem exec_mctpControl (cmd : Nat) (d : List Byte) (s : State) : exec (.mctpControl cmd d) s = execMctpControl cmd d s := rfl
theorem exec_pldmBase (cmd : Nat) (d : List Byte) (s : State) : exec (.pldmBase cmd d) s = execPldmBase cmd d s := rfl
theorem exec_pldmMonitoring (cmd : Nat) (d : List Byte) (s : State) : exec (.pldmMonitoring cmd d) s = execPldmMonitoring cmd d s := rfl
theorem exec_pldmFruData (cmd : Nat) (d : List Byte) (s : State) : exec (.pldmFruData cmd d) s = execPldmFruData cmd d s := rfl

/-- The flash with an image in the area at `base`. -/
def State.flashed (s : State) (base : Nat) (b : List Byte) : State := { s with root := { s.root with flash := tputBytes s.root.flash base b } }

variable {s : State} {b : List Byte}

/-! ### Images (R347, R364) -/

section
variable (hup : s.root.bureauUp = true)
include hup

/-- An image of this host interface that the area can hold stands in the idle area, and its check decides the result. -/
theorem exec_firmwareUpdate_written (hroom : b.length ≤ imageRoom) : exec (.firmwareUpdate b 1 false) s =
    .next (if (s.flashed (imageBase s.idleArea) b).areaFault s.idleArea = 0 then (s.flashed (imageBase s.idleArea) b).updateResult 0 b
      else (s.flashed (imageBase s.idleArea) b).updateFailed b) := by
  rw [exec_firmwareUpdate, execFirmwareUpdate, if_neg (by simp [hup]), if_neg (by simp [hroom])]
  rfl

theorem exec_firmwareUpdate_otherMajor {major : Nat} (hmajor : major ≠ 1) : exec (.firmwareUpdate b major false) s = .next (s.updateFailed b) := by
  rw [exec_firmwareUpdate, execFirmwareUpdate, if_neg (by simp [hup]), if_pos (.inl ⟨hmajor, rfl⟩)]

end

/-- A verified image is written, to area A by assumption log 94. -/
theorem exec_recoveryImageReceive_verified (hrecovery : s.root.recovery = true) (hroom : b.length ≤ imageRoom) (hgood : imageFault s.root.fuses b = 0) :
    exec (.recoveryImageReceive b) s = .next (s.flashed (imageBase 0) b).moduleReset := by
  rw [exec_recoveryImageReceive, execRecoveryImageReceive, if_neg (by simp [hrecovery, hroom, hgood])]
  rfl

theorem exec_recoveryImageReceive_bad (hbad : imageFault s.root.fuses b ≠ 0) : exec (.recoveryImageReceive b) s = .next s := by
  rw [exec_recoveryImageReceive, execRecoveryImageReceive, if_pos (.inr (.inr hbad))]

/-! ### Messages (R365) -/

/-- GET_ENDPOINT_ID is answered on standby power. -/
theorem exec_mctpControl_endpoint (hstandby : s.root.standby = true) : exec (.mctpControl 2 []) s = .next (s.emit (.mctp 0 2 (bytesOf [0, s.mgmt.eid, 0, 0]))) := by
  rw [exec_mctpControl, execMctpControl, if_neg (by simp [hstandby])]

section
variable (hup : s.root.bureauUp = true)
include hup

theorem exec_pldmBase_types : exec (.pldmBase 4 []) s = .next (s.emit (.mctp 0x10 4 (0 :: leBytes 8 pldmTypes))) := by
  rw [exec_pldmBase, execPldmBase, if_neg (by simp [hup])]

/-- The reading of a temperature sensor that is in use; its number is the request's first byte. -/
theorem exec_pldmMonitoring_reading {k : Nat} (hsensor : k < 87) (hused : k ∉ s.power.excluded) : exec (.pldmMonitoring 0x11 (bytesOf [k, 0])) s =
    .next (s.emit (.mctp 0x12 0x11 (bytesOf [0, 3, 0, 0, 1, 1, 1] ++ leBytes 2 (tget 0 s.power.temps k)))) := by
  have hid : byteAt (bytesOf [k, 0]) 0 + 256 * byteAt (bytesOf [k, 0]) 1 = k := by
    simp [byteAt, bytesOf]
    omega
  rw [exec_pldmMonitoring, execPldmMonitoring, if_neg (by simp [hup])]
  simp only [hid, if_pos hsensor]
  rw [if_neg (by simp [hused])]

theorem exec_pldmFruData_record (d : List Byte) : exec (.pldmFruData 2 d) s = .next (s.emit (.mctp 0x14 2 (bytesOf [0, 0, 0, 0, 0, 5] ++ s.fruRecord))) := by
  rw [exec_pldmFruData, execPldmFruData, if_neg (by simp [hup])]

end

/-- Settles O51: an update by the check of the area written, recovery by the check of the image, and each message by its answer. -/
theorem managementMessages : Obligations.ManagementMessages := by
  unfold Obligations.ManagementMessages
  refine fun s => ⟨fun b hup hroom => ⟨fun hgood => ?_, fun hbad => ?_, fun major => exec_firmwareUpdate_otherMajor hup⟩, fun b => exec_recoveryImageReceive_verified,
    fun b _ => exec_recoveryImageReceive_bad, exec_mctpControl_endpoint, fun hup => ⟨exec_pldmBase_types hup, fun k => exec_pldmMonitoring_reading hup, exec_pldmFruData_record hup⟩⟩
  · exact (exec_firmwareUpdate_written hup hroom).trans (congrArg Host.Outcome.next (if_pos hgood))
  · exact (exec_firmwareUpdate_written hup hroom).trans (congrArg Host.Outcome.next (if_neg hbad))

end Sys2Proof.Machine
end

section
/-! Attestation (R348, R349): the negotiations, and the requests that they open. -/

namespace Sys2Proof.Machine

theorem exec_getVersion (s : State) : exec .getVersion s = execGetVersion s := rfl
theorem exec_getCapabilities (v : Nat) (d : List Byte) (s : State) : exec (.getCapabilities v d) s = execGetCapabilities v d s := rfl
theorem exec_negotiateAlgorithms (d : List Byte) (s : State) : exec (.negotiateAlgorithms d) s = execNegotiateAlgorithms d s := rfl
theorem exec_getDigests (s : State) : exec .getDigests s = execGetDigests s := rfl
theorem exec_getCertificate (slot off n : Nat) (s : State) : exec (.getCertificate slot off n) s = execGetCertificate slot off n s := rfl
theorem exec_challenge (slot summary : Nat) (n : List Byte) (s : State) : exec (.challenge slot summary n) s = execChallenge slot summary n s := rfl
theorem exec_getMeasurements (index slot : Nat) (sign : Bool) (n : List Byte) (s : State) : exec (.getMeasurements index slot sign n) s = execGetMeasurements index slot sign n s := rfl

/-! ### Messages -/

/-- What follows a message belongs to its payload. -/
theorem spdmMsg_append (v code p1 p2 : Nat) (l l' : List Byte) : spdmMsg v code p1 p2 l ++ l' = spdmMsg v code p1 p2 (l ++ l') := List.append_assoc ..

/-- An answer goes out under the code in its header. -/
theorem State.spdm_spdmMsg (s : State) (v p1 p2 : Nat) (l : List Byte) {code : Nat} (hcode : code < 256) :
    s.spdm (spdmMsg v code p1 p2 l) = s.emit (.mctp 5 code (spdmMsg v code p1 p2 l)) := by
  have hbyte : byteAt (spdmMsg v code p1 p2 l) 1 = code := by
    simpa [byteAt, spdmMsg, bytesOf] using Nat.mod_eq_of_lt hcode
  rw [State.spdm, hbyte]

/-- The measurement record of an answer follows its header, the number of blocks and the record's length. -/
theorem spdmMsg_record (v code p1 p2 n len : Nat) (record rest : List Byte) :
    ((spdmMsg v code p1 p2 (bytesOf [n] ++ leBytes 3 len ++ record ++ rest)).drop 8).take record.length = record := by
  simp [spdmMsg, bytesOf, leBytes]

/-! ### The draw of a nonce -/

/-- A draw changes the entropy source's state and the count of free values, and nothing else. -/
theorem State.drawBytes_state (s : State) (n : Nat) :
    ∃ free key count, (s.drawBytes n).2 = { s with freeIx := free, root := { s.root with hmacKey := key, hmacCount := count } } := by
  unfold State.drawBytes
  split
  · exact ⟨_, _, _, rfl⟩
  · exact ⟨_, _, _, rfl⟩

@[simp] theorem State.drawBytes_mgmt (s : State) (n : Nat) : (s.drawBytes n).2.mgmt = s.mgmt := by
  obtain ⟨free, key, count, h⟩ := s.drawBytes_state n
  rw [h]

@[simp] theorem State.drawBytes_out (s : State) (n : Nat) : (s.drawBytes n).2.out = s.out := by
  obtain ⟨free, key, count, h⟩ := s.drawBytes_state n
  rw [h]

@[simp] theorem State.drawBytes_flashChain (s : State) (n : Nat) : (s.drawBytes n).2.root.flashChain = s.root.flashChain := by
  obtain ⟨free, key, count, h⟩ := s.drawBytes_state n
  rw [h]

/-- The measurements of Table 14.6 do not depend on the entropy source. -/
@[simp] theorem State.drawBytes_measureBlock (s : State) (n : Nat) : (s.drawBytes n).2.measureBlock = s.measureBlock := by
  obtain ⟨free, key, count, h⟩ := s.drawBytes_state n
  rw [h]
  rfl

/-- An answer to a request that draws a nonce changes the connection and the output, and nothing else beside the draw. -/
theorem State.drawBytes_answer_frame (s : State) (n : Nat) (m : Mgmt) (o : Out) :
    { ({ (s.drawBytes n).2 with mgmt := m } : State).emit o with mgmt := s.mgmt, out := s.out } = (s.drawBytes n).2 := by
  obtain ⟨free, key, count, h⟩ := s.drawBytes_state n
  rw [h]
  rfl

section
variable {s : State} (hup : s.root.bureauUp = true)
include hup

/-! ### The negotiations (R349) -/

theorem exec_getVersion_restarts :
    let a := spdmMsg 0x10 0x04 0 0 (bytesOf [0, 2, 0, 0x11, 0, 0x12])
    exec .getVersion s = .next (State.spdm { s with mgmt := { s.mgmt with
      spdmVersion := 0x10, spdmCaps := false, spdmAlgs := false, spdmVca := spdmMsg 0x10 0x84 0 0 [] ++ a, spdmB := [], spdmL := [] } } a) := by
  rw [exec_getVersion, execGetVersion, if_neg (by simp [hup])]

/-- GET_CAPABILITIES comes after GET_VERSION and before the algorithms are agreed. -/
theorem exec_getCapabilities_unexpected (v : Nat) (d : List Byte) (horder : s.mgmt.spdmVersion = 0 ∨ s.mgmt.spdmAlgs = true) :
    exec (.getCapabilities v d) s = .next (s.spdmError 0x04) := by
  rw [exec_getCapabilities, execGetCapabilities, if_neg (by simp [hup]), if_pos horder]

section
variable (hversion : s.mgmt.spdmVersion ≠ 0) (halgs : s.mgmt.spdmAlgs = false) {v : Nat} (d : List Byte)
include hversion halgs

theorem exec_getCapabilities_answers (hv : v = 0x11 ∨ v = 0x12) :
    ∃ t a, exec (.getCapabilities v d) s = .next t ∧ t.out = s.out ++ [.mctp 5 0x61 a] ∧ t.mgmt.spdmVersion = v ∧ t.mgmt.spdmCaps = true ∧ t.mgmt.spdmAlgs = false ∧
      t.mgmt.spdmVca = s.mgmt.spdmVca ++ spdmMsg v 0xE1 0 0 d ++ a ∧ { t with mgmt := s.mgmt, out := s.out } = s := by
  rw [exec_getCapabilities, execGetCapabilities, if_neg (by simp [hup]), if_neg (by simp [hversion, halgs]), if_neg (by omega)]
  dsimp only
  rw [State.spdm_spdmMsg _ _ _ _ _ (by decide)]
  exact ⟨_, _, rfl, rfl, rfl, rfl, halgs, rfl, rfl⟩

theorem exec_getCapabilities_otherVersion (h11 : v ≠ 0x11) (h12 : v ≠ 0x12) : exec (.getCapabilities v d) s = .next (s.spdmError 0x41) := by
  rw [exec_getCapabilities, execGetCapabilities, if_neg (by simp [hup]), if_neg (by simp [hversion, halgs]), if_pos ⟨h11, h12⟩]

end

/-- NEGOTIATE_ALGORITHMS comes after GET_CAPABILITIES, once. -/
theorem exec_negotiateAlgorithms_unexpected (d : List Byte) (horder : s.mgmt.spdmCaps = false ∨ s.mgmt.spdmAlgs = true) :
    exec (.negotiateAlgorithms d) s = .next (s.spdmError 0x04) := by
  rw [exec_negotiateAlgorithms, execNegotiateAlgorithms, if_neg (by simp [hup]), if_pos (by simpa using horder)]

/-- Both algorithms of the module are agreed where the requester offers them. -/
theorem exec_negotiateAlgorithms_agrees {d : List Byte} (hcaps : s.mgmt.spdmCaps = true) (halgs : s.mgmt.spdmAlgs = false)
    (hasym : bitOf (leNat ((d.drop 4).take 4)) 2 = true) (hhash : bitOf (leNat ((d.drop 8).take 4)) 0 = true) :
    ∃ t a, exec (.negotiateAlgorithms d) s = .next t ∧ t.out = s.out ++ [.mctp 5 0x63 a] ∧ t.mgmt.spdmAlgs = true ∧ t.mgmt.spdmVersion = s.mgmt.spdmVersion ∧
      t.mgmt.spdmVca = s.mgmt.spdmVca ++ spdmMsg s.mgmt.spdmVersion 0xE3 0 0 d ++ a ∧ { t with mgmt := s.mgmt, out := s.out } = s := by
  rw [exec_negotiateAlgorithms, execNegotiateAlgorithms, if_neg (by simp [hup]), if_neg (by simp [hcaps, halgs])]
  dsimp only
  rw [if_neg (by simp [hasym, hhash]), State.spdm_spdmMsg _ _ _ _ _ (by decide)]
  exact ⟨_, _, rfl, rfl, rfl, rfl, rfl, rfl⟩

/-! ### The requests that need the negotiations done (R349) -/

/-- Before the algorithms are agreed each of these requests is an error. -/
theorem State.spdmReady_unexpected (halgs : s.mgmt.spdmAlgs = false) (f : State → State) : s.spdmReady f = s.spdmError 0x04 := by
  rw [State.spdmReady, if_neg (by simp [hup]), if_pos (by simp [halgs])]

section
variable (halgs : s.mgmt.spdmAlgs = true)
include halgs

/-- Once they are, each has its effect. -/
theorem State.spdmReady_agreed (f : State → State) : s.spdmReady f = f s := by
  rw [State.spdmReady, if_neg (by simp [hup]), if_neg (by simp [halgs])]

theorem exec_getDigests_agreed :
    let a := spdmMsg s.mgmt.spdmVersion 0x01 0 1 (sha256 s.root.flashChain)
    exec .getDigests s = .next (State.spdm { s with mgmt := { s.mgmt with spdmB := s.mgmt.spdmB ++ spdmMsg s.mgmt.spdmVersion 0x81 0 0 [] ++ a } } a) := by
  rw [exec_getDigests, execGetDigests, State.spdmReady_agreed hup halgs]

/-- A portion of the chain, from an offset inside it. -/
theorem exec_getCertificate_portion {slot off : Nat} (n : Nat) (hslot : slot = 0) (hoff : off < s.root.flashChain.length) :
    let part := (s.root.flashChain.drop off).take n
    let a := spdmMsg s.mgmt.spdmVersion 0x02 0 0 (leBytes 2 part.length ++ leBytes 2 (s.root.flashChain.length - off - part.length) ++ part)
    exec (.getCertificate slot off n) s = .next (State.spdm { s with mgmt := { s.mgmt with spdmB := s.mgmt.spdmB ++ spdmMsg s.mgmt.spdmVersion 0x82 0 0 (leBytes 2 off ++ leBytes 2 n) ++ a } } a) := by
  rw [exec_getCertificate, execGetCertificate, State.spdmReady_agreed hup halgs, if_neg (by omega)]

theorem exec_getCertificate_invalid {slot off : Nat} (n : Nat) (hbad : slot ≠ 0 ∨ s.root.flashChain.length ≤ off) : exec (.getCertificate slot off n) s = .next (s.spdmError 0x01) := by
  rw [exec_getCertificate, execGetCertificate, State.spdmReady_agreed hup halgs, if_pos hbad]

theorem exec_challenge_answers {slot summary : Nat} {n : List Byte} (hslot : slot = 0) (hsummary : summary = 0 ∨ summary = 1 ∨ summary = 0xFF) (hnonce : n.length = 32) :
    let sum := if summary = 0 then [] else sha256 ((if summary = 1 then [1, 2] else [1, 2, 3, 4, 5]).flatMap s.measureBlock)
    let a := spdmMsg s.mgmt.spdmVersion 0x03 0 1 (sha256 s.root.flashChain ++ leBytes 32 (s.drawBytes 32).1 ++ sum ++ leBytes 2 0)
    let m := s.mgmt.spdmVca ++ s.mgmt.spdmB ++ spdmMsg s.mgmt.spdmVersion 0x83 0 summary n ++ a
    ∃ t, exec (.challenge slot summary n) s = .next t ∧ t.out = s.out ++ [.mctp 5 3 (a ++ spdmSign s.mgmt.spdmVersion (asciiBytes "responder-challenge_auth signing") m)] ∧
      t.mgmt = { s.mgmt with spdmB := [] } ∧ { t with mgmt := s.mgmt, out := s.out } = (s.drawBytes 32).2 := by
  intro sum a m
  have hexec : exec (.challenge slot summary n) s = .next (({ (s.drawBytes 32).2 with mgmt := { s.mgmt with spdmB := [] } } : State).emit
      (.mctp 5 3 (a ++ spdmSign s.mgmt.spdmVersion (asciiBytes "responder-challenge_auth signing") m))) := by
    rw [exec_challenge, execChallenge, State.spdmReady_agreed hup halgs, if_neg (by omega)]
    simp only [State.drawBytes_mgmt, State.drawBytes_flashChain, State.drawBytes_measureBlock]
    rw [spdmMsg_append, State.spdm_spdmMsg _ _ _ _ _ (by decide), ← spdmMsg_append]
  exact ⟨_, hexec, congrArg (· ++ _) (s.drawBytes_out 32), rfl, s.drawBytes_answer_frame 32 _ _⟩

/-- The answer to GET_MEASUREMENTS: the record of the blocks asked for, at its place in the message; a signature ends the transcript of measurements. -/
theorem exec_getMeasurements_record {index slot : Nat} {sign : Bool} {n : List Byte} (hindex : index ≤ 5 ∨ index = 0xFF) (hsign : sign = true → slot = 0 ∧ n.length = 32) :
    let is := if index = 0 then [] else if index = 0xFF then [1, 2, 3, 4, 5] else [index]
    let record := is.flatMap s.measureBlock
    ∃ p rest l, (sign = true → l = []) ∧ exec (.getMeasurements index slot sign n) s = .next (({ (s.drawBytes 32).2 with mgmt := { s.mgmt with spdmL := l } } : State).emit
      (.mctp 5 0x60 (spdmMsg s.mgmt.spdmVersion 0x60 p 0 (bytesOf [is.length] ++ leBytes 3 record.length ++ record ++ rest)))) := by
  intro is record
  have hvalid : ¬((5 < index ∧ index ≠ 0xFF) ∨ (sign = true ∧ (slot ≠ 0 ∨ n.length ≠ 32))) := by
    rintro (⟨hlarge, hone⟩ | ⟨hsigned, hslot | hnonce⟩)
    · omega
    · exact hslot (hsign hsigned).1
    · exact hnonce (hsign hsigned).2
  rw [exec_getMeasurements, execGetMeasurements, State.spdmReady_agreed hup halgs, if_neg hvalid]
  simp only [State.drawBytes_mgmt, State.drawBytes_measureBlock]
  cases sign with
  | true =>
    rw [if_pos rfl, spdmMsg_append, State.spdm_spdmMsg _ _ _ _ _ (by decide)]
    simp only [List.append_assoc]
    exact ⟨_, _, _, fun _ => rfl, rfl⟩
  | false =>
    rw [if_neg Bool.false_ne_true, State.spdm_spdmMsg _ _ _ _ _ (by decide)]
    simp only [List.append_assoc]
    exact ⟨_, _, _, fun h => absurd h Bool.false_ne_true, rfl⟩

end

end

/-- Settles O52: the negotiations by their order, and the other requests by whether algorithms are agreed and by their operands. -/
theorem attestationMessages : Obligations.AttestationMessages := by
  unfold Obligations.AttestationMessages
  refine fun s hup => ⟨exec_getVersion_restarts hup, fun v d hversion halgs => ⟨exec_getCapabilities_answers hup hversion halgs d, exec_getCapabilities_otherVersion hup hversion halgs d⟩,
    exec_getCapabilities_unexpected hup, fun d => exec_negotiateAlgorithms_agrees hup, exec_negotiateAlgorithms_unexpected hup, fun halgs => ?_, fun halgs => ?_⟩
  · have hunexpected : ∀ f, (Host.Outcome.next (s.spdmReady f) : Host.Outcome State Fault Refusal) = .next (s.spdmError 0x04) :=
      fun f => congrArg Host.Outcome.next (State.spdmReady_unexpected hup halgs f)
    exact ⟨hunexpected _, fun _ _ _ => hunexpected _, fun _ _ _ => hunexpected _, fun _ _ _ _ => hunexpected _⟩
  · refine ⟨exec_getDigests_agreed hup halgs, fun slot off n => exec_getCertificate_portion hup halgs n, fun slot off n => exec_getCertificate_invalid hup halgs n,
      fun slot summary n => exec_challenge_answers hup halgs, fun index slot sign n hindex hsign => ?_⟩
    obtain ⟨p, rest, l, hends, hexec⟩ := exec_getMeasurements_record hup halgs hindex hsign
    exact ⟨_, _, hexec, congrArg (· ++ _) (s.drawBytes_out 32), spdmMsg_record .., hends, s.drawBytes_answer_frame 32 _ _⟩

end Sys2Proof.Machine
end

section
/-! A step and a command (logs 2, 6): what runs, that it answers, and what it leaves of the queue, the output and the free values. -/

namespace Sys2Proof.Machine

/-- Settles O57: the queue, the output and the free values are among what every command keeps. -/
theorem execLeavesQueueAndOutput : Obligations.ExecLeavesQueueAndOutput := by
  unfold Obligations.ExecLeavesQueueAndOutput
  intro i s t hexec
  obtain ⟨hpending, _, hfree, hout, _⟩ := exec_keeps i s t hexec
  exact ⟨hpending, hout, hfree⟩

theorem step_of_pending {s : State} {i : Instr} {rest : List Instr} (hfront : s.pending = i :: rest) : step s = exec i { s with pending := rest } := by
  rw [step, hfront]

theorem step_of_empty {s : State} (hempty : s.pending = []) : step s = .next s.tickTime := by
  rw [step, hempty]

/-- Before the end of power-on reset no time passes. -/
theorem State.tickTime_stopped {s : State} (hclock : ¬(s.root.standby && s.root.por) = true) : s.tickTime = s := if_neg hclock

/-- Local time counts, and with it the stalls at queues and contexts. -/
theorem State.tickTime_counts {s : State} (hclock : (s.root.standby && s.root.por) = true) : s.tickTime =
    { s with now := s.now + 1, queues := s.queues.map (fun e => (e.1, s.queueTick e.1 e.2)), ctxs := s.ctxs.map (fun e => (e.1, s.ctxTick e.1 e.2)) } := if_pos hclock

/-- Settles O55: the two cases of the queue, and a tick by whether time passes. -/
theorem stepRunsFrontCommand : Obligations.StepRunsFrontCommand := by
  unfold Obligations.StepRunsFrontCommand
  refine ⟨fun s i rest => step_of_pending, fun s hempty => ⟨step_of_empty hempty, ?_⟩⟩
  by_cases hclock : (s.root.standby && s.root.por) = true
  · rw [State.tickTime_counts hclock, if_pos hclock]
    exact ⟨hempty, rfl, rfl, rfl, rfl, rfl, rfl⟩
  · rw [State.tickTime_stopped hclock, if_neg hclock]
    exact ⟨hempty, rfl, rfl, rfl, rfl, rfl, rfl⟩

/-- Settles O56: each command's meaning answers with a next state by its definition. -/
theorem execAlwaysAnswers : Obligations.ExecAlwaysAnswers := by
  unfold Obligations.ExecAlwaysAnswers
  intro i s
  cases i
  all_goals exact ⟨_, rfl⟩

end Sys2Proof.Machine
end

section
/-! Power-up and boot (R258, R345, R383, R385, R386): the standby domain, the choice of the boot image, and the main domain with its crossings. -/

namespace Sys2Proof.Machine

theorem exec_standbyValid (s : State) : exec .standbyValid s = .next { s with root := { s.root with standby := true } } := rfl
theorem exec_powerOnResetEnd (r w : Nat) (f : Bool) (s : State) : exec (.powerOnResetEnd r w f) s = execPowerOnResetEnd r w f s := rfl
theorem exec_bootImageVerified (s : State) : exec .bootImageVerified s = execBootImageVerified s := rfl
theorem exec_mainInputInRange (s : State) : exec .mainInputInRange s = execMainInputInRange s := rfl
theorem exec_mainDomainUp (s : State) : exec .mainDomainUp s = execMainDomainUp s := rfl
theorem exec_mainDomainPowerUpLimit (u : Nat) (s : State) : exec (.mainDomainPowerUpLimit u) s = execMainDomainPowerUpLimit u s := rfl
theorem exec_crossingsTrained (lat u : Nat) (s : State) : exec (.crossingsTrained lat u) s = execCrossingsTrained lat u s := rfl

/-! ### Boot (R258, R345, R347, R385) -/

section
variable {s : State}

theorem exec_powerOnResetEnd_samples (hstandby : s.root.standby = true) (hreset : s.root.por = false) (r w : Nat) (f : Bool) : exec (.powerOnResetEnd r w f) s =
    .next (State.startPcie { s with now := 0, root := { s.root with por := true, straps := sampleStraps s.pins.straps } } r w f) := by
  rw [exec_powerOnResetEnd, execPowerOnResetEnd, if_neg (by simp [hstandby, hreset])]

/-- The version that an image area's header gives. -/
def State.areaVersion (s : State) (x : Nat) : Nat := leNat (tbytes s.root.flash (imageBase x + 8) 8)

section
variable (hpor : s.root.por = true) (hdown : s.root.bureauUp = false) (hboot : s.root.recovery = false)
include hpor hdown hboot

/-- The choice of the boot ROM: the area of the higher version is tried first, A on a tie. -/
theorem exec_bootImageVerified_boots : exec .bootImageVerified s = .next (
    let first := if s.areaVersion 0 < s.areaVersion 1 then 1 else 0
    if s.areaFault 0 ≠ 0 ∧ s.areaFault 1 ≠ 0 then State.alert { s with root := { s.root with recovery := true } }
    else if s.areaFault 0 = 0 ∧ (s.areaFault 1 ≠ 0 ∨ first = 0) then s.startBureau 0 (if first = 1 then s.areaFault 1 else 0)
    else s.startBureau 1 (if first = 0 then s.areaFault 0 else 0)) := by
  rw [exec_bootImageVerified, execBootImageVerified, if_neg (by simp [hpor, hdown, hboot])]
  rfl

theorem exec_bootImageVerified_recovery (hA : s.areaFault 0 ≠ 0) (hB : s.areaFault 1 ≠ 0) :
    exec .bootImageVerified s = .next (State.alert { s with root := { s.root with recovery := true } }) := by
  rw [exec_bootImageVerified_boots hpor hdown hboot]
  exact congrArg Host.Outcome.next (if_pos ⟨hA, hB⟩)

/-- A alone is valid; B's first failed check is kept where B came first. -/
theorem exec_bootImageVerified_onlyA (hA : s.areaFault 0 = 0) (hB : s.areaFault 1 ≠ 0) :
    exec .bootImageVerified s = .next (s.startBureau 0 (if s.areaVersion 0 < s.areaVersion 1 then s.areaFault 1 else 0)) := by
  rw [exec_bootImageVerified_boots hpor hdown hboot]
  by_cases hnewer : s.areaVersion 0 < s.areaVersion 1 <;> simp [hA, hB, hnewer]

theorem exec_bootImageVerified_bothA (hA : s.areaFault 0 = 0) (hB : s.areaFault 1 = 0) (hnewest : s.areaVersion 1 ≤ s.areaVersion 0) :
    exec .bootImageVerified s = .next (s.startBureau 0 0) := by
  rw [exec_bootImageVerified_boots hpor hdown hboot]
  simp [hA, hB, Nat.not_lt.mpr hnewest]

/-- B is valid and of the higher version. -/
theorem exec_bootImageVerified_newerB (hB : s.areaFault 1 = 0) (hnewer : s.areaVersion 0 < s.areaVersion 1) :
    exec .bootImageVerified s = .next (s.startBureau 1 0) := by
  rw [exec_bootImageVerified_boots hpor hdown hboot]
  simp [hB, hnewer]

end

/-! ### The main domain (R383, R386) -/

theorem exec_mainInputInRange_enables (hup : s.root.bureauUp = true) (hoff : s.root.mainEn = false) (honline : s.root.offline = false) (hfirst : s.root.boot.firstFail = 0) :
    exec .mainInputInRange s = .next { s with root := { s.root with mainEn := true, mainSince := s.now, fail := 0 } } := by
  rw [exec_mainInputInRange, execMainInputInRange, if_neg (by simp [hup, hoff, honline]), if_neg fun h => h.2 hfirst]

theorem exec_mainDomainPowerUpLimit_early {u : Nat} (hearly : s.now < s.root.mainSince + 50 * ms) : exec (.mainDomainPowerUpLimit u) s = .next s := by
  rw [exec_mainDomainPowerUpLimit, execMainDomainPowerUpLimit, if_pos (.inr (.inr hearly))]

end

/-- No link is ACTIVE, and root die and pins are those of an earlier state: what training a link keeps where none is ACTIVE. -/
structure State.LinksDown (s t : State) : Prop where
  root : t.root = s.root
  pins : t.pins = s.pins
  links : ∀ l, (t.link l).state ≠ 6

/-- A link that is not ACTIVE goes to DOWN or DETECT alone. -/
theorem State.LinksDown.setLink {s t : State} (h : s.LinksDown t) {l : Nat} {k : Link} (hk : k.state ≠ 6) : s.LinksDown (t.setLink l k) := by
  refine ⟨h.root, h.pins, fun m => ?_⟩
  by_cases hm : m = l
  · rw [hm, State.link_setLink]
    exact hk
  · rw [State.link_setLink_ne _ _ _ _ hm]
    exact h.links m

theorem State.LinksDown.leaveService {s t : State} (h : s.LinksDown t) {l st : Nat} (hst : st ≠ 6) : s.LinksDown (t.leaveService l st) := by
  have hquiet : t.leaveService l st = t.linkTo l st := if_pos (h.links l)
  rw [hquiet]
  exact h.setLink hst

theorem State.LinksDown.trainLink {s t : State} (h : s.LinksDown t) (l : Nat) : s.LinksDown (t.trainLink l) := by
  unfold State.trainLink
  split
  · exact h.leaveService (by decide)
  · have hdetect : s.LinksDown (t.leaveService l 1) := h.leaveService (by decide)
    exact hdetect.setLink (hdetect.links l)

theorem State.LinksDown.trainPlanned {s t : State} (h : s.LinksDown t) (ls : List Nat) : s.LinksDown (ls.foldl (fun s l => if s.linkPlanned l then s.trainLink l else s) t) := by
  induction ls generalizing t with
  | nil => exact h
  | cons l ls ih =>
    refine ih ?_
    dsimp only
    split
    · exact h.trainLink l
    · exact h

theorem State.setMainPg_frame (s : State) (v : Bool) : { s.setMainPg v with pins := s.pins, out := s.out } = s := by
  unfold State.setMainPg
  split <;> rfl

@[simp] theorem State.setMainPg_root (s : State) (v : Bool) : (s.setMainPg v).root = s.root := by have h := congrArg State.root (s.setMainPg_frame v); exact h
@[simp] theorem State.setMainPg_links (s : State) (v : Bool) : (s.setMainPg v).links = s.links := by have h := congrArg State.links (s.setMainPg_frame v); exact h

theorem State.setMainPg_pins (s : State) (v : Bool) : (s.setMainPg v).pins = { s.pins with mainPg := v } := by
  unfold State.setMainPg
  split
  · rename_i h
    rw [← h]
  · rfl

section
variable {s : State}

section
variable (hen : s.root.mainEn = true) (hdown : s.root.mainUp = false)
include hen hdown

theorem exec_mainDomainUp_inTime (htime : s.now ≤ s.root.mainSince + 50 * ms) (hlinks : ∀ l, (s.link l).state ≠ 6) :
    ∃ t, exec .mainDomainUp s = .next t ∧ t.root = { s.root with mainUp := true, mainSince := s.now } ∧ t.pins = { s.pins with mainPg := true } := by
  let u : State := { s with root := { s.root with mainUp := true, mainSince := s.now } }
  have hrose : (u.setMainPg true).LinksDown (u.setMainPg true) := ⟨rfl, rfl, fun l => by
    rw [State.link, u.setMainPg_links]
    exact hlinks l⟩
  obtain ⟨hroot, hpins, _⟩ := hrose.trainPlanned (List.range 32)
  refine ⟨_, ?_, hroot.trans (u.setMainPg_root true), hpins.trans (u.setMainPg_pins true)⟩
  rw [exec_mainDomainUp, execMainDomainUp, if_neg (by simp [hen, hdown, Nat.not_lt.mpr htime])]

theorem exec_mainDomainPowerUpLimit_late {u : Nat} (hlate : s.root.mainSince + 50 * ms ≤ s.now) : exec (.mainDomainPowerUpLimit u) s = .next (s.failStart 5 u) := by
  rw [exec_mainDomainPowerUpLimit, execMainDomainPowerUpLimit, if_neg (by simp [hen, hdown, Nat.not_lt.mpr hlate])]

end

/-- The crossings train within 20 ms of the main domain, or the device goes offline. -/
theorem exec_crossingsTrained_powered (hup : s.root.mainUp = true) (hnew : s.root.crossings = false) (honline : s.root.offline = false) (lat u : Nat) :
    exec (.crossingsTrained lat u) s = .next (if s.root.mainSince + 20 * ms < s.now then s.failStart 5 u
      else { s with root := { s.root with crossings := true }, net := { s.net with latency := lat } }) := by
  rw [exec_crossingsTrained, execCrossingsTrained, if_neg (by simp [hup, hnew, honline])]

end

/-- Settles O45: each event by the conditions under which it is due, boot by the areas that verify and their versions. -/
theorem powerUpAndBoot : Obligations.PowerUpAndBoot := by
  unfold Obligations.PowerUpAndBoot
  refine fun s => ⟨exec_standbyValid s, fun r w f hstandby hreset => exec_powerOnResetEnd_samples hstandby hreset r w f, fun hpor hdown hboot => ?_, exec_mainInputInRange_enables,
    fun hen hdown => ⟨exec_mainDomainUp_inTime hen hdown, fun u => exec_mainDomainPowerUpLimit_late hen hdown, fun u => exec_mainDomainPowerUpLimit_early⟩,
    fun lat u hup hnew honline => ⟨fun htime => ?_, fun hlate => ?_⟩⟩
  · exact ⟨exec_bootImageVerified_recovery hpor hdown hboot, exec_bootImageVerified_onlyA hpor hdown hboot, exec_bootImageVerified_bothA hpor hdown hboot,
      exec_bootImageVerified_newerB hpor hdown hboot⟩
  · rw [exec_crossingsTrained_powered hup hnew honline, if_neg (Nat.not_lt.mpr htime)]
  · rw [exec_crossingsTrained_powered hup hnew honline, if_pos hlate]

end Sys2Proof.Machine
end

section
/-! Bring-up to readiness (R346, R387 to R391): stacks, the self test, links, the entropy source, and the device that becomes ready. -/

namespace Sys2Proof.Machine

theorem exec_stackTrainingComplete (k : Nat) (ok : Bool) (bad : List Nat) (s : State) : exec (.stackTrainingComplete k ok bad) s = execStackTrainingComplete k ok bad s := rfl
theorem exec_coreSelfTestEnd (failed : List (Nat × Nat × Nat)) (ces cpes hashes : List Nat) (s : State) :
    exec (.coreSelfTestEnd failed ces cpes hashes) s = execCoreSelfTestEnd failed ces cpes hashes s := rfl
theorem exec_linkTrainingConcluded (s : State) : exec .linkTrainingConcluded s = execLinkTrainingConcluded s := rfl
theorem exec_deviceReady (s : State) : exec .deviceReady s = execDeviceReady s := rfl
theorem exec_entropyHealthChange (h : Bool) (s : State) : exec (.entropyHealthChange h) s = execEntropyHealthChange h s := rfl
theorem exec_entropyWaitTimeout (s : State) : exec .entropyWaitTimeout s = execEntropyWaitTimeout s := rfl
theorem exec_entropyRecordRepeat (s : State) : exec .entropyRecordRepeat s = execEntropyRecordRepeat s := rfl

section
variable {s : State}

/-! ### Stacks, self test and links (R387 to R389) -/

section
variable {k : Nat} (hk : k < 16) (hcross : s.root.crossings = true) (honline : s.root.offline = false) (hnew : k ∉ s.root.stackUp)
include hk hcross honline hnew

/-- A stack that trains without a bad frame is up. -/
theorem exec_stackTrainingComplete_trained (hroom : s.root.withheld.length ≤ 1024) :
    exec (.stackTrainingComplete k true []) s = .next { s with root := { s.root with stackUp := s.root.stackUp ++ [k] } } := by
  rw [exec_stackTrainingComplete, execStackTrainingComplete, if_neg (by simp [hk, hcross, honline, hnew]), if_neg (by decide)]
  simp only [List.dedup_nil, List.filter_nil, List.foldl_nil, List.append_nil, if_neg (Nat.not_lt.mpr hroom)]

theorem exec_stackTrainingComplete_failed : exec (.stackTrainingComplete k false []) s = .next (
    if s.root.stackFail.contains k then s.failStart 4 k else { s with root := { s.root with stackFail := s.root.stackFail ++ [k] } }) := by
  rw [exec_stackTrainingComplete, execStackTrainingComplete, if_neg (by simp [hk, hcross, honline, hnew]), if_pos (by decide)]

end

/-- With no failure the self test ends; the lane generators wait for a healthy source (R391). -/
theorem exec_coreSelfTestEnd_passed (hcross : s.root.crossings = true) (hnew : s.root.testDone = false) (honline : s.root.offline = false) (hsource : s.root.healthy = false) :
    exec (.coreSelfTestEnd [] [] [] []) s = .next { s with root := { s.root with testDone := true, testDoneAt := s.now } } := by
  rw [exec_coreSelfTestEnd, execCoreSelfTestEnd, if_neg (by simp [hcross, hnew, honline])]
  exact congrArg Host.Outcome.next (if_neg (by simp [hsource]))

theorem exec_linkTrainingConcluded_settled (hup : s.root.mainUp = true) (hnew : s.root.linksDone = false) (honline : s.root.offline = false)
    (hsettled : ∀ l, l < 32 → s.linkPlanned l = true → (s.link l).state = 6 ∨ (s.link l).state = 7) :
    exec .linkTrainingConcluded s = .next { s with root := { s.root with linksDone := true } } := by
  have hall : (((List.range 32).filter (fun l => s.linkPlanned l)).map (fun l => (s.link l).state)).all (fun t => decide (t = 6 ∨ t = 7)) = true := by
    refine List.all_eq_true.mpr fun t ht => ?_
    obtain ⟨l, hl, rfl⟩ := List.mem_map.mp ht
    obtain ⟨hlink, hplanned⟩ := List.mem_filter.mp hl
    exact decide_eq_true (hsettled l (List.mem_range.mp hlink) hplanned)
  rw [exec_linkTrainingConcluded, execLinkTrainingConcluded]
  dsimp only
  rw [if_neg (by simp [hup, hnew, honline]), hall, Bool.true_or, if_pos rfl]

/-! ### Ready (R346, R390) -/

theorem exec_deviceReady_waits (hwait : s.mayBeReady = false) : exec .deviceReady s = .next s := by
  rw [exec_deviceReady, execDeviceReady, if_pos (by simp [hwait])]

theorem State.mayBeReady_online (hready : s.mayBeReady = true) : s.root.offline = false := by
  simp only [State.mayBeReady, Bool.and_eq_true, Bool.not_eq_true'] at hready
  exact hready.1.2

theorem State.grant_root (s : State) (page port e : Nat) : (s.grant page port e).root = s.root := by
  unfold State.grant
  split <;> rfl

theorem State.evalCab_root (s : State) : s.evalCab.root = s.root := by
  unfold State.evalCab
  split <;> rfl

/-- An update repeated over a list leaves the root die as it was, if one does. -/
theorem State.foldl_root {α : Type} {f : State → α → State} (hf : ∀ (s : State) (x : α), (f s x).root = s.root) (l : List α) (s : State) : (l.foldl f s).root = s.root := by
  induction l generalizing s with
  | nil => rfl
  | cons x l ih => exact (ih _).trans (hf s x)

theorem State.sendAsm_root (s : State) : s.sendAsm.root = s.root := State.foldl_root (fun s _ => s.emit_root _) _ s

/-- Assembly begins without a change of the root die. -/
theorem State.startAssembly_root (s : State) : s.startAssembly.root = s.root := by
  unfold State.startAssembly
  dsimp only
  rw [State.sendAsm_root, State.evalCab_root]
  dsimp only
  exact State.foldl_root (fun s p => s.grant_root 3 p _) (List.range 8) s

theorem exec_deviceReady_ready (hready : s.mayBeReady = true) : ∃ t, exec .deviceReady s = .next t ∧ t.root.ready = true ∧ t.root.readyMs = min 0xFFFF (s.now / ms) ∧ t.root.offline = false ∧
    t.root.fuses.svn = (if s.root.boot.commitSvn then blowSvn s.root.fuses.svn s.root.boot.svn else s.root.fuses.svn) := by
  have honline := State.mayBeReady_online hready
  obtain ⟨free, key, count, hdraw⟩ := s.drawBytes_state 8
  rw [exec_deviceReady, execDeviceReady, if_neg (by simp [hready])]
  refine ⟨_, rfl, ?_⟩
  rw [State.startAssembly_root, hdraw]
  dsimp only
  exact ⟨rfl, rfl, honline, apply_ite Fuses.svn _ _ _⟩

/-! ### The entropy source (R391) -/

/-- A source that fails before ready is counted. -/
theorem exec_entropyHealthChange_fails (hstandby : s.root.standby = true) (hsource : s.root.healthy = true) (hbefore : s.root.ready = false) :
    exec (.entropyHealthChange false) s = .next (State.count { s with root := { s.root with healthy := false } } 4 .healthFail 1) := by
  rw [exec_entropyHealthChange, execEntropyHealthChange, if_neg (by simp [hstandby, hsource])]
  simp [hbefore]

theorem exec_entropyWaitTimeout_waiting (hbefore : s.root.ready = false) (htested : s.root.testDone = true) (hseeds : s.root.seeded = false) (hsource : s.root.healthy = false)
    (hfirst : s.root.fail ≠ 7) (honline : s.root.offline = false) : exec .entropyWaitTimeout s = .next (
      if s.now < s.root.testDoneAt + 1000 * ms then s else State.entropyRec { s with root := { s.root with fail := 7, failUnit := 0 } } true) := by
  simp only [exec_entropyWaitTimeout, execEntropyWaitTimeout, hbefore, htested, hseeds, hsource, hfirst, honline, Bool.not_true, Bool.false_eq_true, false_or]

theorem exec_entropyRecordRepeat_due (hready : s.root.ready = true) (hsource : s.root.healthy = false) (hdue : s.root.entropyRecAt + 60000 * ms ≤ s.now) :
    exec .entropyRecordRepeat s = .next (State.entropyRec { s with root := { s.root with entropyRecAt := s.now } } false) := by
  rw [exec_entropyRecordRepeat, execEntropyRecordRepeat, if_neg (by simp [hready, hsource, Nat.not_lt.mpr hdue])]

end

/-- Settles O46: each step of bring-up by its conditions, and ready by those of R390 together. -/
theorem readiness : Obligations.Readiness := by
  unfold Obligations.Readiness
  refine fun s => ⟨fun k hk hcross honline hnew => ⟨exec_stackTrainingComplete_trained hk hcross honline hnew, fun hfirst => ?_, fun hsecond => ?_⟩, exec_coreSelfTestEnd_passed,
    exec_linkTrainingConcluded_settled, exec_deviceReady_waits, exec_deviceReady_ready, exec_entropyHealthChange_fails,
    fun hbefore htested hseeds hsource hfirst honline => ⟨fun hlate => ?_, fun hearly => ?_⟩, exec_entropyRecordRepeat_due⟩
  · rw [exec_stackTrainingComplete_failed hk hcross honline hnew, if_neg (by simpa using hfirst)]
  · rw [exec_stackTrainingComplete_failed hk hcross honline hnew, if_pos (by simpa using hsecond)]
  · rw [exec_entropyWaitTimeout_waiting hbefore htested hseeds hsource hfirst honline, if_neg (Nat.not_lt.mpr hlate)]
  · rw [exec_entropyWaitTimeout_waiting hbefore htested hseeds hsource hfirst honline, if_pos hearly]

end Sys2Proof.Machine
end

section
/-! Resets and the loss of power (R363, R398, R399): BU_RESET and its MCTP message, standby power, and a fault of the Bureau. -/

namespace Sys2Proof.Machine

theorem exec_buReset (m : Nat) (v : W32) (s : State) : exec (.buReset m v) s = execBuReset m v s := rfl
theorem exec_mctpResetMessage (v : W32) (s : State) : exec (.mctpResetMessage v) s = execMctpResetMessage v s := rfl
theorem exec_standbyPowerLoss (s : State) : exec .standbyPowerLoss s = execStandbyPowerLoss s := rfl
theorem exec_bureauFault (a : Nat) (s : State) : exec (.bureauFault a) s = execBureauFault a s := rfl

section
variable {s : State}

/-- BU_RESET by the master and the value of its write. -/
theorem exec_buReset_bureauUp (hup : s.root.bureauUp = true) (m : Nat) (v : W32) : exec (.buReset m v) s = .next (
    if pfOrBureau m = false then s.blkErr 1 5 else if v.toNat % 65536 = 0xC1D0 then s.moduleReset else s.blkErr 1 0) := by
  rw [exec_buReset, execBuReset, if_neg (by simp [hup]), ite_not]
  cases pfOrBureau m <;> rfl

theorem exec_mctpResetMessage_keyed (v : W32) : exec (.mctpResetMessage v) s = .next (if v.toNat % 65536 = 0xC1D0 then s.moduleReset else s) := by
  rw [exec_mctpResetMessage, execMctpResetMessage, ite_not]

/-- An output is only ever added. -/
theorem State.setMainPg_out (s : State) (v : Bool) : s.out <+: (s.setMainPg v).out := (State.setMainPg_keeps (.refl s)).out

@[simp] theorem State.setMainPg_pending (s : State) (v : Bool) : (s.setMainPg v).pending = s.pending := by have h := congrArg State.pending (s.setMainPg_frame v); exact h
@[simp] theorem State.setMainPg_straps (s : State) (v : Bool) : (s.setMainPg v).pins.straps = s.pins.straps := by rw [State.setMainPg_pins]

/-- What the loss of standby power leaves: everything outside it is as at reset. -/
theorem exec_standbyPowerLoss_powered (hstandby : s.root.standby = true) : ∃ t, exec .standbyPowerLoss s = .next t ∧
    t.root.fuses = s.root.fuses ∧ t.root.flash = s.root.flash ∧ t.root.flashFence = s.root.flashFence ∧ t.root.flashRecs = s.root.flashRecs ∧ t.root.standby = false ∧ t.root.ready = false ∧
    t.pending = s.pending ∧ s.out <+: t.out ∧ t.mem = [] ∧ t.cores = [] ∧ t.ctxs = [] ∧ t.queues = [] ∧ t.regs = Regs.reset ∧ t.links = [] ∧ t.pins.straps = s.pins.straps := by
  rw [exec_standbyPowerLoss, execStandbyPowerLoss, if_neg (by simp [hstandby])]
  exact ⟨_, rfl, rfl, rfl, rfl, rfl, rfl, rfl, s.setMainPg_pending false, s.setMainPg_out false, rfl, rfl, rfl, rfl, rfl, rfl, s.setMainPg_straps false⟩

theorem exec_bureauFault_online (hup : s.root.bureauUp = true) (honline : s.root.offline = false) (a : Nat) :
    exec (.bureauFault a) s = .next (s.record { s.mkRec 0x5A 9 with syndrome := a % 2 ^ 32 }).goOffline := by
  rw [exec_bureauFault, execBureauFault, if_neg (by simp [hup, honline])]

end

/-- Settles O47: a reset by its master and key, the loss of power by what its state keeps. -/
theorem resetsAndPowerLoss : Obligations.ResetsAndPowerLoss := by
  unfold Obligations.ResetsAndPowerLoss
  refine fun s => ⟨fun m v hup => ⟨fun hmay hkey => ?_, fun hmay hkey => ?_, fun hmay => ?_⟩, fun v => ⟨fun hkey => ?_, fun hkey => ?_⟩, exec_standbyPowerLoss_powered,
    fun a hup honline => exec_bureauFault_online hup honline a⟩
  · rw [exec_buReset_bureauUp hup, if_neg (by simp [hmay]), if_pos hkey]
  · rw [exec_buReset_bureauUp hup, if_neg (by simp [hmay]), if_neg hkey]
  · rw [exec_buReset_bureauUp hup, if_pos hmay]
  · rw [exec_mctpResetMessage_keyed, if_pos hkey]
  · rw [exec_mctpResetMessage_keyed, if_neg hkey]

end Sys2Proof.Machine
end

section
/-! Power, clocks and temperature (R366, R370 to R375, R382): the limiter, the clocks of the compute dies, the input voltage, the sensors, and the thermal trip. -/

namespace Sys2Proof.Machine

theorem exec_powerMeasurement (w mv : Nat) (s : State) : exec (.powerMeasurement w mv) s = execPowerMeasurement w mv s := rfl
theorem exec_limiterThresholdTimer (s : State) : exec .limiterThresholdTimer s = execLimiterThresholdTimer s := rfl
theorem exec_limiterSustained (s : State) : exec .limiterSustained s = execLimiterSustained s := rfl
theorem exec_pwrCtrl (m : Nat) (v : W32) (s : State) : exec (.pwrCtrl m v) s = .next (s.writeCap m v.toNat) := rfl
theorem exec_clockControllerAdjust (s : State) : exec .clockControllerAdjust s = execClockControllerAdjust s := rfl
theorem exec_inputVoltageFault (s : State) : exec .inputVoltageFault s = execInputVoltageFault s := rfl
theorem exec_sensorReading (k v : Nat) (rails : List Nat) (s : State) : exec (.sensorReading k v rails) s = execSensorReading k v rails s := rfl
theorem exec_throttleRecordRepeat (k : Nat) (s : State) : exec (.throttleRecordRepeat k) s = execThrottleRecordRepeat k s := rfl
theorem exec_thermalTrip (k : Nat) (s : State) : exec (.thermalTrip k) s = execThermalTrip k s := rfl

section
variable {s : State}

/-! ### The limiter (R370, R382) -/

theorem State.watchCap_above (h : s.cap < s.power.watts) : s.watchCap = { s with power := { s.power with aboveAt := some (s.power.aboveAt.getD s.now), belowAt := none } } := if_pos h

theorem State.watchCap_below (h : s.power.watts ≤ s.cap) : s.watchCap = { s with power := { s.power with belowAt := some (s.power.belowAt.getD s.now), aboveAt := none } } :=
  if_neg (Nat.not_lt.mpr h)

/-- A measurement is taken, and starts or keeps the time since when power is above the cap, or at or below it. -/
theorem exec_powerMeasurement_taken (w mv : Nat) : ∃ t, exec (.powerMeasurement w mv) s = .next t ∧ t.power.watts = w % 65536 ∧ t.power.mv = mv % 65536 ∧ t.power.atCap = s.power.atCap ∧
    { t with power := s.power } = s ∧ (s.cap < w % 65536 → t.power.belowAt = none ∧ t.power.aboveAt = some (s.power.aboveAt.getD s.now)) ∧
    (w % 65536 ≤ s.cap → t.power.aboveAt = none ∧ t.power.belowAt = some (s.power.belowAt.getD s.now)) := by
  rw [exec_powerMeasurement, execPowerMeasurement]
  refine ⟨_, rfl, ?_⟩
  by_cases habove : s.cap < w % 65536
  · rw [State.watchCap_above habove]
    exact ⟨rfl, rfl, rfl, rfl, fun _ => ⟨rfl, rfl⟩, fun hbelow => absurd habove (Nat.not_lt.mpr hbelow)⟩
  · rw [State.watchCap_below (Nat.not_lt.mp habove)]
    exact ⟨rfl, rfl, rfl, rfl, fun h => absurd h habove, fun _ => ⟨rfl, rfl⟩⟩

theorem exec_limiterThresholdTimer_above {a : Nat} (habove : s.power.aboveAt = some a) (hpast : a + 10 * ms ≤ s.now) :
    exec .limiterThresholdTimer s = .next { s with power := { s.power with atCap := true } } := by
  rw [exec_limiterThresholdTimer, execLimiterThresholdTimer]
  simp only [habove, hpast, decide_true, if_true]

theorem exec_limiterThresholdTimer_below {a : Nat} (hnone : s.power.aboveAt = none) (hbelow : s.power.belowAt = some a) (hpast : a + 10 * ms ≤ s.now) :
    exec .limiterThresholdTimer s = .next { s with power := { s.power with atCap := false } } := by
  rw [exec_limiterThresholdTimer, execLimiterThresholdTimer]
  simp only [hnone, hbelow, hpast, decide_true, Bool.false_eq_true, if_false, if_true]

/-- Issue cycles withheld for more than 1 s are recorded once. -/
theorem exec_limiterSustained_withheld {a : Nat} (hheld : s.power.withheldAt = some a) (hnew : s.power.sustained = false) : exec .limiterSustained s = .next (
    if s.now ≤ a + 1000 * ms then s else State.record { s with power := { s.power with sustained := true } } { s.mkRec 0x55 0 with syndrome := s.power.watts }) := by
  rw [exec_limiterSustained, execLimiterSustained]
  simp only [hheld, hnew, Bool.false_eq_true, false_or]

end

/-! ### Clocks (R366, R371) -/

/-- The clock of a compute die when the power controller allows `f`. -/
def State.dieClock (s : State) (f d : Nat) : Nat := min f (min (s.regs.field (diePowerPage d) 0x80 26 16) (s.thermalLimit d))

/-- The clocks of the compute dies below `n` set one after another. -/
def State.setClocks (s : State) (f n : Nat) : State := (List.range n).foldl (fun s d => s.setClock d (s.dieClock f d)) s

/-- Setting clocks leaves what they depend on, and the free values. -/
theorem State.setClocks_frame (s : State) (f n : Nat) : { s.setClocks f n with power := { (s.setClocks f n).power with clocks := s.power.clocks } } = s := by
  unfold State.setClocks
  induction n with
  | zero => rfl
  | succ n ih =>
    rw [List.range_succ, List.foldl_concat]
    exact ih

theorem State.setClocks_freeIx (s : State) (f n : Nat) : (s.setClocks f n).freeIx = s.freeIx := by have h := congrArg State.freeIx (s.setClocks_frame f n); exact h

theorem State.setClocks_dieClock (s : State) (f n g d : Nat) : (s.setClocks f n).dieClock g d = s.dieClock g d := by have h := congrArg (State.dieClock · g d) (s.setClocks_frame f n); exact h

theorem State.setClocks_fNow (s : State) (f n : Nat) {d : Nat} (hd : d < n) : (s.setClocks f n).fNow d = s.dieClock f d := by
  induction n with
  | zero => exact absurd hd (Nat.not_lt_zero d)
  | succ n ih =>
    have hstep : s.setClocks f (n + 1) = (s.setClocks f n).setClock n ((s.setClocks f n).dieClock f n) := by
      rw [State.setClocks, List.range_succ, List.foldl_concat]
      rfl
    rw [hstep, State.setClocks_dieClock]
    by_cases hlast : d = n
    · rw [hlast]
      exact tget_tput_same ..
    · exact (tget_tput_other _ _ _ _ _ hlast).trans (ih (by omega))

section
variable {s : State}

theorem exec_clockControllerAdjust_powered (hup : s.root.mainUp = true) : exec .clockControllerAdjust s = .next ((s.drawn 1).setClocks (400 + 25 * s.freeVal 33) 16) := by
  rw [exec_clockControllerAdjust, execClockControllerAdjust, if_neg (by simp [hup])]
  rfl

/-! ### Input voltage and temperature (R372 to R375) -/

theorem exec_inputVoltageFault_enabled (hen : s.root.mainEn = true) :
    exec .inputVoltageFault s = .next (s.goOffline.mainOff.record { s.mkRec 0x54 9 with syndrome := s.power.mv }) := by
  rw [exec_inputVoltageFault, execInputVoltageFault, if_neg (by simp [hen])]

theorem State.judgeSensor_excluded {k : Nat} (hex : k ∈ s.power.excluded) : s.judgeSensor k = s := if_pos (by simpa using hex)

/-- A reading of a sensor is kept, with those of the rails. -/
def State.sensorTaken (s : State) (k v : Nat) (rails : List Nat) : State :=
  let r := (List.range 3).foldl (fun t i => tput 0 t (sensorUnit k * 4 + i) (rails.getD i 0 % 65536)) s.power.rails
  { s with power := { s.power with temps := tset s.power.temps k (v % 65536), rails := tput 0 r 144 (rails.getD 3 0 % 65536) } }

/-- A reading is kept and judged, and the thermal controller acts on it if the sensor stays in use. -/
theorem exec_sensorReading_powered {k : Nat} (v : Nat) (rails : List Nat) (hk : k < 87) (hstandby : s.root.standby = true) (hup : s.root.mainUp = true) :
    exec (.sensorReading k v rails) s = .next (let t := (s.sensorTaken k v rails).judgeSensor k
      if t.power.excluded.contains k then t else if 420 ≤ t.reading k then t.throttle k else t.unthrottle k) := by
  rw [exec_sensorReading, execSensorReading, if_neg (by simp [hstandby, hup, hk])]
  rfl

/-- Nothing follows from the reading of an excluded sensor. -/
theorem exec_sensorReading_excluded {k : Nat} (v : Nat) (rails : List Nat) (hk : k < 87) (hstandby : s.root.standby = true) (hup : s.root.mainUp = true) (hex : k ∈ s.power.excluded) :
    exec (.sensorReading k v rails) s = .next (s.sensorTaken k v rails) := by
  have hjudged : (s.sensorTaken k v rails).judgeSensor k = s.sensorTaken k v rails := State.judgeSensor_excluded hex
  rw [exec_sensorReading_powered v rails hk hstandby hup, hjudged]
  exact congrArg Host.Outcome.next (if_pos (List.contains_iff_mem.mpr hex))

theorem exec_throttleRecordRepeat_due {k : Nat} (hthrottled : k ∈ s.power.throttled) (hdue : tget 0 s.power.throttleAt (sensorDie k) + 60000 * ms ≤ s.now) :
    exec (.throttleRecordRepeat k) s = .next (s.throttleRec k) := by
  rw [exec_throttleRecordRepeat, execThrottleRecordRepeat, if_neg (by simp [hthrottled, Nat.not_lt.mpr hdue])]

theorem exec_thermalTrip_cool {k : Nat} (hcool : s.reading k < 460) : exec (.thermalTrip k) s = .next s := by
  rw [exec_thermalTrip, execThermalTrip, if_pos (.inr (.inr (.inr hcool)))]

theorem exec_thermalTrip_hot {k : Nat} (hk : k < 87) (hfirst : s.power.tripped = false) (hstandby : s.root.standby = true) (hhot : 460 ≤ s.reading k) :
    ∃ t r, exec (.thermalTrip k) s = .next (t.record r).goOffline ∧ t = ((State.setThermtrip { s with power := { s.power with tripped := true } } false).mainOff).alert ∧
      r.cls = 0x53 ∧ r.action = 9 := by
  have hdue : ¬(87 ≤ k ∨ s.power.tripped = true ∨ (!s.root.standby) = true ∨ s.reading k < 460) := by
    simp [hfirst, hstandby, hk, hhot]
  rw [exec_thermalTrip, execThermalTrip, if_neg hdue]
  exact ⟨_, _, rfl, rfl, rfl, rfl⟩

end

/-- Settles O48: each event by its condition; the clocks by the order in which the dies are set. -/
theorem powerAndThermalEvents : Obligations.PowerAndThermalEvents := by
  unfold Obligations.PowerAndThermalEvents
  refine fun s => ⟨exec_powerMeasurement_taken, fun a => exec_limiterThresholdTimer_above, fun a => exec_limiterThresholdTimer_below, fun a hheld hnew => ⟨fun hlong => ?_, fun hshort => ?_⟩,
    fun m v => exec_pwrCtrl m v s, fun hup => ?_, exec_inputVoltageFault_enabled, fun k v hk hstandby hup hex => ?_, fun k => exec_throttleRecordRepeat_due,
    fun k hk hfirst hstandby => ⟨exec_thermalTrip_cool, exec_thermalTrip_hot hk hfirst hstandby⟩⟩
  · rw [exec_limiterSustained_withheld hheld hnew, if_neg (Nat.not_le.mpr hlong)]
  · rw [exec_limiterSustained_withheld hheld hnew, if_pos hshort]
  · exact ⟨_, exec_clockControllerAdjust_powered hup, State.setClocks_freeIx .., fun d hd => State.setClocks_fNow _ _ _ hd⟩
  · exact ⟨_, exec_sensorReading_excluded v [] hk hstandby hup hex, tget_tset_same .., fun j hj => tget_tset_other _ _ _ _ _ hj, rfl, rfl⟩

end Sys2Proof.Machine
end

section
/-! The register blocks (R272, R353, R411 to R423): commits and their effect points, locks, frozen statistics, and accesses to the register space. -/

namespace Sys2Proof.Machine

theorem exec_blkCommit (m p : Nat) (s : State) : exec (.blkCommit m p) s = execBlkCommit m p s := rfl
theorem exec_commitEffectPoint (p : Nat) (s : State) : exec (.commitEffectPoint p) s = execCommitEffectPoint p s := rfl
theorem exec_blkLock (m p : Nat) (v : W32) (s : State) : exec (.blkLock m p v) s = execBlkLock m p v s := rfl
theorem exec_statFreeze (m p : Nat) (v : W32) (s : State) : exec (.statFreeze m p v) s = execStatFreeze m p v s := rfl
theorem exec_registerWrite (m a : Nat) (bs : List Byte) (s : State) : exec (.registerWrite m a bs) s = execRegisterWrite m a bs s := rfl
theorem exec_registerReadLatch (m a n : Nat) (s : State) : exec (.registerReadLatch m a n) s = execRegisterReadLatch m a n s := rfl

section
variable {s : State} {p : Nat}

section
variable (hheader : hasHeader p = true)
include hheader

/-! ### Commits (R417, R419, R420) -/

theorem exec_blkCommit_free {m : Nat} (hfree : (s.blk p).hold = false ∨ m = 0xF000) : exec (.blkCommit m p) s = .next ((s.commitAcl p).modBlk p (fun b => { b with pending := true })) := by
  have hmay : ¬((s.blk p).hold = true ∧ m ≠ 0xF000) := fun ⟨hheld, hother⟩ => hfree.elim (by simp [hheld]) hother
  rw [exec_blkCommit, execBlkCommit, if_pos hheader, State.commitWrite, if_neg hmay]

theorem exec_blkCommit_held {m : Nat} (hheld : (s.blk p).hold = true) (hother : m ≠ 0xF000) : exec (.blkCommit m p) s = .next (s.blkErr p 4) := by
  rw [exec_blkCommit, execBlkCommit, if_pos hheader, State.commitWrite, if_pos ⟨hheld, hother⟩]

theorem exec_commitEffectPoint_due (hpending : (s.blk p).pending = true) (hpoint : s.atEffectPoint p = true) : exec (.commitEffectPoint p) s = .next (s.takeEffect p) := by
  rw [exec_commitEffectPoint, execCommitEffectPoint, if_pos ⟨hheader, hpending, hpoint⟩]

/-! ### Locks and frozen statistics (R421 to R423) -/

/-- The Bureau may lock every group of a page. -/
theorem exec_blkLock_bureau (v : W32) : exec (.blkLock 0xF000 p v) s = .next ((s.reloadGroups p (v.toNat % 65536 % 2 ^ lockGroups (pageKind p))).modBlk p
    (fun b => { b with locked := b.locked ||| v.toNat % 65536 % 2 ^ lockGroups (pageKind p) })) := by
  rw [exec_blkLock, execBlkLock, if_pos hheader, State.lockWrite, if_neg (by decide)]
  dsimp only
  rw [if_neg (by decide : ¬0xF000 = 0x8000), if_pos rfl]

theorem exec_blkLock_foreign {m : Nat} (v : W32) (hforeign : pfOrBureau m = false) : exec (.blkLock m p v) s = .next (s.blkErr p 5) := by
  rw [exec_blkLock, execBlkLock, if_pos hheader, State.lockWrite, if_pos (by simp [hforeign])]

/-- BLK_CTRL with its hold bit unchanged freezes the statistics alone. -/
theorem exec_statFreeze_freezes {v : W32} (hhold : bitOf v.toNat 1 = (s.blk p).hold) (hfreeze : bitOf v.toNat 0 = true) (m : Nat) :
    exec (.statFreeze m p v) s = .next (s.modBlk p (fun b => { b with freeze := true })) := by
  rw [exec_statFreeze, execStatFreeze, if_pos hheader, State.ctrlWrite]
  simp [hhold, hfreeze]

end

/-- A block with nothing pending has no effect point, and one that is not at its effect point waits. -/
theorem exec_commitEffectPoint_waits (hwait : (s.blk p).pending = false ∨ s.atEffectPoint p = false) : exec (.commitEffectPoint p) s = .next s := by
  have hnone : ¬(hasHeader p = true ∧ (s.blk p).pending = true ∧ s.atEffectPoint p = true) := fun ⟨_, hpending, hpoint⟩ => hwait.elim (by simp [hpending]) (by simp [hpoint])
  rw [exec_commitEffectPoint, execCommitEffectPoint, if_neg hnone]

theorem State.count_live (s : State) (q : Nat) (k : Stat) (n : Nat) : (s.count q k n).regs.live = s.regs.live := by
  unfold State.count
  split <;> rfl

theorem State.count_blk (s : State) (q : Nat) (k : Stat) (n : Nat) (r : Nat) : (s.count q k n).blk r = s.blk r := by
  unfold State.count
  split <;> rfl

/-- A rejected part is dropped with its BLK_ERR bit. -/
theorem State.takeEffect_rejected {b : Nat} (hfault : s.commitFault p = some b) :
    (s.takeEffect p).regs.live = s.regs.live ∧ ((s.takeEffect p).blk p).pending = false ∧ ((s.takeEffect p).blk p).rejected = true := by
  have htake : s.takeEffect p = (((s.dropShadows p).blkErr p b).modBlk p (fun b => { b with pending := false, rejected := true })).count p .commitCount 1 := by
    simp only [State.takeEffect, hfault]
  rw [htake, State.count_live, State.count_blk, State.blk_modBlk]
  exact ⟨rfl, rfl, rfl⟩

/-! ### Accesses to the register space (R272, R353, R412) -/

theorem exec_register_shut {m : Nat} (hshut : s.hostShut m = true) (a : Nat) (bs : List Byte) (n : Nat) :
    exec (.registerWrite m a bs) s = .next s ∧ exec (.registerReadLatch m a n) s = .next s := by
  rw [exec_registerWrite, execRegisterWrite, exec_registerReadLatch, execRegisterReadLatch, hshut, if_pos (.inr (.inr rfl)), if_pos (.inr (.inr rfl))]
  exact ⟨rfl, rfl⟩

section
variable {m off : Nat} (hup : s.root.bureauUp = true) (hoff : off < 4096) (hp : p < 16384) (hopen : s.hostShut m = false)
include hoff hp

/-- The page and the offset of an address of the register space. -/
theorem regBase_page : (regBase + p * 4096 + off) / 4096 % 16384 = p ∧ (regBase + p * 4096 + off) % 4096 = off ∧ inRegs (regBase + p * 4096 + off) = true := by
  unfold inRegs regBase
  refine ⟨by omega, by omega, decide_eq_true ⟨by omega, by omega⟩⟩

include hup hopen

/-- A write reaches its page with the checks on it. -/
theorem exec_registerWrite_page (bs : List Byte) : exec (.registerWrite m (regBase + p * 4096 + off) bs) s = .next (
    match s.pageRefuses m p .w with
    | some cls => s.pageRefused m p off cls
    | none => s.writeRegs m p off bs) := by
  obtain ⟨hpage, hoffset, hin⟩ := regBase_page hoff hp
  rw [exec_registerWrite, execRegisterWrite, if_neg (by simp [hup, hin, hopen]), State.regWrite]
  simp only [hpage, hoffset]
  cases s.pageRefuses m p .w <;> rfl

/-- A host function's read, admitted, is answered with the bytes of its page. -/
theorem exec_registerReadLatch_admitted (n : Nat) (hlow : 0x8000 ≤ m) (hhigh : m < 0x8040) (hadmit : s.pageRefuses m p .r = none) :
    exec (.registerReadLatch m (regBase + p * 4096 + off) n) s = .next (((s.readRegs m p off n).2.readDrawn p off).hostAnswer (m - 0x8000) 0 (s.readRegs m p off n).1) := by
  obtain ⟨hpage, hoffset, hin⟩ := regBase_page hoff hp
  have hread : s.regRead m (regBase + p * 4096 + off) n = (.ok (s.readRegs m p off n).1, (s.readRegs m p off n).2.readDrawn p off) := by
    simp only [State.regRead, hpage, hoffset, hadmit]
  rw [exec_registerReadLatch, execRegisterReadLatch, if_neg (by simp [hup, hin, hopen]), hread]
  exact congrArg Host.Outcome.next (if_pos ⟨hlow, hhigh⟩)

end

end

/-- Settles O50: commits, locks and freezes by who writes them, and accesses by the admission of their page. -/
theorem registerBlocks : Obligations.RegisterBlocks := by
  unfold Obligations.RegisterBlocks
  refine fun s p hheader => ⟨fun m => exec_blkCommit_free hheader, fun m => exec_blkCommit_held hheader, exec_commitEffectPoint_due hheader, exec_commitEffectPoint_waits,
    fun b => State.takeEffect_rejected, exec_blkLock_bureau hheader, fun m v => exec_blkLock_foreign hheader v, fun m v hhold hfreeze => exec_statFreeze_freezes hheader hhold hfreeze m,
    fun m a bs n hshut => exec_register_shut hshut a bs n, fun m off bs hup hoff hp hopen => ⟨fun hadmit => ?_, fun cls hrefused => ?_, exec_registerReadLatch_admitted hup hoff hp hopen⟩⟩
  · rw [exec_registerWrite_page hup hoff hp hopen, hadmit]
  · rw [exec_registerWrite_page hup hoff hp hopen, hrefused]

end Sys2Proof.Machine
end

section
/-! The Lectern (R103, R379 to R381): its nonce and tokens, its end, and the operations that it allows by its scope. -/

namespace Sys2Proof.Machine

theorem exec_lecternNonceRequest (s : State) : exec .lecternNonceRequest s = execLecternNonceRequest s := rfl
theorem exec_lecternUnlock (b : List Byte) (s : State) : exec (.lecternUnlock b) s = execLecternUnlock b s := rfl
theorem exec_lecternClose (s : State) : exec .lecternClose s = execLecternClose s := rfl
theorem exec_lecternExpiry (s : State) : exec .lecternExpiry s = execLecternExpiry s := rfl
theorem exec_lecternHalt (c : Nat) (s : State) : exec (.lecternHalt c) s = execLecternHalt c s := rfl
theorem exec_lecternSingleStep (c : Nat) (s : State) : exec (.lecternSingleStep c) s = execLecternSingleStep c s := rfl
theorem exec_lecternRead (t : DbgTarget) (n : Nat) (s : State) : exec (.lecternRead t n) s = execLecternRead t n s := rfl
theorem exec_lecternWrite (t : DbgTarget) (b : List Byte) (s : State) : exec (.lecternWrite t b) s = execLecternWrite t b s := rfl

section
variable {s : State}

/-! ### Nonce and token (R379, R380) -/

theorem exec_lecternNonceRequest_draws (hup : s.root.bureauUp = true) : ∃ t, exec .lecternNonceRequest s = .next t ∧ t.mgmt.lecNonce = some ((s.drawBytes 8).1, s.now + 60000 * ms) ∧
    t.mgmt.lecOpen = s.mgmt.lecOpen ∧ t.cores = s.cores ∧ t.mem = s.mem := by
  obtain ⟨free, key, count, hdraw⟩ := s.drawBytes_state 8
  rw [exec_lecternNonceRequest, execLecternNonceRequest, if_neg (by simp [hup])]
  dsimp only
  rw [hdraw]
  exact ⟨_, rfl, rfl, rfl, rfl, rfl⟩

/-- A good token opens the Lectern and a bad one does not; each is recorded and uses up the nonce. -/
theorem exec_lecternUnlock_token (hup : s.root.bureauUp = true) (b : List Byte) : ∃ t, exec (.lecternUnlock b) s = .next t ∧ t.mgmt.lecNonce = none ∧
    (s.tokenOk b = true → t.mgmt.lecOpen = true ∧ t.mgmt.lecScope = (parseToken b).scope % 8 ∧ t.mgmt.lecUntil = s.now + (parseToken b).duration * 1000 * ms) ∧
    (s.tokenOk b = false → t.mgmt.lecOpen = s.mgmt.lecOpen) ∧ { t with mgmt := s.mgmt, care := s.care, freeIx := s.freeIx } = s := by
  rw [exec_lecternUnlock, execLecternUnlock, if_neg (by simp [hup])]
  cases hok : s.tokenOk b with
  | true => exact ⟨_, rfl, rfl, fun _ => ⟨rfl, rfl, rfl⟩, fun h => absurd h.symm Bool.false_ne_true, rfl⟩
  | false => exact ⟨_, rfl, rfl, fun h => absurd h Bool.false_ne_true, fun _ => rfl, rfl⟩

/-! ### The end (R379) -/

section
variable (hopen : s.mgmt.lecOpen = true)
include hopen

theorem exec_lecternClose_open : exec .lecternClose s = .next s.lecternShut := by
  rw [exec_lecternClose, execLecternClose, if_pos hopen]

theorem exec_lecternExpiry_expired (hlimit : s.mgmt.lecUntil ≠ 0) (hpast : s.mgmt.lecUntil ≤ s.now) : exec .lecternExpiry s = .next s.lecternShut := by
  rw [exec_lecternExpiry, execLecternExpiry, if_neg (by simp [hopen, hlimit, Nat.not_lt.mpr hpast])]

end

theorem exec_lecternExpiry_early (hearly : s.now < s.mgmt.lecUntil) : exec .lecternExpiry s = .next s := by
  rw [exec_lecternExpiry, execLecternExpiry, if_pos (.inr (.inr hearly))]

/-! ### Operations by the scope (R380, R381) -/

theorem State.byLectern_closed (hclosed : s.mgmt.lecOpen = false) (bit : Nat) (f : State → State) : s.byLectern bit f = s := if_neg (by simp [hclosed])

theorem State.byLectern_allowed {bit : Nat} (hopen : s.mgmt.lecOpen = true) (hscope : bitOf s.mgmt.lecScope bit = true) (f : State → State) : s.byLectern bit f = f s := if_pos ⟨hopen, hscope⟩

section
variable {c : Nat} (hopen : s.mgmt.lecOpen = true)
include hopen

section
variable (hscope : bitOf s.mgmt.lecScope 2 = true) (hc : c < 128)
include hscope hc

/-- A core halts at once where no slot of its bundle has issued, and else at the bundle's end. -/
theorem exec_lecternHalt_running (hup : s.root.mainUp = true) (hrunning : (s.core c).halted = false) : exec (.lecternHalt c) s = .next (s.setCore c { s.core c with
    halted := decide ((s.core c).issued = 0), haltNext := decide ((s.core c).issued ≠ 0) }) := by
  rw [exec_lecternHalt, execLecternHalt, State.byLectern_allowed hopen hscope, if_neg (by simp [hc, hup, hrunning])]

theorem exec_lecternSingleStep_halted {r : TaskRun} (hhalted : (s.core c).halted = true) (hrun : (s.core c).run = some r) (hmore : (s.core c).ended = false) :
    exec (.lecternSingleStep c) s = .next (s.setCore c { s.core c with halted := false, haltNext := true }) := by
  rw [exec_lecternSingleStep, execLecternSingleStep, State.byLectern_allowed hopen hscope]
  exact congrArg Host.Outcome.next (if_neg (by simp [hc, hhalted, hrun, hmore]))

end

section
variable (hscope : bitOf s.mgmt.lecScope 0 = true)
include hscope

theorem exec_lecternRead_counter {die i : Nat} (hdie : die < 16) (hi : i < 16384) (n : Nat) :
    exec (.lecternRead (.counter die i) n) s = .next (s.emit (.mctp 0x7E 5 (leBytes 8 (s.ctr (die * 16384 + i)).value))) := by
  rw [exec_lecternRead, execLecternRead, State.byLectern_allowed hopen hscope]
  dsimp only
  rw [if_pos ⟨hdie, hi⟩, State.lectern]

/-- A scratchpad line is answered with its valid bit. -/
theorem exec_lecternRead_spad (l n : Nat) : exec (.lecternRead (.spad c l) n) s =
    .next (s.emit (.mctp 0x7E 5 (match tfind (s.core c).spad l with | some bs => bs ++ [1] | none => zeroLine ++ [0]))) := by
  rw [exec_lecternRead, execLecternRead, State.byLectern_allowed hopen hscope]
  rfl

end

theorem exec_lecternWrite_spad {l : Nat} (hscope : bitOf s.mgmt.lecScope 1 = true) (hc : c < 128) (hl : l < 98304) (b : List Byte) :
    exec (.lecternWrite (.spad c l) b) s = .next (s.setCore c { s.core c with spad := tset (s.core c).spad l ((b ++ zeroLine).take 64) }) := by
  rw [exec_lecternWrite, execLecternWrite, State.byLectern_allowed hopen hscope]
  exact congrArg Host.Outcome.next (if_pos ⟨hc, hl⟩)

end

end

/-- Settles O53: the token by its check, and each operation by whether the Lectern is open with the scope for it. -/
theorem lecternCommands : Obligations.LecternCommands := by
  unfold Obligations.LecternCommands
  refine fun s => ⟨exec_lecternNonceRequest_draws, fun b hup => exec_lecternUnlock_token hup b,
    fun hopen => ⟨exec_lecternClose_open hopen, exec_lecternExpiry_expired hopen, exec_lecternExpiry_early⟩, fun hclosed => ?_,
    fun c hopen hscope hc => ⟨exec_lecternHalt_running hopen hscope hc, fun r => exec_lecternSingleStep_halted hopen hscope hc⟩,
    fun hopen hscope die i n hdie hi => exec_lecternRead_counter hopen hscope hdie hi n, fun hopen hscope c l n => ⟨fun bs hline => ?_, fun hline => ?_⟩,
    fun hopen hscope c l b hc hl => exec_lecternWrite_spad hopen hscope hc hl b⟩
  · have hnothing : ∀ bit f, (Host.Outcome.next (s.byLectern bit f) : Host.Outcome State Fault Refusal) = .next s := fun bit f => congrArg Host.Outcome.next (State.byLectern_closed hclosed bit f)
    exact ⟨fun c => ⟨hnothing _ _, hnothing _ _⟩, fun t n => hnothing _ _, fun t b => hnothing _ _⟩
  · rw [exec_lecternRead_spad hopen hscope, hline]
  · rw [exec_lecternRead_spad hopen hscope, hline]

end Sys2Proof.Machine
end

section
/-! The JTAG port (R378, R439; IEEE 1149.1), and the query for a holder of a shared region (R221). -/

namespace Sys2Proof.Machine

theorem exec_jtagBypass (b : Bool) (s : State) : exec (.jtagBypass b) s = execJtagBypass b s := rfl
theorem exec_jtagIdcode (s : State) : exec .jtagIdcode s = execJtagIdcode s := rfl
theorem exec_jtagSamplePreload (l : Option (List Bool)) (s : State) : exec (.jtagSamplePreload l) s = execJtagSamplePreload l s := rfl
theorem exec_jtagExtest (s : State) : exec .jtagExtest s = execJtagExtest s := rfl
theorem exec_jtagTestLogicReset (s : State) : exec .jtagTestLogicReset s = execJtagTestLogicReset s := rfl
theorem exec_regionHolderQuery (d : Nat) (dig : List Byte) (s : State) : exec (.regionHolderQuery d dig) s = execRegionHolderQuery d dig s := rfl

section
variable {s : State}

/-! ### The selected instruction -/

/-- The drive of EXTEST ends with the selection of another instruction. -/
theorem State.jtagSelect_leavesExtest {ir : Nat} (hextest : s.pins.jtagIr = 3) (hother : ir ≠ 3) :
    s.jtagSelect ir = { s with pins := { s.pins with jtagIr := ir }, out := s.out ++ [.pin 3 false] } := if_pos ⟨hextest, hother⟩

theorem State.jtagSelect_plain (hother : s.pins.jtagIr ≠ 3) (ir : Nat) : s.jtagSelect ir = { s with pins := { s.pins with jtagIr := ir } } := if_neg fun h => hother h.1

/-! ### The instructions -/

theorem exec_jtagTestLogicReset_selects : exec .jtagTestLogicReset s = .next { s.jtagSelect 0 with pins := { (s.jtagSelect 0).pins with jtagBypass := false } } := rfl

section
variable (hstandby : s.root.standby = true)
include hstandby

theorem exec_jtagBypass_shifts (b : Bool) : exec (.jtagBypass b) s = .next
    (State.emit { s.jtagSelect 1 with pins := { (s.jtagSelect 1).pins with jtagBypass := b } } (.jtag [decide (s.pins.jtagIr = 1) && s.pins.jtagBypass])) := by
  rw [exec_jtagBypass, execJtagBypass, if_neg (by simp [hstandby])]

theorem exec_jtagIdcode_reads : exec .jtagIdcode s = .next ((s.jtagSelect 0).emit (.jtag ((List.range 32).map (bitOf s.idcode)))) := by
  rw [exec_jtagIdcode, execJtagIdcode, if_neg (by simp [hstandby])]

theorem exec_jtagSamplePreload_samples : exec (.jtagSamplePreload none) s = .next ((s.jtagSelect 2).emit (.jtag (s.jtagSelect 2).pins.chain)) := by
  rw [exec_jtagSamplePreload, execJtagSamplePreload, if_neg (by simp [hstandby])]

theorem exec_jtagSamplePreload_loads (l : List Bool) : exec (.jtagSamplePreload (some l)) s = .next { s.jtagSelect 2 with pins := { (s.jtagSelect 2).pins with jtagChain := l } } := by
  rw [exec_jtagSamplePreload, execJtagSamplePreload, if_neg (by simp [hstandby])]

theorem exec_jtagExtest_drives (hen : s.root.mainEn = false) (hdown : s.root.mainUp = false) :
    exec .jtagExtest s = .next (((s.jtagSelect 3).emit (.jtag s.pins.jtagChain)).emit (.pin 3 true)) := by
  rw [exec_jtagExtest, execJtagExtest, if_neg (by simp [hstandby, hen, hdown])]

end

theorem exec_jtagExtest_mainUp (hup : s.root.mainUp = true) : exec .jtagExtest s = .next s := by
  rw [exec_jtagExtest, execJtagExtest, if_pos (.inr (.inr hup))]

/-! ### The holder query (R221) -/

/-- The first region of the table is the one asked for. -/
theorem exec_regionHolderQuery_first {dig : List Byte} {r : Nat} {g : Region} {rest : Tab Region} (d : Nat) (hready : s.root.ready = true) (hregions : s.regions = (r, g) :: rest)
    (hshared : g.shared = true) (hcurrent : g.slot g.cur = 2) (hdigest : g.digests.getD g.cur [] = dig) :
    exec (.regionHolderQuery d dig) s = .next (s.send (.mgmt (d % 128) msgHolderAnswer [s.cab, 1, r, g.base g.cur, g.size])) := by
  rw [exec_regionHolderQuery, execRegionHolderQuery, hregions, List.find?_cons_of_pos (by simp only [hshared, hcurrent, hdigest, and_self, decide_true, Bool.true_and])]
  exact congrArg Host.Outcome.next (if_neg (by simp [hready]))

end

/-- Settles O54: each instruction by the one selected before it, and the query by the region that it finds. -/
theorem jtagAndHolderQuery : Obligations.JtagAndHolderQuery := by
  unfold Obligations.JtagAndHolderQuery
  refine ⟨fun s hstandby hextest => ⟨?_, ?_, fun b => ?_⟩, fun s hstandby hother => ⟨fun b => ?_, ?_, ?_, fun l => ?_, fun hen hdown => ?_, exec_jtagExtest_mainUp, ?_,
    fun d dig r g rest hready hregions hshared hcurrent hdigest => exec_regionHolderQuery_first d hready hregions hshared hcurrent hdigest⟩⟩
  · rw [exec_jtagIdcode_reads hstandby, State.jtagSelect_leavesExtest hextest (by decide)]
    rfl
  · rw [exec_jtagTestLogicReset_selects, State.jtagSelect_leavesExtest hextest (by decide)]
    simp only [List.append_nil]
  · rw [exec_jtagBypass_shifts hstandby, State.jtagSelect_leavesExtest hextest (by decide), hextest]
    rfl
  · rw [exec_jtagBypass_shifts hstandby, State.jtagSelect_plain hother]
    exact ⟨_, rfl, rfl, rfl, rfl⟩
  · rw [exec_jtagIdcode_reads hstandby, State.jtagSelect_plain hother]
    rfl
  · rw [exec_jtagSamplePreload_samples hstandby, State.jtagSelect_plain hother]
    rfl
  · rw [exec_jtagSamplePreload_loads hstandby, State.jtagSelect_plain hother]
  · rw [exec_jtagExtest_drives hstandby hen hdown, State.jtagSelect_plain hother]
    rfl
  · rw [exec_jtagTestLogicReset_selects, State.jtagSelect_plain hother]

end Sys2Proof.Machine
end
